-- ==== Sys2Proof/Word.lean ====
section
/-! DEFINITION. The word types of the RGL-840 model. -/

namespace Sys2Proof

/-- The smallest addressable unit of every address space (R248). -/
abbrev Byte := BitVec 8

/-- A `v` or `x` register word (Table core-1). -/
abbrev Word := BitVec 32

/-- A uniform register, a program counter, a bypass latch (Table core-1). -/
abbrev DWord := BitVec 64

/-- The bits of a mask register, or a set of threads of one group (Table core-1). -/
abbrev Lanes := BitVec 128

end Sys2Proof
end

