-- ==== Sys2Proof/Machine/Bits.lean ====
section
/-! DEFINITION. Bit fields, sign extension, byte order and small list helpers. All functions are total and structural. -/

namespace Sys2Proof.Machine

/-- Bits [hi:lo] of `x` (R3). -/
def bits (x hi lo : Nat) : Nat := x / 2 ^ lo % 2 ^ (hi + 1 - lo)

/-- Bit `n` of `x` (R3). -/
def bit (x n : Nat) : Bool := x / 2 ^ n % 2 == 1

/-- `x` with bits [hi:lo] replaced by the low bits of `v`. -/
def setBits (x hi lo v : Nat) : Nat :=
  x - bits x hi lo * 2 ^ lo + v % 2 ^ (hi + 1 - lo) * 2 ^ lo

/-- `x` with bit `n` set to `b`. -/
def setBit (x n : Nat) (b : Bool) : Nat := setBits x n n (if b then 1 else 0)

/-- A condition as a bit. -/
def b2n (b : Bool) : Nat := if b then 1 else 0

/-- The signed value of the low `n` bits of `x` (R299). -/
def sext (n x : Nat) : Int :=
  let y := x % 2 ^ n
  if 2 * y < 2 ^ n then (y : Int) else (y : Int) - (2 ^ n : Nat)

/-- The representative of `k` modulo 2^n, from 0 to 2^n - 1. -/
def wrapN (n : Nat) (k : Int) : Nat := (k % ((2 ^ n : Nat) : Int)).toNat

/-- `sat(x, lo, hi)` of Table scope-4, on integers. -/
def satI (x lo hi : Int) : Int := if x < lo then lo else if hi < x then hi else x

/-- `sat(x, lo, hi)` of Table scope-4, on naturals. -/
def satN (x lo hi : Nat) : Nat := if x < lo then lo else if hi < x then hi else x

/-- The `n` little-endian bytes of `x` (R78, R268). -/
def leBytes : Nat → Nat → List Byte
  | 0, _ => []
  | n + 1, x => BitVec.ofNat 8 (x % 256) :: leBytes n (x / 256)

/-- The value of little-endian bytes. -/
def leVal : List Byte → Nat
  | [] => 0
  | b :: bs => b.toNat + 256 * leVal bs

/-- The numbers `lo`, `lo + 1`, … (`n` of them). -/
def upFrom (lo : Nat) : Nat → List Nat
  | 0 => []
  | n + 1 => lo :: upFrom (lo + 1) n

/-- Set bit `i` of a lane set. -/
def laneSet (m : Lanes) (i : Nat) (b : Bool) : Lanes :=
  BitVec.ofNat 128 (setBit m.toNat i b)

/-- Membership of thread `i` in a lane set. -/
def laneIn (m : Lanes) (i : Nat) : Bool := bit m.toNat i

/-- The lane set of a list of thread numbers. -/
def lanesOf (l : List Nat) : Lanes := l.foldl (fun m i => laneSet m i true) 0

/-- The thread numbers of a lane set below `w`, ascending. -/
def laneList (w : Nat) (m : Lanes) : List Nat := (upFrom 0 w).filter (laneIn m)

/-- The number of set bits among the low `n` bits of `x`. -/
def popcount : Nat → Nat → Nat
  | 0, _ => 0
  | n + 1, x => x % 2 + popcount n (x / 2)

/-- Leading zeros of the low `n` bits of `x`; `n` when they are all zero. -/
def clzN : Nat → Nat → Nat
  | 0, _ => 0
  | n + 1, x => if bit x n then 0 else 1 + clzN n x

/-- Trailing zeros of the low `n` bits of `x`; `n` when they are all zero. -/
def ctzN : Nat → Nat → Nat
  | 0, _ => 0
  | n + 1, x => if x % 2 == 1 then 0 else 1 + ctzN n (x / 2)

/-- The low `n` bits of `x` in reverse order. -/
def brevN : Nat → Nat → Nat
  | 0, _ => 0
  | n + 1, x => x % 2 * 2 ^ n + brevN n (x / 2)

/-- Bitwise complement of the low `n` bits. -/
def notN (n x : Nat) : Nat := 2 ^ n - 1 - x % 2 ^ n

/-- The number of bits of `x` (0 for 0), for `x` below 2^fuel. -/
def bitLen : Nat → Nat → Nat
  | 0, _ => 0
  | f + 1, x => if x == 0 then 0 else 1 + bitLen f (x / 2)

/-- The greatest `r` with `r * r ≤ x`, found bit by bit from bit `n - 1` down. -/
def isqrtGo : Nat → Nat → Nat → Nat
  | 0, _, r => r
  | n + 1, x, r =>
    let t := r + 2 ^ n
    isqrtGo n x (if t * t ≤ x then t else r)

/-- Integer square root of `x` below 2^(2n). -/
def isqrt (n x : Nat) : Nat := isqrtGo n x 0

/-- Remove the first element that satisfies `p`. -/
def dropFirst {α : Type} (p : α → Bool) : List α → List α
  | [] => []
  | a :: l => if p a then l else a :: dropFirst p l

/-- Distinct elements in order of first appearance. -/
def distinct {α : Type} [BEq α] (l : List α) : List α :=
  (l.foldl (fun acc a => if acc.contains a then acc else a :: acc) []).reverse

/-- The first `some` of a list of optional values. -/
def firstSome {α : Type} : List (Option α) → Option α
  | [] => none
  | some a :: _ => some a
  | none :: l => firstSome l

/-- Index of the first element satisfying `p`. -/
def indexOf {α : Type} (p : α → Bool) : List α → Nat → Option Nat
  | [], _ => none
  | a :: l, i => if p a then some i else indexOf p l (i + 1)

/-! ### Keyed tables -/

/-- A finite table as a list of key and value pairs; a key that is absent has its owner's default. -/
abbrev Tbl (κ α : Type) := List (κ × α)

/-- The value at a key, if the table lists it. -/
def Tbl.get? {κ α : Type} [DecidableEq κ] : Tbl κ α → κ → Option α
  | [], _ => none
  | (k, v) :: t, q => if k = q then some v else Tbl.get? t q

/-- The value at a key, with a default for an absent key. -/
def Tbl.getD {κ α : Type} [DecidableEq κ] (t : Tbl κ α) (k : κ) (d : α) : α :=
  match t.get? k with
  | some v => v
  | none => d

/-- Replace or add the value at a key; the place of a key that is listed does not change. -/
def Tbl.set {κ α : Type} [DecidableEq κ] : Tbl κ α → κ → α → Tbl κ α
  | [], q, v => [(q, v)]
  | (k, w) :: t, q, v => if k = q then (k, v) :: t else (k, w) :: Tbl.set t q v

/-- Remove a key. -/
def Tbl.del {κ α : Type} [DecidableEq κ] (t : Tbl κ α) (k : κ) : Tbl κ α :=
  t.filter (fun e => decide (e.1 ≠ k))

end Sys2Proof.Machine
end

