-- ==== Sys2Proof/Syntax.lean ====
section
/-! DEFINITION. The abstract syntax: every Esmel instruction and every numbered event of the opcode table (R268-R292 for the instruction word; the events are the steps that the part, the host and the network take). -/

namespace Sys2Proof

/-- The header of an instruction word (R269, Table enc-1), without its opcode. -/
structure Hdr where
  /-- Execution scope: 0 lane, 1 group, 2 set, 3 team. -/
  scope : Nat
  gneg : Bool
  guard : Nat
  waitm : Nat
  /-- 0 to 5 signal that counter, 7 signals none, 6 is reserved. -/
  sig : Nat
  stall : Nat
  nosb : Bool
  yield : Bool
  deriving DecidableEq, Repr

/-- Layout G of Table enc-4. A selector is the raw 10-bit operand field. -/
structure OpG where
  d : Nat
  a : Nat
  b : Nat
  c : Nat
  ty : Nat
  rnd : Nat
  pol : Nat
  flags : Nat
  deriving DecidableEq, Repr

/-- Layout I of Table enc-4. -/
structure OpI where
  d : Nat
  a : Nat
  imm : Nat
  mod8 : Nat
  deriving DecidableEq, Repr

/-- Layout M of Table enc-4. `off` holds the raw 14 bits. -/
structure OpM where
  d : Nat
  a : Nat
  b : Nat
  msc : Nat
  ord : Nat
  ty : Nat
  off : Nat
  vec : Nat
  modm : Nat
  deriving DecidableEq, Repr

/-- Layout T of Table enc-4. -/
structure OpT where
  data : Nat
  coord : Nat
  nc : Nat
  hs : Nat
  msc : Nat
  ord : Nat
  ty : Nat
  vec : Nat
  modt : Nat
  deriving DecidableEq, Repr

/-- Layout E of Table enc-4. `pdx` and `pdy` hold the raw 4 bits. -/
structure OpE where
  a : Nat
  b : Nat
  c : Nat
  pdx : Nat
  pdy : Nat
  msc : Nat
  mode : Nat
  deriving DecidableEq, Repr

/-- The operand region of a word, in the layout its opcode selects. -/
inductive Opnds where
  | g (o : OpG)
  | i (o : OpI)
  | m (o : OpM)
  | t (o : OpT)
  | e (o : OpE)
  deriving DecidableEq, Repr


/-- Every row of the opcode table: the instructions of Table enc-7, then the machine, host and network events, whose operands the state holds (`State.ev`). -/
inductive Instr where
  /-- NOP (R318). -/
  | nop (h : Hdr) (o : OpI)
  /-- BRA (R321). -/
  | bra (h : Hdr) (o : OpI)
  /-- BRX (R321). -/
  | brx (h : Hdr) (o : OpI)
  /-- CALL (R322). -/
  | call (h : Hdr) (o : OpI)
  /-- CALLX (R322). -/
  | callx (h : Hdr) (o : OpI)
  /-- RET (R323). -/
  | ret (h : Hdr) (o : OpI)
  /-- EXIT (R324). -/
  | exit (h : Hdr) (o : OpI)
  /-- KILL (R324). -/
  | kill (h : Hdr) (o : OpI)
  /-- REJOIN (R328). -/
  | rejoin (h : Hdr) (o : OpI)
  /-- TRAP (R336). -/
  | trap (h : Hdr) (o : OpI)
  /-- TRET (R337). -/
  | tret (h : Hdr) (o : OpI)
  /-- WSPILL (R338). -/
  | wspill (h : Hdr) (o : OpI)
  /-- WFILL (R338). -/
  | wfill (h : Hdr) (o : OpI)
  /-- PCHK (R339). -/
  | pchk (h : Hdr) (o : OpI)
  /-- MJOIN (R326). -/
  | mjoin (h : Hdr) (o : OpG)
  /-- MLEAVE (R326). -/
  | mleave (h : Hdr) (o : OpG)
  /-- MWAIT (R326). -/
  | mwait (h : Hdr) (o : OpG)
  /-- MGET (R327). -/
  | mget (h : Hdr) (o : OpG)
  /-- BAR (R329). -/
  | bar (h : Hdr) (o : OpG)
  /-- ARRIVE (R332). -/
  | arrive (h : Hdr) (o : OpG)
  /-- BWAIT (R333). -/
  | bwait (h : Hdr) (o : OpG)
  /-- RDV (R330). -/
  | rdv (h : Hdr) (o : OpG)
  /-- TOKGIVE (R334). -/
  | tokgive (h : Hdr) (o : OpG)
  /-- TOKTAKE (R334). -/
  | toktake (h : Hdr) (o : OpG)
  /-- FENCE (R335). -/
  | fence (h : Hdr) (o : OpG)
  /-- CLOCK (R340). -/
  | clock (h : Hdr) (o : OpG)
  /-- PLACE (R341). -/
  | place (h : Hdr) (o : OpG)
  /-- SYSRD (R342). -/
  | sysrd (h : Hdr) (o : OpG)
  /-- SYSWR (R342). -/
  | syswr (h : Hdr) (o : OpG)
  /-- ADD_INT (R348). -/
  | addInt (h : Hdr) (o : OpG)
  /-- SUB_INT (R348). -/
  | subInt (h : Hdr) (o : OpG)
  /-- MUL_INT (R348). -/
  | mulInt (h : Hdr) (o : OpG)
  /-- MULHI (R348). -/
  | mulhi (h : Hdr) (o : OpG)
  /-- MAD (R348). -/
  | mad (h : Hdr) (o : OpG)
  /-- DIV_INT (R348). -/
  | divInt (h : Hdr) (o : OpG)
  /-- REM (R348). -/
  | rem (h : Hdr) (o : OpG)
  /-- MIN_INT (R348). -/
  | minInt (h : Hdr) (o : OpG)
  /-- MAX_INT (R348). -/
  | maxInt (h : Hdr) (o : OpG)
  /-- ABS_INT (R348). -/
  | absInt (h : Hdr) (o : OpG)
  /-- NEG_INT (R348). -/
  | negInt (h : Hdr) (o : OpG)
  /-- LEA (R349). -/
  | lea (h : Hdr) (o : OpG)
  /-- ADD_INT_IMM (R281). -/
  | addIntImm (h : Hdr) (o : OpI)
  /-- SUB_INT_IMM (R281). -/
  | subIntImm (h : Hdr) (o : OpI)
  /-- MUL_INT_IMM (R281). -/
  | mulIntImm (h : Hdr) (o : OpI)
  /-- MULHI_IMM (R281). -/
  | mulhiImm (h : Hdr) (o : OpI)
  /-- DIV_INT_IMM (R281). -/
  | divIntImm (h : Hdr) (o : OpI)
  /-- REM_IMM (R281). -/
  | remImm (h : Hdr) (o : OpI)
  /-- MIN_INT_IMM (R281). -/
  | minIntImm (h : Hdr) (o : OpI)
  /-- MAX_INT_IMM (R281). -/
  | maxIntImm (h : Hdr) (o : OpI)
  /-- LEA_IMM (R349). -/
  | leaImm (h : Hdr) (o : OpI)
  /-- AND (R344). -/
  | andL (h : Hdr) (o : OpG)
  /-- OR (R344). -/
  | orL (h : Hdr) (o : OpG)
  /-- XOR (R344). -/
  | xorL (h : Hdr) (o : OpG)
  /-- NOT (R344). -/
  | notL (h : Hdr) (o : OpG)
  /-- SHL (R344). -/
  | shl (h : Hdr) (o : OpG)
  /-- SHR (R344). -/
  | shr (h : Hdr) (o : OpG)
  /-- ROTL (R344). -/
  | rotl (h : Hdr) (o : OpG)
  /-- POPC (R344). -/
  | popc (h : Hdr) (o : OpG)
  /-- CLZ (R344). -/
  | clz (h : Hdr) (o : OpG)
  /-- CTZ (R344). -/
  | ctz (h : Hdr) (o : OpG)
  /-- BREV (R344). -/
  | brev (h : Hdr) (o : OpG)
  /-- BFE (R350). -/
  | bfe (h : Hdr) (o : OpG)
  /-- BFI (R350). -/
  | bfi (h : Hdr) (o : OpG)
  /-- LOP3 (R344). -/
  | lop3 (h : Hdr) (o : OpG)
  /-- SEL (R344). -/
  | sel (h : Hdr) (o : OpG)
  /-- AND_IMM (R281). -/
  | andImm (h : Hdr) (o : OpI)
  /-- OR_IMM (R281). -/
  | orImm (h : Hdr) (o : OpI)
  /-- XOR_IMM (R281). -/
  | xorImm (h : Hdr) (o : OpI)
  /-- SHL_IMM (R281). -/
  | shlImm (h : Hdr) (o : OpI)
  /-- SHR_IMM (R281). -/
  | shrImm (h : Hdr) (o : OpI)
  /-- ROTL_IMM (R281). -/
  | rotlImm (h : Hdr) (o : OpI)
  /-- BFE_IMM (R350). -/
  | bfeImm (h : Hdr) (o : OpI)
  /-- ADD_FLOAT (R351). -/
  | addFloat (h : Hdr) (o : OpG)
  /-- SUB_FLOAT (R351). -/
  | subFloat (h : Hdr) (o : OpG)
  /-- MUL_FLOAT (R351). -/
  | mulFloat (h : Hdr) (o : OpG)
  /-- FMA (R351). -/
  | fma (h : Hdr) (o : OpG)
  /-- MIN_FLOAT (R352). -/
  | minFloat (h : Hdr) (o : OpG)
  /-- MAX_FLOAT (R352). -/
  | maxFloat (h : Hdr) (o : OpG)
  /-- ABS_FLOAT (R352). -/
  | absFloat (h : Hdr) (o : OpG)
  /-- NEG_FLOAT (R352). -/
  | negFloat (h : Hdr) (o : OpG)
  /-- DIV_FLOAT (R351). -/
  | divFloat (h : Hdr) (o : OpG)
  /-- SQRT (R351). -/
  | sqrt (h : Hdr) (o : OpG)
  /-- ADD_FLOAT_IMM (R281). -/
  | addFloatImm (h : Hdr) (o : OpI)
  /-- SUB_FLOAT_IMM (R281). -/
  | subFloatImm (h : Hdr) (o : OpI)
  /-- MUL_FLOAT_IMM (R281). -/
  | mulFloatImm (h : Hdr) (o : OpI)
  /-- MIN_FLOAT_IMM (R281). -/
  | minFloatImm (h : Hdr) (o : OpI)
  /-- MAX_FLOAT_IMM (R281). -/
  | maxFloatImm (h : Hdr) (o : OpI)
  /-- DIV_FLOAT_IMM (R281). -/
  | divFloatImm (h : Hdr) (o : OpI)
  /-- EX2 (R353). -/
  | ex2 (h : Hdr) (o : OpG)
  /-- LG2 (R353). -/
  | lg2 (h : Hdr) (o : OpG)
  /-- RCP (R353). -/
  | rcp (h : Hdr) (o : OpG)
  /-- RSQRT (R353). -/
  | rsqrt (h : Hdr) (o : OpG)
  /-- SIN (R353). -/
  | sin (h : Hdr) (o : OpG)
  /-- COS (R353). -/
  | cos (h : Hdr) (o : OpG)
  /-- TANH (R353). -/
  | tanh (h : Hdr) (o : OpG)
  /-- EXP (R353). -/
  | exp (h : Hdr) (o : OpG)
  /-- ADD2 (R354). -/
  | add2 (h : Hdr) (o : OpG)
  /-- SUB2 (R354). -/
  | sub2 (h : Hdr) (o : OpG)
  /-- MUL2 (R354). -/
  | mul2 (h : Hdr) (o : OpG)
  /-- FMA2 (R354). -/
  | fma2 (h : Hdr) (o : OpG)
  /-- MIN2 (R354). -/
  | min2 (h : Hdr) (o : OpG)
  /-- MAX2 (R354). -/
  | max2 (h : Hdr) (o : OpG)
  /-- SETP (R355). -/
  | setp (h : Hdr) (o : OpG)
  /-- SELP (R344). -/
  | selp (h : Hdr) (o : OpG)
  /-- PAND (R344). -/
  | pand (h : Hdr) (o : OpG)
  /-- POR (R344). -/
  | por (h : Hdr) (o : OpG)
  /-- PXOR (R344). -/
  | pxor (h : Hdr) (o : OpG)
  /-- PNOT (R344). -/
  | pnot (h : Hdr) (o : OpG)
  /-- PMOV (R356). -/
  | pmov (h : Hdr) (o : OpG)
  /-- CVT (R357). -/
  | cvt (h : Hdr) (o : OpG)
  /-- PACK (R358). -/
  | pack (h : Hdr) (o : OpG)
  /-- UNPACK (R359). -/
  | unpack (h : Hdr) (o : OpG)
  /-- QNT4 (R360). -/
  | qnt4 (h : Hdr) (o : OpG)
  /-- DQ4 (R360). -/
  | dq4 (h : Hdr) (o : OpG)
  /-- SHFL (R361). -/
  | shfl (h : Hdr) (o : OpG)
  /-- VOTE (R361). -/
  | vote (h : Hdr) (o : OpG)
  /-- RDX: group-wide fold (R362, Table comp-9); the table shares the name with the mesh message. -/
  | rdxOp (h : Hdr) (o : OpG)
  /-- SCAN (R362). -/
  | scan (h : Hdr) (o : OpG)
  /-- BCAST (R361). -/
  | bcast (h : Hdr) (o : OpG)
  /-- MATCH (R361). -/
  | matchV (h : Hdr) (o : OpG)
  /-- SADD (R363). -/
  | sadd (h : Hdr) (o : OpG)
  /-- SSUB (R363). -/
  | ssub (h : Hdr) (o : OpG)
  /-- SMUL (R363). -/
  | smul (h : Hdr) (o : OpG)
  /-- SMIN (R363). -/
  | smin (h : Hdr) (o : OpG)
  /-- SMAX (R363). -/
  | smax (h : Hdr) (o : OpG)
  /-- SAND (R363). -/
  | sand (h : Hdr) (o : OpG)
  /-- SOR (R363). -/
  | sor (h : Hdr) (o : OpG)
  /-- SXOR (R363). -/
  | sxor (h : Hdr) (o : OpG)
  /-- SSHL (R363). -/
  | sshl (h : Hdr) (o : OpG)
  /-- SSHR (R363). -/
  | sshr (h : Hdr) (o : OpG)
  /-- SMOV (R363). -/
  | smov (h : Hdr) (o : OpG)
  /-- SSETP (R363). -/
  | ssetp (h : Hdr) (o : OpG)
  /-- SADD_IMM (R281). -/
  | saddImm (h : Hdr) (o : OpI)
  /-- SSUB_IMM (R281). -/
  | ssubImm (h : Hdr) (o : OpI)
  /-- SMUL_IMM (R281). -/
  | smulImm (h : Hdr) (o : OpI)
  /-- SMIN_IMM (R281). -/
  | sminImm (h : Hdr) (o : OpI)
  /-- SMAX_IMM (R281). -/
  | smaxImm (h : Hdr) (o : OpI)
  /-- SAND_IMM (R281). -/
  | sandImm (h : Hdr) (o : OpI)
  /-- SOR_IMM (R281). -/
  | sorImm (h : Hdr) (o : OpI)
  /-- SXOR_IMM (R281). -/
  | sxorImm (h : Hdr) (o : OpI)
  /-- SSHL_IMM (R281). -/
  | sshlImm (h : Hdr) (o : OpI)
  /-- SSHR_IMM (R281). -/
  | sshrImm (h : Hdr) (o : OpI)
  /-- SMOV_IMM (R281). -/
  | smovImm (h : Hdr) (o : OpI)
  /-- MOV (R364). -/
  | mov (h : Hdr) (o : OpG)
  /-- MOVI (R364). -/
  | movi (h : Hdr) (o : OpI)
  /-- LD (R371). -/
  | ld (h : Hdr) (o : OpM)
  /-- ST (R372). -/
  | st (h : Hdr) (o : OpM)
  /-- SLD (R373). -/
  | sld (h : Hdr) (o : OpM)
  /-- LDS (R371). -/
  | lds (h : Hdr) (o : OpM)
  /-- STS (R372). -/
  | sts (h : Hdr) (o : OpM)
  /-- LDC (R371). -/
  | ldc (h : Hdr) (o : OpM)
  /-- STC (R372). -/
  | stc (h : Hdr) (o : OpM)
  /-- LDPR (R371). -/
  | ldpr (h : Hdr) (o : OpM)
  /-- STPR (R372). -/
  | stpr (h : Hdr) (o : OpM)
  /-- LDG (R371). -/
  | ldg (h : Hdr) (o : OpM)
  /-- STG (R372). -/
  | stg (h : Hdr) (o : OpM)
  /-- ATOM_ADD (R378). -/
  | atomAdd (h : Hdr) (o : OpM)
  /-- ATOM_MIN (R378). -/
  | atomMin (h : Hdr) (o : OpM)
  /-- ATOM_MAX (R378). -/
  | atomMax (h : Hdr) (o : OpM)
  /-- ATOM_AND (R378). -/
  | atomAnd (h : Hdr) (o : OpM)
  /-- ATOM_OR (R378). -/
  | atomOr (h : Hdr) (o : OpM)
  /-- ATOM_XOR (R378). -/
  | atomXor (h : Hdr) (o : OpM)
  /-- ATOM_EXCH (R378). -/
  | atomExch (h : Hdr) (o : OpM)
  /-- ATOM_CAS (R378). -/
  | atomCas (h : Hdr) (o : OpM)
  /-- RED_ADD (R378). -/
  | redAdd (h : Hdr) (o : OpM)
  /-- RED_MIN (R378). -/
  | redMin (h : Hdr) (o : OpM)
  /-- RED_MAX (R378). -/
  | redMax (h : Hdr) (o : OpM)
  /-- RED_AND (R378). -/
  | redAnd (h : Hdr) (o : OpM)
  /-- RED_OR (R378). -/
  | redOr (h : Hdr) (o : OpM)
  /-- RED_XOR (R378). -/
  | redXor (h : Hdr) (o : OpM)
  /-- TLD (R375). -/
  | tld (h : Hdr) (o : OpT)
  /-- TST (R375). -/
  | tst (h : Hdr) (o : OpT)
  /-- HLD (R374). -/
  | hld (h : Hdr) (o : OpT)
  /-- HCLR (R374). -/
  | hclr (h : Hdr) (o : OpT)
  /-- SPT (R376). -/
  | spt (h : Hdr) (o : OpG)
  /-- CVTA (R376). -/
  | cvta (h : Hdr) (o : OpG)
  /-- CVTS (R376). -/
  | cvts (h : Hdr) (o : OpG)
  /-- PF (R380). -/
  | pf (h : Hdr) (o : OpM)
  /-- FLUSH (R381). -/
  | flush (h : Hdr) (o : OpM)
  /-- DISC (R382). -/
  | disc (h : Hdr) (o : OpM)
  /-- SYNCWAIT (R383). -/
  | syncwait (h : Hdr) (o : OpM)
  /-- SYNCADD (R384). -/
  | syncadd (h : Hdr) (o : OpM)
  /-- COPY (R386). -/
  | copy (h : Hdr) (o : OpE)
  /-- TCOPY (R387). -/
  | tcopy (h : Hdr) (o : OpE)
  /-- FKTAB (R388). -/
  | fktab (h : Hdr) (o : OpE)
  /-- FKDEC (R388). -/
  | fkdec (h : Hdr) (o : OpE)
  /-- MAPSET (R393). -/
  | mapset (h : Hdr) (o : OpE)
  /-- WLOAD (R395). -/
  | wload (h : Hdr) (o : OpE)
  /-- MMUL (R396). -/
  | mmul (h : Hdr) (o : OpE)
  /-- ACLR (R397). -/
  | aclr (h : Hdr) (o : OpE)
  /-- AREAD (R398). -/
  | aread (h : Hdr) (o : OpE)
  /-- OFENCE (R394). -/
  | ofence (h : Hdr) (o : OpE)
  /-- RSEND (R399). -/
  | rsend (h : Hdr) (o : OpE)
  /-- RRECV (R399). -/
  | rrecv (h : Hdr) (o : OpE)
  /-- SMV (R401). -/
  | smv (h : Hdr) (o : OpE)
  /-- QROT (R402). -/
  | qrot (h : Hdr) (o : OpE)
  /-- BPUT (R403). -/
  | bput (h : Hdr) (o : OpE)
  /-- BFORK (R403). -/
  | bfork (h : Hdr) (o : OpE)
  /-- BDROP (R403). -/
  | bdrop (h : Hdr) (o : OpE)
  /-- ATTN (R404). -/
  | attn (h : Hdr) (o : OpE)
  /-- BRING_UP (R26). -/
  | bringUp
  /-- SECURITY_VERSION_RAISE (R27). -/
  | securityVersionRaise
  /-- MEASUREMENT_EXTEND (R29). -/
  | measurementExtend
  /-- QUOTE_REQUEST (R29). -/
  | quoteRequest
  /-- CERTIFICATE_REQUEST (R28). -/
  | certificateRequest
  /-- VF_LOOP_STEP (R17). -/
  | vfLoopStep
  /-- DROOP_EVENT (R18). -/
  | droopEvent
  /-- DROOP_RECOVERY (R18). -/
  | droopRecovery
  /-- THERMAL_STATE_CHANGE (R19). -/
  | thermalStateChange
  /-- THERMAL_TRIP (R19). -/
  | thermalTrip
  /-- POWER_LIMIT_EXCEEDED (R20). -/
  | powerLimitExceeded
  /-- VFLIM_WRITE (R24). -/
  | vflimWrite
  /-- PWRCAP_WRITE (R20). -/
  | pwrcapWrite
  /-- COMBWIN_WRITE (R75). -/
  | combwinWrite
  /-- SCHED_CFG_WRITE (R146). -/
  | schedCfgWrite
  /-- SIMT_CFG_WRITE (R187). -/
  | simtCfgWrite
  /-- MATRIX_CFG_WRITE (R239). -/
  | matrixCfgWrite
  /-- ADMINPTR_TAIL_WRITE (R85). -/
  | adminptrTailWrite
  /-- DOORBELL_WRITE (R88). -/
  | doorbellWrite
  /-- ERRLOG_OVF_CLEAR (R77). -/
  | errlogOvfClear
  /-- ERRENT_VALID_CLEAR (R77). -/
  | errentValidClear
  /-- FRAME_RING_TAIL_WRITE (R121). -/
  | frameRingTailWrite
  /-- FRAME_RING3_HEAD_WRITE (R121). -/
  | frameRing3HeadWrite
  /-- EVICT_RECLAIM (R125). -/
  | evictReclaim
  /-- EVICT_DIRECTED_BACKING (R126). -/
  | evictDirectedBacking
  /-- EVICT_DIRECTED_DISCARD (R126). -/
  | evictDirectedDiscard
  /-- BUSHEL_ENABLE (R128). -/
  | bushelEnable
  /-- BUSHEL_DISABLE (R128). -/
  | bushelDisable
  /-- REG128_LOW_WRITE (R103). -/
  | reg128LowWrite
  /-- REG128_LOW_READ (R103). -/
  | reg128LowRead
  /-- REGISTER_WRITE (R101). -/
  | registerWrite
  /-- FLIT_RECEIVED (R33). -/
  | flitReceived
  /-- REPLAY_REQUEST (R33). -/
  | replayRequest
  /-- LINK_RETRAIN_DONE (R33). -/
  | linkRetrainDone
  /-- EQUALISATION_STEP (R35). -/
  | equalisationStep
  /-- SNPDATA (R70). -/
  | snpdata
  /-- SNPINV (R70). -/
  | snpinv
  /-- SNPCUR (R70). -/
  | snpcur
  /-- HOST_SECTOR_FETCH (R114). -/
  | hostSectorFetch
  /-- ITOMWR_COMPLETION (R258). -/
  | itomwrCompletion
  /-- BAR_MEMORY_READ (R100). -/
  | barMemoryRead
  /-- BAR_MEMORY_WRITE (R100). -/
  | barMemoryWrite
  /-- GETS (R44). -/
  | gets
  /-- GETX (R44). -/
  | getx
  /-- GRANULE_RECALL (R44). -/
  | granuleRecall
  /-- GRANULE_GRANT (R44). -/
  | granuleGrant
  /-- PUTX (R44). -/
  | putx
  /-- RDS (R61). -/
  | rds
  /-- RDX (R63). -/
  | rdx
  /-- UPG (R63). -/
  | upg
  /-- RDU (R113). -/
  | rdu
  /-- WRU (R64). -/
  | wru
  /-- ATOM (R64). -/
  | atom
  /-- FWD (R61). -/
  | fwd
  /-- INV (R63). -/
  | inv
  /-- GRAFT (R61). -/
  | graft
  /-- PRUNEACK (R66). -/
  | pruneack
  /-- WBACK (R66). -/
  | wback
  /-- PATH_RELEASE (R115). -/
  | pathRelease
  /-- INVACK (R63). -/
  | invack
  /-- PRUNE (R66). -/
  | prune
  /-- WBD (R66). -/
  | wbd
  /-- DATA (R61). -/
  | data
  /-- GRANT (R63). -/
  | grant
  /-- ERR (R76). -/
  | err
  /-- WRACK (R258). -/
  | wrack
  /-- ATOMACK (R64). -/
  | atomack
  /-- REDACK (R73). -/
  | redack
  /-- SYNC_COUNT_UPDATE (R73). -/
  | syncCountUpdate
  /-- RED (R72). -/
  | red
  /-- REDP (R72). -/
  | redp
  /-- COMBINE_WINDOW_EXPIRY (R72). -/
  | combineWindowExpiry
  /-- ORD_CONTRIBUTION_RESEND (R222). -/
  | ordContributionResend
  /-- ATTRIBUTE_QUERY (R416). -/
  | attributeQuery
  /-- PLACEMENT_LOOKUP (R108). -/
  | placementLookup
  /-- TRANSLATION_WALK (R110). -/
  | translationWalk
  /-- FRAME_ZEROING_COMPLETE (R120). -/
  | frameZeroingComplete
  /-- TREE_CACHE_ECC_FATAL (R69). -/
  | treeCacheEccFatal
  /-- WCS_EVICTION (R254). -/
  | wcsEviction
  /-- CTX_CREATE (R80). -/
  | ctxCreate
  /-- CTX_DESTROY (R87). -/
  | ctxDestroy
  /-- CTX_SUSPEND (R87). -/
  | ctxSuspend
  /-- CTX_SUSPEND_COMPLETE (R161). -/
  | ctxSuspendComplete
  /-- CTX_RESUME (R162). -/
  | ctxResume
  /-- OBJ_DECLARE (R288). -/
  | objDeclare
  /-- OBJ_CLEAR (R87). -/
  | objClear
  /-- BIAS_FLIP (R41). -/
  | biasFlip
  /-- BIAS_FLIP_COMPLETE (R42). -/
  | biasFlipComplete
  /-- QUEUE_RESUME (R97). -/
  | queueResume
  /-- XLATE_INVAL (R87). -/
  | xlateInval
  /-- ADMIN_UNKNOWN_OPCODE (R86). -/
  | adminUnknownOpcode
  /-- ADMIN_COMMAND_READ_ERROR (R85). -/
  | adminCommandReadError
  /-- USER_NOP (R89). -/
  | userNop
  /-- GRAPH_LAUNCH (R91). -/
  | graphLaunch
  /-- USER_UNKNOWN_OP (R89). -/
  | userUnknownOp
  /-- USER_COMMAND_READ_ERROR (R89). -/
  | userCommandReadError
  /-- NODE_NOP (R92). -/
  | nodeNop
  /-- NODE_KERNEL (R138). -/
  | nodeKernel
  /-- NODE_COPY (R92). -/
  | nodeCopy
  /-- NODE_SIGNAL (R92). -/
  | nodeSignal
  /-- NODE_WAIT (R92). -/
  | nodeWait
  /-- WAIT_REREAD (R92). -/
  | waitReread
  /-- WAIT_TIMEOUT (R92). -/
  | waitTimeout
  /-- NODE_COND (R93). -/
  | nodeCond
  /-- NODE_WHILE (R93). -/
  | nodeWhile
  /-- NODE_COMPLETE (R92). -/
  | nodeComplete
  /-- FAULT_VECTOR_RAISE (R98). -/
  | faultVectorRaise
  /-- TEAM_PLACEMENT (R145). -/
  | teamPlacement
  /-- PREEMPTION_TRIGGER (R154). -/
  | preemptionTrigger
  /-- HALT_COMPLETE (R155). -/
  | haltComplete
  /-- CONTEXT_SAVE (R159). -/
  | contextSave
  /-- ACCUMULATOR_SAVE (R161). -/
  | accumulatorSave
  /-- CONTEXT_RESUME_AUTO (R162). -/
  | contextResumeAuto
  /-- TEAM_EXIT (R325). -/
  | teamExit
  /-- EJECTION_HANDOVER_COMPLETE (R181). -/
  | ejectionHandoverComplete
  /-- THREAD_RECALL (R183). -/
  | threadRecall
  /-- REJOIN_TIMEOUT (R185). -/
  | rejoinTimeout
  /-- EJECTION_WINDOW_END (R186). -/
  | ejectionWindowEnd
  /-- COPY_COMMAND_ACCEPT (R213). -/
  | copyCommandAccept
  /-- COPY_COUNT_STEP (R214). -/
  | copyCountStep
  /-- FIRKIN_TABLE_LOAD_COMPLETE (R217). -/
  | firkinTableLoadComplete
  /-- FIRKIN_DECODE_COMPLETE (R218). -/
  | firkinDecodeComplete
  /-- SYNC_UPDATE (R209). -/
  | syncUpdate
  /-- SYNC_TIMER_TICK (R211). -/
  | syncTimerTick
  /-- ROD_PAIRING (R238). -/
  | rodPairing
  /-- ROD_TIMEOUT (R239). -/
  | rodTimeout
  /-- ASYNC_OPERATION_COMPLETE (R243). -/
  | asyncOperationComplete
  /-- PART_RESET (R26). -/
  | partReset
  /-- PORT_WRITE_ACKNOWLEDGEMENT (R372). -/
  | portWriteAcknowledgement
  deriving DecidableEq, Repr

end Sys2Proof
end

