-- ==== Sys2Proof/Machine/Encoding.lean ====
section
/-! DEFINITION. The encoding tables of the word: the opcode of each instruction (Table enc-7), the split of a word into header and operand layout (Tables enc-1 and enc-4), and which field codes an instruction accepts (R290, step 1, with the rules of the instruction chapters). -/

namespace Sys2Proof.Machine

/-- The opcode cat(MAJOR, MINOR), the header and the operands of an instruction; `none` for an event (Table enc-7). -/
def parts : Instr → Option (Nat × Hdr × Opnds)
  | .nop h o => some (0x0100, h, .i o)
  | .bra h o => some (0x0101, h, .i o)
  | .brx h o => some (0x0102, h, .i o)
  | .call h o => some (0x0103, h, .i o)
  | .callx h o => some (0x0104, h, .i o)
  | .ret h o => some (0x0105, h, .i o)
  | .exit h o => some (0x0106, h, .i o)
  | .kill h o => some (0x0107, h, .i o)
  | .rejoin h o => some (0x0108, h, .i o)
  | .trap h o => some (0x0109, h, .i o)
  | .tret h o => some (0x010A, h, .i o)
  | .wspill h o => some (0x010B, h, .i o)
  | .wfill h o => some (0x010C, h, .i o)
  | .pchk h o => some (0x010D, h, .i o)
  | .mjoin h o => some (0x0200, h, .g o)
  | .mleave h o => some (0x0201, h, .g o)
  | .mwait h o => some (0x0202, h, .g o)
  | .mget h o => some (0x0203, h, .g o)
  | .bar h o => some (0x0204, h, .g o)
  | .arrive h o => some (0x0205, h, .g o)
  | .bwait h o => some (0x0206, h, .g o)
  | .rdv h o => some (0x0207, h, .g o)
  | .tokgive h o => some (0x0208, h, .g o)
  | .toktake h o => some (0x0209, h, .g o)
  | .fence h o => some (0x020A, h, .g o)
  | .clock h o => some (0x0300, h, .g o)
  | .place h o => some (0x0301, h, .g o)
  | .sysrd h o => some (0x0302, h, .g o)
  | .syswr h o => some (0x0303, h, .g o)
  | .addInt h o => some (0x1000, h, .g o)
  | .subInt h o => some (0x1001, h, .g o)
  | .mulInt h o => some (0x1002, h, .g o)
  | .mulhi h o => some (0x1003, h, .g o)
  | .mad h o => some (0x1004, h, .g o)
  | .divInt h o => some (0x1005, h, .g o)
  | .rem h o => some (0x1006, h, .g o)
  | .minInt h o => some (0x1007, h, .g o)
  | .maxInt h o => some (0x1008, h, .g o)
  | .absInt h o => some (0x1009, h, .g o)
  | .negInt h o => some (0x100A, h, .g o)
  | .lea h o => some (0x100B, h, .g o)
  | .addIntImm h o => some (0x1080, h, .i o)
  | .subIntImm h o => some (0x1081, h, .i o)
  | .mulIntImm h o => some (0x1082, h, .i o)
  | .mulhiImm h o => some (0x1083, h, .i o)
  | .divIntImm h o => some (0x1085, h, .i o)
  | .remImm h o => some (0x1086, h, .i o)
  | .minIntImm h o => some (0x1087, h, .i o)
  | .maxIntImm h o => some (0x1088, h, .i o)
  | .leaImm h o => some (0x108B, h, .i o)
  | .andL h o => some (0x1100, h, .g o)
  | .orL h o => some (0x1101, h, .g o)
  | .xorL h o => some (0x1102, h, .g o)
  | .notL h o => some (0x1103, h, .g o)
  | .shl h o => some (0x1104, h, .g o)
  | .shr h o => some (0x1105, h, .g o)
  | .rotl h o => some (0x1106, h, .g o)
  | .popc h o => some (0x1107, h, .g o)
  | .clz h o => some (0x1108, h, .g o)
  | .ctz h o => some (0x1109, h, .g o)
  | .brev h o => some (0x110A, h, .g o)
  | .bfe h o => some (0x110B, h, .g o)
  | .bfi h o => some (0x110C, h, .g o)
  | .lop3 h o => some (0x110D, h, .g o)
  | .sel h o => some (0x110E, h, .g o)
  | .andImm h o => some (0x1180, h, .i o)
  | .orImm h o => some (0x1181, h, .i o)
  | .xorImm h o => some (0x1182, h, .i o)
  | .shlImm h o => some (0x1184, h, .i o)
  | .shrImm h o => some (0x1185, h, .i o)
  | .rotlImm h o => some (0x1186, h, .i o)
  | .bfeImm h o => some (0x118B, h, .i o)
  | .addFloat h o => some (0x1200, h, .g o)
  | .subFloat h o => some (0x1201, h, .g o)
  | .mulFloat h o => some (0x1202, h, .g o)
  | .fma h o => some (0x1203, h, .g o)
  | .minFloat h o => some (0x1204, h, .g o)
  | .maxFloat h o => some (0x1205, h, .g o)
  | .absFloat h o => some (0x1206, h, .g o)
  | .negFloat h o => some (0x1207, h, .g o)
  | .divFloat h o => some (0x1208, h, .g o)
  | .sqrt h o => some (0x1209, h, .g o)
  | .addFloatImm h o => some (0x1280, h, .i o)
  | .subFloatImm h o => some (0x1281, h, .i o)
  | .mulFloatImm h o => some (0x1282, h, .i o)
  | .minFloatImm h o => some (0x1284, h, .i o)
  | .maxFloatImm h o => some (0x1285, h, .i o)
  | .divFloatImm h o => some (0x1288, h, .i o)
  | .ex2 h o => some (0x1300, h, .g o)
  | .lg2 h o => some (0x1301, h, .g o)
  | .rcp h o => some (0x1302, h, .g o)
  | .rsqrt h o => some (0x1303, h, .g o)
  | .sin h o => some (0x1304, h, .g o)
  | .cos h o => some (0x1305, h, .g o)
  | .tanh h o => some (0x1306, h, .g o)
  | .exp h o => some (0x1307, h, .g o)
  | .add2 h o => some (0x1400, h, .g o)
  | .sub2 h o => some (0x1401, h, .g o)
  | .mul2 h o => some (0x1402, h, .g o)
  | .fma2 h o => some (0x1403, h, .g o)
  | .min2 h o => some (0x1404, h, .g o)
  | .max2 h o => some (0x1405, h, .g o)
  | .setp h o => some (0x1500, h, .g o)
  | .selp h o => some (0x1501, h, .g o)
  | .pand h o => some (0x1502, h, .g o)
  | .por h o => some (0x1503, h, .g o)
  | .pxor h o => some (0x1504, h, .g o)
  | .pnot h o => some (0x1505, h, .g o)
  | .pmov h o => some (0x1506, h, .g o)
  | .cvt h o => some (0x1600, h, .g o)
  | .pack h o => some (0x1601, h, .g o)
  | .unpack h o => some (0x1602, h, .g o)
  | .qnt4 h o => some (0x1603, h, .g o)
  | .dq4 h o => some (0x1604, h, .g o)
  | .shfl h o => some (0x1700, h, .g o)
  | .vote h o => some (0x1701, h, .g o)
  | .rdxOp h o => some (0x1702, h, .g o)
  | .scan h o => some (0x1703, h, .g o)
  | .bcast h o => some (0x1704, h, .g o)
  | .matchV h o => some (0x1705, h, .g o)
  | .sadd h o => some (0x1800, h, .g o)
  | .ssub h o => some (0x1801, h, .g o)
  | .smul h o => some (0x1802, h, .g o)
  | .smin h o => some (0x1803, h, .g o)
  | .smax h o => some (0x1804, h, .g o)
  | .sand h o => some (0x1805, h, .g o)
  | .sor h o => some (0x1806, h, .g o)
  | .sxor h o => some (0x1807, h, .g o)
  | .sshl h o => some (0x1808, h, .g o)
  | .sshr h o => some (0x1809, h, .g o)
  | .smov h o => some (0x180A, h, .g o)
  | .ssetp h o => some (0x180B, h, .g o)
  | .saddImm h o => some (0x1880, h, .i o)
  | .ssubImm h o => some (0x1881, h, .i o)
  | .smulImm h o => some (0x1882, h, .i o)
  | .sminImm h o => some (0x1883, h, .i o)
  | .smaxImm h o => some (0x1884, h, .i o)
  | .sandImm h o => some (0x1885, h, .i o)
  | .sorImm h o => some (0x1886, h, .i o)
  | .sxorImm h o => some (0x1887, h, .i o)
  | .sshlImm h o => some (0x1888, h, .i o)
  | .sshrImm h o => some (0x1889, h, .i o)
  | .smovImm h o => some (0x188A, h, .i o)
  | .mov h o => some (0x1900, h, .g o)
  | .movi h o => some (0x1901, h, .i o)
  | .ld h o => some (0x2000, h, .m o)
  | .st h o => some (0x2001, h, .m o)
  | .sld h o => some (0x2002, h, .m o)
  | .lds h o => some (0x2100, h, .m o)
  | .sts h o => some (0x2101, h, .m o)
  | .ldc h o => some (0x2102, h, .m o)
  | .stc h o => some (0x2103, h, .m o)
  | .ldpr h o => some (0x2104, h, .m o)
  | .stpr h o => some (0x2105, h, .m o)
  | .ldg h o => some (0x2106, h, .m o)
  | .stg h o => some (0x2107, h, .m o)
  | .atomAdd h o => some (0x2200, h, .m o)
  | .atomMin h o => some (0x2201, h, .m o)
  | .atomMax h o => some (0x2202, h, .m o)
  | .atomAnd h o => some (0x2203, h, .m o)
  | .atomOr h o => some (0x2204, h, .m o)
  | .atomXor h o => some (0x2205, h, .m o)
  | .atomExch h o => some (0x2206, h, .m o)
  | .atomCas h o => some (0x2207, h, .m o)
  | .redAdd h o => some (0x2300, h, .m o)
  | .redMin h o => some (0x2301, h, .m o)
  | .redMax h o => some (0x2302, h, .m o)
  | .redAnd h o => some (0x2303, h, .m o)
  | .redOr h o => some (0x2304, h, .m o)
  | .redXor h o => some (0x2305, h, .m o)
  | .tld h o => some (0x2400, h, .t o)
  | .tst h o => some (0x2401, h, .t o)
  | .hld h o => some (0x2402, h, .t o)
  | .hclr h o => some (0x2403, h, .t o)
  | .spt h o => some (0x2500, h, .g o)
  | .cvta h o => some (0x2501, h, .g o)
  | .cvts h o => some (0x2502, h, .g o)
  | .pf h o => some (0x2600, h, .m o)
  | .flush h o => some (0x2601, h, .m o)
  | .disc h o => some (0x2602, h, .m o)
  | .syncwait h o => some (0x2700, h, .m o)
  | .syncadd h o => some (0x2701, h, .m o)
  | .copy h o => some (0x2800, h, .e o)
  | .tcopy h o => some (0x2801, h, .e o)
  | .fktab h o => some (0x2802, h, .e o)
  | .fkdec h o => some (0x2803, h, .e o)
  | .mapset h o => some (0x3000, h, .e o)
  | .wload h o => some (0x3001, h, .e o)
  | .mmul h o => some (0x3002, h, .e o)
  | .aclr h o => some (0x3003, h, .e o)
  | .aread h o => some (0x3004, h, .e o)
  | .ofence h o => some (0x3005, h, .e o)
  | .rsend h o => some (0x3006, h, .e o)
  | .rrecv h o => some (0x3007, h, .e o)
  | .smv h o => some (0x3100, h, .e o)
  | .qrot h o => some (0x3101, h, .e o)
  | .bput h o => some (0x3102, h, .e o)
  | .bfork h o => some (0x3103, h, .e o)
  | .bdrop h o => some (0x3104, h, .e o)
  | .attn h o => some (0x3105, h, .e o)
  | .bringUp => none
  | .securityVersionRaise => none
  | .measurementExtend => none
  | .quoteRequest => none
  | .certificateRequest => none
  | .vfLoopStep => none
  | .droopEvent => none
  | .droopRecovery => none
  | .thermalStateChange => none
  | .thermalTrip => none
  | .powerLimitExceeded => none
  | .vflimWrite => none
  | .pwrcapWrite => none
  | .combwinWrite => none
  | .schedCfgWrite => none
  | .simtCfgWrite => none
  | .matrixCfgWrite => none
  | .adminptrTailWrite => none
  | .doorbellWrite => none
  | .errlogOvfClear => none
  | .errentValidClear => none
  | .frameRingTailWrite => none
  | .frameRing3HeadWrite => none
  | .evictReclaim => none
  | .evictDirectedBacking => none
  | .evictDirectedDiscard => none
  | .bushelEnable => none
  | .bushelDisable => none
  | .reg128LowWrite => none
  | .reg128LowRead => none
  | .registerWrite => none
  | .flitReceived => none
  | .replayRequest => none
  | .linkRetrainDone => none
  | .equalisationStep => none
  | .snpdata => none
  | .snpinv => none
  | .snpcur => none
  | .hostSectorFetch => none
  | .itomwrCompletion => none
  | .barMemoryRead => none
  | .barMemoryWrite => none
  | .gets => none
  | .getx => none
  | .granuleRecall => none
  | .granuleGrant => none
  | .putx => none
  | .rds => none
  | .rdx => none
  | .upg => none
  | .rdu => none
  | .wru => none
  | .atom => none
  | .fwd => none
  | .inv => none
  | .graft => none
  | .pruneack => none
  | .wback => none
  | .pathRelease => none
  | .invack => none
  | .prune => none
  | .wbd => none
  | .data => none
  | .grant => none
  | .err => none
  | .wrack => none
  | .atomack => none
  | .redack => none
  | .syncCountUpdate => none
  | .red => none
  | .redp => none
  | .combineWindowExpiry => none
  | .ordContributionResend => none
  | .attributeQuery => none
  | .placementLookup => none
  | .translationWalk => none
  | .frameZeroingComplete => none
  | .treeCacheEccFatal => none
  | .wcsEviction => none
  | .ctxCreate => none
  | .ctxDestroy => none
  | .ctxSuspend => none
  | .ctxSuspendComplete => none
  | .ctxResume => none
  | .objDeclare => none
  | .objClear => none
  | .biasFlip => none
  | .biasFlipComplete => none
  | .queueResume => none
  | .xlateInval => none
  | .adminUnknownOpcode => none
  | .adminCommandReadError => none
  | .userNop => none
  | .graphLaunch => none
  | .userUnknownOp => none
  | .userCommandReadError => none
  | .nodeNop => none
  | .nodeKernel => none
  | .nodeCopy => none
  | .nodeSignal => none
  | .nodeWait => none
  | .waitReread => none
  | .waitTimeout => none
  | .nodeCond => none
  | .nodeWhile => none
  | .nodeComplete => none
  | .faultVectorRaise => none
  | .teamPlacement => none
  | .preemptionTrigger => none
  | .haltComplete => none
  | .contextSave => none
  | .accumulatorSave => none
  | .contextResumeAuto => none
  | .teamExit => none
  | .ejectionHandoverComplete => none
  | .threadRecall => none
  | .rejoinTimeout => none
  | .ejectionWindowEnd => none
  | .copyCommandAccept => none
  | .copyCountStep => none
  | .firkinTableLoadComplete => none
  | .firkinDecodeComplete => none
  | .syncUpdate => none
  | .syncTimerTick => none
  | .rodPairing => none
  | .rodTimeout => none
  | .asyncOperationComplete => none
  | .partReset => none
  | .portWriteAcknowledgement => none

/-! ### Words -/

/-- The header of Table enc-1 in bits [95:60]. -/
def hdrOf (w : Nat) : Hdr :=
  ⟨bits w 79 78, bit w 77, bits w 76 74, bits w 73 68, bits w 67 65, bits w 64 62, bit w 61, bit w 60⟩

/-- Layout G of Table enc-4. -/
def opGOf (w : Nat) : OpG :=
  ⟨bits w 59 50, bits w 49 40, bits w 39 30, bits w 29 20, bits w 19 14, bits w 13 12, bits w 11 10, bits w 9 0⟩

/-- Layout I of Table enc-4. -/
def opIOf (w : Nat) : OpI := ⟨bits w 59 50, bits w 49 40, bits w 39 8, bits w 7 0⟩

/-- Layout M of Table enc-4. -/
def opMOf (w : Nat) : OpM :=
  ⟨bits w 59 50, bits w 49 40, bits w 39 30, bits w 29 27, bits w 26 25, bits w 24 19, bits w 18 5, bits w 4 3, bits w 2 0⟩

/-- Layout T of Table enc-4. -/
def opTOf (w : Nat) : OpT :=
  ⟨bits w 59 50, bits w 49 40, bits w 39 37, bits w 36 33, bits w 32 30, bits w 29 28, bits w 27 22, bits w 21 20, bits w 19 0⟩

/-- Layout E of Table enc-4. -/
def opEOf (w : Nat) : OpE :=
  ⟨bits w 59 50, bits w 49 40, bits w 39 30, bits w 29 26, bits w 25 22, bits w 21 19, bits w 18 0⟩

/-- Major 0x01 of Table enc-7. -/
def major01 (n : Nat) (h : Hdr) (w : Nat) : Option Instr :=
  match n with
  | 0x00 => some (.nop h (opIOf w))
  | 0x01 => some (.bra h (opIOf w))
  | 0x02 => some (.brx h (opIOf w))
  | 0x03 => some (.call h (opIOf w))
  | 0x04 => some (.callx h (opIOf w))
  | 0x05 => some (.ret h (opIOf w))
  | 0x06 => some (.exit h (opIOf w))
  | 0x07 => some (.kill h (opIOf w))
  | 0x08 => some (.rejoin h (opIOf w))
  | 0x09 => some (.trap h (opIOf w))
  | 0x0A => some (.tret h (opIOf w))
  | 0x0B => some (.wspill h (opIOf w))
  | 0x0C => some (.wfill h (opIOf w))
  | 0x0D => some (.pchk h (opIOf w))
  | _ => none

/-- Major 0x02 of Table enc-7. -/
def major02 (n : Nat) (h : Hdr) (w : Nat) : Option Instr :=
  match n with
  | 0x00 => some (.mjoin h (opGOf w))
  | 0x01 => some (.mleave h (opGOf w))
  | 0x02 => some (.mwait h (opGOf w))
  | 0x03 => some (.mget h (opGOf w))
  | 0x04 => some (.bar h (opGOf w))
  | 0x05 => some (.arrive h (opGOf w))
  | 0x06 => some (.bwait h (opGOf w))
  | 0x07 => some (.rdv h (opGOf w))
  | 0x08 => some (.tokgive h (opGOf w))
  | 0x09 => some (.toktake h (opGOf w))
  | 0x0A => some (.fence h (opGOf w))
  | _ => none

/-- Major 0x03 of Table enc-7. -/
def major03 (n : Nat) (h : Hdr) (w : Nat) : Option Instr :=
  match n with
  | 0x00 => some (.clock h (opGOf w))
  | 0x01 => some (.place h (opGOf w))
  | 0x02 => some (.sysrd h (opGOf w))
  | 0x03 => some (.syswr h (opGOf w))
  | _ => none

/-- Major 0x10 of Table enc-7. -/
def major10 (n : Nat) (h : Hdr) (w : Nat) : Option Instr :=
  match n with
  | 0x00 => some (.addInt h (opGOf w))
  | 0x01 => some (.subInt h (opGOf w))
  | 0x02 => some (.mulInt h (opGOf w))
  | 0x03 => some (.mulhi h (opGOf w))
  | 0x04 => some (.mad h (opGOf w))
  | 0x05 => some (.divInt h (opGOf w))
  | 0x06 => some (.rem h (opGOf w))
  | 0x07 => some (.minInt h (opGOf w))
  | 0x08 => some (.maxInt h (opGOf w))
  | 0x09 => some (.absInt h (opGOf w))
  | 0x0A => some (.negInt h (opGOf w))
  | 0x0B => some (.lea h (opGOf w))
  | 0x80 => some (.addIntImm h (opIOf w))
  | 0x81 => some (.subIntImm h (opIOf w))
  | 0x82 => some (.mulIntImm h (opIOf w))
  | 0x83 => some (.mulhiImm h (opIOf w))
  | 0x85 => some (.divIntImm h (opIOf w))
  | 0x86 => some (.remImm h (opIOf w))
  | 0x87 => some (.minIntImm h (opIOf w))
  | 0x88 => some (.maxIntImm h (opIOf w))
  | 0x8B => some (.leaImm h (opIOf w))
  | _ => none

/-- Major 0x11 of Table enc-7. -/
def major11 (n : Nat) (h : Hdr) (w : Nat) : Option Instr :=
  match n with
  | 0x00 => some (.andL h (opGOf w))
  | 0x01 => some (.orL h (opGOf w))
  | 0x02 => some (.xorL h (opGOf w))
  | 0x03 => some (.notL h (opGOf w))
  | 0x04 => some (.shl h (opGOf w))
  | 0x05 => some (.shr h (opGOf w))
  | 0x06 => some (.rotl h (opGOf w))
  | 0x07 => some (.popc h (opGOf w))
  | 0x08 => some (.clz h (opGOf w))
  | 0x09 => some (.ctz h (opGOf w))
  | 0x0A => some (.brev h (opGOf w))
  | 0x0B => some (.bfe h (opGOf w))
  | 0x0C => some (.bfi h (opGOf w))
  | 0x0D => some (.lop3 h (opGOf w))
  | 0x0E => some (.sel h (opGOf w))
  | 0x80 => some (.andImm h (opIOf w))
  | 0x81 => some (.orImm h (opIOf w))
  | 0x82 => some (.xorImm h (opIOf w))
  | 0x84 => some (.shlImm h (opIOf w))
  | 0x85 => some (.shrImm h (opIOf w))
  | 0x86 => some (.rotlImm h (opIOf w))
  | 0x8B => some (.bfeImm h (opIOf w))
  | _ => none

/-- Major 0x12 of Table enc-7. -/
def major12 (n : Nat) (h : Hdr) (w : Nat) : Option Instr :=
  match n with
  | 0x00 => some (.addFloat h (opGOf w))
  | 0x01 => some (.subFloat h (opGOf w))
  | 0x02 => some (.mulFloat h (opGOf w))
  | 0x03 => some (.fma h (opGOf w))
  | 0x04 => some (.minFloat h (opGOf w))
  | 0x05 => some (.maxFloat h (opGOf w))
  | 0x06 => some (.absFloat h (opGOf w))
  | 0x07 => some (.negFloat h (opGOf w))
  | 0x08 => some (.divFloat h (opGOf w))
  | 0x09 => some (.sqrt h (opGOf w))
  | 0x80 => some (.addFloatImm h (opIOf w))
  | 0x81 => some (.subFloatImm h (opIOf w))
  | 0x82 => some (.mulFloatImm h (opIOf w))
  | 0x84 => some (.minFloatImm h (opIOf w))
  | 0x85 => some (.maxFloatImm h (opIOf w))
  | 0x88 => some (.divFloatImm h (opIOf w))
  | _ => none

/-- Major 0x13 of Table enc-7. -/
def major13 (n : Nat) (h : Hdr) (w : Nat) : Option Instr :=
  match n with
  | 0x00 => some (.ex2 h (opGOf w))
  | 0x01 => some (.lg2 h (opGOf w))
  | 0x02 => some (.rcp h (opGOf w))
  | 0x03 => some (.rsqrt h (opGOf w))
  | 0x04 => some (.sin h (opGOf w))
  | 0x05 => some (.cos h (opGOf w))
  | 0x06 => some (.tanh h (opGOf w))
  | 0x07 => some (.exp h (opGOf w))
  | _ => none

/-- Major 0x14 of Table enc-7. -/
def major14 (n : Nat) (h : Hdr) (w : Nat) : Option Instr :=
  match n with
  | 0x00 => some (.add2 h (opGOf w))
  | 0x01 => some (.sub2 h (opGOf w))
  | 0x02 => some (.mul2 h (opGOf w))
  | 0x03 => some (.fma2 h (opGOf w))
  | 0x04 => some (.min2 h (opGOf w))
  | 0x05 => some (.max2 h (opGOf w))
  | _ => none

/-- Major 0x15 of Table enc-7. -/
def major15 (n : Nat) (h : Hdr) (w : Nat) : Option Instr :=
  match n with
  | 0x00 => some (.setp h (opGOf w))
  | 0x01 => some (.selp h (opGOf w))
  | 0x02 => some (.pand h (opGOf w))
  | 0x03 => some (.por h (opGOf w))
  | 0x04 => some (.pxor h (opGOf w))
  | 0x05 => some (.pnot h (opGOf w))
  | 0x06 => some (.pmov h (opGOf w))
  | _ => none

/-- Major 0x16 of Table enc-7. -/
def major16 (n : Nat) (h : Hdr) (w : Nat) : Option Instr :=
  match n with
  | 0x00 => some (.cvt h (opGOf w))
  | 0x01 => some (.pack h (opGOf w))
  | 0x02 => some (.unpack h (opGOf w))
  | 0x03 => some (.qnt4 h (opGOf w))
  | 0x04 => some (.dq4 h (opGOf w))
  | _ => none

/-- Major 0x17 of Table enc-7. -/
def major17 (n : Nat) (h : Hdr) (w : Nat) : Option Instr :=
  match n with
  | 0x00 => some (.shfl h (opGOf w))
  | 0x01 => some (.vote h (opGOf w))
  | 0x02 => some (.rdxOp h (opGOf w))
  | 0x03 => some (.scan h (opGOf w))
  | 0x04 => some (.bcast h (opGOf w))
  | 0x05 => some (.matchV h (opGOf w))
  | _ => none

/-- Major 0x18 of Table enc-7. -/
def major18 (n : Nat) (h : Hdr) (w : Nat) : Option Instr :=
  match n with
  | 0x00 => some (.sadd h (opGOf w))
  | 0x01 => some (.ssub h (opGOf w))
  | 0x02 => some (.smul h (opGOf w))
  | 0x03 => some (.smin h (opGOf w))
  | 0x04 => some (.smax h (opGOf w))
  | 0x05 => some (.sand h (opGOf w))
  | 0x06 => some (.sor h (opGOf w))
  | 0x07 => some (.sxor h (opGOf w))
  | 0x08 => some (.sshl h (opGOf w))
  | 0x09 => some (.sshr h (opGOf w))
  | 0x0A => some (.smov h (opGOf w))
  | 0x0B => some (.ssetp h (opGOf w))
  | 0x80 => some (.saddImm h (opIOf w))
  | 0x81 => some (.ssubImm h (opIOf w))
  | 0x82 => some (.smulImm h (opIOf w))
  | 0x83 => some (.sminImm h (opIOf w))
  | 0x84 => some (.smaxImm h (opIOf w))
  | 0x85 => some (.sandImm h (opIOf w))
  | 0x86 => some (.sorImm h (opIOf w))
  | 0x87 => some (.sxorImm h (opIOf w))
  | 0x88 => some (.sshlImm h (opIOf w))
  | 0x89 => some (.sshrImm h (opIOf w))
  | 0x8A => some (.smovImm h (opIOf w))
  | _ => none

/-- Major 0x19 of Table enc-7. -/
def major19 (n : Nat) (h : Hdr) (w : Nat) : Option Instr :=
  match n with
  | 0x00 => some (.mov h (opGOf w))
  | 0x01 => some (.movi h (opIOf w))
  | _ => none

/-- Major 0x20 of Table enc-7. -/
def major20 (n : Nat) (h : Hdr) (w : Nat) : Option Instr :=
  match n with
  | 0x00 => some (.ld h (opMOf w))
  | 0x01 => some (.st h (opMOf w))
  | 0x02 => some (.sld h (opMOf w))
  | _ => none

/-- Major 0x21 of Table enc-7. -/
def major21 (n : Nat) (h : Hdr) (w : Nat) : Option Instr :=
  match n with
  | 0x00 => some (.lds h (opMOf w))
  | 0x01 => some (.sts h (opMOf w))
  | 0x02 => some (.ldc h (opMOf w))
  | 0x03 => some (.stc h (opMOf w))
  | 0x04 => some (.ldpr h (opMOf w))
  | 0x05 => some (.stpr h (opMOf w))
  | 0x06 => some (.ldg h (opMOf w))
  | 0x07 => some (.stg h (opMOf w))
  | _ => none

/-- Major 0x22 of Table enc-7. -/
def major22 (n : Nat) (h : Hdr) (w : Nat) : Option Instr :=
  match n with
  | 0x00 => some (.atomAdd h (opMOf w))
  | 0x01 => some (.atomMin h (opMOf w))
  | 0x02 => some (.atomMax h (opMOf w))
  | 0x03 => some (.atomAnd h (opMOf w))
  | 0x04 => some (.atomOr h (opMOf w))
  | 0x05 => some (.atomXor h (opMOf w))
  | 0x06 => some (.atomExch h (opMOf w))
  | 0x07 => some (.atomCas h (opMOf w))
  | _ => none

/-- Major 0x23 of Table enc-7. -/
def major23 (n : Nat) (h : Hdr) (w : Nat) : Option Instr :=
  match n with
  | 0x00 => some (.redAdd h (opMOf w))
  | 0x01 => some (.redMin h (opMOf w))
  | 0x02 => some (.redMax h (opMOf w))
  | 0x03 => some (.redAnd h (opMOf w))
  | 0x04 => some (.redOr h (opMOf w))
  | 0x05 => some (.redXor h (opMOf w))
  | _ => none

/-- Major 0x24 of Table enc-7. -/
def major24 (n : Nat) (h : Hdr) (w : Nat) : Option Instr :=
  match n with
  | 0x00 => some (.tld h (opTOf w))
  | 0x01 => some (.tst h (opTOf w))
  | 0x02 => some (.hld h (opTOf w))
  | 0x03 => some (.hclr h (opTOf w))
  | _ => none

/-- Major 0x25 of Table enc-7. -/
def major25 (n : Nat) (h : Hdr) (w : Nat) : Option Instr :=
  match n with
  | 0x00 => some (.spt h (opGOf w))
  | 0x01 => some (.cvta h (opGOf w))
  | 0x02 => some (.cvts h (opGOf w))
  | _ => none

/-- Major 0x26 of Table enc-7. -/
def major26 (n : Nat) (h : Hdr) (w : Nat) : Option Instr :=
  match n with
  | 0x00 => some (.pf h (opMOf w))
  | 0x01 => some (.flush h (opMOf w))
  | 0x02 => some (.disc h (opMOf w))
  | _ => none

/-- Major 0x27 of Table enc-7. -/
def major27 (n : Nat) (h : Hdr) (w : Nat) : Option Instr :=
  match n with
  | 0x00 => some (.syncwait h (opMOf w))
  | 0x01 => some (.syncadd h (opMOf w))
  | _ => none

/-- Major 0x28 of Table enc-7. -/
def major28 (n : Nat) (h : Hdr) (w : Nat) : Option Instr :=
  match n with
  | 0x00 => some (.copy h (opEOf w))
  | 0x01 => some (.tcopy h (opEOf w))
  | 0x02 => some (.fktab h (opEOf w))
  | 0x03 => some (.fkdec h (opEOf w))
  | _ => none

/-- Major 0x30 of Table enc-7. -/
def major30 (n : Nat) (h : Hdr) (w : Nat) : Option Instr :=
  match n with
  | 0x00 => some (.mapset h (opEOf w))
  | 0x01 => some (.wload h (opEOf w))
  | 0x02 => some (.mmul h (opEOf w))
  | 0x03 => some (.aclr h (opEOf w))
  | 0x04 => some (.aread h (opEOf w))
  | 0x05 => some (.ofence h (opEOf w))
  | 0x06 => some (.rsend h (opEOf w))
  | 0x07 => some (.rrecv h (opEOf w))
  | _ => none

/-- Major 0x31 of Table enc-7. -/
def major31 (n : Nat) (h : Hdr) (w : Nat) : Option Instr :=
  match n with
  | 0x00 => some (.smv h (opEOf w))
  | 0x01 => some (.qrot h (opEOf w))
  | 0x02 => some (.bput h (opEOf w))
  | 0x03 => some (.bfork h (opEOf w))
  | 0x04 => some (.bdrop h (opEOf w))
  | 0x05 => some (.attn h (opEOf w))
  | _ => none

/-- The instruction an opcode assigns to a word, whatever its other fields hold (R289). -/
def byOpcode (w : Nat) : Option Instr :=
  let n := bits w 87 80
  let h := hdrOf w
  match bits w 95 88 with
  | 0x01 => major01 n h w
  | 0x02 => major02 n h w
  | 0x03 => major03 n h w
  | 0x10 => major10 n h w
  | 0x11 => major11 n h w
  | 0x12 => major12 n h w
  | 0x13 => major13 n h w
  | 0x14 => major14 n h w
  | 0x15 => major15 n h w
  | 0x16 => major16 n h w
  | 0x17 => major17 n h w
  | 0x18 => major18 n h w
  | 0x19 => major19 n h w
  | 0x20 => major20 n h w
  | 0x21 => major21 n h w
  | 0x22 => major22 n h w
  | 0x23 => major23 n h w
  | 0x24 => major24 n h w
  | 0x25 => major25 n h w
  | 0x26 => major26 n h w
  | 0x27 => major27 n h w
  | 0x28 => major28 n h w
  | 0x30 => major30 n h w
  | 0x31 => major31 n h w
  | _ => none

/-! ### Accepted codes (R278-R284) -/

/-- i32, n32, i64 and n64. -/
def intTys : List Nat := [0x2E, 0x2F, 0x30, 0x31]
/-- i32 and i64. -/
def iTys : List Nat := [0x2E, 0x30]
/-- n32 and n64. -/
def nTys : List Nat := [0x2F, 0x31]
/-- f16, bf16, f32 and f64. -/
def fltTys : List Nat := [0x20, 0x21, 0x28, 0x2A]
/-- The element types of the packed instructions (R354). -/
def halfTys : List Nat := [0x20, 0x21, 0x2C, 0x2D]
/-- The types of majors 0x10 and 0x12. -/
def numTys : List Nat := intTys ++ fltTys
/-- The types of add, min and max atomics (Table local-7). -/
def arithTys : List Nat := [0x2E, 0x2F, 0x30, 0x31, 0x28, 0x2A]
/-- A binary8 code of Table enc-5. -/
def isB8 (c : Nat) : Bool := decide (c < 0x20) && c % 8 != 7
/-- Every code of Table enc-5 except `i4`, `n4` and the pair. -/
def valTy (c : Nat) : Bool :=
  isB8 c || [0x20, 0x21, 0x24, 0x25, 0x28, 0x2A, 0x2C, 0x2D, 0x2E, 0x2F, 0x30, 0x31].contains c
/-- The narrow types of `pack` and `unpack` (R358). -/
def narrowTy (c : Nat) : Bool := isB8 c || [0x20, 0x21, 0x24, 0x25, 0x26, 0x27, 0x2C, 0x2D].contains c

/-- The header codes that every instruction refuses, and the scopes that this one accepts (R290). -/
def hd (h : Hdr) (scopes : List Nat) : Bool :=
  scopes.contains h.scope && h.sig != 6 && !(h.gneg && h.guard == 7)

/-- D and A are unused in layout I. -/
def zI (o : OpI) : Bool := o.d == 0 && o.a == 0
/-- TY, RND and POL are 0 (R318, Table mem-5). -/
def plainG (o : OpG) : Bool := o.ty == 0 && o.rnd == 0 && o.pol == 0
/-- B and C are unused. -/
def zBC (o : OpG) : Bool := o.b == 0 && o.c == 0
/-- No place is named (R284). -/
def zP (o : OpE) : Bool := o.pdx == 0 && o.pdy == 0
/-- MSC of Table ctl-1 is at least the execution scope (R319). -/
def mscOk (h : Hdr) (o : OpG) : Bool :=
  decide (bits o.flags 9 7 ≤ 5) && decide (h.scope - 1 ≤ bits o.flags 9 7)
/-- MOD8 = cat(TY, RND) of an immediate form (R281). -/
def immOk (o : OpI) (tys : List Nat) (rnd : Bool) : Bool :=
  tys.contains (bits o.mod8 7 2) && (rnd || bits o.mod8 1 0 == 0)
/-- RND and POL of a packed instruction follow the scalar one (R354). -/
def roundOk (o : OpG) : Bool :=
  if fltTys.contains o.ty then decide (o.pol ≤ 2) else o.rnd == 0 && decide (o.pol ≤ 1)
/-- The comparison code is one its type has (R355). -/
def cmpOk (o : OpG) : Bool :=
  decide (bits o.flags 3 0 ≤ (if fltTys.contains o.ty then 13 else 5))
/-- T is n32 or n64. -/
def n3264 (o : OpG) : Bool := nTys.contains o.ty
/-- `.part` needs set or team scope (R361). -/
def partOk (h : Hdr) (o : OpG) : Bool := !bit o.flags 9 || decide (2 ≤ h.scope)
/-- OP, TY, RND and POL of a fold (R362). -/
def foldOk (o : OpG) : Bool :=
  match bits o.flags 2 0 with
  | 0 => numTys.contains o.ty && roundOk o
  | 1 => numTys.contains o.ty && o.rnd == 0 && o.pol == 0
  | 2 => numTys.contains o.ty && o.rnd == 0 && o.pol == 0
  | 3 => nTys.contains o.ty && o.rnd == 0 && o.pol == 0
  | 4 => nTys.contains o.ty && o.rnd == 0 && o.pol == 0
  | 5 => nTys.contains o.ty && o.rnd == 0 && o.pol == 0
  | _ => false
/-- The pairing of ORD and MSCOPE of Table mem-2. -/
def accOk (ord msc : Nat) (ords : List Nat) : Bool :=
  ords.contains ord && decide (msc ≤ 5) && (ord != 0 || msc == 0)
/-- ORD, MSCOPE, VEC and MODM of a reduction (Tables mem-2 and mem-6); D is used only with `.ord` or `.cnt`. -/
def redOk (h : Hdr) (o : OpM) : Bool :=
  [0, 2].contains o.ord && decide (o.msc ≤ 5) && o.vec == 0
    && (!bit o.modm 0 || decide (2 ≤ h.scope)) && (bits o.modm 2 1 != 0 || o.d == 0)

/-- R290, step 1: whether the instruction accepts every code its fields hold. Operand selectors are checked later, at issue. -/
def legal : Instr → Bool
  | .nop h o => hd h [0] && zI o && o.imm == 0 && o.mod8 == 0
  | .bra h o => hd h [0] && zI o && decide (o.mod8 ≤ 1)
  | .brx h o => hd h [0] && o.d == 0 && o.imm == 0 && o.mod8 == 0
  | .call h o => hd h [0] && zI o && decide (1 ≤ o.mod8) && decide (o.mod8 ≤ 7)
  | .callx h o => hd h [0] && o.d == 0 && o.imm == 0 && decide (1 ≤ o.mod8) && decide (o.mod8 ≤ 7)
  | .ret h o => hd h [0] && o.d == 0 && o.imm == 0 && decide (1 ≤ o.mod8) && decide (o.mod8 ≤ 7)
  | .exit h o => hd h [0] && zI o && o.imm == 0 && o.mod8 == 0
  | .kill h o => hd h [0] && o.d == 0 && o.imm == 0 && o.mod8 == 0
  | .rejoin h o => hd h [1] && zI o && o.imm == 0 && o.mod8 == 0
  | .trap h o => hd h [0] && zI o && o.mod8 == 0
  | .tret h o => hd h [0] && h.guard == 7 && zI o && o.imm == 0 && decide (o.mod8 ≤ 1)
  | .wspill h o => hd h [0] && o.d == 0 && (o.mod8 == 0 || (o.mod8 == 1 && o.a == 0 && o.imm == 0))
  | .wfill h o => hd h [0] && o.d == 0 && (o.mod8 == 0 || (o.mod8 == 1 && o.a == 0 && o.imm == 0))
  | .pchk h o => hd h [0] && o.imm == 0 && o.mod8 == 0
  | .mjoin h o => hd h [1] && plainG o && o.a == 0 && zBC o && o.flags == 0
  | .mleave h o => hd h [1] && plainG o && o.a == 0 && zBC o && o.flags == 0
  | .mwait h o => hd h [1] && plainG o && o.d == 0 && zBC o && o.flags == 0
  | .mget h o => hd h [1] && plainG o && zBC o && decide (o.flags ≤ 1)
  | .bar h o => hd h [2, 3] && plainG o && o.d == 0 && o.a == 0 && zBC o && mscOk h o && bits o.flags 6 1 == 0
  | .arrive h o => hd h [2, 3] && plainG o && o.a == 0 && zBC o && mscOk h o && bits o.flags 6 5 != 3 && bits o.flags 4 3 == 0
  | .bwait h o => hd h [2, 3] && plainG o && o.d == 0 && zBC o && mscOk h o && bits o.flags 6 3 == 0
  | .rdv h o => hd h [2, 3] && plainG o && zBC o && mscOk h o && bits o.flags 6 0 == 0
  | .tokgive h o => hd h [1] && plainG o && o.d == 0 && zBC o && o.flags == 0
  | .toktake h o => hd h [1] && plainG o && o.a == 0 && zBC o && decide (o.flags ≤ 1)
  | .fence h o => hd h [0] && plainG o && o.d == 0 && o.a == 0 && zBC o && decide (bits o.flags 9 7 ≤ 5) && bits o.flags 6 2 == 0 && bits o.flags 1 0 != 0
  | .clock h o => hd h [0] && plainG o && o.a == 0 && zBC o && decide (o.flags ≤ 1)
  | .place h o => hd h [0] && plainG o && o.a == 0 && zBC o && decide (o.flags ≤ 3)
  | .sysrd h o => hd h [0] && plainG o && o.a == 0 && zBC o && decide (o.flags ≤ 13)
  | .syswr h o => hd h [1] && plainG o && o.d == 0 && zBC o && o.flags == 10
  | .addInt h o => hd h [0, 1] && intTys.contains o.ty && o.rnd == 0 && decide (o.pol ≤ 1) && o.c == 0 && o.flags == 0
  | .subInt h o => hd h [0, 1] && intTys.contains o.ty && o.rnd == 0 && decide (o.pol ≤ 1) && o.c == 0 && o.flags == 0
  | .mulInt h o => hd h [0, 1] && intTys.contains o.ty && o.rnd == 0 && decide (o.pol ≤ 1) && o.c == 0 && o.flags == 0
  | .mulhi h o => hd h [0, 1] && intTys.contains o.ty && o.rnd == 0 && o.pol == 0 && o.c == 0 && o.flags == 0
  | .mad h o => hd h [0, 1] && intTys.contains o.ty && o.rnd == 0 && decide (o.pol ≤ 1) && o.flags == 0
  | .divInt h o => hd h [0, 1] && intTys.contains o.ty && o.rnd == 0 && decide (o.pol ≤ 1) && o.c == 0 && o.flags == 0
  | .rem h o => hd h [0, 1] && intTys.contains o.ty && o.rnd == 0 && o.pol == 0 && o.c == 0 && o.flags == 0
  | .minInt h o => hd h [0, 1] && intTys.contains o.ty && o.rnd == 0 && o.pol == 0 && o.c == 0 && o.flags == 0
  | .maxInt h o => hd h [0, 1] && intTys.contains o.ty && o.rnd == 0 && o.pol == 0 && o.c == 0 && o.flags == 0
  | .absInt h o => hd h [0, 1] && iTys.contains o.ty && o.rnd == 0 && decide (o.pol ≤ 1) && zBC o && o.flags == 0
  | .negInt h o => hd h [0, 1] && iTys.contains o.ty && o.rnd == 0 && decide (o.pol ≤ 1) && zBC o && o.flags == 0
  | .lea h o => hd h [0, 1] && intTys.contains o.ty && o.rnd == 0 && o.pol == 0 && o.c == 0 && decide (o.flags ≤ 7)
  | .addIntImm h o => hd h [0, 1] && immOk o intTys false
  | .subIntImm h o => hd h [0, 1] && immOk o intTys false
  | .mulIntImm h o => hd h [0, 1] && immOk o intTys false
  | .mulhiImm h o => hd h [0, 1] && immOk o intTys false
  | .divIntImm h o => hd h [0, 1] && immOk o intTys false
  | .remImm h o => hd h [0, 1] && immOk o intTys false
  | .minIntImm h o => hd h [0, 1] && immOk o intTys false
  | .maxIntImm h o => hd h [0, 1] && immOk o intTys false
  | .leaImm h o => hd h [0, 1] && immOk o intTys false
  | .andL h o => hd h [0, 1] && nTys.contains o.ty && o.rnd == 0 && o.pol == 0 && o.c == 0 && o.flags == 0
  | .orL h o => hd h [0, 1] && nTys.contains o.ty && o.rnd == 0 && o.pol == 0 && o.c == 0 && o.flags == 0
  | .xorL h o => hd h [0, 1] && nTys.contains o.ty && o.rnd == 0 && o.pol == 0 && o.c == 0 && o.flags == 0
  | .notL h o => hd h [0, 1] && nTys.contains o.ty && o.rnd == 0 && o.pol == 0 && zBC o && o.flags == 0
  | .shl h o => hd h [0, 1] && nTys.contains o.ty && o.rnd == 0 && o.pol == 0 && o.c == 0 && o.flags == 0
  | .shr h o => hd h [0, 1] && intTys.contains o.ty && o.rnd == 0 && o.pol == 0 && o.c == 0 && o.flags == 0
  | .rotl h o => hd h [0, 1] && nTys.contains o.ty && o.rnd == 0 && o.pol == 0 && o.c == 0 && o.flags == 0
  | .popc h o => hd h [0, 1] && nTys.contains o.ty && o.rnd == 0 && o.pol == 0 && zBC o && o.flags == 0
  | .clz h o => hd h [0, 1] && nTys.contains o.ty && o.rnd == 0 && o.pol == 0 && zBC o && o.flags == 0
  | .ctz h o => hd h [0, 1] && nTys.contains o.ty && o.rnd == 0 && o.pol == 0 && zBC o && o.flags == 0
  | .brev h o => hd h [0, 1] && nTys.contains o.ty && o.rnd == 0 && o.pol == 0 && zBC o && o.flags == 0
  | .bfe h o => hd h [0, 1] && intTys.contains o.ty && o.rnd == 0 && o.pol == 0 && o.c == 0 && o.flags == 0
  | .bfi h o => hd h [0, 1] && nTys.contains o.ty && o.rnd == 0 && o.pol == 0 && o.flags == 0
  | .lop3 h o => hd h [0, 1] && nTys.contains o.ty && o.rnd == 0 && o.pol == 0 && decide (o.flags ≤ 255)
  | .sel h o => hd h [0, 1] && nTys.contains o.ty && o.rnd == 0 && o.pol == 0 && o.flags == 0
  | .andImm h o => hd h [0, 1] && immOk o nTys false
  | .orImm h o => hd h [0, 1] && immOk o nTys false
  | .xorImm h o => hd h [0, 1] && immOk o nTys false
  | .shlImm h o => hd h [0, 1] && immOk o nTys false
  | .shrImm h o => hd h [0, 1] && immOk o intTys false
  | .rotlImm h o => hd h [0, 1] && immOk o nTys false
  | .bfeImm h o => hd h [0, 1] && immOk o intTys false
  | .addFloat h o => hd h [0, 1] && fltTys.contains o.ty && decide (o.pol ≤ 2) && o.c == 0 && o.flags == 0
  | .subFloat h o => hd h [0, 1] && fltTys.contains o.ty && decide (o.pol ≤ 2) && o.c == 0 && o.flags == 0
  | .mulFloat h o => hd h [0, 1] && fltTys.contains o.ty && decide (o.pol ≤ 2) && o.c == 0 && o.flags == 0
  | .fma h o => hd h [0, 1] && fltTys.contains o.ty && decide (o.pol ≤ 2) && o.flags == 0
  | .minFloat h o => hd h [0, 1] && fltTys.contains o.ty && o.rnd == 0 && o.pol == 0 && o.c == 0 && o.flags == 0
  | .maxFloat h o => hd h [0, 1] && fltTys.contains o.ty && o.rnd == 0 && o.pol == 0 && o.c == 0 && o.flags == 0
  | .absFloat h o => hd h [0, 1] && fltTys.contains o.ty && o.rnd == 0 && o.pol == 0 && zBC o && o.flags == 0
  | .negFloat h o => hd h [0, 1] && fltTys.contains o.ty && o.rnd == 0 && o.pol == 0 && zBC o && o.flags == 0
  | .divFloat h o => hd h [0, 1] && fltTys.contains o.ty && decide (o.pol ≤ 2) && o.c == 0 && o.flags == 0
  | .sqrt h o => hd h [0, 1] && fltTys.contains o.ty && decide (o.pol ≤ 2) && zBC o && o.flags == 0
  | .addFloatImm h o => hd h [0, 1] && immOk o fltTys true
  | .subFloatImm h o => hd h [0, 1] && immOk o fltTys true
  | .mulFloatImm h o => hd h [0, 1] && immOk o fltTys true
  | .minFloatImm h o => hd h [0, 1] && immOk o fltTys false
  | .maxFloatImm h o => hd h [0, 1] && immOk o fltTys false
  | .divFloatImm h o => hd h [0, 1] && immOk o fltTys true
  | .ex2 h o => hd h [0, 1] && o.ty == 0x28 && o.rnd == 0 && o.pol == 0 && zBC o && o.flags == 0
  | .lg2 h o => hd h [0, 1] && o.ty == 0x28 && o.rnd == 0 && o.pol == 0 && zBC o && o.flags == 0
  | .rcp h o => hd h [0, 1] && o.ty == 0x28 && o.rnd == 0 && o.pol == 0 && zBC o && o.flags == 0
  | .rsqrt h o => hd h [0, 1] && o.ty == 0x28 && o.rnd == 0 && o.pol == 0 && zBC o && o.flags == 0
  | .sin h o => hd h [0, 1] && o.ty == 0x28 && o.rnd == 0 && o.pol == 0 && zBC o && o.flags == 0
  | .cos h o => hd h [0, 1] && o.ty == 0x28 && o.rnd == 0 && o.pol == 0 && zBC o && o.flags == 0
  | .tanh h o => hd h [0, 1] && o.ty == 0x28 && o.rnd == 0 && o.pol == 0 && zBC o && o.flags == 0
  | .exp h o => hd h [0, 1] && o.ty == 0x28 && o.rnd == 0 && o.pol == 0 && zBC o && o.flags == 0
  | .add2 h o => hd h [0, 1] && halfTys.contains o.ty && roundOk o && o.c == 0 && o.flags == 0
  | .sub2 h o => hd h [0, 1] && halfTys.contains o.ty && roundOk o && o.c == 0 && o.flags == 0
  | .mul2 h o => hd h [0, 1] && halfTys.contains o.ty && roundOk o && o.c == 0 && o.flags == 0
  | .fma2 h o => hd h [0, 1] && halfTys.contains o.ty && roundOk o && o.flags == 0
  | .min2 h o => hd h [0, 1] && halfTys.contains o.ty && o.rnd == 0 && o.pol == 0 && o.c == 0 && o.flags == 0
  | .max2 h o => hd h [0, 1] && halfTys.contains o.ty && o.rnd == 0 && o.pol == 0 && o.c == 0 && o.flags == 0
  | .setp h o => hd h [0, 1] && numTys.contains o.ty && o.rnd == 0 && o.pol == 0 && bits o.flags 9 6 == 0 && cmpOk o && (bits o.flags 5 4 != 0 || o.c == 0)
  | .selp h o => hd h [0, 1] && nTys.contains o.ty && o.rnd == 0 && o.pol == 0 && o.flags == 0
  | .pand h o => hd h [0, 1] && o.ty == 0 && o.rnd == 0 && o.pol == 0 && o.c == 0 && decide (o.flags ≤ 1)
  | .por h o => hd h [0, 1] && o.ty == 0 && o.rnd == 0 && o.pol == 0 && o.c == 0 && decide (o.flags ≤ 1)
  | .pxor h o => hd h [0, 1] && o.ty == 0 && o.rnd == 0 && o.pol == 0 && o.c == 0 && decide (o.flags ≤ 1)
  | .pnot h o => hd h [0, 1] && o.ty == 0 && o.rnd == 0 && o.pol == 0 && zBC o && o.flags == 0
  | .pmov h o => hd h [0, 1] && o.ty == 0x2F && o.rnd == 0 && o.pol == 0 && zBC o && o.flags == 0
  | .cvt h o => hd h [0, 1] && valTy o.ty && valTy (bits o.flags 5 0) && decide (o.pol ≤ 2) && zBC o
  | .pack h o => hd h [0, 1] && narrowTy o.ty && valTy (bits o.flags 5 0) && decide (o.pol ≤ 2) && o.c == 0 && bits o.flags 9 8 == 0
  | .unpack h o => hd h [0, 1] && narrowTy o.ty && valTy (bits o.flags 5 0) && decide (o.pol ≤ 2) && zBC o && bits o.flags 9 9 == 0
  | .qnt4 h o => hd h [0, 1] && o.ty == 0x26 && bits o.flags 5 0 == 0x28 && o.pol == 0 && o.c == 0 && bits o.flags 9 9 == 0
  | .dq4 h o => hd h [0, 1] && o.ty == 0x26 && bits o.flags 5 0 == 0x28 && o.pol == 0 && o.c == 0 && bits o.flags 9 9 == 0
  | .shfl h o => hd h [1, 2, 3] && n3264 o && o.rnd == 0 && o.pol == 0 && o.c == 0 && bits o.flags 9 5 == 0 && bits o.flags 2 0 == 0
  | .vote h o => hd h [1, 2, 3] && o.ty == 0 && o.rnd == 0 && o.pol == 0 && zBC o && partOk h o && bits o.flags 8 5 == 0 && bits o.flags 2 0 == 0 && (bits o.flags 4 3 != 3 || h.scope == 1)
  | .rdxOp h o => hd h [1, 2, 3] && foldOk o && zBC o && partOk h o && bits o.flags 8 3 == 0
  | .scan h o => hd h [1, 2, 3] && foldOk o && zBC o && partOk h o && bits o.flags 8 6 == 0 && bits o.flags 4 3 == 0
  | .bcast h o => hd h [1, 2, 3] && n3264 o && o.rnd == 0 && o.pol == 0 && o.c == 0 && o.flags == 0
  | .matchV h o => hd h [1, 2, 3] && n3264 o && o.rnd == 0 && o.pol == 0 && zBC o && o.flags == 0
  | .sadd h o => hd h [1] && intTys.contains o.ty && o.rnd == 0 && decide (o.pol ≤ 1) && o.c == 0 && o.flags == 0
  | .ssub h o => hd h [1] && intTys.contains o.ty && o.rnd == 0 && decide (o.pol ≤ 1) && o.c == 0 && o.flags == 0
  | .smul h o => hd h [1] && intTys.contains o.ty && o.rnd == 0 && decide (o.pol ≤ 1) && o.c == 0 && o.flags == 0
  | .smin h o => hd h [1] && intTys.contains o.ty && o.rnd == 0 && o.pol == 0 && o.c == 0 && o.flags == 0
  | .smax h o => hd h [1] && intTys.contains o.ty && o.rnd == 0 && o.pol == 0 && o.c == 0 && o.flags == 0
  | .sand h o => hd h [1] && nTys.contains o.ty && o.rnd == 0 && o.pol == 0 && o.c == 0 && o.flags == 0
  | .sor h o => hd h [1] && nTys.contains o.ty && o.rnd == 0 && o.pol == 0 && o.c == 0 && o.flags == 0
  | .sxor h o => hd h [1] && nTys.contains o.ty && o.rnd == 0 && o.pol == 0 && o.c == 0 && o.flags == 0
  | .sshl h o => hd h [1] && nTys.contains o.ty && o.rnd == 0 && o.pol == 0 && o.c == 0 && o.flags == 0
  | .sshr h o => hd h [1] && intTys.contains o.ty && o.rnd == 0 && o.pol == 0 && o.c == 0 && o.flags == 0
  | .smov h o => hd h [1] && intTys.contains o.ty && o.rnd == 0 && o.pol == 0 && o.a == 0 && o.c == 0 && o.flags == 0
  | .ssetp h o => hd h [1] && intTys.contains o.ty && o.rnd == 0 && o.pol == 0 && o.c == 0 && decide (o.flags ≤ 5)
  | .saddImm h o => hd h [1] && immOk o intTys false
  | .ssubImm h o => hd h [1] && immOk o intTys false
  | .smulImm h o => hd h [1] && immOk o intTys false
  | .sminImm h o => hd h [1] && immOk o intTys false
  | .smaxImm h o => hd h [1] && immOk o intTys false
  | .sandImm h o => hd h [1] && immOk o nTys false
  | .sorImm h o => hd h [1] && immOk o nTys false
  | .sxorImm h o => hd h [1] && immOk o nTys false
  | .sshlImm h o => hd h [1] && immOk o nTys false
  | .sshrImm h o => hd h [1] && immOk o intTys false
  | .smovImm h o => hd h [1] && immOk o intTys false && o.a == 0
  | .mov h o => hd h [0, 1] && n3264 o && o.rnd == 0 && o.pol == 0 && zBC o && o.flags == 0
  | .movi h o => hd h [0, 1] && o.a == 0 && (immOk o intTys false || immOk o [0x28, 0x2A] false || immOk o [0x20, 0x21] true)
  | .ld h o => hd h [0] && accOk o.ord o.msc [0, 1] && valTy o.ty && decide (o.vec ≤ 2) && o.b == 0 && decide (o.modm ≤ 1)
  | .st h o => hd h [0] && accOk o.ord o.msc [0, 2] && valTy o.ty && decide (o.vec ≤ 2) && o.d == 0 && o.modm == 0
  | .sld h o => hd h [1] && accOk o.ord o.msc [0, 1] && valTy o.ty && decide (o.vec ≤ 2) && o.b == 0 && o.modm == 0
  | .lds h o => hd h [0] && accOk o.ord o.msc [0, 1] && valTy o.ty && decide (o.vec ≤ 2) && o.b == 0 && decide (o.modm ≤ 1)
  | .sts h o => hd h [0] && accOk o.ord o.msc [0, 2] && valTy o.ty && decide (o.vec ≤ 2) && o.d == 0 && o.modm == 0
  | .ldc h o => hd h [0] && accOk o.ord o.msc [0, 1] && valTy o.ty && decide (o.vec ≤ 2) && o.b == 0 && decide (o.modm ≤ 1)
  | .stc h o => hd h [0] && accOk o.ord o.msc [0, 2] && valTy o.ty && decide (o.vec ≤ 2) && o.d == 0 && o.modm == 0
  | .ldpr h o => hd h [0] && accOk o.ord o.msc [0, 1] && valTy o.ty && decide (o.vec ≤ 2) && o.b == 0 && decide (o.modm ≤ 1)
  | .stpr h o => hd h [0] && accOk o.ord o.msc [0, 2] && valTy o.ty && decide (o.vec ≤ 2) && o.d == 0 && o.modm == 0
  | .ldg h o => hd h [0] && accOk o.ord o.msc [0, 1] && valTy o.ty && decide (o.vec ≤ 2) && o.b == 0 && decide (o.modm ≤ 1)
  | .stg h o => hd h [0] && accOk o.ord o.msc [0, 2] && valTy o.ty && decide (o.vec ≤ 2) && o.d == 0 && o.modm == 0
  | .atomAdd h o => hd h [0, 1, 2, 3] && accOk o.ord o.msc [0, 1, 2, 3] && o.vec == 0 && o.modm == 0 && arithTys.contains o.ty
  | .atomMin h o => hd h [0, 1, 2, 3] && accOk o.ord o.msc [0, 1, 2, 3] && o.vec == 0 && o.modm == 0 && arithTys.contains o.ty
  | .atomMax h o => hd h [0, 1, 2, 3] && accOk o.ord o.msc [0, 1, 2, 3] && o.vec == 0 && o.modm == 0 && arithTys.contains o.ty
  | .atomAnd h o => hd h [0, 1, 2, 3] && accOk o.ord o.msc [0, 1, 2, 3] && o.vec == 0 && o.modm == 0 && nTys.contains o.ty
  | .atomOr h o => hd h [0, 1, 2, 3] && accOk o.ord o.msc [0, 1, 2, 3] && o.vec == 0 && o.modm == 0 && nTys.contains o.ty
  | .atomXor h o => hd h [0, 1, 2, 3] && accOk o.ord o.msc [0, 1, 2, 3] && o.vec == 0 && o.modm == 0 && nTys.contains o.ty
  | .atomExch h o => hd h [0, 1, 2, 3] && accOk o.ord o.msc [0, 1, 2, 3] && o.vec == 0 && o.modm == 0 && nTys.contains o.ty
  | .atomCas h o => hd h [0, 1, 2, 3] && accOk o.ord o.msc [0, 1, 2, 3] && o.vec == 0 && o.modm == 0 && nTys.contains o.ty
  | .redAdd h o => hd h [0, 1, 2, 3] && redOk h o && arithTys.contains o.ty
  | .redMin h o => hd h [0, 1, 2, 3] && redOk h o && arithTys.contains o.ty
  | .redMax h o => hd h [0, 1, 2, 3] && redOk h o && arithTys.contains o.ty
  | .redAnd h o => hd h [0, 1, 2, 3] && redOk h o && nTys.contains o.ty
  | .redOr h o => hd h [0, 1, 2, 3] && redOk h o && nTys.contains o.ty
  | .redXor h o => hd h [0, 1, 2, 3] && redOk h o && nTys.contains o.ty
  | .tld h o => hd h [0] && decide (1 ≤ o.nc) && decide (o.nc ≤ 7) && (valTy o.ty || o.ty == 0x26 || o.ty == 0x27) && decide (o.vec ≤ 2) && accOk o.ord o.msc [0, 1] && decide (o.modt ≤ 1)
  | .tst h o => hd h [0] && decide (1 ≤ o.nc) && decide (o.nc ≤ 7) && (valTy o.ty || o.ty == 0x26 || o.ty == 0x27) && decide (o.vec ≤ 2) && accOk o.ord o.msc [0, 2] && o.modt == 0
  | .hld h o => hd h [1] && o.data == 0 && o.nc == 1 && o.ty == 0 && o.vec == 0 && o.ord == 0 && o.msc == 0 && o.modt == 0
  | .hclr h o => hd h [1] && o.data == 0 && o.coord == 0 && o.nc == 1 && o.ty == 0 && o.vec == 0 && o.ord == 0 && o.msc == 0 && o.modt == 0
  | .spt h o => hd h [0] && plainG o && zBC o && o.flags == 0
  | .cvta h o => hd h [0] && plainG o && zBC o && decide (o.flags ≤ 3)
  | .cvts h o => hd h [0] && plainG o && zBC o && decide (o.flags ≤ 3)
  | .pf h o => hd h [0] && o.d == 0 && o.b == 0 && o.ty == 0 && o.vec == 0 && o.ord == 0 && o.msc == 0 && decide (o.modm ≤ 1)
  | .flush h o => hd h [0] && o.d == 0 && o.b == 0 && o.ty == 0 && o.vec == 0 && o.ord == 0 && o.msc == 0 && o.modm == 0
  | .disc h o => hd h [0] && o.d == 0 && o.b == 0 && o.ty == 0 && o.vec == 0 && o.ord == 0 && o.msc == 0 && o.modm == 0
  | .syncwait h o => hd h [0, 1] && accOk o.ord o.msc [1] && o.ty == 0 && o.vec == 0 && o.modm == 0
  | .syncadd h o => hd h [0, 1] && accOk o.ord o.msc [0, 2] && o.d == 0 && o.ty == 0 && o.vec == 0 && o.modm == 0
  | .copy h o => hd h [1, 2, 3] && zP o && decide (o.msc ≤ 5) && bits o.mode 1 0 == 0 && (bit o.mode 3 == false || bits o.mode 18 4 == 0) && bits o.mode 2 2 == 0
  | .tcopy h o => hd h [1, 2, 3] && zP o && decide (o.msc ≤ 5) && bits o.mode 1 0 == 0 && (bit o.mode 3 == false || bits o.mode 18 4 == 0) && bits o.mode 2 2 == 0
  | .fktab h o => hd h [1, 2, 3] && zP o && decide (o.msc ≤ 5) && bits o.mode 1 0 == 0 && (bit o.mode 3 == false || bits o.mode 18 4 == 0) && o.b == 0 && o.c == 0
  | .fkdec h o => hd h [1, 2, 3] && zP o && decide (o.msc ≤ 5) && bits o.mode 1 0 == 0 && (bit o.mode 3 == false || bits o.mode 18 4 == 0)
  | .mapset h o => hd h [1] && zP o && o.msc == 0 && o.c == 0 && o.mode == 0
  | .wload h o => hd h [1, 2, 3] && decide (o.msc ≤ 5) && o.b == 0 && o.c == 0 && bits o.mode 4 3 == 0
  | .mmul h o => hd h [1, 2, 3] && decide (o.msc ≤ 5) && o.c == 0 && bits o.mode 1 0 == 0
  | .aclr h o => hd h [1, 2, 3] && decide (o.msc ≤ 5) && o.b == 0 && o.c == 0 && bits o.mode 4 0 == 0
  | .aread h o => hd h [1, 2, 3] && decide (o.msc ≤ 5) && bits o.mode 1 0 != 3
  | .ofence h o => hd h [1, 2, 3] && zP o && o.msc == 0 && o.a == 0 && o.b == 0 && o.c == 0 && o.mode == 0
  | .rsend h o => hd h [1, 2, 3] && decide (o.msc ≤ 5) && o.b == 0 && o.c == 0 && bits o.mode 2 0 == 0
  | .rrecv h o => hd h [1, 2, 3] && decide (o.msc ≤ 5) && o.b == 0 && o.c == 0 && bits o.mode 1 0 == 0
  | .smv h o => hd h [1, 2, 3] && decide (o.msc ≤ 5) && zP o && bits o.mode 1 0 == 0
  | .qrot h o => hd h [1, 2, 3] && decide (o.msc ≤ 5) && zP o && o.b == 0 && o.c == 0 && bits o.mode 4 4 == 0 && bits o.mode 1 0 == 0
  | .bput h o => hd h [1, 2, 3] && decide (o.msc ≤ 5) && o.b == 0 && o.c == 0 && bits o.mode 4 0 == 0
  | .bfork h o => hd h [1, 2, 3] && decide (o.msc ≤ 5) && o.b == 0 && o.c == 0 && bits o.mode 4 0 == 0
  | .bdrop h o => hd h [1, 2, 3] && decide (o.msc ≤ 5) && o.b == 0 && o.c == 0 && bits o.mode 4 0 == 0
  | .attn h o => hd h [1, 2, 3] && decide (o.msc ≤ 5) && o.c == 0 && bits o.mode 4 4 == 0 && bits o.mode 1 0 == 0
  | .bringUp => true
  | .securityVersionRaise => true
  | .measurementExtend => true
  | .quoteRequest => true
  | .certificateRequest => true
  | .vfLoopStep => true
  | .droopEvent => true
  | .droopRecovery => true
  | .thermalStateChange => true
  | .thermalTrip => true
  | .powerLimitExceeded => true
  | .vflimWrite => true
  | .pwrcapWrite => true
  | .combwinWrite => true
  | .schedCfgWrite => true
  | .simtCfgWrite => true
  | .matrixCfgWrite => true
  | .adminptrTailWrite => true
  | .doorbellWrite => true
  | .errlogOvfClear => true
  | .errentValidClear => true
  | .frameRingTailWrite => true
  | .frameRing3HeadWrite => true
  | .evictReclaim => true
  | .evictDirectedBacking => true
  | .evictDirectedDiscard => true
  | .bushelEnable => true
  | .bushelDisable => true
  | .reg128LowWrite => true
  | .reg128LowRead => true
  | .registerWrite => true
  | .flitReceived => true
  | .replayRequest => true
  | .linkRetrainDone => true
  | .equalisationStep => true
  | .snpdata => true
  | .snpinv => true
  | .snpcur => true
  | .hostSectorFetch => true
  | .itomwrCompletion => true
  | .barMemoryRead => true
  | .barMemoryWrite => true
  | .gets => true
  | .getx => true
  | .granuleRecall => true
  | .granuleGrant => true
  | .putx => true
  | .rds => true
  | .rdx => true
  | .upg => true
  | .rdu => true
  | .wru => true
  | .atom => true
  | .fwd => true
  | .inv => true
  | .graft => true
  | .pruneack => true
  | .wback => true
  | .pathRelease => true
  | .invack => true
  | .prune => true
  | .wbd => true
  | .data => true
  | .grant => true
  | .err => true
  | .wrack => true
  | .atomack => true
  | .redack => true
  | .syncCountUpdate => true
  | .red => true
  | .redp => true
  | .combineWindowExpiry => true
  | .ordContributionResend => true
  | .attributeQuery => true
  | .placementLookup => true
  | .translationWalk => true
  | .frameZeroingComplete => true
  | .treeCacheEccFatal => true
  | .wcsEviction => true
  | .ctxCreate => true
  | .ctxDestroy => true
  | .ctxSuspend => true
  | .ctxSuspendComplete => true
  | .ctxResume => true
  | .objDeclare => true
  | .objClear => true
  | .biasFlip => true
  | .biasFlipComplete => true
  | .queueResume => true
  | .xlateInval => true
  | .adminUnknownOpcode => true
  | .adminCommandReadError => true
  | .userNop => true
  | .graphLaunch => true
  | .userUnknownOp => true
  | .userCommandReadError => true
  | .nodeNop => true
  | .nodeKernel => true
  | .nodeCopy => true
  | .nodeSignal => true
  | .nodeWait => true
  | .waitReread => true
  | .waitTimeout => true
  | .nodeCond => true
  | .nodeWhile => true
  | .nodeComplete => true
  | .faultVectorRaise => true
  | .teamPlacement => true
  | .preemptionTrigger => true
  | .haltComplete => true
  | .contextSave => true
  | .accumulatorSave => true
  | .contextResumeAuto => true
  | .teamExit => true
  | .ejectionHandoverComplete => true
  | .threadRecall => true
  | .rejoinTimeout => true
  | .ejectionWindowEnd => true
  | .copyCommandAccept => true
  | .copyCountStep => true
  | .firkinTableLoadComplete => true
  | .firkinDecodeComplete => true
  | .syncUpdate => true
  | .syncTimerTick => true
  | .rodPairing => true
  | .rodTimeout => true
  | .asyncOperationComplete => true
  | .partReset => true
  | .portWriteAcknowledgement => true

/-! ### Field widths -/

/-- Every header field fits its bits (Table enc-1). -/
def fitsHdr (h : Hdr) : Bool :=
  decide (h.scope < 4) && decide (h.guard < 8) && decide (h.waitm < 64) && decide (h.sig < 8) && decide (h.stall < 8)

/-- Every operand field fits its bits (Table enc-4). -/
def fitsOps : Opnds → Bool
  | .g o => decide (o.d < 1024) && decide (o.a < 1024) && decide (o.b < 1024) && decide (o.c < 1024)
      && decide (o.ty < 64) && decide (o.rnd < 4) && decide (o.pol < 4) && decide (o.flags < 1024)
  | .i o => decide (o.d < 1024) && decide (o.a < 1024) && decide (o.imm < 2 ^ 32) && decide (o.mod8 < 256)
  | .m o => decide (o.d < 1024) && decide (o.a < 1024) && decide (o.b < 1024) && decide (o.msc < 8)
      && decide (o.ord < 4) && decide (o.ty < 64) && decide (o.off < 2 ^ 14) && decide (o.vec < 4) && decide (o.modm < 8)
  | .t o => decide (o.data < 1024) && decide (o.coord < 1024) && decide (o.nc < 8) && decide (o.hs < 16)
      && decide (o.msc < 8) && decide (o.ord < 4) && decide (o.ty < 64) && decide (o.vec < 4) && decide (o.modt < 2 ^ 20)
  | .e o => decide (o.a < 1024) && decide (o.b < 1024) && decide (o.c < 1024) && decide (o.pdx < 16)
      && decide (o.pdy < 16) && decide (o.msc < 8) && decide (o.mode < 2 ^ 19)

end Sys2Proof.Machine
end

