-- ==== Sys2Proof/WellFormed.lean ====
section
/-! DEFINITION. Well-formed instructions: every field fits its bits, and every code is one the instruction accepts (R290, step 1). -/

namespace Sys2Proof

/-- An instruction that some word encodes, or an event (events have no word). -/
def wellFormed (i : Instr) : Bool :=
  match Machine.parts i with
  | some (_, h, o) => Machine.fitsHdr h && Machine.fitsOps o && Machine.legal i
  | none => true

end Sys2Proof
end

