-- ==== Sys2Proof/Decode.lean ====
section
/-! DEFINITION. Decoding a 96-bit word (R268, R290 step 1) and the encoder written from the same tables. -/

namespace Sys2Proof

/-- What the decoder answers. A rejection raises illegal_instruction with INFO = OPC (R290). -/
inductive Decoded where
  /-- An instruction whose codes are all accepted. -/
  | ok (i : Instr)
  /-- The opcode has no row in Table enc-7. -/
  | unassigned (opc : Nat)
  /-- The opcode is assigned, and a header or operand field holds a code the instruction does not accept. -/
  | badCode (opc : Nat)
  /-- Fewer than 12 bytes are given. -/
  | truncated
  deriving DecidableEq, Repr

/-- Decode a word; total, rejecting by name (R290, step 1). -/
def decodeWord (w : Nat) : Decoded :=
  match Machine.byOpcode w with
  | none => .unassigned (Machine.bits w 95 80)
  | some i => if Machine.legal i then .ok i else .badCode (Machine.bits w 95 80)

/-- Decode the 12 little-endian bytes of a word (R268). -/
def decodeBytes (l : List Byte) : Decoded :=
  if l.length < 12 then .truncated else decodeWord (Machine.leVal (l.take 12))

/-- The instruction of an answer, if it is one. -/
def Decoded.instr : Decoded → Option Instr
  | .ok i => some i
  | _ => none

/-! ### The encoder -/

/-- Bits [79:60] of Table enc-1 from their fields. -/
def encodeHdr (h : Hdr) : Nat :=
  h.scope * 2 ^ 18 + Machine.b2n h.gneg * 2 ^ 17 + h.guard * 2 ^ 14 + h.waitm * 2 ^ 8 + h.sig * 2 ^ 5
    + h.stall * 2 ^ 2 + Machine.b2n h.nosb * 2 + Machine.b2n h.yield

/-- Bits [59:0] of Table enc-4 from their fields. -/
def encodeOps : Opnds → Nat
  | .g o => o.d * 2 ^ 50 + o.a * 2 ^ 40 + o.b * 2 ^ 30 + o.c * 2 ^ 20 + o.ty * 2 ^ 14 + o.rnd * 2 ^ 12
      + o.pol * 2 ^ 10 + o.flags
  | .i o => o.d * 2 ^ 50 + o.a * 2 ^ 40 + o.imm * 2 ^ 8 + o.mod8
  | .m o => o.d * 2 ^ 50 + o.a * 2 ^ 40 + o.b * 2 ^ 30 + o.msc * 2 ^ 27 + o.ord * 2 ^ 25 + o.ty * 2 ^ 19
      + o.off * 2 ^ 5 + o.vec * 2 ^ 3 + o.modm
  | .t o => o.data * 2 ^ 50 + o.coord * 2 ^ 40 + o.nc * 2 ^ 37 + o.hs * 2 ^ 33 + o.msc * 2 ^ 30
      + o.ord * 2 ^ 28 + o.ty * 2 ^ 22 + o.vec * 2 ^ 20 + o.modt
  | .e o => o.a * 2 ^ 50 + o.b * 2 ^ 40 + o.c * 2 ^ 30 + o.pdx * 2 ^ 26 + o.pdy * 2 ^ 22 + o.msc * 2 ^ 19 + o.mode

/-- The 96-bit word of an instruction; an event has none. -/
def encode (i : Instr) : Option Nat :=
  match Machine.parts i with
  | some (op, h, o) => some (op * 2 ^ 80 + encodeHdr h * 2 ^ 60 + encodeOps o)
  | none => none

/-- The 12 bytes of an instruction in memory (R268). -/
def encodeBytes (i : Instr) : Option (List Byte) := (encode i).map (Machine.leBytes 12)

/-- The host's question: the instruction of a word whose bits from `nbits` up are zero. -/
def decodeTableWord (nbits w : Nat) : Option Instr :=
  (decodeBytes (Machine.leBytes 12 (w % 2 ^ nbits))).instr

end Sys2Proof
end

