-- ==== Sys2Proof/Config.lean ====
section
/-! DEFINITION. What an implementation fixes and the values the manual leaves open. Every free value is an opaque constant without a body: nothing can be proved about the value it gives. -/

namespace Sys2Proof.Config

/-- A value the manual calls undefined (R6): a 64-bit pattern per use, numbered by the state's counter and an index within the use. -/
opaque freeWord : Nat → Nat → Nat

/-- Which of several permitted continuations the part takes, by the same numbering. -/
opaque freeChoice : Nat → Nat → Nat

/-- Clock cycles that pass in one step beyond the first, which the manual does not fix; numbered by the step and the clock. -/
opaque freeCycles : Nat → Nat

/-- What a byte of an allotment reads as before anything has written it in this life of the allotment (R143, R225): keyed by the allotment's number and the offset. -/
opaque freeByte : Nat → Nat → Byte

/-- The FP32 code that a function of Table comp-5 gives within its accuracy bound: a fixed function of the MINOR code and the operand (R353); and, for numbers from 17 on, what a selector finds beside element 0 of a short immediate (R344). -/
opaque freeApprox : Nat → Nat → Nat

/-- The ML-DSA-44 public key that a 32-byte seed gives (R28). -/
opaque mlDsaPublic : List Byte → List Byte

/-- The ML-DSA-44 signature of a message under the key that a seed gives (R28, R29). -/
opaque mlDsaSign : List Byte → List Byte → List Byte

/-- Whether an ML-DSA-44 signature verifies, by public key, message and signature (R27). -/
opaque mlDsaVerify : List Byte → List Byte → List Byte → Bool

end Sys2Proof.Config
end

