-- ==== Sys2Proof/Machine/Formats.lean ====
section
/-! DEFINITION. Number formats, exact values, rounding and conversion (R299-R308). Values are computed exactly and narrowed once. -/

namespace Sys2Proof.Machine

/-! ### Type codes (Table enc-5) -/

/-- Signedness and width of an integer type code. -/
def intTy (ty : Nat) : Option (Bool × Nat) :=
  match ty with
  | 0x24 => some (true, 8)
  | 0x25 => some (false, 8)
  | 0x26 => some (true, 4)
  | 0x27 => some (false, 4)
  | 0x2C => some (true, 16)
  | 0x2D => some (false, 16)
  | 0x2E => some (true, 32)
  | 0x2F => some (false, 32)
  | 0x30 => some (true, 64)
  | 0x31 => some (false, 64)
  | _ => none

/-- Width of a type in bits (the pair is 64). -/
def tyBits (ty : Nat) : Nat :=
  match intTy ty with
  | some (_, n) => n
  | none =>
    match ty with
    | 0x20 => 16
    | 0x21 => 16
    | 0x28 => 32
    | 0x29 => 64
    | 0x2A => 64
    | _ => 8

/-- Element size in bytes; `i4` and `n4` count as 1 (R286). -/
def tySize (ty : Nat) : Nat := if tyBits ty ≤ 8 then 1 else tyBits ty / 8

/-- Signed integer type. -/
def tySigned (ty : Nat) : Bool :=
  match intTy ty with
  | some (b, _) => b
  | none => false

/-- Least value of an integer type (R299). -/
def intMin (sg : Bool) (n : Nat) : Int := if sg then -((2 ^ (n - 1) : Nat) : Int) else 0

/-- Greatest value of an integer type (R299). -/
def intMax (sg : Bool) (n : Nat) : Int := if sg then ((2 ^ (n - 1) - 1 : Nat) : Int) else ((2 ^ n - 1 : Nat) : Int)

/-- The value that the low bits of a pattern have in an integer type (R299). -/
def intVal (sg : Bool) (n x : Nat) : Int := if sg then sext n x else ((x % 2 ^ n : Nat) : Int)

/-! ### Exact values -/

/-- A real number, an infinity or NaN. `fin neg m e st` is ±(m + ε)·2^e, where 0 < ε < 1 when `st` holds and ε = 0 otherwise; the sign of a zero is kept. -/
inductive Exact where
  | nan
  | inf (neg : Bool)
  | fin (neg : Bool) (m : Nat) (e : Int) (st : Bool)
  deriving DecidableEq, Repr

/-- Exact zero with a sign. -/
def Exact.zero (neg : Bool) : Exact := .fin neg 0 0 false

/-- An integer as an exact value; zero is +0. -/
def Exact.ofInt (k : Int) : Exact := .fin (decide (k < 0)) k.natAbs 0 false

/-- Whether a value is zero. -/
def Exact.isZero : Exact → Bool
  | .fin _ m _ st => m == 0 && !st
  | _ => false

/-- Whether a value is NaN. -/
def Exact.isNan : Exact → Bool
  | .nan => true
  | _ => false

/-- Whether a value is an infinity. -/
def Exact.isInf : Exact → Bool
  | .inf _ => true
  | _ => false

/-- The sign of a value (NaN counts as positive). -/
def Exact.isNeg : Exact → Bool
  | .nan => false
  | .inf n => n
  | .fin n _ _ _ => n

/-- Sign change. -/
def Exact.neg : Exact → Exact
  | .nan => .nan
  | .inf n => .inf (!n)
  | .fin n m e st => .fin (!n) m e st

/-- Magnitude. -/
def Exact.abs : Exact → Exact
  | .nan => .nan
  | .inf _ => .inf false
  | .fin _ m e st => .fin false m e st

/-- Multiplication by 2^k. -/
def Exact.scale (k : Int) : Exact → Exact
  | .fin n m e st => .fin n m (e + k) st
  | x => x

/-- A signed multiple of 2^e, with the sign to use when it is zero. -/
def Exact.ofIntExp (zeroNeg : Bool) (k : Int) (e : Int) : Exact :=
  if k = 0 then .zero zeroNeg else .fin (decide (k < 0)) k.natAbs e false

/-- Signed integer of a finite magnitude. -/
def sgn (neg : Bool) (m : Nat) : Int := if neg then -(m : Int) else (m : Int)

/-- `m·2^(e - e0)` for `e0 ≤ e`. -/
def alignTo (m : Nat) (e e0 : Int) : Nat := m * 2 ^ (e - e0).toNat

/-- Exact sum with the IEEE sign of an exact zero: the common sign, or − in mode `down` (R306, R351). -/
def Exact.add (down : Bool) : Exact → Exact → Exact
  | .nan, _ => .nan
  | _, .nan => .nan
  | .inf a, .inf b => if a == b then .inf a else .nan
  | .inf a, .fin .. => .inf a
  | .fin .., .inf b => .inf b
  | .fin n1 m1 e1 s1, .fin n2 m2 e2 s2 =>
    if m1 == 0 && m2 == 0 then .zero (if n1 == n2 then n1 else down)
    else
      let e := if e1 ≤ e2 then e1 else e2
      let e := if m1 == 0 then e2 else if m2 == 0 then e1 else e
      let k := sgn n1 (if m1 == 0 then 0 else alignTo m1 e1 e) + sgn n2 (if m2 == 0 then 0 else alignTo m2 e2 e)
      if k = 0 then .zero down
      else .fin (decide (k < 0)) k.natAbs e (s1 || s2)

/-- Exact product; 0 × ∞ is NaN (R351). -/
def Exact.mul : Exact → Exact → Exact
  | .nan, _ => .nan
  | _, .nan => .nan
  | .inf a, .inf b => .inf (a != b)
  | .inf a, .fin n m _ _ => if m == 0 then .nan else .inf (a != n)
  | .fin n m _ _, .inf b => if m == 0 then .nan else .inf (n != b)
  | .fin n1 m1 e1 s1, .fin n2 m2 e2 s2 => .fin (n1 != n2) (m1 * m2) (e1 + e2) (s1 || s2)

/-- Quotient to at least 200 significant bits, with a sticky tail (R351). -/
def Exact.div : Exact → Exact → Exact
  | .nan, _ => .nan
  | _, .nan => .nan
  | .inf _, .inf _ => .nan
  | .inf a, .fin n _ _ _ => .inf (a != n)
  | .fin n _ _ _, .inf b => .zero (n != b)
  | .fin n1 m1 e1 _, .fin n2 m2 e2 _ =>
    if m2 == 0 then (if m1 == 0 then .nan else .inf (n1 != n2))
    else if m1 == 0 then .zero (n1 != n2)
    else
      let k := 200 + m2.log2
      let q := m1 * 2 ^ k
      .fin (n1 != n2) (q / m2) (e1 - e2 - (k : Int)) (q % m2 != 0)

/-- Square root to at least 100 significant bits, with a sticky tail; NaN below −0, √(−0) = −0 (R351). -/
def Exact.sqrt : Exact → Exact
  | .nan => .nan
  | .inf n => if n then .nan else .inf false
  | .fin n m e _ =>
    if m == 0 then .zero n
    else if n then .nan
    else
      let k : Nat := 200 + (if e % 2 == 0 then 0 else 1)
      let x := m * 2 ^ k
      let r := isqrt (x.log2 / 2 + 1) x
      .fin false r ((e - (k : Int)) / 2) (r * r != x)

/-- Comparison of finite values or infinities: `a < b`. NaN gives false. −0 equals +0. -/
def Exact.lt : Exact → Exact → Bool
  | .nan, _ => false
  | _, .nan => false
  | .inf a, .inf b => a && !b
  | .inf a, .fin .. => a
  | .fin .., .inf b => !b
  | .fin n1 m1 e1 _, .fin n2 m2 e2 _ =>
    let e := if e1 ≤ e2 then e1 else e2
    decide (sgn n1 (alignTo m1 e1 e) < sgn n2 (alignTo m2 e2 e))

/-- Equality of values; NaN equals nothing and −0 equals +0 (R355). -/
def Exact.eqv (a b : Exact) : Bool := !a.isNan && !b.isNan && !a.lt b && !b.lt a

/-! ### Rounding -/

/-- Whether a discarded tail rounds the kept magnitude `q` away from zero. `tail` compares the tail with one half: 0 zero, 1 below, 2 equal, 3 above. Modes of R279: 0 nearest, 1 zero, 2 up, 3 down. -/
def roundAway (mode : Nat) (neg : Bool) (q tail : Nat) : Bool :=
  match mode with
  | 0 => tail == 3 || (tail == 2 && q % 2 == 1)
  | 1 => false
  | 2 => !neg && tail != 0
  | _ => neg && tail != 0

/-- The tail of a division by 2^k. -/
def tailOf (r k : Nat) (st : Bool) : Nat :=
  if r == 0 && !st then 0
  else if k == 0 then 1
  else if r < 2 ^ (k - 1) then 1
  else if r == 2 ^ (k - 1) && !st then 2
  else 3

/-- Magnitude in units of 2^q after rounding `(m + ε)·2^e` (R306). -/
def roundUnits (mode : Nat) (neg : Bool) (m : Nat) (e : Int) (st : Bool) (q : Int) : Nat :=
  if q ≤ e then
    let u := m * 2 ^ (e - q).toNat
    if roundAway mode neg u (tailOf 0 0 st) then u + 1 else u
  else
    let k := (q - e).toNat
    let u := m / 2 ^ k
    if roundAway mode neg u (tailOf (m % 2 ^ k) k st) then u + 1 else u

/-- `rnd_int` of R307; NaN and infinities give 0. -/
def rndInt (mode : Nat) : Exact → Int
  | .fin n m e st => sgn n (roundUnits mode n m e st 0)
  | _ => 0

/-! ### Floating-point formats -/

/-- A floating-point format: precision, exponent of the least subnormal bit, sign bit position, and its special codes (R300-R303). -/
structure Fmt where
  prec : Nat
  q0 : Int
  signBit : Option Nat
  negZero : Bool
  nanCode : Nat
  infCode : Option Nat
  maxCode : Nat
  deriving DecidableEq, Repr

/-- An IEEE format by precision and exponent width (Table arith-4). -/
def ieee (p w nan : Nat) : Fmt :=
  ⟨p, 1 - ((2 ^ (w - 1) - 1 : Nat) : Int) - ((p - 1 : Nat) : Int), some (p - 1 + w), true, nan,
    some ((2 ^ w - 1) * 2 ^ (p - 1)), (2 ^ w - 1) * 2 ^ (p - 1) - 1⟩

/-- The format of a binary8 code of Table enc-5 (R300, R301). -/
def binary8 (ty : Nat) : Fmt :=
  let p := ty % 8 + 1
  let unsigned := bit ty 4
  let infs := bit ty 3
  let b : Int := if unsigned then ((2 ^ (8 - p) : Nat) : Int) else ((2 ^ (7 - p) : Nat) : Int)
  let q0 := 1 - b - ((p - 1 : Nat) : Int)
  if unsigned then
    ⟨p, q0, none, false, 0xFF, if infs then some 0xFE else none, if infs then 0xFD else 0xFE⟩
  else
    ⟨p, q0, some 7, false, 0x80, if infs then some 0x7F else none, if infs then 0x7E else 0x7F⟩

/-- The format of a floating-point type code. -/
def fmtOf (ty : Nat) : Fmt :=
  match ty with
  | 0x20 => ieee 11 5 0x7E00
  | 0x21 => ieee 8 8 0x7FC0
  | 0x28 => ieee 24 8 0x7FC00000
  | 0x2A => ieee 53 11 0x7FF8000000000000
  | _ => binary8 ty

/-- The magnitude of a code without its sign bit, as units of a power of two (R300). -/
def Fmt.magOf (f : Fmt) (neg : Bool) (c : Nat) : Exact :=
  let t := f.prec - 1
  if c < 2 ^ t then .fin neg c f.q0 false
  else .fin neg (2 ^ t + c % 2 ^ t) (f.q0 + ((c / 2 ^ t - 1 : Nat) : Int)) false

/-- The value of a code (R300, R301, R303). Every NaN pattern of an IEEE format is NaN (R304). -/
def Fmt.value (f : Fmt) (code : Nat) : Exact :=
  match f.signBit with
  | none =>
    let c := code % 256
    if c == f.nanCode then .nan
    else if f.infCode == some c then .inf false
    else f.magOf false c
  | some sb =>
    let c := code % 2 ^ sb
    let neg := bit code sb
    if f.negZero then
      -- IEEE
      match f.infCode with
      | some ic => if c == ic then .inf neg else if c > ic then .nan else f.magOf neg c
      | none => f.magOf neg c
    else if code % 256 == f.nanCode then .nan
    else if f.infCode == some c then .inf neg
    else f.magOf neg c

/-- The value of a pattern in a type (integer or floating point). -/
def valueOf (ty code : Nat) : Exact :=
  match intTy ty with
  | some (sg, n) => .ofInt (intVal sg n code)
  | none => (fmtOf ty).value code

/-- A code with a sign. A zero carries a sign only in a format that has −0 (R301). -/
def Fmt.signed (f : Fmt) (neg : Bool) (c : Nat) : Nat :=
  match f.signBit with
  | none => c
  | some sb => if neg && (c != 0 || f.negZero) then c + 2 ^ sb else c

/-- The code of the rounded magnitude with an unbounded exponent range above (R306); a value above `maxCode` overflows. -/
def Fmt.roundCode (f : Fmt) (mode : Nat) (neg : Bool) (m : Nat) (e : Int) (st : Bool) : Nat :=
  if m == 0 && !st then 0
  else
    let q := e + (m.log2 : Int) + 1 - (f.prec : Int)
    let q := if m == 0 || q < f.q0 then f.q0 else q
    let u := roundUnits mode neg m e st q
    let t := f.prec - 1
    if u < 2 ^ t then u else (q - f.q0 + 1).toNat * 2 ^ t + u - 2 ^ t

/-- `convert(x, exact, to, mode, pol)` of R307, to a floating-point format. Policies of R279: 0 wrap, 1 sat, 2 nanzero. -/
def Fmt.convert (f : Fmt) (mode pol : Nat) (x : Exact) : Nat :=
  match x with
  | .nan => if pol == 2 then 0 else f.nanCode
  | .inf neg =>
    if f.signBit.isNone && neg then (if pol != 0 then 0 else f.nanCode)
    else
      match f.infCode with
      | some ic => f.signed neg ic
      | none => if pol == 0 then f.nanCode else f.signed neg f.maxCode
  | .fin neg m e st =>
    if f.signBit.isNone && neg then
      (if (m == 0 && !st) || pol != 0 then 0 else f.nanCode)
    else
      let c := f.roundCode mode neg m e st
      if c ≤ f.maxCode then f.signed neg c
      else if pol != 0 then f.signed neg f.maxCode
      else if mode == 0 || (mode == 2 && !neg) || (mode == 3 && neg) then
        match f.infCode with
        | some ic => f.signed neg ic
        | none => f.nanCode
      else f.signed neg f.maxCode

/-- `convert(x, exact, to, mode, pol)` of R307, to any type. -/
def convertTo (ty mode pol : Nat) (x : Exact) : Nat :=
  match intTy ty with
  | some (sg, n) =>
    match x with
    | .nan => 0
    | .inf neg => if pol == 0 then 0 else wrapN n (if neg then intMin sg n else intMax sg n)
    | .fin .. =>
      let k := rndInt mode x
      if pol == 0 then wrapN n k else wrapN n (satI k (intMin sg n) (intMax sg n))
  | none => (fmtOf ty).convert mode pol x

/-- `convert(x, from, to, mode, pol)` of R307. -/
def convert (src dst mode pol code : Nat) : Nat := convertTo dst mode pol (valueOf src code)

/-- `round_to(x, fmt, mode)` (R306). -/
def roundTo (ty mode : Nat) (x : Exact) : Nat := convertTo ty mode 0 x

/-- The canonical NaN of a floating-point type (R304). -/
def nanOf (ty : Nat) : Nat := (fmtOf ty).nanCode

/-- A conversion flushes when its value is finite and nonzero and its result is zero (R307). -/
def flushes (ty : Nat) (x : Exact) (code : Nat) : Bool :=
  match x with
  | .fin .. => !x.isZero && (valueOf ty code).isZero
  | _ => false

/-! ### Scalar floating-point operations (R351, R352) -/

/-- The exact operation before its single rounding. -/
inductive FOp where
  | add | sub | mul | fma | div | sqrt
  deriving DecidableEq, Repr

/-- The exact IEEE result of an operation on exact values (R351). -/
def FOp.exact (op : FOp) (mode : Nat) (a b c : Exact) : Exact :=
  let dn := mode == 3
  match op with
  | .add => a.add dn b
  | .sub => a.add dn b.neg
  | .mul => a.mul b
  | .fma => (a.mul b).add dn c
  | .div => a.div b
  | .sqrt => a.sqrt

/-- R351: one rounding of the exact result. -/
def floatOp (op : FOp) (ty mode pol a b c : Nat) : Nat :=
  convertTo ty mode pol (op.exact mode (valueOf ty a) (valueOf ty b) (valueOf ty c))

/-- Order of R352: −0 below +0. -/
def fltBelow (a b : Exact) : Bool := a.lt b || (a.isZero && b.isZero && a.isNeg && !b.isNeg)

/-- `min` or `max` of R352: one operand unchanged, NaN avoided. -/
def floatMinMax (isMax : Bool) (ty a b : Nat) : Nat :=
  let n := tyBits ty
  let x := valueOf ty a
  let y := valueOf ty b
  if x.isNan && y.isNan then nanOf ty
  else if x.isNan then b % 2 ^ n
  else if y.isNan then a % 2 ^ n
  else if isMax then (if fltBelow x y then b % 2 ^ n else a % 2 ^ n)
  else (if fltBelow y x then b % 2 ^ n else a % 2 ^ n)

/-- `abs` and `neg` of R352: only the sign bit of a non-NaN value changes. -/
def floatSign (isNeg : Bool) (ty a : Nat) : Nat :=
  let n := tyBits ty
  if (valueOf ty a).isNan then nanOf ty
  else
    let mag := a % 2 ^ (n - 1)
    if isNeg then (if bit a (n - 1) then mag else mag + 2 ^ (n - 1)) else mag

/-! ### Integer operations (R348) -/

/-- The integer operations of majors 0x10 and 0x18. -/
inductive IOp where
  | add | sub | mul | mulhi | mad | div | rem | min | max | abs | neg
  deriving DecidableEq, Repr

/-- The exact result of an integer operation on n-bit values (R348, Table comp-2). -/
def IOp.exact (op : IOp) (sg : Bool) (n : Nat) (a b c : Int) : Int :=
  match op with
  | .add => a + b
  | .sub => a - b
  | .mul => a * b
  | .mulhi => Int.fdiv (a * b) ((2 ^ n : Nat) : Int)
  | .mad => a * b + c
  | .div => if b = 0 then (if sg then -1 else ((2 ^ n - 1 : Nat) : Int)) else Int.tdiv a b
  | .rem => if b = 0 then a else a - b * Int.tdiv a b
  | .min => if b < a then b else a
  | .max => if a < b then b else a
  | .abs => (a.natAbs : Int)
  | .neg => -a

/-- R348: the exact result under the overflow policy. -/
def intOp (op : IOp) (ty pol a b c : Nat) : Nat :=
  match intTy ty with
  | some (sg, n) =>
    let r := op.exact sg n (intVal sg n a) (intVal sg n b) (intVal sg n c)
    if pol == 1 then wrapN n (satI r (intMin sg n) (intMax sg n)) else wrapN n r
  | none => 0

end Sys2Proof.Machine
end

