-- ==== Sys2Proof/Machine/Transc.lean ====
section
/-! DEFINITION. The transcendental functions of Table comp-5 (R353). `ex2`, `rcp` and `rsqrt` are correctly rounded. For the others the manual gives an accuracy bound only: the result is the part's own value wherever that lies within the bound. -/

namespace Sys2Proof.Machine

/-- Fraction bits of the fixed-point work. -/
abbrev fxBits : Nat := 192

/-- ln 2 in units of 2^-256, rounded down. -/
def ln2Fx : Nat := 0xb17217f7d1cf79abc9e3b39803f2f6af40f343267298b62d8a0d175b8baafa2b
/-- log₂ e in units of 2^-256, rounded down. -/
def log2eFx : Nat := 0x171547652b82fe1777d0ffda0d23a7d11d6aef551bad2b4b1164a2cd9a342648f
/-- π in units of 2^-512, rounded down. -/
def piFx : Nat :=
  0x3243f6a8885a308d313198a2e03707344a4093822299f31d0082efa98ec4e6c89452821e638d01377be5466cf34e90c6cc0ac29b7c97c50dd3f84d5b5b5470917

/-- Partial sum of Σ yᵏ/k! from a term, in units of 2^-192, each step rounded down. -/
def expTerms : Nat → Nat → Nat → Nat → Nat
  | 0, _, _, _ => 0
  | n + 1, y, k, term => term + expTerms n y (k + 1) (term * y / 2 ^ fxBits / (k + 1))

/-- 2^f for a fraction f in units of 2^-192; in units of 2^-192, within 2^-180 below. -/
def pow2Frac (f : Nat) : Nat := expTerms 48 (f * ln2Fx / 2 ^ 256) 0 (2 ^ fxBits)

/-- 2^(k·2^-192), exact when the fraction is zero, otherwise with a sticky tail. -/
def pow2Fx (k : Int) : Exact :=
  let n := Int.fdiv k ((2 ^ fxBits : Nat) : Int)
  let f := (Int.fmod k ((2 ^ fxBits : Nat) : Int)).toNat
  if f == 0 then .fin false 1 n false
  else .fin false (pow2Frac f) (n - (fxBits : Int)) true

/-- A finite value in units of 2^-192, rounded toward −∞; FP32 values are exact. -/
def toFx : Exact → Int
  | .fin n m e _ =>
    let x := if 0 ≤ e + (fxBits : Int) then m * 2 ^ (e + (fxBits : Int)).toNat else m / 2 ^ (-(e + (fxBits : Int))).toNat
    sgn n x
  | _ => 0

/-- 2^x for an exact FP32 argument (R316, R353). Beyond the range of FP32 the argument is brought to a bound that rounds alike. -/
def pow2Exact : Exact → Exact
  | .nan => .nan
  | .inf neg => if neg then .zero false else .inf false
  | x =>
    if (Exact.ofInt 1000).lt x then .fin false 1 1000 false
    else if x.lt (Exact.ofInt (-1000)) then .fin false 1 (-1000) false
    else pow2Fx (toFx x)

/-- `ex2`: round_to(2^a, f32, nearest) (R353, R316). -/
def ex2F32 (a : Nat) : Nat := roundTo 0x28 0 (pow2Exact (valueOf 0x28 a))

/-- `rcp`: the correctly rounded reciprocal (R353). -/
def rcpF32 (a : Nat) : Nat := roundTo 0x28 0 ((Exact.ofInt 1).div (valueOf 0x28 a))

/-- `rsqrt`: the correctly rounded 1/√a; √ of the exact reciprocal keeps at least 90 good bits (R353). -/
def rsqrtF32 (a : Nat) : Nat :=
  match valueOf 0x28 a with
  | .nan => nanOf 0x28
  | .inf neg => if neg then nanOf 0x28 else 0
  | .fin neg m e st =>
    if m == 0 then (if neg then 0xFF800000 else 0x7F800000)
    else if neg then nanOf 0x28
    else roundTo 0x28 0 ((Exact.ofInt 1).div (Exact.fin neg m e st)).sqrt

/-- Bits of log₂ of a mantissa `y` in [1, 2), units 2^-256, by repeated squaring. -/
def log2Bits : Nat → Nat → Nat → Nat
  | 0, _, acc => acc
  | n + 1, y, acc =>
    let z := y * y / 2 ^ 256
    if 2 ^ 257 ≤ z then log2Bits n (z / 2) (2 * acc + 1) else log2Bits n z (2 * acc)

/-- log₂ of a positive finite value in units of 2^-96, rounded down. -/
def log2Fx (m : Nat) (e : Int) : Int :=
  let l := m.log2
  (e + (l : Int)) * ((2 ^ 96 : Nat) : Int) + (log2Bits 96 (m * 2 ^ 256 / 2 ^ l) 0 : Int)

/-- e^a in exact form with a sticky tail. -/
def expExact (x : Exact) : Exact :=
  if (Exact.ofInt 1000).lt x then .fin false 1 1000 false
  else if x.lt (Exact.ofInt (-1000)) then .fin false 1 (-1000) false
  else if x.isZero then .ofInt 1
  else
    match pow2Fx (Int.fdiv (toFx x * (log2eFx : Int)) ((2 ^ 256 : Nat) : Int)) with
    | .fin n m e _ => .fin n m e true
    | y => y

/-- Terms of the sine or cosine series, in units of 2^-192. -/
def trigTerms : Nat → Nat → Nat → Int → Int
  | 0, _, _, _ => 0
  | n + 1, r2, k, term =>
    term + trigTerms n r2 (k + 2) (-(Int.tdiv (term * (r2 : Int)) (((k + 1) * (k + 2) * 2 ^ fxBits : Nat) : Int)))

/-- The argument's remainder modulo 2π, in units of 2^-192. -/
def modTwoPi (neg : Bool) (m : Nat) (e : Int) : Nat :=
  let tp := 2 * piFx
  let r := m * 2 ^ (e + 512).toNat % tp
  (if neg && r != 0 then tp - r else r) / 2 ^ (512 - fxBits)

/-- Sine of a finite value in units of 2^-192. -/
def sinFx (neg : Bool) (m : Nat) (e : Int) : Int :=
  let r := modTwoPi neg m e
  trigTerms 56 (r * r / 2 ^ fxBits) 1 (r : Int)

/-- Cosine of a finite value in units of 2^-192. -/
def cosFx (neg : Bool) (m : Nat) (e : Int) : Int :=
  let r := modTwoPi neg m e
  trigTerms 56 (r * r / 2 ^ fxBits) 0 ((2 ^ fxBits : Nat) : Int)

/-- tanh of a positive finite value in exact form with a sticky tail: (E − 1)/(E + 1) with E = e^(2a); below 2^-30 it lies just under a. -/
def tanhExact (m : Nat) (e : Int) : Exact :=
  let a := Exact.fin false m e false
  if a.lt (.fin false 1 (-30) false) then .fin false (m * 2 ^ 100 - 1) (e - 100) true
  else if (Exact.ofInt 40).lt a then .fin false (2 ^ 100 - 1) (-100) true
  else
    let E := (toFx (expExact (a.scale 1))).toNat
    let q := (E - 2 ^ fxBits) * 2 ^ 200 / (E + 2 ^ fxBits)
    .fin false q (-200) true

/-- The part's value of a function when it is one of the codes at most `below` under and `above` over the rounded-down code, else that code. `top` bounds the codes. -/
def withinUlps (fn a lo below above top : Nat) : Nat :=
  let c := Config.freeApprox fn a % 2 ^ 32
  if lo - below ≤ c ∧ c ≤ lo + above ∧ c ≤ top then c else lo

/-- The sign bit of an FP32 code. -/
def signF32 (neg : Bool) : Nat := if neg then 0x80000000 else 0

/-- A free code within `below` and `above` of the rounded-down magnitude of `x`, with a sign. -/
def freeNear (fn a : Nat) (neg : Bool) (x : Exact) (below above top : Nat) : Nat :=
  withinUlps fn a (roundTo 0x28 1 x.abs) below above top + signF32 neg

/-- `lg2`: within 1 ulp, exact at powers of two (R353). -/
def lg2F32 (a : Nat) : Nat :=
  match valueOf 0x28 a with
  | .nan => nanOf 0x28
  | .inf neg => if neg then nanOf 0x28 else 0x7F800000
  | .fin neg m e _ =>
    if m == 0 then 0xFF800000
    else if neg then nanOf 0x28
    else if m == 2 ^ m.log2 then roundTo 0x28 0 (.ofInt (e + (m.log2 : Int)))
    else
      let x := Exact.ofIntExp false (log2Fx m e) (-96)
      freeNear 1 a x.isNeg x 0 1 0x7F7FFFFF

/-- The part's value of sine or cosine when it lies within 2^-22 of the exact value, else the rounded value (R353). -/
def freeTrig (fn a : Nat) (x : Int) : Nat :=
  let c := Config.freeApprox fn a % 2 ^ 32
  let v := valueOf 0x28 c
  let near := match v with
    | .fin .. => decide ((toFx v - x).natAbs ≤ 2 ^ (fxBits - 22))
    | _ => false
  if near then c else roundTo 0x28 0 (Exact.ofIntExp false x (-(fxBits : Int)))

/-- `sin`: absolute error at most 2^-22; a zero keeps its sign (R353). -/
def sinF32 (a : Nat) : Nat :=
  match valueOf 0x28 a with
  | .fin neg m e _ => if m == 0 then signF32 neg else freeTrig 4 a (sinFx neg m e)
  | _ => nanOf 0x28

/-- `cos`: absolute error at most 2^-22; cos 0 = 1 (R353). -/
def cosF32 (a : Nat) : Nat :=
  match valueOf 0x28 a with
  | .fin neg m e _ => if m == 0 then 0x3F800000 else freeTrig 5 a (cosFx neg m e)
  | _ => nanOf 0x28

/-- `tanh`: within 2 ulp, magnitude at most 1 (R353). -/
def tanhF32 (a : Nat) : Nat :=
  match valueOf 0x28 a with
  | .nan => nanOf 0x28
  | .inf neg => 0x3F800000 + signF32 neg
  | .fin neg m e _ =>
    if m == 0 then signF32 neg else freeNear 6 a neg (tanhExact m e) 1 2 0x3F800000

/-- `exp`: within 2 ulp (R353). A value above the FP32 range is +∞. -/
def expF32 (a : Nat) : Nat :=
  match valueOf 0x28 a with
  | .nan => nanOf 0x28
  | .inf neg => if neg then 0 else 0x7F800000
  | .fin neg m e st =>
    let x := Exact.fin neg m e st
    if m == 0 then withinUlps 7 a 0x3F800000 2 2 0x7F800000
    else
      let y := expExact x
      if (Exact.fin false 1 128 false).lt y then 0x7F800000
      else freeNear 7 a false y 1 2 0x7F800000

/-- The functions of Table comp-5. -/
inductive TFn where
  | ex2 | lg2 | rcp | rsqrt | sin | cos | tanh | exp
  deriving DecidableEq, Repr

/-- R353 by function. -/
def TFn.f32 : TFn → Nat → Nat
  | .ex2, a => ex2F32 a
  | .lg2, a => lg2F32 a
  | .rcp, a => rcpF32 a
  | .rsqrt, a => rsqrtF32 a
  | .sin, a => sinF32 a
  | .cos, a => cosF32 a
  | .tanh, a => tanhF32 a
  | .exp, a => expF32 a

end Sys2Proof.Machine
end

