-- ==== Sys2Proof/Machine/Arith.lean ====
section
/-! DEFINITION. Wide arithmetic: column sums, the compensated pair, rotation, INT4 quantisation and the soft-max step (R305, R309-R317). -/

namespace Sys2Proof.Machine

/-- An FP32 pair (R305). -/
structure Pair where
  h : Nat
  l : Nat
  deriving DecidableEq, Repr

/-- The pair (+0, +0). -/
def Pair.zero : Pair := ⟨0, 0⟩

/-- The value of an FP32 code. -/
def f32 (c : Nat) : Exact := valueOf 0x28 c

/-- Exact sum of a list; the sign of a zero sum is the caller's matter. -/
def sumExact (l : List Exact) : Exact := l.foldl (fun acc x => acc.add false x) (.zero false)

/-- What a list of products or terms holds besides finite values. -/
def hasNan (l : List Exact) : Bool := l.any Exact.isNan || (l.contains (.inf false) && l.contains (.inf true))

/-- The infinity of a list that holds one sign of it only. -/
def infOf (l : List Exact) : Option Exact :=
  if l.contains (.inf false) then some (.inf false)
  else if l.contains (.inf true) then some (.inf true) else none

/-- `column_sum` of R309, to an FP32 code, from the exact operand values. -/
def columnSum (mode : Nat) (ab : List (Exact × Exact)) : Nat :=
  let ps := ab.map (fun p => p.1.mul p.2)
  if hasNan ps then nanOf 0x28
  else
    match infOf ps with
    | some i => roundTo 0x28 mode i
    | none =>
      let s := sumExact ps
      if s.isZero then
        (if ps.all (fun p => p.isZero && p.isNeg) || mode == 3 then 0x80000000 else 0)
      else roundTo 0x28 mode s

/-- `pair_add` of R310 with an exact addend pair `(xh, xl)`. -/
def pairAddExact (p : Pair) (xh xl : Exact) : Pair :=
  let ts := [f32 p.h, f32 p.l, xh, xl]
  if hasNan ts then ⟨nanOf 0x28, 0⟩
  else
    match infOf ts with
    | some i => ⟨roundTo 0x28 0 i, 0⟩
    | none =>
      let s := sumExact ts
      if s.isZero then
        (if p.h == 0x80000000 && xh.isNeg && xh.isZero then ⟨0x80000000, 0⟩ else ⟨0, 0⟩)
      else
        let hn := roundTo 0x28 0 s
        if (f32 hn).isInf then ⟨hn, 0⟩
        else ⟨hn, roundTo 0x28 0 (s.add false (f32 hn).neg)⟩

/-- `pair_add` with an FP32 addend. -/
def pairAdd (p : Pair) (x : Nat) : Pair := pairAddExact p (f32 x) (.zero false)

/-- `pair_add` with a pair addend. -/
def pairAddPair (p x : Pair) : Pair := pairAddExact p (f32 x.h) (f32 x.l)

/-- A pair of finite values. -/
def pairFin (p : Pair) : Bool := [f32 p.h, f32 p.l].all (fun x => !x.isNan && !x.isInf)
/-- A pair that holds a NaN. -/
def pairNan (p : Pair) : Bool := (f32 p.h).isNan || (f32 p.l).isNan

/-- Whether a `pair_add` of `x` to `a` has newly produced an infinity, and a NaN (R234). -/
def pairNews (a x r : Pair) : Bool × Bool :=
  ((f32 r.h).isInf && pairFin a && pairFin x, pairNan r && !pairNan a && !pairNan x)

/-- The exact value of a pair; an exact zero sum takes the sign that the rounding mode gives it (R306). -/
def Pair.value (mode : Nat) (p : Pair) : Exact := (f32 p.h).add (mode == 3) (f32 p.l)

/-- One element of H·x with H[i][j] = (−1)^popcount(i and j), rounded once (R313). -/
def hadamardAt (e : Int) (x : List Exact) (i : Nat) : Nat :=
  let ts := (x.zip (upFrom 0 x.length)).map (fun p => if popcount 8 (i &&& p.2) % 2 == 1 then p.1.neg else p.1)
  if hasNan ts then nanOf 0x28
  else
    match infOf ts with
    | some v => roundTo 0x28 0 v
    | none =>
      let s := sumExact ts
      if s.isZero then (if ts.all (fun t => t.isZero && t.isNeg) then 0x80000000 else 0)
      else roundTo 0x28 0 (s.scale e)

/-- `hadamard(x, e)` of R313: the FP32 codes. -/
def hadamard (e : Int) (x : List Exact) : List Nat := (upFrom 0 x.length).map (hadamardAt e x)

/-- A quantised vector with its status bits (R315). -/
structure Quant where
  /-- Each code as four bits. -/
  q : List Nat
  scale : Nat
  sawNan : Bool
  sawOvf : Bool
  deriving DecidableEq, Repr

/-- `sat(rnd_int(y / sc), −7, 7)` as four bits. -/
def quantCode (mode : Nat) (y sc : Exact) : Nat := wrapN 4 (satI (rndInt mode (y.div sc)) (-7) 7)

/-- The greater of two exact magnitudes. -/
def exactMax (a b : Exact) : Exact := if a.lt b then b else a

/-- `quant4` of R315 from FP32 codes. -/
def quant4 (y : List Nat) : Quant :=
  let v := y.map f32
  if v.any (fun x => x.isNan || x.isInf) then ⟨y.map (fun _ => 0), 0x7E00, true, false⟩
  else
    let a := v.foldl (fun m x => exactMax m x.abs) (.zero false)
    if a.isZero then ⟨y.map (fun _ => 0), 0, false, false⟩
    else
      let s0 := roundTo 0x20 2 (a.div (.ofInt 7))
      let ovf := (valueOf 0x20 s0).isInf
      let sc := if ovf then 0x7BFF else s0
      ⟨v.map (fun x => quantCode 0 x (valueOf 0x20 sc)), sc, false, ovf⟩

/-- `dequant4` of R315: the exact product of a code and an `f16` scale. -/
def dequant4 (q sc : Nat) : Exact := (valueOf 0x26 q).mul (valueOf 0x20 sc)

/-- The soft-max state and outputs of R316, with the status OVF and NAN of R234 and R317. -/
structure Softmax where
  m : Nat
  d : Pair
  p : List Nat
  c : Nat
  flushes : Nat
  ovf : Bool
  nan : Bool
  deriving DecidableEq, Repr

/-- `pair_scale` of R316: the exact product, rounded as in `pair_add`. A denominator that is NaN or +∞ stays so (R310, R317). -/
def pairScale (p : Pair) (c : Nat) : Pair :=
  if (f32 p.h).isNan || (f32 c).isNan then ⟨nanOf 0x28, 0⟩
  else if (f32 p.h).isInf then ⟨p.h, 0⟩
  else pairAddExact ⟨0, 0⟩ ((p.value 0).mul (f32 c)) (.zero false)

/-- One key of a soft-max block. -/
def softmaxKey (fmtP : Nat) (st : Softmax) (s : Nat) : Softmax :=
  let e := if f32 st.m == .inf true then 0
    else roundTo 0x28 0 (pow2Exact ((f32 s).add false (f32 st.m).neg))
  let p := convert 0x28 fmtP 0 1 e
  let d := pairAdd st.d e
  let new := pairNews st.d ⟨e, 0⟩ d
  { st with
    d := d, p := st.p ++ [p], flushes := st.flushes + b2n (flushes fmtP (f32 e) p),
    ovf := st.ovf || new.1, nan := st.nan || new.2 }

/-- `softmax_block` of R316, on FP32 codes. -/
def softmaxBlock (s : List Nat) (mIn : Nat) (dIn : Pair) (fmtP : Nat) : Softmax :=
  if (mIn :: s).any (fun c => (f32 c).isNan) then ⟨nanOf 0x28, ⟨nanOf 0x28, 0⟩, [], nanOf 0x28, 0, false, true⟩
  else
    let m := s.foldl (fun a b => floatMinMax true 0x28 a b) mIn
    let c := if f32 m == .inf true then 0x3F800000
      else roundTo 0x28 0 (pow2Exact ((f32 mIn).add false (f32 m).neg))
    let d := pairScale dIn c
    let new := pairNews dIn ⟨c, 0⟩ d
    s.foldl (softmaxKey fmtP) ⟨m, d, [], c, 0, new.1, new.2⟩

/-- The final output element of R317: the exact quotient of two pairs, rounded once. -/
def softmaxOut (fmt mode pol : Nat) (a d : Pair) : Nat :=
  if (d.value mode).isZero then convertTo fmt mode pol .nan
  else convertTo fmt mode pol ((a.value mode).div (d.value mode))

end Sys2Proof.Machine
end

