-- ==== Sys2Proof/Machine/State.lean ====
section
/-! DEFINITION. The state of the package as plain data: registers, threads, groups, teams, memories, and the units the manual names. -/

namespace Sys2Proof.Machine

/-! ### Why a step stops -/

/-- Faults: the manual describes what follows every condition that it names, so no meaning raises one. -/
inductive Fault where
  deriving DecidableEq, Repr

/-- Refusals. -/
inductive Refusal where
  /-- Raised by an arm of `exec` whose instruction has no meaning yet; safe. -/
  | notModelled (mnemonic : String)
  deriving DecidableEq, Repr

/-! ### Registers -/

/-- One lane's word of a `v` or `x` register, with its poison bit (Table core-1, R196). -/
structure PWord where
  v : Word
  p : Bool
  deriving DecidableEq, Repr

/-- A uniform register with its poison bit (Table core-1). -/
structure SWord where
  v : DWord
  p : Bool
  deriving DecidableEq, Repr

/-- A mask register: its bits and depth tag (R178). -/
structure MaskReg where
  bits : Lanes
  tag : Nat
  deriving DecidableEq, Repr

/-- The trap frame registers of Table core-4. -/
structure TrapFrame where
  active : Bool
  kind : Nat
  scope : Nat
  group : Nat
  depth : Nat
  info : Nat
  pc : Nat
  va : Nat
  lanes : Lanes
  deriving DecidableEq, Repr

/-- A register write that has not landed: who owes it, and whether its instruction bypassed the scoreboard (R274). -/
structure Pending where
  /-- Absolute register of the thread, or index of the group's s register. -/
  reg : Nat
  access : Nat
  nosb : Bool
  /-- A later write of the register is the one that stays. -/
  lost : Bool
  deriving DecidableEq, Repr

/-- A result whose latency has not passed; one of an instruction with NOSB = 1 may still be missed by a reader (R274). -/
structure InFlight where
  /-- Absolute register of the thread, or the number of a predicate. -/
  reg : Nat
  old : PWord
  due : Nat
  nosb : Bool
  deriving DecidableEq, Repr

/-- The same for a mask register of a group. -/
structure InFlightM where
  reg : Nat
  old : MaskReg
  due : Nat
  nosb : Bool
  deriving DecidableEq, Repr

/-- The same for an element of a set's x register. -/
structure InFlightX where
  reg : Nat
  elem : Nat
  old : PWord
  due : Nat
  nosb : Bool
  deriving DecidableEq, Repr

/-- The same for an s register of a group. -/
structure InFlightS where
  reg : Nat
  old : SWord
  due : Nat
  nosb : Bool
  deriving DecidableEq, Repr

/-- Why a thread is not in an issue set (R176). -/
inductive Wait where
  | none
  /-- Waiting on a mask (R178). -/
  | mask (m : Nat)
  /-- Arrived at a set (false) or team (true) rendezvous (R188). -/
  | rdv (team : Bool)
  /-- Waiting on a barrier phase or a synchronisation word; the group's wait record says which (R333, R383). -/
  | word
  /-- Its ejection or its recall is being carried out (R181, R183). -/
  | moving
  deriving DecidableEq, Repr

/-- The Span context of an ejected thread (R181). -/
structure SpanCtx where
  /-- Context number in the cluster, 0 to 31. -/
  slot : Nat
  wb0 : Nat
  /-- One above the last absolute register of the segment. -/
  segEnd : Nat
  snap : List SWord
  /-- Loads that were still to write s registers at the snapshot, which takes their values (R182). -/
  owed : List Pending
  deriving DecidableEq, Repr

/-- A thread (R165, R168, R172, R173, Table cons-3). Registers are keyed by stack slot; an absent slot holds +0 without poison. -/
structure Thread where
  live : Bool
  pc : Nat
  wb : Nat
  lo : Nat
  cd : Nat
  depth : Nat
  regs : Tbl Nat PWord
  preds : BitVec 8
  l0 : DWord
  l1 : DWord
  l2 : DWord
  /-- Pipe that wrote the latches last, with the number of the group's unbroken run of slots there; `none` when they are undefined (R173). -/
  latPipe : Option (Nat × Nat)
  /-- How many of the latches, from l0 on, that run wrote; the others are undefined (R173). -/
  latN : Nat
  wait : Wait
  span : Option SpanCtx
  owl : Nat
  owc : Nat
  owd : Nat
  ows : Nat
  /-- Slices that owe an acknowledgement, with the number owed (Table cons-3). -/
  touched : Tbl Nat Nat
  /-- Least release scope that a failed store of each level reports (R259, R76). -/
  storeErr : List Nat
  pend : List Pending
  /-- Results in flight of v registers, and of predicates (R274). -/
  inflight : List InFlight
  flyP : List InFlight
  /-- Accesses whose return an acquire waits for (R259). -/
  acq : List Nat
  deriving DecidableEq, Repr

/-- One lane of a waiting issue set: what it compares and what it writes (R333, R383). -/
structure WaitLane where
  lane : Nat
  /-- Barrier number, or scratchpad offset of the word. -/
  at_ : Nat
  phase : Nat
  ok : Bool
  /-- Absolute v register, or s register, that takes the word's state. -/
  dst : Nat
  deriving DecidableEq, Repr

/-- An issue set that waits on barriers or synchronisation words. -/
structure WaitRec where
  set : List Nat
  lanes : List WaitLane
  /-- `none` for a synchronisation word, else the bank: false set, true team. -/
  bank : Option Bool
  /-- The destination is one s register. -/
  uniform : Bool
  /-- The dependency counter that falls when the wait ends, 7 for none (R175). -/
  sig : Nat
  deriving DecidableEq, Repr

/-- What a `.part` arrival left for its absent lanes (R191). -/
structure PartRec where
  absent : List Nat
  pc : Nat
  cd : Nat
  done : Bool
  /-- Each absent lane's outcome, once the instance has completed. -/
  vals : Tbl Nat Nat
  deriving DecidableEq, Repr

/-- A byte interval. -/
structure Interval where
  lo : Nat
  len : Nat
  deriving DecidableEq, Repr

/-- A running rejoin timer (R185). -/
structure RejoinTimer where
  mask : Nat
  /-- A-cycle from which it counts on, and what it had counted by then (R157). -/
  start : Nat
  count : Nat
  deriving DecidableEq, Repr

/-- A group (Table core-1, R165). -/
structure Group where
  width : Nat
  sregs : Tbl Nat SWord
  masks : Tbl Nat MaskReg
  /-- Shape slots that hold a record, as 512-bit patterns (R174). -/
  shapes : Tbl Nat Nat
  /-- Dependency counters (R175); an absent one is 0. -/
  cnt : Tbl Nat Nat
  trap : TrapFrame
  /-- Threads that entered the running handler (R194). -/
  handler : List Nat
  setNo : Option Nat
  prod : Bool
  /-- First a-cycle at which the stall hint no longer holds the group (R273). -/
  stallUntil : Nat
  /-- Issue set that the next choice skips, by its lowest thread (R273). -/
  skip : Option Nat
  /-- Consecutive issues of the group for which a thread's issue set has been passed over (R177). -/
  passed : Tbl Nat Nat
  /-- AGE, and the a-cycle up to which it has been counted (R149). -/
  age : Nat
  ageAt : Nat
  /-- Its group slot on the core (Table sched-2). -/
  slot : Nat
  timers : List RejoinTimer
  waits : List WaitRec
  /-- The last `.part` arrival at set (false) and team (true) scope (R191). -/
  part : Tbl Bool PartRec
  /-- Pipe of the group's last vector ALU slot (R173). -/
  lastPipe : Nat
  pendS : List Pending
  inflightS : List InFlightS
  inflightM : List InFlightM
  /-- Signals of instructions with a fixed completion: the dependency counter, and the a-cycle at which it falls (R175, R272). -/
  sigDue : List (Nat × Nat)
  /-- Scratchpad bytes written since its last operand-ready fence (R394). -/
  unfenced : List Interval
  deriving DecidableEq, Repr

/-- A hardware barrier (R331). -/
structure HwBar where
  phase : Nat
  role : Option Nat
  arrived : List Nat
  deriving DecidableEq, Repr

/-- One member's arrival at a rendezvous (R188). -/
structure Arrival where
  group : Nat
  set : List Nat
  act : List Nat
  /-- The instruction word that it fetched, whose immediate fields count when the group leads (R190). -/
  word : Nat
  deriving DecidableEq, Repr

/-- A set or team rendezvous in progress (R188, R192). -/
structure Rdv where
  pc : Nat
  cd : Nat
  arr : List Arrival
  susp : Bool
  deriving DecidableEq, Repr

/-- What a set of a team holds (R170, R331). -/
structure GSet where
  members : List Nat
  /-- x registers by (index, element); an absent element is 0 without poison. -/
  xregs : Tbl (Nat × Nat) PWord
  bars : Tbl Nat HwBar
  rdv : Option Rdv
  flyX : List InFlightX
  deriving DecidableEq, Repr

/-- Scratchpad or cluster-shared bytes: those written in this life of the allotment, ascending, and the poisoned words (R201, R202). -/
structure LMem where
  cells : List Host.Cell
  poison : List Nat
  /-- Names the unwritten bytes of an allotment that is not zeroed (R143); `none` when it was zeroed. -/
  fresh : Option Nat
  deriving DecidableEq, Repr

/-- A team (R137, R143, R153, R158, R331). -/
structure Team where
  ctx : Nat
  grid : Nat
  /-- Linear index in the grid (R144). -/
  lin : Nat
  /-- Global cluster number 16·bay + c, and core 0 to 2 in it. -/
  cluster : Nat
  core : Nat
  slot : Nat
  spad : LMem
  bars : Tbl Nat HwBar
  rdv : Option Rdv
  token : Option Nat
  /-- The a-cycle from which `token` is the holder, and the holder before it (R153). -/
  tokenAt : Nat
  tokenOld : Option Nat
  /-- Ejection threshold and the window of R186. -/
  ej : Nat
  winStart : Nat
  /-- What the window had counted at `winStart`. -/
  winCount : Nat
  winLat : Nat
  /-- Rectangle origin (R141). -/
  ox : Nat
  oy : Nat
  /-- SPLIT of its core (R140). -/
  split : Nat
  /-- Its context has halted (R156), and its resources have been released (R161). -/
  halted : Bool
  saved : Bool
  /-- A-cycle of its halt (R157). -/
  haltAt : Nat
  /-- The 4 KiB units of its core's scratchpad part that it holds, in the order of its offsets (Table sched-2). -/
  units : List Nat
  /-- Cluster, core, slot and rectangle origin under which its image lies, while its context has come back only in part (R158, R162). -/
  home : Option (Nat × Nat × Nat × Nat × Nat)
  deriving DecidableEq, Repr

/-- The launch description of Table enc-8. -/
structure Launch where
  privBase : Nat
  entry : Nat
  handler : Nat
  /-- Sets by number: their member groups. -/
  sets : Tbl Nat (List Nat)
  privSize : Nat
  width : Nat
  groups : Nat
  nprod : Nat
  depthP : Nat
  depthC : Nat
  spad : Nat
  split : Nat
  cshared : Nat
  arrw : Nat
  arrh : Nat
  token : Option Nat
  ejmin : Nat
  ejmax : Nat
  deriving DecidableEq, Repr

/-- A grid: one KERNEL node's run (R92, R138, R144). -/
structure Grid where
  ctx : Nat
  vdev : Nat
  launch : Launch
  code : Nat
  args : Nat
  x : Nat
  y : Nat
  z : Nat
  /-- Next linear index to place. -/
  next : Nat
  /-- Teams that have exited. -/
  exited : Nat
  /-- The graph run and node that own it. -/
  run : Nat
  node : Nat
  ended : Bool
  /-- Network time since which its next team has waited (R154). -/
  since : Nat
  deriving DecidableEq, Repr

/-- A user queue: its descriptor and where it stands (Tables host-7, R88, R97). -/
structure Queue where
  base : Nat
  headwb : Nat
  vec : Nat
  size : Nat
  head : Nat
  tail : Nat
  halted : Bool
  /-- A command of the queue is running. -/
  busy : Bool
  /-- Order in which a dispatcher served the queue last; 0 never (R144). -/
  served : Nat
  /-- The running command (Table host-9). -/
  cmd : Nat
  deriving DecidableEq, Repr

/-- A context: the fields of its record (Table host-1) and what the command processor keeps of it. -/
structure CtxRec where
  view : Nat
  prio : Nat
  place : Nat
  rmatch : Bool
  spanmax : Nat
  slice : Nat
  ptroot : Nat
  placerec : Nat
  faultring : Nat
  faultcnt : Nat
  faultvec : Nat
  savearea : Nat
  queues : Tbl Nat Queue
  /-- Suspended by a command, or pre-empted for a waiting team. -/
  suspended : Bool
  preempted : Bool
  /-- Stage of its pre-emption: 0 none, 1 halt requested, 2 halted, 3 images written but for the accumulators, 4 saved. -/
  phase : Nat
  /-- The grid and team index whose wait caused it (R162). -/
  cause : Option (Nat × Nat)
  /-- The dispatcher that carries its pre-emption out, 8 for none of its own (R147). -/
  unit : Nat
  /-- Saves so far (Table sched-6). -/
  saves : Nat
  /-- The saved team whose wait caused its pre-emption, when it was not a grid's next team (R154, R162). -/
  causeTeam : Option Nat
  /-- Network time from which its saved teams have waited for cores (R154). -/
  waitFrom : Option Nat
  /-- The cluster headers and team images of its save: address, length, and the number of their free bytes (R158). -/
  images : List (Nat × Nat × Nat)
  /-- Its saved cluster-shared segments: the save-time cluster, the grid, and the offset in the packed image (Table sched-6). -/
  segs : List (Nat × Nat × Nat)
  /-- A write of its save area received Err (R158). -/
  saveErr : Bool
  /-- CTX_DESTROY has begun (R87). -/
  dying : Bool
  /-- Network time at which FAULTVEC was last raised, and a raise that waits (R98). -/
  raised : Option Nat
  toRaise : Bool
  /-- Network time at which it was placed or last resumed (R154), and at which it halted (R157). -/
  since : Nat
  haltAt : Nat
  deriving DecidableEq, Repr

/-- An aligned 4-byte piece of memory as it stood before a write, with the network time of the write: a kernel that was running then may still fetch it (R268). -/
structure OldPiece where
  host : Bool
  addr : Nat
  bytes : List Byte
  time : Nat
  deriving DecidableEq, Repr

/-- Whose instruction a step executes: a team, a group, and the threads of the chosen issue set (R176). -/
structure Cur where
  team : Nat
  group : Nat
  set : List Nat
  deriving DecidableEq, Repr

/-- The operands of the event that a step carries out. -/
structure EvArg where
  /-- Number of the record it acts on, or an index. -/
  k : Nat
  /-- A second index or an address. -/
  a : Nat
  /-- A written value. -/
  v : Nat
  data : List Byte
  deriving DecidableEq, Repr

/-- An event that is to happen: an input from outside, a message in flight, or a unit's next action. -/
structure Due where
  ev : Instr
  arg : EvArg
  /-- Not before this count of network cycles. -/
  at_ : Nat
  /-- Messages of one order key are delivered in order (R54); 0 keeps no order. -/
  key : Nat
  deriving DecidableEq, Repr

/-- The state of a pipe: the groups that the last slot held lanes of, each with the number of its unbroken run of slots there; those of the slot before it; the highest number given; and the a-cycle from which the pipe is free (R148, R173). -/
structure Pipe where
  groups : Tbl (Nat × Nat) Nat
  prev : Tbl (Nat × Nat) Nat
  run : Nat
  busy : Nat
  deriving DecidableEq, Repr

/-- A synchronisation word whose timer runs: its team and offset, the a-cycle from which the unit of 1,024 counts, and what it had counted by then (R211, R157). -/
structure TimedWord where
  team : Nat
  off : Nat
  start : Nat
  count : Nat
  deriving DecidableEq, Repr

/-- A team's unresolved trap, for the fault record (R96, R98). -/
structure FailRec where
  grid : Nat
  code : Nat
  team : Nat
  frame : TrapFrame
  deriving DecidableEq, Repr

/-! ### Memory, translation and the fabric -/

/-- The attributes of a page that a requester learns, with the page size as a power of two (R113, R416). -/
structure Attr where
  home : Nat
  w : Bool
  x : Bool
  host : Bool
  size : Nat
  deriving DecidableEq, Repr

/-- A translation (R111, R114). -/
structure Xl where
  ctx : Nat
  /-- First address of the page. -/
  va : Nat
  attr : Attr
  /-- First address of the frame. -/
  pa : Nat
  bias : Bool
  obj : Bool
  /-- D has been set for it (R116). -/
  d : Bool
  /-- Device address of the leaf. -/
  pte : Nat
  deriving DecidableEq, Repr

/-- A mapping of a frame (R117), with the view device that owns the page (R83). -/
structure MapRec where
  /-- The frame lies in host memory. -/
  host : Bool
  frame : Nat
  size : Nat
  ctx : Nat
  va : Nat
  w : Bool
  vd : Nat
  deriving DecidableEq, Repr

/-- A walk in progress at a controller port, or at I/O die 0 as port 128 (R122). -/
structure Walk where
  port : Nat
  ctx : Nat
  /-- VA[56:16] of the page's first address. -/
  page : Nat
  /-- The size of the page as a power of two. -/
  size : Nat
  /-- A write-kind access waits. -/
  wr : Bool
  /-- The bay and view device of the access that began it. -/
  vd : Nat
  /-- The accesses that joined it (R122). -/
  joined : List Nat
  deriving DecidableEq, Repr

/-- One element of an access: its lane, its place in the line, where its value goes, and its operands. -/
structure APart where
  g : Nat
  lane : Nat
  off : Nat
  n : Nat
  /-- Absolute v register of the thread, or s register of the group. -/
  reg : Nat
  isS : Bool
  ty : Nat
  /-- Nibble of a 4-bit element. -/
  nib : Option Nat
  x : Nat
  y : Nat
  deriving DecidableEq, Repr

/-- What an access does. -/
inductive AKind where
  | load
  | store
  /-- Takes ownership to drain a write-combining-store entry. -/
  | own
  /-- A prefetch into the L1, or into the slice. -/
  | pref (slice : Bool)
  | atom
  | red
  /-- A flush or discard of a line, once its write-combining entries have gone (R381, R382). -/
  | flush
  deriving DecidableEq, Repr

/-- Where an access stands. -/
inductive Stage where
  /-- At the network interface, for the placement and the attributes (R108, R416). -/
  | ni
  /-- For the state of its line in the private cache (R57). -/
  | line
  /-- Its request waits for one of the unit's response buffers (R55). -/
  | buffer (ev : Instr)
  /-- Its request is under way. -/
  | sent
  deriving DecidableEq, Repr

/-- An outstanding global access of a core or Span core, to one line. -/
structure Acc where
  kind : AKind
  /-- 16 · global cluster + unit: 0 to 2 SIMT cores, 3 to 10 Span cores. -/
  unit : Nat
  ctx : Nat
  /-- VA[56:7]. -/
  line : Nat
  team : Nat
  stage : Stage
  parts : List APart
  /-- Operation and type of an atomic or a reduction. -/
  op : Nat
  ty : Nat
  /-- Contributor index and total of an ordered reduction, total 0 otherwise (R222). -/
  oidx : Nat
  otot : Nat
  /-- The synchronisation word that counts it (R73). -/
  word : Option Nat
  /-- The instruction whose completion it is part of. -/
  track : Nat
  bay : Nat
  attr : Option Attr
  /-- Line captured by the answer, with a flag for Err. -/
  got : Option (List Byte × Bool)
  graft : Bool
  excl : Bool
  /-- The router of the home, once the request is sent. -/
  home : Nat
  pa : Nat
  /-- Tree messages held until its fill has arrived (R57). -/
  heldMsgs : List Nat
  /-- Sectors of the line, 0 to 3, that arrive as poison (R46). -/
  bad : List Nat
  /-- A home-executed write stands in its own counter (Table cons-3). -/
  counted : Bool
  deriving DecidableEq, Repr

/-- An instruction that signals a dependency counter when its parts have completed (R175, Table mem-2). -/
structure Track where
  team : Nat
  groups : List Nat
  sig : Nat
  left : Nat
  /-- The release scope at which a store must no longer be held back (Table mem-2). -/
  msc : Nat
  deriving DecidableEq, Repr

/-- A thread's store that a counter of Table cons-3 counts. -/
structure Owner where
  team : Nat
  group : Nat
  lane : Nat
  track : Nat
  deriving DecidableEq, Repr

/-- An entry of a write-combining store (R56, R254). -/
structure Wcs where
  /-- Bytes held, by offset in the line, each with the nibbles that were stored: 1 low, 2 high, 3 both. -/
  cells : Tbl Nat (Nat × Byte)
  owners : List Owner
  /-- Its ownership request is under way. -/
  draining : Bool
  deriving DecidableEq, Repr

/-- States of Table fabric-4 other than I. -/
inductive CSt where
  | s | e | o | m | w
  deriving DecidableEq, Repr

/-- A line of a private cache. -/
structure L1Line where
  st : CSt
  attr : Attr
  /-- Physical address of the line. -/
  pa : Nat
  used : Nat
  /-- Flush that waits for the line to leave W: threads whose OWC counts it (R381). -/
  owners : List Owner
  /-- Sectors of 32 bytes that it holds as poison (R46). -/
  bad : List Nat
  deriving DecidableEq, Repr

/-- A line of a slice with the bits that it recorded at fill (R114). -/
structure SliceLn where
  attr : Attr
  pa : Nat
  obj : Bool
  /-- The router of the slice. -/
  router : Nat
  /-- Its data is newer than the stack's. -/
  dirty : Bool
  deriving DecidableEq, Repr

/-- ST of a tree-cache entry (Table fabric-5). -/
inductive TSt where
  | stable | building | tearing | pruning
  deriving DecidableEq, Repr

/-- A tree-cache entry (Table fabric-5). Links are ports 0 to 3 (N, E, S, W) and local holders 4 to 14. -/
structure Tree where
  way : Nat
  st : TSt
  links : List Nat
  root : Bool
  owned : Bool
  /-- Port 0 to 3, or 4 local. -/
  nearport : Nat
  near : Nat
  pend : Nat
  keep : Option Nat
  /-- The request that wrote KEEP. -/
  kreq : Nat
  host : Bool
  /-- An InvAck collected while Tearing carried data. -/
  dirty : Bool
  /-- Tearing as a victim under R67, and the home's Inv has not reached it. -/
  victim : Bool
  /-- The request that allocated it, at the root the one that the home runs, or the one for which a victim leaves; 0 none. -/
  req : Nat
  used : Nat
  deriving DecidableEq, Repr

/-- A message of the mesh (Table fabric-2). -/
structure Msg where
  /-- Its virtual network, and its sectors (R49). -/
  vn : Nat
  size : Nat
  /-- It holds its sectors of the input port `from_` of the router `at_` (R49). -/
  inq : Bool
  acc : Nat
  ctx : Nat
  line : Nat
  /-- Router where it stands, 16·y + x. -/
  at_ : Nat
  /-- Arrival link: port, local holder + 4, or 15. -/
  from_ : Nat
  /-- Addressed router. -/
  dst : Nat
  /-- Unit that sent it or to which it is addressed; 2047 for none. -/
  unit : Nat
  /-- Order of arrival at the home; 0 before it. -/
  seq : Nat
  /-- How far the home has got with it: 0 not begun, 1 its tree is torn down, 2 its line is ready. -/
  work : Nat
  /-- Error kind of the walk or fetch that it joined. -/
  err : Option Nat
  dirty : Bool
  val : Nat
  cnt : Nat
  deriving DecidableEq, Repr

/-- An entry of a router's combine buffer (R72). -/
structure Comb where
  id : Nat
  router : Nat
  ctx : Nat
  va : Nat
  op : Nat
  ty : Nat
  word : Option (Nat × Nat)
  val : Nat
  cnt : Nat
  list : List Nat
  deriving DecidableEq, Repr

/-- A contribution held in a home's ordering store (R222). -/
structure OrdHeld where
  /-- Its own number. -/
  id : Nat
  router : Nat
  ctx : Nat
  va : Nat
  idx : Nat
  tot : Nat
  op : Nat
  ty : Nat
  val : Nat
  cnt : Nat
  word : Option (Nat × Nat)
  deriving DecidableEq, Repr

/-- CXL.cache state of a held host sector (R38). -/
inductive HSt where
  | s | e | m
  deriving DecidableEq, Repr

/-- An entry of the host-sector filter (R39): host sector number, context, VA sector number, state. The list is in order of fill. -/
structure HostSector where
  hs : Nat
  ctx : Nat
  vs : Nat
  st : HSt
  deriving DecidableEq, Repr

/-- An object-table entry (Table links-6). -/
structure ObjEnt where
  home : Nat
  ctx : Nat
  ngran : Nat
  state : Nat
  shape : Nat
  base : Nat
  deriving DecidableEq, Repr

/-- A granule transfer that the home's I/O die runs, or that waits (R45). -/
structure Xfer where
  obj : Nat
  gran : Nat
  /-- KFL port of the requester, 7 for this package. -/
  port : Nat
  excl : Bool
  /-- Ports whose answer to a recall is awaited. -/
  waits : List Nat
  started : Bool
  deriving DecidableEq, Repr

/-- A voluntary eviction that this package has sent to a granule's home and that is not yet acknowledged (R44). -/
structure PutX where
  obj : Nat
  gran : Nat
  deriving DecidableEq, Repr

/-- A page whose bias is being flipped (R41, R42). -/
structure Flip where
  ctx : Nat
  va : Nat
  size : Nat
  toDev : Bool
  done : Nat
  deriving DecidableEq, Repr

/-! ### Engines, arrays and graphs -/

/-- A memory whose bytes an asynchronous operation reads or writes: a team's allotment, a cluster-shared segment by grid and cluster, device memory, or host memory. -/
inductive Area where
  | spad (team : Nat)
  | clsh (grid cluster : Nat)
  | dev
  | host
  deriving DecidableEq, Repr

/-- A run of bytes of a memory. -/
structure Span where
  area : Area
  lo : Nat
  len : Nat
  deriving DecidableEq, Repr

/-- An asynchronous operation: an engine command (R385), a piece of a COPY node (R92), or an operation of majors 0x30 and 0x31 (R389). Its operands are kept as the instruction read them at issue. -/
structure AOp where
  /-- OPC, or 0 for a piece of a COPY node. -/
  opc : Nat
  mode : Nat
  /-- The array 8·y + x of the team's bay, or the bay, that its place field names. -/
  place : Nat
  /-- Operand registers of the fields A, B and C. -/
  a : List Nat
  b : List Nat
  c : List Nat
  /-- Shape records, or the operand map. -/
  recs : List Nat
  team : Nat
  ctx : Nat
  cluster : Nat
  core : Nat
  /-- The synchronisation word or barrier object. -/
  word : Option Nat
  /-- 0 in its core's command queue, 1 at its unit. -/
  stage : Nat
  /-- The dependency counter that falls when its unit has taken it (R391, Table mem-2): the issuing groups, and the counter. -/
  sig : Option (List Nat × Nat)
  /-- The bytes that it reads and writes, for R214 and R228. -/
  reads : List Span
  writes : List Span
  /-- Bytes among them that the program has written meanwhile. -/
  hits : List (Area × Nat)
  /-- What its destination bytes held at issue, its results in order, and the destination bytes to be poisoned. -/
  old : List ((Area × Nat) × Byte)
  outs : List ((Area × Nat) × Byte)
  spoil : List (Area × Nat)
  /-- Bytes counted so far; a step or line failed. -/
  pos : Nat
  err : Bool
  /-- Number of the free values that it leaves (R6). -/
  fresh : Nat
  /-- Order of arrival at its unit; 0 before it (R135). -/
  arrived : Nat
  /-- Rows that reached the die with a double-bit error (R244). -/
  badRows : List Nat
  /-- The graph run and node of a piece. -/
  node : Option (Nat × Nat)
  /-- A-cycle of issue, for RODTO (R239). -/
  start : Nat
  /-- Elements of an unpaired Rod region that another operation has reached: tile, row, column (R239). -/
  tileHits : List (Nat × Nat × Nat)
  /-- A unit's check reported a code for it, and flags (R244, R245). -/
  code : Nat
  flags : Nat
  deriving DecidableEq, Repr

/-- A copy or decode whose last count has been applied, while no wait has observed it: the program's writes to its source and destination still leave undefined bytes (R214 step 4). -/
structure DoneOp where
  team : Nat
  word : Option Nat
  reads : List Span
  writes : List Span
  /-- Source and destination bytes run in step. -/
  inStep : Bool
  fresh : Nat
  deriving DecidableEq, Repr

/-- A Firkin table slot (R216, R217): the context that loaded it, and its codes as length, code and symbol. -/
structure FkSlot where
  ctx : Nat
  valid : Bool
  codes : List (Nat × Nat × Nat)
  deriving DecidableEq, Repr

/-- A tile element with its poison bit (R223). -/
structure Elt where
  p : Pair
  poison : Bool
  deriving DecidableEq, Repr

/-- An accumulator tile: elements by row and column; an absent one is (+0, +0), or a free value of the number given (R225). -/
structure Tile where
  els : Tbl (Nat × Nat) Elt
  fresh : Option Nat
  /-- Context that used the tile last. -/
  user : Option Nat
  deriving DecidableEq, Repr

/-- A weight plane that is not empty: its format and its weight codes (R223, R232). -/
structure Plane where
  fmt : Nat
  w : Tbl (Nat × Nat) Nat
  poison : Bool
  deriving DecidableEq, Repr

/-- An array of a matrix die. -/
structure MArray where
  planes : Tbl Nat Plane
  tiles : Tbl Nat Tile
  deriving DecidableEq, Repr

/-- A node of a running graph (R90, R92). -/
structure NodeSt where
  ty : Nat
  succ : List Nat
  /-- Predecessors that have not completed. -/
  pred : Nat
  /-- 0 not ready, 1 held by the region-match unit, 2 running, 3 completed, 4 its completion is on the way, 5 ready. -/
  phase : Nat
  /-- Its type part, once read. -/
  part : Nat
  /-- Iterations of a WHILE node; pieces of a COPY node that have not completed. -/
  count : Nat
  /-- Network time at which it started (R92). -/
  start : Nat
  err : Bool
  deriving DecidableEq, Repr

/-- A running graph (R91, R92). -/
structure Run where
  ctx : Nat
  queue : Nat
  base : Nat
  depth : Nat
  /-- The run and node that started it. -/
  parent : Option (Nat × Nat)
  nodes : Tbl Nat NodeSt
  /-- First failure: code, node and depth. -/
  fail : Option (Nat × Nat × Nat)
  deriving DecidableEq, Repr

/-- A task of a region-match unit (R94); its regions are first byte, end and whether written. -/
structure Task where
  unit : Nat
  ctx : Nat
  run : Nat
  node : Nat
  regions : List (Nat × Nat × Bool)
  /-- It has entered the unit; it runs. -/
  entered : Bool
  running : Bool
  deriving DecidableEq, Repr

/-- An eviction between its select and its commit (R126). -/
structure Evict where
  ctx : Nat
  va : Nat
  size : Nat
  pte : Nat
  /-- The PTE as the select step wrote it. -/
  e : Nat
  frame : Nat
  deriving DecidableEq, Repr

/-! ### Registers of the window (Tables host-16 and host-17) -/

/-- A MSI-X message, a report of the KHA-2, or another notice that has left the part toward the host. -/
inductive Notice where
  | msix (vec : Nat)
  | linkDown
  | trip (bay : Nat)
  | overrun
  | snoopMiss
  | snoopHit (data : List Byte)
  | barData (data : List Byte)
  /-- The KHA-2 sideband's answer to a register read (R101). -/
  | sideData (data : List Byte)
  | evictSector (hs : Nat) (dirty : Bool)
  /-- A CXL.cache request for a host sector: 0 RdShared, 1 RdOwn, 2 RdCurr, 3 ItoMWr (R38). -/
  | hostReq (op hs : Nat)
  /-- A message on a KFL port: 0 granule sent, 1 GetS, 2 GetX, 3 recall to S, 4 invalidate, 5 granule returned, 6 PutX, 7 acknowledgement. With data go the numbers of the granule's lines that are poisoned. -/
  | kfl (port kind obj gran : Nat) (data : List Byte) (poison : List Nat)
  deriving DecidableEq, Repr

/-- A flit as a sender forms it: the fields of HDR, and the message that its payload carries (Table links-2). -/
structure Flit where
  ty : Nat
  vc : Nat
  seq : Nat
  ack : Nat
  msg : Option Notice
  deriving DecidableEq, Repr

/-- A setting of a lane's transmitter taps or receiver equaliser, with the limits that training recorded and the network time of its last step (R35). -/
structure EqSet where
  value : Nat
  lo : Nat
  hi : Nat
  at_ : Nat
  deriving DecidableEq, Repr

/-- A link's state register (Table links-3). -/
structure LinkStat where
  state : Nat
  width : Nat
  retrain : Nat
  replay : Nat
  feccorr : Nat
  /-- Failures in a row of the flit awaited, and of retrains. -/
  fails : Nat
  bad : Nat
  /-- Next sequence number to receive, and the highest acknowledged by the peer. -/
  next : Nat
  acked : Nat
  /-- The replay buffer: flits not yet acknowledged, oldest first (R33). -/
  buffer : List Flit
  training : Bool
  /-- A replay request has been sent, and the flit awaited has not come. -/
  replaying : Bool
  /-- Sequence number of the next flit to send. -/
  txNext : Nat
  /-- Messages held until a flit can carry them. -/
  held : List Notice
  /-- Every flit sent, replays among them, oldest first. -/
  wire : List Flit
  /-- The payloads delivered, oldest first: each of their messages is an event of its own, which the outside places. -/
  got : List (List Byte)
  /-- The settings of its lanes. -/
  eq : List EqSet
  deriving DecidableEq, Repr

/-- A frame ring's base, size, head and tail (Tables xlate-5 and xlate-6). -/
structure FrameRing where
  base : Nat
  size : Nat
  head : Nat
  tail : Nat
  deriving DecidableEq, Repr

/-- The registers of a bay (Table host-17). -/
structure Bay where
  temp : Nat
  droopcnt : Nat
  therm : Nat
  freq : Nat
  fmax : Nat
  fmin : Nat
  /-- Network time before which the loop takes no further step (R17). -/
  vfAt : Nat
  /-- A droop stretches the clock; the power limit is exceeded. -/
  stretched : Bool
  overCap : Bool
  corr : Nat
  uncorr : Nat
  errhead : Nat
  ovf : Bool
  errent : Tbl Nat Nat
  suppress : Nat
  noframe : Nat
  synonym : Nat
  matErr : Nat
  rings : Tbl Nat FrameRing
  evctl : Nat
  hand : Nat
  busy : Bool
  everr : Nat
  aborts : Nat
  evicted : Nat
  /-- A backing frame that an aborted eviction kept (R126). -/
  spare : Option Nat
  evict : Option Evict
  /-- First address at which the running reclaim began, and whether it has wrapped (R125). -/
  evFrom : Nat
  evWrap : Bool
  bushel : Nat
  rferr : Tbl Nat Nat
  remap : Tbl Nat Nat
  /-- Translation epoch (R126). -/
  epoch : Nat
  deriving DecidableEq, Repr

/-- The registers of the package outside the bays. -/
structure Regs where
  stage : Nat
  booterr : Nat
  svn : Nat
  pwrcap : Nat
  adminbase : Nat
  adminsize : Nat
  adminhead : Nat
  admintail : Nat
  run : Bool
  badbell : Nat
  /-- The admin command that runs (Table host-5). -/
  acmd : Nat
  abusy : Bool
  /-- A fabric-fatal error has stopped both rings (R99). -/
  fatal : Bool
  combwin : Nat
  sched : Nat
  matrix : Nat
  khl : LinkStat
  kfl : Tbl Nat LinkStat
  /-- Held lower halves of 128-bit registers, by offset (R103). -/
  lowHeld : Tbl Nat Nat
  /-- Snapshots taken by reads of lower halves. -/
  snap : Tbl Nat Nat
  /-- The value that the last window or BAR read returned to the host. -/
  readback : List Byte
  /-- The base address registers of the function, by BAR index: the base that the host has set (R100). -/
  bars : Tbl Nat Nat
  deriving DecidableEq, Repr

/-- Fuses, flash, keys and measurements (R26 to R29). -/
structure Identity where
  rootDigest : List Byte
  seed : List Byte
  seedLocked : Bool
  defects : List Nat
  certificate : List Byte
  publicKey : List Byte
  /-- The KHA-2 flash images: header key, signature, security version, body, for stage 1 and the bay firmware. -/
  images : List (List Byte × List Byte × Nat × List Byte)
  meas : List (List Byte)
  reply : List Byte
  deriving DecidableEq, Repr

/-- The last error-log write of a port for one page and kind (R123). -/
structure XLog where
  port : Nat
  ctx : Nat
  page : Nat
  kind : Nat
  time : Nat
  deriving DecidableEq, Repr

/-- An error of a memory, a register file, a crossing or an array, which strikes from outside the rules (R14, R46, R198, R202, R245). `fixed` says that the check corrected it. -/
inductive Upset where
  /-- A corrected error of a stack, slice, tree cache, crossing or local memory of a bay. -/
  | corrected (bay : Nat)
  /-- An uncorrectable error in a half-burst of a stack. -/
  | stack (addr : Nat)
  /-- An uncorrectable error in a sector of a slice's copy of a line of device or host memory. -/
  | slice (host : Bool) (addr : Nat)
  /-- A double-bit error of a die crossing on a sector of the line that an access awaits. -/
  | crossing (acc sector : Nat)
  /-- The same on the half-burst that an engine, the command processor or a walk reads in the next step, or that a write or a write-back has just carried. -/
  | crossData (host : Bool) (addr : Nat) (write : Bool)
  /-- An uncorrectable word of scratchpad or cluster-shared memory: its memory and offset there, and the kind and number of the agent whose access found it, 7 and 0 for none (R202). -/
  | local_ (area : Area) (off : Nat) (reqKind reqId : Nat)
  /-- The same in a word that no team and no grid holds: its cluster, its core for scratchpad, and its offset in that memory (R202). -/
  | sram (cluster : Nat) (core : Option Nat) (off : Nat) (reqKind reqId : Nat)
  /-- A register word: v by thread and absolute register, x by set, index and element, or s. -/
  | reg (fixed : Bool) (team group lane reg : Nat)
  | xreg (fixed : Bool) (team set idx elem : Nat)
  | sreg (fixed : Bool) (team group reg : Nat)
  /-- An uncorrectable error in p, m, h, w, a latch, or a program counter or window value. -/
  | control (team group : Nat)
  /-- A residue mismatch on a pass of an operation: the tile elements that the pass writes. -/
  | residue (fixed : Bool) (bay arr op : Nat) (els : List (Nat × Nat × Nat))
  /-- An error in a tile or plane word, found by an operation. -/
  | tileEcc (fixed : Bool) (bay arr op tile row col : Nat)
  | planeEcc (fixed : Bool) (bay arr op plane : Nat)
  /-- A double-bit error on the operand queue, in a row that an operation streams. -/
  | operand (op row : Nat)
  deriving DecidableEq, Repr

/-- The state of the package. -/
structure State where
  cur : Cur
  ev : EvArg
  /-- The model's own record of the order key of the event that runs. -/
  evKey : Nat
  /-- The model's own counter of free values used. -/
  tick : Nat
  /-- Network time (R340). -/
  ncyc : Nat
  /-- A-cycles of each bay since its release at bring-up (R340). -/
  acyc : Tbl Nat Nat
  agenda : List Due
  teams : Tbl Nat Team
  sets : Tbl (Nat × Nat) GSet
  groups : Tbl (Nat × Nat) Group
  threads : Tbl (Nat × Nat × Nat) Thread
  grids : Tbl Nat Grid
  /-- Cluster-shared segments by (grid, cluster) (R142). -/
  clsh : Tbl (Nat × Nat) LMem
  /-- What the teams that have exited left in their allotments and barriers, each until another team takes one of its units (R143, R325). -/
  left : Tbl Nat Team
  pipes : Tbl (Nat × Nat × Nat) Pipe
  /-- While a core issues: the pipe of its slot, and whether a group has entered the slot already (R150). -/
  slot : Option (Nat × Bool)
  /-- The a-cycle at which an engine of a core took its last slot, by cluster, core and engine (IDLE, R149). -/
  engAt : Tbl (Nat × Nat × Nat) Nat
  /-- The slots in a load/store unit's input queue, by the a-cycles at which their last beats leave it (Table sched-4). -/
  lsq : Tbl (Nat × Nat) (List Nat)
  /-- The context that each Span core issued last, by global Span core (R164). -/
  spanLast : Tbl Nat Nat
  failed : List FailRec
  ctxs : Tbl Nat CtxRec
  /-- SIMT.CFG (Table core-2). -/
  rjto : Nat
  lathi : Nat
  latlo : Nat
  /-- Device memory by device address, and host memory by host physical address: bytes other than 0, ascending. -/
  mem : List Host.Cell
  hmem : List Host.Cell
  /-- Pieces that were overwritten while a grid ran. -/
  oldCode : List OldPiece
  /-- Poisoned half-bursts of 32 bytes: 2 · number, plus 1 for host memory (R415). -/
  bad : List Nat
  /-- The poisoned sectors of the slices' copies, numbered in the same way (R415). -/
  sbad : List Nat
  /-- Half-bursts whose data a crossing turns to poison in the step that follows (R46). -/
  crossed : List Nat
  /-- The next number of an access, a message or another record. -/
  nextId : Nat
  accs : Tbl Nat Acc
  tracks : Tbl Nat Track
  wcs : Tbl (Nat × Nat × Nat) Wcs
  l1 : Tbl (Nat × Nat × Nat) L1Line
  slices : Tbl (Nat × Nat) SliceLn
  trees : Tbl (Nat × Nat × Nat) Tree
  msgs : Tbl Nat Msg
  combs : List Comb
  /-- Contributors of forwarded combine entries, by entry (R73). -/
  combSent : Tbl Nat (List Nat)
  /-- Next index of each ordered series by (context, element), and the contributions held (R222). -/
  ords : Tbl (Nat × Nat) Nat
  ordHeld : List OrdHeld
  /-- Placement caches and attribute caches of the interfaces: clusters 0 to 127, I/O dies 128 and 129, by (interface, context, VA[56:16]). -/
  plc : Tbl (Nat × Nat × Nat) Nat
  atc : Tbl (Nat × Nat × Nat) Attr
  /-- Translation caches of the ports 0 to 127 and of I/O die 0 (128), oldest first. -/
  tlb : List (Nat × Xl)
  maps : List MapRec
  walks : List Walk
  /-- Frames being zeroed: context, VA of the page. -/
  zeroing : List (Nat × Nat)
  xlogs : List XLog
  hsect : List HostSector
  objs : Tbl Nat ObjEnt
  xfers : List Xfer
  putxs : List PutX
  flips : List Flip
  bays : Tbl Nat Bay
  regs : Regs
  ident : Identity
  /-- Asynchronous operations by number, in order of issue. -/
  ops : Tbl Nat AOp
  /-- Commands that no wait has observed, and the words that are timed (R214, R211). -/
  doneOps : List DoneOp
  timed : List TimedWord
  /-- Firkin table slots by cluster and slot (R217). -/
  firkin : Tbl (Nat × Nat) FkSlot
  /-- Arrays by bay and 8·y + x; an absent one was never used. -/
  arrays : Tbl (Nat × Nat) MArray
  runs : Tbl Nat Run
  tasks : List Task
  /-- Round-robin pointers by dispatcher and VIEW (R147). -/
  ptrs : Tbl (Nat × Nat) Nat
  /-- Sensor of each SIMT core in °C, and the network times of its droop events (R145). -/
  coreTemp : Tbl Nat Nat
  coreDroop : Tbl Nat (List Nat)
  /-- The context that used each 4 KiB unit of a core's SRAM last as scratchpad, 0 none, by cluster and core (R143). -/
  spadUsers : Tbl (Nat × Nat) (List Nat)
  notices : List Notice
  /-- Writes of host memory that the KHL's training holds back, oldest first: address and bytes (R33). -/
  posted : List (Nat × List Byte)
  /-- Errors that are to strike, with their network times. -/
  upsets : List (Nat × Upset)
  deriving DecidableEq, Repr

/-! ### Reset (R26, and the reset columns of the register tables) -/

/-- A bay at reset (Tables package-5, package-6, fabric-9 and xlate-5 to xlate-10). -/
def Bay.zero : Bay :=
  { temp := 0, droopcnt := 0, therm := 0, freq := 80, fmax := 120, fmin := 80, vfAt := 0, stretched := false, overCap := false,
    corr := 0, uncorr := 0, errhead := 0, ovf := false, errent := [], suppress := 0, noframe := 0, synonym := 0,
    matErr := 0, rings := [], evctl := 0, hand := 0, busy := false, everr := 0, aborts := 0, evicted := 0,
    spare := none, evict := none, evFrom := 0, evWrap := false, bushel := 0, rferr := [], remap := [], epoch := 0 }

/-- A link at reset (Table links-3). -/
def LinkStat.zero : LinkStat :=
  { state := 0, width := 0, retrain := 0, replay := 0, feccorr := 0, fails := 0, bad := 0, next := 0, acked := 0,
    buffer := [], training := false, replaying := false, txNext := 0, held := [], wire := [], got := [], eq := [] }

/-- The registers of the window at reset: PKG.PWRCAP 3000, MESH.COMBWIN on with 2048, SCHED.CFG with AGECAP 256, WTEMP 4, WDROOP 16 and DEV 2, MATRIX.CFG with RODTO 0x10_0000 (Tables package-7, fabric-8, sched-3, matrix-4). Table host-15 gives the base address registers no reset value: that all three hold 0 is the model's choice (log entry 74). -/
def Regs.zero : Regs :=
  { stage := 0, booterr := 0, svn := 0, pwrcap := 3000, adminbase := 0, adminsize := 0, adminhead := 0, admintail := 0,
    run := false, badbell := 0, acmd := 0, abusy := false, fatal := false,
    combwin := 2147485696, sched := 72062060803915778, matrix := 1152921504606846976,
    khl := .zero, kfl := [], lowHeld := [], snap := [], readback := [], bars := [(0, 0), (2, 0), (4, 0)] }

/-- A part without fuses burnt and without images in the flash of its KHA-2. -/
def Identity.zero : Identity :=
  { rootDigest := [], seed := [], seedLocked := false, defects := [], certificate := [], publicKey := [], images := [],
    meas := List.replicate 8 (List.replicate 32 0), reply := [] }

/-- The part in reset: nothing is brought up, nothing runs, and no input has arrived. SIMT.CFG holds RJTO 0x10_0000, LATHI 8192 and LATLO 1024 (Table core-2). -/
def State.reset : State :=
  { cur := ⟨0, 0, []⟩, ev := ⟨0, 0, 0, []⟩, evKey := 0, tick := 0, ncyc := 0, acyc := [], agenda := [], teams := [], sets := [],
    groups := [], threads := [], grids := [], clsh := [], left := [], pipes := [], slot := none, engAt := [], lsq := [], spanLast := [], failed := [], ctxs := [], rjto := 1048576,
    lathi := 8192, latlo := 1024, mem := [], hmem := [], oldCode := [], bad := [], sbad := [], crossed := [], nextId := 1, accs := [], tracks := [], wcs := [],
    l1 := [], slices := [], trees := [], msgs := [], combs := [], combSent := [], ords := [], ordHeld := [], plc := [],
    atc := [], tlb := [], maps := [], walks := [], zeroing := [], xlogs := [], hsect := [], objs := [], xfers := [], putxs := [],
    flips := [], bays := [], regs := .zero, ident := .zero, ops := [], doneOps := [], timed := [], firkin := [], arrays := [], runs := [],
    tasks := [], ptrs := [], coreTemp := [], coreDroop := [], spadUsers := [], notices := [], posted := [], upsets := [] }

end Sys2Proof.Machine
end

