-- ==== Sys2Proof/Machine/Ops.lean ====
section
/-! DEFINITION. The shared operations on registers, issue sets, traps and rendezvous (R165-R199, R268-R291, R318). -/

namespace Sys2Proof.Machine

/-! ### Access to the tables -/

/-- Key of a thread: team, group, thread number. -/
abbrev TKey := Nat × Nat × Nat

/-- A thread that never lived. -/
def Thread.blank : Thread :=
  ⟨false, 0, 0, 0, 0, 64, [], 0x80#8, 0, 0, 0, .none, 0, .none, .none, 0, 0, 0, 0, [], [], [], [], [], []⟩

/-- A trap frame at reset (Table core-4). -/
def TrapFrame.zero : TrapFrame := ⟨false, 0, 0, 0, 0, 0, 0, 0, 0⟩

/-- A group that holds nothing. -/
def Group.blank : Group :=
  { width := 16, sregs := [], masks := [], shapes := [], cnt := [], trap := .zero, handler := [], setNo := .none, prod := false,
    stallUntil := 0, skip := .none, passed := [], age := 0, ageAt := 0, slot := 0, timers := [], waits := [], part := [],
    lastPipe := 0, pendS := [], inflightS := [], inflightM := [], sigDue := [], unfenced := [] }

/-- An allotment without bytes. -/
def LMem.empty : LMem := ⟨[], [], .none⟩

/-- A team that was never placed. -/
def Team.blank : Team :=
  { ctx := 0, grid := 0, lin := 0, cluster := 0, core := 0, slot := 0, spad := .empty, bars := [], rdv := .none, token := .none,
    tokenAt := 0, tokenOld := .none, ej := 0, winStart := 0, winCount := 0, winLat := 0, ox := 0, oy := 0, split := 0, halted := false, saved := false, haltAt := 0,
    units := [], home := .none }

/-- A launch description with every field 0. -/
def Launch.blank : Launch := ⟨0, 0, 0, [], 0, 16, 1, 0, 64, 64, 0, 65536, 0, 0, 0, .none, 0, 0⟩

/-- A grid that was never launched. -/
def Grid.blank : Grid := ⟨0, 0, .blank, 0, 0, 1, 1, 1, 0, 0, 0, 0, false, 0⟩

def State.thr (s : State) (k : TKey) : Thread := s.threads.getD k .blank
def State.grp (s : State) (t g : Nat) : Group := s.groups.getD (t, g) .blank
def State.team (s : State) (t : Nat) : Team := s.teams.getD t .blank
def State.grid (s : State) (t : Nat) : Grid := s.grids.getD (s.team t).grid .blank
def State.launch (s : State) (t : Nat) : Launch := (s.grid t).launch

/-- Replace a thread. -/
def State.setThr (s : State) (k : TKey) (t : Thread) : State := { s with threads := s.threads.set k t }
/-- Change a thread. -/
def State.modThr (s : State) (k : TKey) (f : Thread → Thread) : State := s.setThr k (f (s.thr k))
/-- Change a group. -/
def State.modGrp (s : State) (t g : Nat) (f : Group → Group) : State :=
  { s with groups := s.groups.set (t, g) (f (s.grp t g)) }
/-- Change a team. -/
def State.modTeam (s : State) (t : Nat) (f : Team → Team) : State :=
  { s with teams := s.teams.set t (f (s.team t)) }

/-- Apply a change to each element of a list in turn. -/
def forEach {α : Type} (l : List α) (f : State → α → State) (s : State) : State := l.foldl f s

/-- Change each listed thread of a group. -/
def State.modThrs (s : State) (t g : Nat) (l : List Nat) (f : Thread → Thread) : State :=
  forEach l (fun s i => s.modThr (t, g, i) f) s

/-- The next free value and the state that has used it (R6). -/
def State.fresh (s : State) : State := { s with tick := s.tick + 1 }

/-- An event to happen as soon as its turn comes. -/
def State.push (s : State) (ev : Instr) (arg : EvArg) : State :=
  { s with agenda := s.agenda ++ [⟨ev, arg, s.ncyc, 0⟩] }

/-- The event that runs must wait: it stands in its place in the order again, and is tried again later. -/
def State.keep (s : State) (ev : Instr) : State := { s with agenda := ⟨ev, s.ev, s.ncyc, s.evKey⟩ :: s.agenda }

/-- An event with only a record number. -/
def EvArg.ofK (k : Nat) : EvArg := ⟨k, 0, 0, []⟩

/-- The bay of a global cluster number (R12). -/
def bayOf (cluster : Nat) : Nat := cluster / 16

/-- A-cycles of the bay that runs a team. -/
def State.now (s : State) (t : Nat) : Nat := s.acyc.getD (bayOf (s.team t).cluster) 0

/-- The group that holds a team's token now: a change takes effect in the a-cycle after the instruction that made it (R153). -/
def State.tokenOf (s : State) (t : Nat) : Option Nat :=
  let T := s.team t
  if s.now t < T.tokenAt then T.tokenOld else T.token

/-- The team's token changes hands, from the next a-cycle on (R153, R334). -/
def setHolder (t : Nat) (h : Option Nat) (s : State) : State :=
  let now := s.now t
  let old := s.tokenOf t
  s.modTeam t (fun T => { T with token := h, tokenOld := old, tokenAt := now + 1 })

/-- The live threads of a group, ascending (R165). -/
def State.liveThr (s : State) (t g : Nat) : List Nat :=
  (upFrom 0 (s.grp t g).width).filter (fun i => (s.thr (t, g, i)).live)

/-- Whether a thread is ejected (R180). -/
def State.ejected (s : State) (k : TKey) : Bool := (s.thr k).span.isSome

/-- The groups of a team that have a live thread (R188). -/
def State.liveGroups (s : State) (t : Nat) : List Nat :=
  (upFrom 0 (s.launch t).groups).filter (fun g => !(s.liveThr t g).isEmpty)

/-- The set a group belongs to. -/
def State.setOf (s : State) (t g : Nat) : Option Nat := (s.grp t g).setNo

/-- A set's state. -/
def State.gset (s : State) (t n : Nat) : GSet := s.sets.getD (t, n) ⟨[], [], [], .none, []⟩

/-- Change a set's state. -/
def State.modSet (s : State) (t n : Nat) (f : GSet → GSet) : State :=
  { s with sets := s.sets.set (t, n) (f (s.gset t n)) }

/-! ### Register stacks (R168) -/

/-- The word of an absolute register. -/
def Thread.abs (t : Thread) (n : Nat) : PWord := t.regs.getD (n % t.depth) ⟨0, false⟩

/-- Write an absolute register; its poison becomes `p`. -/
def Thread.setAbs (t : Thread) (n : Nat) (v : Word) (p : Bool) : Thread :=
  { t with regs := t.regs.set (n % t.depth) ⟨v, p⟩ }

/-- Register `vk` of the window. -/
def Thread.v (t : Thread) (k : Nat) : PWord := t.abs (t.wb + k)

/-- Predicate `pn`; p7 is always true (R172). -/
def Thread.pred (t : Thread) (n : Nat) : Bool := n == 7 || t.preds.getLsbD n

/-- Write a predicate; a write to p7 is ignored (R172). -/
def Thread.setPred (t : Thread) (n : Nat) (b : Bool) : Thread :=
  if n == 7 then t else { t with preds := BitVec.ofNat 8 (setBit t.preds.toNat n b) }

/-- An s register of a group. -/
def Group.s (g : Group) (n : Nat) : SWord := g.sregs.getD n ⟨0, false⟩

/-- A mask register of a group. -/
def Group.mask (g : Group) (n : Nat) : MaskReg := g.masks.getD n ⟨0, 0⟩

/-- A dependency counter of a group. -/
def Group.w (g : Group) (n : Nat) : Nat := g.cnt.getD n 0

/-- Write an s register, clearing its poison. -/
def State.setS (s : State) (t g n : Nat) (v : Nat) : State :=
  s.modGrp t g (fun G => { G with sregs := G.sregs.set n ⟨BitVec.ofNat 64 v, false⟩ })

/-- An element of an x register of a team's set. -/
def State.x (s : State) (t n idx lane : Nat) : PWord := (s.gset t n).xregs.getD (idx, lane) ⟨0, false⟩

/-- The value of a dependency counter: what its operations still owe, and the fixed completions to come (R175). -/
def State.counter (s : State) (t g n : Nat) : Nat :=
  let G := s.grp t g
  G.w n + (G.sigDue.filter (fun x => x.1 == n && decide (s.now t < x.2))).length

/-! ### Operand selectors (R275, Table enc-3) -/

/-- The class of a selector. -/
def cls (sel : Nat) : Nat := bits sel 8 6
/-- The index of a selector. -/
def idx (sel : Nat) : Nat := bits sel 5 0
/-- Whether a destination suppresses its write-back (R276). -/
def isSwb (sel : Nat) : Bool := bit sel 9

/-- An operand field of an instruction: its number in INFO, the classes it accepts (`zero` is 60, `zero` and `tid` are 61, h is 62, an even s register is 22, consecutive s registers are 23, and 24 when aligned to their number), the registers it spans, and its direction. -/
structure Opd where
  field : Nat
  sel : Nat
  allow : List Nat
  n : Nat
  dst : Bool
  swb : Bool
  deriving DecidableEq, Repr

/-- The source classes of major 0x10 (Table comp-1). -/
def aluCls : List Nat := [0, 1, 2, 5, 61, 7]

/-- A source operand. -/
def src (field sel n : Nat) (allow : List Nat) : Opd := ⟨field, sel, allow, n, false, false⟩
/-- A destination operand without write-back suppression. -/
def dst (field sel n : Nat) (allow : List Nat) : Opd := ⟨field, sel, allow, n, true, false⟩
/-- A destination operand that accepts SWB (R276). -/
def dstSwb (sel n : Nat) : Opd := ⟨0, sel, [0], n, true, true⟩

/-- Whether the index lies inside its class (Table enc-3). -/
def idxOk (c i n : Nat) : Bool :=
  match c with
  | 0 => i % (if n < 4 then n else 4) == 0 && decide (i + n ≤ 64)
  | 1 => i % n == 0 && decide (i + n ≤ 16)
  | 2 => decide (i < 24)
  | 3 => decide (i < 8)
  | 4 => decide (i < 12)
  | 5 => decide (i < 3)
  | 6 => decide (i < 22) || i == 32 || i == 33
  | _ => true

/-- Whether the operand accepts the selector's class. -/
def clsOk (allow : List Nat) (c i n : Nat) : Bool :=
  if c == 6 then
    (i == 32 && (allow.contains 60 || allow.contains 61)) || (i == 33 && allow.contains 61)
      || (decide (i < 16) && allow.contains 62)
  else if c == 2 then
    allow.contains 2 || (allow.contains 22 && i % 2 == 0 && decide (i < 23))
      || (allow.contains 23 && decide (i + n ≤ 24)) || (allow.contains 24 && i % n == 0 && decide (i + n ≤ 24))
  else allow.contains c

/-- R275-R277, R166, R167: the selector is one the operand accepts. `inSet`: the group belongs to a set; `setScope`: the instruction has set scope (R170). -/
def Opd.ok (o : Opd) (inSet setScope : Bool) : Bool :=
  if isSwb o.sel then o.dst && o.swb && bits o.sel 8 0 == 0
  else
    let c := cls o.sel
    let i := idx o.sel
    idxOk c i o.n && clsOk o.allow c i o.n && (c != 1 || (inSet && (!o.dst || setScope)))

/-- The first operand field that is not accepted, in the order of the list (R290, step 2). -/
def badField (l : List Opd) (inSet setScope : Bool) : Option Nat :=
  match l with
  | [] => none
  | o :: r => if o.ok inSet setScope then badField r inSet setScope else some o.field

/-! ### The executing instruction -/

/-- What an instruction executes with: its word's header, its issue set, and the members that take part (R176, R190). -/
structure Ctx where
  opc : Nat
  h : Hdr
  team : Nat
  group : Nat
  /-- The issue set and its active lanes. -/
  set : List Nat
  act : List Nat
  pc : Nat
  cd : Nat
  /-- The issue set is an ejected thread on its Span core. -/
  span : Bool
  /-- The group whose s registers are read (R190). -/
  lead : Nat
  /-- Every member group with its arrival lanes; only the own group at lane and group scope. -/
  mem : List (Nat × List Nat)
  /-- Engine of R148: 0 vector ALU, 1 transcendental, 2 load/store, 3 matrix issue, 4 engine commands. -/
  eng : Nat
  /-- The pipe that takes the slot (R173). -/
  pipe : Nat
  /-- A-cycles of one beat, and those for which its lanes occupy the pipe (R344). -/
  beat : Nat
  cyc : Nat
  /-- Latency of its results after its last beat (Table enc-2). -/
  lat : Nat
  /-- Its word. -/
  word : Nat
  deriving DecidableEq, Repr

/-- The index of a free choice about a register of a lane. -/
def laneIx (lane n : Nat) : Nat := 2 ^ 64 * lane + n

/-- What a reader may find while results that it does not wait for are in flight, those without scoreboard, or all for a reader that bypasses it: `cur`, or what the register held before one of them (R274). -/
def pick (now tick ix reg : Nat) (l : List InFlight) (cur : PWord) (byp : Bool) : PWord :=
  match l.filter (fun f => f.reg == reg && (f.nosb || byp) && decide (now < f.due)) with
  | [] => cur
  | m => (m.map (·.old)).getD (Config.freeChoice tick ix % (m.length + 1)) cur

/-- A predicate as an instruction of now reads it (R172, R274). -/
def State.pred (s : State) (k : TKey) (n : Nat) (byp : Bool) : Bool :=
  let t := s.thr k
  (pick (s.now k.1) s.tick (laneIx k.2.2 (2 ^ 32 + n)) n t.flyP ⟨BitVec.ofNat 32 (b2n (t.pred n)), false⟩ byp).v != 0

/-- Whether a lane's guard holds (R270). -/
def guardOk (h : Hdr) (s : State) (k : TKey) : Bool := s.pred k h.guard (h.nosb && (s.thr k).span.isNone) != h.gneg

/-- The key of a pipe of a team's core. -/
def State.pipeKey (s : State) (t p : Nat) : Nat × Nat × Nat := ((s.team t).cluster, (s.team t).core, p)

/-- A pipe's state; before its first slot it is free and belongs to no group of run 0. -/
def State.pipe (s : State) (t p : Nat) : Pipe := s.pipes.getD (s.pipeKey t p) ⟨[], [], 0, 0⟩

/-- A slot with lanes of some groups enters a pipe; or further groups join the slot that has entered it (R150). A group keeps the number of its run when the slot before held lanes of it too (R173). -/
def Pipe.take (p : Pipe) (join : Bool) (gs : List (Nat × Nat)) (now cyc : Nat) : Pipe :=
  let prev := if join then p.prev else p.groups
  { groups := gs.foldl (fun l g => l.set g (prev.getD g (p.run + 1))) (if join then p.groups else [])
    prev := prev
    run := p.run + 1
    busy := (if join then p.busy else now) + cyc }

/-- A pipe that can take a slot now (R148). -/
def State.pipeFree (s : State) (t p : Nat) : Bool := decide ((s.pipe t p).busy ≤ s.now t)

/-- The pipe a slot goes to: the transcendental pipe is number 8. The slot that is being issued has its pipe; another vector ALU slot goes to the pipe of the group's last slot when that is free, else to the first free one (R173). -/
def State.choosePipe (s : State) (t g eng : Nat) : Nat :=
  if eng == 1 then 8
  else
    match s.slot with
    | some (p, _) => p
    | none =>
      let p := (s.grp t g).lastPipe
      if s.pipeFree t p then p
      else
        match (upFrom 0 8).filter (s.pipeFree t) with
        | q :: _ => q
        | [] => p

/-- The beats of some lanes of a group: one of which every lane is outside `active` is skipped (R148). -/
def beatsOf (act : List Nat) : Nat := ((upFrom 0 8).filter (fun b => act.any (fun i => i / 16 == b))).length

/-- The type that an instruction of majors 0x10 to 0x19 computes in. -/
def typeOf (o : Opnds) : Nat :=
  match o with
  | .g o => o.ty
  | .i o => bits o.mod8 7 2
  | _ => 0

/-- A-cycles of one beat: 8 for an `f64` instruction, else 1 (R344). -/
def beatTime (opc : Nat) (o : Opnds) : Nat :=
  if decide (0x1000 ≤ opc) && decide (opc < 0x1A00) && tyBits (typeOf o) == 64 && (intTy (typeOf o)).isNone then 8 else 1

/-- A-cycles for which lanes occupy a pipe; an instruction of major 0x18 takes one whatever its lanes (R344). -/
def pipeTime (opc beat : Nat) (lanes : List (List Nat)) : Nat :=
  if opc / 256 == 0x18 then 1 else lanes.foldl (fun n l => n + beatsOf l * beat) 0

/-- The latency of a result (Table enc-2); that of majors 0x01 to 0x03 and of the memory instructions is variable (R274). -/
def latencyOf (eng opc tick : Nat) : Nat :=
  if eng == 1 then 16
  else if opc < 0x1000 || 0x2000 ≤ opc then 1 + Config.freeCycles (16 * tick + 15)
  else if opc / 256 == 0x18 then 2
  else if opc / 256 == 0x17 then 8
  else if [0x1005, 0x1006, 0x1085, 0x1086, 0x1208, 0x1209, 0x1288].contains opc then 24
  else 4

/-- The context of the current issue set, if it has a thread. -/
def mkCtx (i : Instr) (eng : Nat) (s : State) : Option Ctx :=
  match parts i, s.cur.set with
  | some (opc, h, o), i0 :: _ =>
    let t := s.cur.team
    let g := s.cur.group
    let th := s.thr (t, g, i0)
    let act := s.cur.set.filter (fun l => guardOk h s (t, g, l))
    let beat := beatTime opc o
    some ⟨opc, h, t, g, s.cur.set, act, th.pc, th.cd, th.span.isSome, g, [(g, act)], eng, s.choosePipe t g eng,
      beat, pipeTime opc beat [act], latencyOf eng opc s.tick, (encode i).getD 0⟩
  | _, _ => none

/-- Key of a lane of the executing group. -/
def Ctx.key (c : Ctx) (lane : Nat) : TKey := (c.team, c.group, lane)

/-- Every participating lane with its group, in ascending group and lane order (R190). -/
def Ctx.lanes (c : Ctx) : List (Nat × Nat) := c.mem.flatMap (fun m => m.2.map (fun l => (m.1, l)))

/-! ### Reading sources -/

/-- The instruction bypasses the scoreboard; an ejected thread has none (R182, R274). -/
def Ctx.nosb (c : Ctx) : Bool := c.h.nosb && !c.span

/-- A source value with its poison. -/
structure RVal where
  v : Nat
  p : Bool
  deriving DecidableEq, Repr

/-- A word of a thread's stack as an instruction of now reads it (R274). -/
def Thread.read (t : Thread) (now tick lane : Nat) (byp : Bool) (n : Nat) : PWord := pick now tick (laneIx lane n) n t.inflight (t.abs n) byp

/-- Two or more consecutive registers as one value, low register first (R167). -/
def readRegs (f : Nat → PWord) : Nat → Nat → RVal
  | 0, _ => ⟨0, false⟩
  | n + 1, k =>
    let w := f k
    let r := readRegs f n (k + 1)
    ⟨w.v.toNat + 2 ^ 32 * r.v, w.p || r.p⟩

/-- A bypass latch under the pipe condition of R173; otherwise an undefined value. -/
def readLatch (c : Ctx) (s : State) (g lane i : Nat) : Nat :=
  let t := s.thr (c.team, g, lane)
  let pi := s.pipe c.team c.pipe
  let ok := decide (i < t.latN) && (match t.latPipe with
    | some (p, run) => c.span || (p == c.pipe && pi.groups.get? (c.team, g) == some run)
    | none => false)
  if ok then (if i == 0 then t.l0 else if i == 1 then t.l1 else t.l2).toNat
  else Config.freeWord s.tick (1000 * lane + i) % 2 ^ 64

/-- A short immediate as a pattern of the source type (R277). -/
def shortImm (ty i : Nat) : Nat :=
  match intTy ty with
  | some (_, n) => wrapN n (sext 6 i)
  | none => roundTo ty 0 (.ofInt (sext 6 i))

/-- An s register as an instruction of now reads it (R274). -/
def State.readGrpS (s : State) (t g n : Nat) (byp : Bool) : SWord :=
  let G := s.grp t g
  match G.inflightS.filter (fun f => f.reg == n && (f.nosb || byp) && decide (s.now t < f.due)) with
  | [] => G.s n
  | m => (m.map (·.old)).getD (Config.freeChoice s.tick (laneIx 256 n) % (m.length + 1)) (G.s n)

/-- An element of an x register as an instruction of now reads it: every write gives all the elements, and one choice holds for them all (R274). -/
def State.readX (s : State) (t st n lane : Nat) (byp : Bool) : PWord :=
  match (s.gset t st).flyX.filter (fun f => f.reg == n && f.elem == lane && (f.nosb || byp) && decide (s.now t < f.due)) with
  | [] => s.x t st n lane
  | m => (m.map (·.old)).getD (Config.freeChoice s.tick (laneIx 1024 n) % (m.length + 1)) (s.x t st n lane)

/-- A mask as an instruction of now reads it (R274). -/
def State.readM (s : State) (t g n : Nat) (byp : Bool) : MaskReg :=
  let G := s.grp t g
  match G.inflightM.filter (fun f => f.reg == n && (f.nosb || byp) && decide (s.now t < f.due)) with
  | [] => G.mask n
  | m => (m.map (·.old)).getD (Config.freeChoice s.tick (laneIx 1200 n) % (m.length + 1)) (G.mask n)

/-- The s register a source names: of the lead group, or the snapshot of an ejected thread (R182, R190). -/
def readS (c : Ctx) (s : State) (lane n : Nat) : SWord :=
  if c.span then
    match (s.thr (c.key lane)).span with
    | some sp => sp.snap.getD n ⟨0, false⟩
    | none => s.readGrpS c.team c.lead n c.nosb
  else s.readGrpS c.team c.lead n c.nosb

/-- The value of a source selector in a lane, `n` registers wide, for a source of type `ty` (R275-R277, R346). -/
def readSel (c : Ctx) (s : State) (g lane sel n ty : Nat) : RVal :=
  let i := idx sel
  let t := s.thr (c.team, g, lane)
  match cls sel with
  | 0 => readRegs (t.read (s.now c.team) s.tick lane c.nosb) n (t.wb + i)
  | 1 =>
    match s.setOf c.team g with
    | some st => readRegs (fun k => s.readX c.team st k lane c.nosb) n i
    | none => ⟨0, false⟩
  | 2 =>
    let w := readS c s lane i
    ⟨w.v.toNat, w.p⟩
  | 3 => ⟨b2n (s.pred (c.team, g, lane) i c.nosb), false⟩
  | 5 => ⟨readLatch c s g lane i, false⟩
  | 6 => ⟨if i == 33 then lane else 0, false⟩
  | 7 => ⟨shortImm ty i, false⟩
  | _ => ⟨0, false⟩

/-- A uniform source: an s register, a short immediate or zero, as the lead group has it. -/
def readU (c : Ctx) (s : State) (sel ty : Nat) : RVal := readSel c s c.lead (c.set.headD 0) sel 2 ty

/-! ### Writing destinations -/

/-- A-cycle from which a result is usable: the latency counts after the last beat (Table enc-2). -/
def Ctx.due (c : Ctx) (now : Nat) : Nat := now + (c.cyc - 1) + c.lat

/-- The results in flight after one more; those whose time has passed go. -/
def fly (c : Ctx) (now n : Nat) (old : PWord) (l : List InFlight) : List InFlight :=
  ⟨n, old, c.due now, c.nosb⟩ :: l.filter (fun f => decide (now < f.due))

/-- Two writes of one register are in flight and one of them bypasses the scoreboard: which one stays is open (R274). -/
def clashes (c : Ctx) (now n : Nat) (l : List InFlight) : Bool :=
  l.any (fun f => f.reg == n && decide (now < f.due) && (c.nosb || f.nosb))

/-- Outstanding returns for a register that this write, by free choice, outlasts (R274). -/
def outlast (c : Ctx) (tick ix : Nat) (same : Nat → Bool) (l : List Pending) : List Pending :=
  l.map (fun p => if same p.reg && (c.nosb || p.nosb) && Config.freeChoice tick ix % 2 == 0 then { p with lost := true } else p)

/-- Write one window register of a lane, clearing its poison (R196, R274). -/
def putV (c : Ctx) (g lane k : Nat) (v : Nat) (s : State) : State :=
  let now := s.now c.team
  s.modThr (c.team, g, lane) (fun t =>
    let n := t.wb + k
    let ix := laneIx (512 + lane) n
    let t' := if clashes c now n t.inflight && Config.freeChoice s.tick ix % 2 == 0 then t
      else t.setAbs n (BitVec.ofNat 32 v) false
    { t' with
      inflight := fly c now n (t.abs n) t.inflight
      pend := outlast c s.tick ix (fun r => r % t.depth == n % t.depth) t.pend })

/-- Write a predicate of a lane (R172, R274). -/
def putP (c : Ctx) (g lane n : Nat) (b : Bool) (s : State) : State :=
  let now := s.now c.team
  s.modThr (c.team, g, lane) (fun t =>
    if n == 7 then t
    else
      let t' := if clashes c now n t.flyP && Config.freeChoice s.tick (laneIx (512 + lane) (2 ^ 32 + n)) % 2 == 0 then t
        else t.setPred n b
      { t' with flyP := fly c now n ⟨BitVec.ofNat 32 (b2n (t.pred n)), false⟩ t.flyP })

/-- Write an s register of a group, clearing its poison (R274). -/
def putS (c : Ctx) (g n v : Nat) (s : State) : State :=
  let now := s.now c.team
  let ix := laneIx 768 n
  s.modGrp c.team g (fun G =>
    let flying := G.inflightS.filter (fun f => decide (now < f.due))
    let stays := flying.any (fun f => f.reg == n && (c.nosb || f.nosb)) && Config.freeChoice s.tick ix % 2 == 0
    { G with
      sregs := if stays then G.sregs else G.sregs.set n ⟨BitVec.ofNat 64 v, false⟩
      inflightS := ⟨n, G.s n, c.due now, c.nosb⟩ :: flying
      pendS := outlast c s.tick ix (fun r => r == n) G.pendS })

/-- Write `n` consecutive window registers, low register first. -/
def putVs (c : Ctx) (g lane k : Nat) : Nat → Nat → State → State
  | 0, _, s => s
  | n + 1, v, s => putVs c g lane (k + 1) n (v / 2 ^ 32) (putV c g lane k (v % 2 ^ 32) s)

/-- Shift the latches of a lane: those that an earlier run of slots wrote are undefined from now on (R173). -/
def shiftLatch (c : Ctx) (g lane v : Nat) (s : State) : State :=
  let at_ := some (c.pipe, if c.span then 0 else (s.pipe c.team c.pipe).groups.getD (c.team, g) 0)
  s.modThr (c.team, g, lane) (fun t =>
    { t with l2 := t.l1, l1 := t.l0, l0 := BitVec.ofNat 64 v, latPipe := at_, latN := if t.latPipe == at_ then (if t.latN < 3 then t.latN + 1 else 3) else 1 })

/-- How a result fills its destination: whole registers, or `w` bits at bit `lo` with the rest kept (R346, R357). -/
inductive Fill where
  | regs (n : Nat)
  | part (lo w : Nat)
  deriving DecidableEq, Repr

/-- Write a per-lane result to a class 0 destination, or to l0 with SWB, and shift the latches (R173, R276, R346). -/
def putLane (c : Ctx) (g lane sel : Nat) (fl : Fill) (v : Nat) (s : State) : State :=
  let s := if isSwb sel then s
    else
      match fl with
      | .regs n => putVs c g lane (idx sel) n v s
      | .part lo w =>
        let old := (s.thr (c.team, g, lane)).v (idx sel)
        putV c g lane (idx sel) (setBits old.v.toNat (lo + w - 1) lo v) s
  shiftLatch c g lane v s

/-- The registers a type fills, or its low bits (R346). -/
def fillOf (ty : Nat) : Fill :=
  if tyBits ty == 64 then .regs 2 else if tyBits ty == 32 then .regs 1 else .part 0 (tyBits ty)

/-- The number of registers a source of a type spans (R346). -/
def regsOf (ty : Nat) : Nat := if tyBits ty == 64 then 2 else 1

/-- Write an x register of the executing set from a value for each lane of the lead group; elements beyond WIDTH become 0 (R170). -/
def putX (c : Ctx) (k n : Nat) (val : Nat → Nat) (s : State) : State :=
  match s.setOf c.team c.lead with
  | none => s
  | some st =>
    let w := (s.grp c.team c.lead).width
    let now := s.now c.team
    s.modSet c.team st (fun S =>
      let flying := S.flyX.filter (fun f => decide (now < f.due))
      let stays := fun (r e : Nat) => flying.any (fun f => f.reg == r && f.elem == e && (c.nosb || f.nosb))
        && Config.freeChoice s.tick (laneIx 1400 r) % 2 == 0
      { S with
        xregs := (upFrom 0 128).foldl (fun x e =>
          (upFrom 0 n).foldl (fun x j =>
            if stays (k + j) e then x
            else x.set (k + j, e) ⟨BitVec.ofNat 32 (if e < w then val e / 2 ^ (32 * j) else 0), false⟩) x) S.xregs
        flyX := if c.nosb || !flying.isEmpty then
            (upFrom 0 128).flatMap (fun e => (upFrom k n).map (fun r =>
              (⟨r, e, S.xregs.getD (r, e) ⟨0, false⟩, c.due now, c.nosb⟩ : InFlightX))) ++ flying
          else flying })

/-! ### Traps (R193-R195) -/

/-- A condition that an instruction met: trap code, INFO, VA, lanes and member group. -/
structure Trap where
  kind : Nat
  info : Nat
  va : Nat
  lanes : List Nat
  group : Nat
  deriving DecidableEq, Repr

/-- The condition with the lowest code; the first of equals (R193). -/
def lowest : List Trap → Option Trap
  | [] => none
  | t :: r =>
    match lowest r with
    | none => some t
    | some u => if u.kind < t.kind then some u else some t

/-- The handler entry of a team, or none (R194, Table enc-8). -/
def State.handlerEntry (s : State) (t : Nat) : Option Nat :=
  let G := s.grid t
  if G.launch.handler == 0 then none else some ((G.code + G.launch.handler) % 2 ^ 64)

/-- End every team of a grid: no thread issues further; operations in flight complete (R96). -/
def State.killGrid (s : State) (gr : Nat) : State :=
  let ts := (s.teams.filter (fun e => e.2.grid == gr)).map Prod.fst
  { s with
    threads := s.threads.map (fun e => if ts.contains e.1.1 then (e.1, { e.2 with live := false, wait := .none, span := .none }) else e)
    grids := s.grids.map (fun e => if e.1 == gr then (e.1, { e.2 with ended := true }) else e) }

/-- R96: an unresolved trap ends the grid and leaves the failure of its node, with code 2 and one fault record, for the exit of its last team. -/
def unresolved (t : Nat) (f : TrapFrame) (s : State) : State :=
  let gr := (s.team t).grid
  let G := s.grid t
  if G.ended then s
  else
    let s := s.killGrid gr
    let s := { s with failed := s.failed ++ [⟨gr, 2, (s.team t).lin, f⟩] }
    forEach ((s.teams.filter (fun e => e.2.grid == gr)).map Prod.fst) (fun s k => s.push .teamExit (.ofK k)) s

/-- R194, R195: taking a trap. The frame is written, ACTIVE set, and the threads of the issue set go to the handler; their latches become undefined. The window, the predicates and the masks stay. -/
def enterTrap (t g : Nat) (set : List Nat) (scope pc cd : Nat) (tr : Trap) (s : State) : State :=
  let f : TrapFrame :=
    ⟨true, tr.kind, scope, tr.group, cd, tr.info % 2 ^ 32, pc, tr.va % 2 ^ 57, lanesOf tr.lanes⟩
  if (s.grp t g).trap.active then unresolved t f s
  else
    match s.handlerEntry t with
    | none => unresolved t f s
    | some e =>
      let s := s.modGrp t g (fun G => { G with trap := f, handler := set })
      s.modThrs t g set (fun th =>
        { th with pc := e, wait := .none, latPipe := none, storeErr := if tr.kind == 14 then [] else th.storeErr })

/-! ### Recall of an ejected thread (R183) -/

/-- Ask for a thread's recall; it issues nothing until the copy back has ended. -/
def askRecall (t g lane : Nat) (s : State) : State :=
  (s.modThr (t, g, lane) (fun th => { th with wait := .moving })).push .threadRecall ⟨t, g, lane, []⟩

/-! ### Issue -/

/-- What an instruction adds to the shared issue rules. -/
structure Desc where
  opds : List Opd
  /-- Needs a uniform-converged issue set besides what its operands need (R171, R345). -/
  unif : Bool := false
  /-- Needs every live thread in `active` (R389). -/
  full : Bool := false
  /-- Set or team scope without a rendezvous (R332). -/
  alone : Bool := false
  /-- Carries `.part` (R189). -/
  part : Bool := false
  /-- Recalls an ejected thread whatever its scope (R183). -/
  recalled : Bool := false
  /-- Reads poison without consuming it (R197, R380). -/
  noPoison : Bool := false
  /-- Further reasons to hold issue (R149). -/
  hold : Ctx → State → Bool := fun _ _ => false
  /-- Registers of a thread, by absolute number, that it writes beside its operands. -/
  also : Thread → List Nat := fun _ => []
  /-- Further operand checks of step 2 of R290, which depend on the word and the team alone. -/
  pre : Ctx → State → List Trap := fun _ _ => []
  /-- The conditions of Table core-3 that follow from its description. -/
  chk : Ctx → State → List Trap := fun _ _ => []
  /-- What making the conditions' checks has done to the state, when one of them fails: a read that was answered with Err has been logged (R76, R374). -/
  seen : Ctx → State → State := fun _ s => s
  /-- Its effect, after every thread of the issue sets stands at PC + 12. -/
  eff : Ctx → State → State
  /-- The outcome that a `.part` instance stores for an absent lane (R361). -/
  out : Ctx → State → Nat → Nat → Nat := fun _ _ _ _ => 0
  /-- An absent lane takes a stored outcome (R191). -/
  take : Ctx → Nat → Nat → State → State := fun _ _ _ s => s

/-- A trap of the executing group over all its issue set (R291). -/
def Ctx.trapAll (c : Ctx) (kind info : Nat) : Trap := ⟨kind, info, 0, c.set, c.group⟩

/-- R171: every live thread of the group that is not ejected is in the issue set. -/
def uniformConverged (c : Ctx) (s : State) : Bool :=
  (s.liveThr c.team c.group).all (fun i => s.ejected (c.key i) || c.set.contains i)

/-- Whether the arrival mask holds every live thread (R189). -/
def fullArrival (c : Ctx) (s : State) : Bool := (s.liveThr c.team c.group).all (fun i => c.act.contains i)

/-- The number of live threads that are absent from the arrival mask. -/
def absentCount (c : Ctx) (s : State) : Nat :=
  ((s.liveThr c.team c.group).filter (fun i => !c.act.contains i)).length

/-- The lanes of a member whose source word is poisoned; a poisoned s source concerns them all (R197). -/
def poisonLanes (c : Ctx) (s : State) (o : Opd) (m : Nat × List Nat) : List Nat :=
  m.2.filter (fun l => (readSel c s m.1 l o.sel o.n 0x2F).p)

/-- The s registers that an operand spans. -/
def sSpan (o : Opd) : Nat := if o.allow.contains 23 || o.allow.contains 24 then o.n else if o.allow.contains 22 then 2 else 1

/-- R197: the first source field that is poisoned in some participating lane, or an s source that is, for each member. -/
def poisonTraps (c : Ctx) (s : State) (l : List Opd) : List Trap :=
  (l.filter (fun o => !o.dst && cls o.sel ≤ 2)).flatMap (fun o =>
    if cls o.sel == 2 then
      (if (upFrom (idx o.sel) (sSpan o)).any (fun k => (readS c s (c.set.headD 0) k).p) then [⟨12, o.field, 0, c.act, c.lead⟩] else [])
    else
      (c.mem.filter (fun m => !(poisonLanes c s o m).isEmpty)).map (fun m =>
        ⟨12, o.field, 0, poisonLanes c s o m, m.1⟩))

/-- Whether an operand is an s register (R171). -/
def usesS (l : List Opd) : Bool := l.any (fun o => !isSwb o.sel && cls o.sel == 2)

/-- Steps 1 and 2 of R290: the word, the set of set scope, and the operand fields. -/
def early (i : Instr) (d : Desc) (c : Ctx) (s : State) : List Trap :=
  if !legal i then [c.trapAll 2 c.opc]
  else if c.h.scope == 2 && (s.setOf c.team c.group).isNone then [c.trapAll 3 0]
  else
    match badField d.opds (s.setOf c.team c.group).isSome (c.h.scope == 2) with
    | some f => [c.trapAll 3 f]
    | none => d.pre c s

/-- The checks at lane and group scope, without a rendezvous (R290, R193). -/
def localTraps (i : Instr) (d : Desc) (c : Ctx) (s : State) : List Trap :=
  match early i d c s with
  | t :: l => t :: l
  | [] =>
    (if !c.span && c.h.scope ≤ 1 && (d.unif || usesS d.opds) && !uniformConverged c s then [c.trapAll 4 0] else [])
      ++ (if d.full && !fullArrival c s then [c.trapAll 5 (absentCount c s)] else [])
      ++ (if d.noPoison then [] else poisonTraps c s d.opds)
      ++ d.chk c s

/-- Absolute registers that an instruction reads or writes in a thread. -/
def touchedRegs (t : Thread) (l : List Opd) : List Nat :=
  l.flatMap (fun o => if !isSwb o.sel && cls o.sel == 0 then upFrom (t.wb + idx o.sel) o.n else [])

/-- The outstanding loads of the s registers that the issue set reads: the group's, or those of an ejected thread's snapshot (R182). -/
def owedS (c : Ctx) (s : State) : List Pending :=
  if c.span then
    match (s.thr (c.key (c.set.headD 0))).span with
    | some sp => sp.owed
    | none => []
  else (s.grp c.team c.group).pendS

/-- A write that an instruction of now waits for: one that went through the scoreboard and, on a Span core, every one (R182, R274). -/
def Ctx.waitsFor (c : Ctx) (nosb : Bool) : Bool := c.span || !nosb

/-- An operand names a register of a class, of those that it spans. -/
def Opd.names (o : Opd) (k n reg : Nat) : Bool :=
  !isSwb o.sel && cls o.sel == k && decide (idx o.sel ≤ reg) && decide (reg < idx o.sel + n)

/-- A result in flight that an instruction waits for: of a v register, of a predicate that it or its guard names, or of an x, s or mask register (Table enc-2, R274). -/
def flightHolds (c : Ctx) (s : State) (d : Desc) : Bool :=
  let now := s.now c.team
  let G := s.grp c.team c.group
  c.set.any (fun i =>
    let t := s.thr (c.key i)
    let rs := touchedRegs t d.opds ++ d.also t
    t.inflight.any (fun f => c.waitsFor f.nosb && decide (now < f.due) && rs.any (fun n => n % t.depth == f.reg % t.depth))
      || t.flyP.any (fun f => c.waitsFor f.nosb && decide (now < f.due) && (f.reg == c.h.guard || d.opds.any (fun o => o.names 3 1 f.reg))))
  || (!c.span && (
    G.inflightS.any (fun f => !f.nosb && decide (now < f.due) && d.opds.any (fun o => o.names 2 (sSpan o) f.reg))
      || G.inflightM.any (fun f => !f.nosb && decide (now < f.due) && d.opds.any (fun o => o.names 4 1 f.reg))
      || (match s.setOf c.team c.group with
        | some st => (s.gset c.team st).flyX.any (fun f => !f.nosb && decide (now < f.due) && d.opds.any (fun o => o.names 1 o.n f.reg))
        | none => false)))

/-- The scoreboard: an earlier write of a register that the instruction reads or writes has not taken place: its return is outstanding, or its latency has not passed (R274). -/
def scoreboardHolds (c : Ctx) (s : State) (d : Desc) : Bool :=
  c.set.any (fun i =>
    let t := s.thr (c.key i)
    t.pend.any (fun p => c.waitsFor p.nosb && (touchedRegs t d.opds ++ d.also t).any (fun n => n % t.depth == p.reg % t.depth)))
  || (owedS c s).any (fun p => c.waitsFor p.nosb && d.opds.any (fun o => o.names 2 (sSpan o) p.reg))
  || flightHolds c s d

/-- Whether the dependency hints hold issue (R272, R175). -/
def hintsHold (c : Ctx) (s : State) : Bool :=
  (upFrom 0 6).any (fun k => bit c.h.waitm k && s.counter c.team c.group k != 0)
    || (decide (c.h.sig < 6) && s.counter c.team c.group c.h.sig == 63)

/-- Whether an ejected thread is recalled by a legal instruction (R183); a word that is no instruction recalls it whatever it names (R291). -/
def recalls (d : Desc) (c : Ctx) : Bool :=
  d.recalled || decide (1 ≤ c.h.scope)
    || d.opds.any (fun o => !isSwb o.sel && ((cls o.sel == 2 && o.dst) || cls o.sel == 1 || (cls o.sel == 6 && idx o.sel < 22)))

/-- Issue is held (R149, R194): nothing happens in this step. What the instruction itself waits for counts when its word and its fields are good, and when it recalls no thread (R183, R290). -/
def held (i : Instr) (d : Desc) (c : Ctx) (s : State) : Bool :=
  let G := s.grp c.team c.group
  (G.trap.active && !c.span && !c.set.all (fun i => G.handler.contains i))
    || c.set.any (fun i => (s.thr (c.key i)).wait != .none || !(s.thr (c.key i)).live)
    || (!c.span && hintsHold c s)
    || (!c.nosb && scoreboardHolds c s d)
    || ((early i d c s).isEmpty && !(c.span && recalls d c) && d.hold c s)

/-- A thread of the group that an issue set of now can hold: live, on its core, not waiting, and not held back by the group's handler (R176, R194). -/
def State.contends (s : State) (t g i : Nat) : Bool :=
  let th := s.thr (t, g, i)
  let G := s.grp t g
  th.live && th.wait == .none && th.span.isNone && (!G.trap.active || G.handler.contains i)

/-- The passes of the group's other issue sets after an issue (R177). -/
def passesAfter (c : Ctx) (s : State) : Tbl Nat Nat :=
  let G := s.grp c.team c.group
  ((upFrom 0 G.width).filter (fun i => s.contends c.team c.group i && !c.set.contains i)).map
    (fun i => (i, G.passed.getD i 0 + 1))

/-- The engine takes the slot's lanes: a pipe, or the input queue of the load/store unit (Table sched-4). The queues of matrix issue and of engine commands hold the operations themselves. -/
def takeEngine (c : Ctx) (gs : List Nat) (s : State) : State :=
  let now := s.now c.team
  let join := match s.slot with
    | some (_, j) => j
    | none => false
  let key := ((s.team c.team).cluster, (s.team c.team).core)
  let s : State := { s with
    slot := s.slot.map (fun x => (x.1, true))
    engAt := if join then s.engAt else s.engAt.set (key.1, key.2, c.eng) now }
  if c.eng ≤ 1 then
    { s with pipes := s.pipes.set (s.pipeKey c.team c.pipe) ((s.pipe c.team c.pipe).take join (gs.map (fun g => (c.team, g))) now c.cyc) }
  else if c.eng == 2 then
    let q := (s.lsq.getD key []).filter (fun x => decide (now < x))
    let last := (q.getLast?).getD now
    { s with lsq := s.lsq.set key (if join then q.dropLast ++ [last + c.cyc] else q ++ [last + c.cyc]) }
  else s

/-- The bookkeeping of an issue by member groups with their issue sets: the engine, the stall and yield hints, AGE, and the passes of the other issue sets (R148, R149, R177, R273). -/
def commitAll (ms : List (Nat × List Nat)) (c : Ctx) (s : State) : State :=
  if c.span then s
  else
    let now := s.now c.team
    ms.foldl (fun s m =>
      let passes := passesAfter { c with group := m.1, set := m.2 } s
      s.modGrp c.team m.1 (fun G =>
        { G with
          stallUntil := now + c.h.stall + 1
          skip := if c.h.yield then m.2.head? else none
          passed := passes
          age := 0
          ageAt := now
          lastPipe := if c.eng == 0 then c.pipe else G.lastPipe })) (takeEngine c (ms.map Prod.fst) s)

/-- The bookkeeping of an issue by the executing group alone. -/
def commit (c : Ctx) (s : State) : State := commitAll [(c.group, c.set)] c s

/-- A dependency counter of some groups rises now and falls at an a-cycle (R175). -/
def sigAt (team : Nat) (gs : List Nat) (sig due : Nat) (s : State) : State :=
  if 6 ≤ sig then s
  else
    let now := s.now team
    gs.foldl (fun s g => s.modGrp team g (fun G =>
      { G with sigDue := (sig, due) :: G.sigDue.filter (fun x => decide (now < x.2)) })) s

/-- Raise a dependency counter for an operation that completes later (R272, R175). -/
def raiseW (t g sig : Nat) (s : State) : State :=
  if sig < 6 then s.modGrp t g (fun G => { G with cnt := G.cnt.set sig (G.w sig + 1) }) else s

/-- Lower a dependency counter. -/
def lowerW (t g sig : Nat) (s : State) : State :=
  if sig < 6 then s.modGrp t g (fun G => { G with cnt := G.cnt.set sig (G.w sig - 1) }) else s

/-- The counter that an issue signals; an ejected thread has none (R182). -/
def sigOf (c : Ctx) : Nat := if c.span then 7 else c.h.sig

/-- The counter named by SIG rises at issue, for every group that issues. For an instruction of the vector ALU or the transcendental unit it falls when its registers are written, and one a-cycle after the issue when it writes none (R175, R272). A window spill or fill completes with its accesses (R338). -/
def signal (d : Desc) (c : Ctx) (gs : List Nat) (s : State) : State :=
  if 2 ≤ c.eng || c.opc == 0x010B || c.opc == 0x010C then s
  else
    let now := s.now c.team
    sigAt c.team gs (sigOf c) (if d.opds.any (·.dst) || !(d.also .blank).isEmpty then c.due now else now + 1) s

/-- The counter of an instruction of another engine that completes at once falls one a-cycle after the issue (R272). -/
def sigSoon (c : Ctx) (s : State) : State := sigAt c.team (c.mem.map Prod.fst) (sigOf c) (s.now c.team + 1) s

/-- Every thread of an issue set stands at the next word (R318). -/
def advance (c : Ctx) (g : Nat) (set : List Nat) (s : State) : State :=
  s.modThrs c.team g set (fun t => { t with pc := (c.pc + 12) % 2 ^ 64 })

/-- A thread that reaches another instruction of the scope drops its bit (R191). -/
def dropPart (c : Ctx) (s : State) : State :=
  let team3 := c.h.scope == 3
  match (s.grp c.team c.group).part.get? team3 with
  | none => s
  | some p => s.modGrp c.team c.group (fun G =>
      { G with part := G.part.set team3 { p with absent := p.absent.filter (fun i => !c.set.contains i) } })

/-- Lane or group scope, and the instructions that act for their own group (R193, R290). -/
def issueLocal (i : Instr) (d : Desc) (c : Ctx) (s : State) : State :=
  match lowest (localTraps i d c s) with
  | some tr =>
    if c.span then askRecall c.team c.group (c.set.headD 0) s
    else enterTrap c.team c.group c.set c.h.scope c.pc c.cd tr (d.seen c s)
  | none =>
    let s := if 2 ≤ c.h.scope then dropPart c s else s
    d.eff c (advance c c.group c.set (signal d c [c.group] (commit c s)))

/-! ### Rendezvous (R188-R192) -/

/-- The rendezvous of a scope, as the executing group sees it. -/
def getRdv (c : Ctx) (s : State) : Option Rdv :=
  if c.h.scope == 3 then (s.team c.team).rdv
  else
    match s.setOf c.team c.group with
    | some n => (s.gset c.team n).rdv
    | none => none

/-- Replace the rendezvous of a scope. -/
def putRdv (team : Nat) (set : Option Nat) (r : Option Rdv) (s : State) : State :=
  match set with
  | none => s.modTeam team (fun T => { T with rdv := r })
  | some n => s.modSet team n (fun S => { S with rdv := r })

/-- The set of the executing rendezvous, none at team scope. -/
def rdvSet (c : Ctx) (s : State) : Option Nat := if c.h.scope == 3 then none else s.setOf c.team c.group

/-- The members of a rendezvous (R188). -/
def members (team : Nat) (set : Option Nat) (s : State) : List Nat :=
  match set with
  | none => s.liveGroups team
  | some n => (s.liveGroups team).filter (fun g => s.setOf team g == some n)

/-- Every member has arrived. -/
def rdvComplete (team : Nat) (set : Option Nat) (r : Rdv) (s : State) : Bool :=
  (members team set s).all (fun g => r.arr.any (fun a => a.group == g))

/-- Let the lead group's arrival issue again when a member's end has completed the rendezvous (R190). -/
def wakeRdv (team : Nat) (set : Option Nat) (s : State) : State :=
  let ro := match set with
    | none => (s.team team).rdv
    | some n => (s.gset team n).rdv
  match ro with
  | none => s
  | some r =>
    let r := { r with arr := r.arr.filter (fun a => (members team set s).contains a.group) }
    match r.arr with
    | [] => putRdv team set none s
    | a :: _ =>
      let s := putRdv team set (some r) s
      if rdvComplete team set r s && !r.susp then s.modThrs team a.group a.set (fun t => { t with wait := .none }) else s

/-- Insert an arrival in ascending group order, replacing the group's earlier one. -/
def addArrival (a : Arrival) : List Arrival → List Arrival
  | [] => [a]
  | b :: l => if a.group < b.group then a :: b :: l else if a.group = b.group then a :: l else b :: addArrival a l

/-- The context in which an instruction issues once for every member: that of the lead group's arrival, whose s registers it reads (R190). -/
def joinCtx (c : Ctx) (r : Rdv) : Ctx :=
  let a := r.arr.headD ⟨c.group, c.set, c.act, c.word⟩
  { c with
    group := a.group, set := a.set, act := a.act, lead := a.group, mem := r.arr.map (fun a => (a.group, a.act)), pc := r.pc, cd := r.cd,
    cyc := pipeTime c.opc c.beat (r.arr.map (·.act)) }

/-- The instruction issues once for every member: all stand at the next word, its effect happens, and absent lanes get their outcome (R190, R191). -/
def rdvIssue (d : Desc) (c : Ctx) (r : Rdv) (s : State) : State :=
  let team3 := c.h.scope == 3
  let set := rdvSet c s
  let c := joinCtx c r
  let s := signal d c (r.arr.map (·.group)) (commitAll (r.arr.map (fun a => (a.group, a.set))) c s)
  let s := putRdv c.team set none s
  let s1 := forEach r.arr (fun s a =>
    (advance c a.group a.set s).modThrs c.team a.group a.set (fun t => { t with wait := .none })) s
  let s := d.eff c s1
  if d.part then
    forEach r.arr (fun s a =>
      let absent := (s1.liveThr c.team a.group).filter (fun i => !a.act.contains i)
      let s := s.modThrs c.team a.group absent (fun t => if t.wait == .rdv team3 then { t with wait := .none } else t)
      s.modGrp c.team a.group (fun G =>
        { G with part := G.part.set team3 ⟨absent, r.pc, r.cd, true, absent.map (fun l => (l, d.out c s1 a.group l))⟩ })) s
  else s

/-- Absent lanes of an earlier `.part` arrival that stand at the same instruction (R191). -/
def partLanes (c : Ctx) (s : State) : List Nat :=
  match (s.grp c.team c.group).part.get? (c.h.scope == 3) with
  | some p => if p.pc == c.pc && p.cd == c.cd then c.set.filter (fun i => p.absent.contains i) else []
  | none => []

/-- R191: lanes of the issue set that were absent from the last `.part` arrival take its outcome, or wait for it. A lane whose guard is false takes the passage and keeps its destinations and latches (R172, R344). -/
def takePart (d : Desc) (c : Ctx) (ls : List Nat) (s : State) : State :=
  let team3 := c.h.scope == 3
  match (s.grp c.team c.group).part.get? team3 with
  | none => s
  | some p =>
    if p.done then
      let s := forEach (ls.filter c.act.contains) (fun s l => d.take c l (p.vals.getD l 0) s) s
      let s := advance c c.group ls s
      s.modGrp c.team c.group (fun G =>
        { G with part := G.part.set team3 { p with absent := p.absent.filter (fun i => !ls.contains i) } })
    else s.modThrs c.team c.group ls (fun t => { t with wait := .rdv team3 })

/-- The traps of an arrival as such: it is not full, or the rendezvous stands at another instruction (R188, R189). -/
def arrivalTraps (d : Desc) (c : Ctx) (s : State) : List Trap :=
  (if !d.part && !fullArrival c s then [c.trapAll 5 (absentCount c s)] else [])
    ++ (match getRdv c s with
        | some r => if r.pc != c.pc || r.cd != c.cd then [c.trapAll 6 (r.pc % 2 ^ 32)] else []
        | none => [])

/-- The instruction's own conditions, over every member, once all have arrived (R192). -/
def memberTraps (d : Desc) (c : Ctx) (r : Rdv) (s : State) : List Trap :=
  let c := joinCtx c r
  (if d.noPoison then [] else poisonTraps c s d.opds) ++ d.chk c s

/-- R192: the lead group's arrival takes the trap, and every member stays at the instruction. -/
def rdvTrap (c : Ctx) (r : Rdv) (tr : Trap) (s : State) : State :=
  match r.arr with
  | [] => s
  | a :: _ =>
    let s := putRdv c.team (rdvSet c s) (some { r with susp := true }) s
    let s := forEach r.arr (fun s b => s.modThrs c.team b.group b.set (fun t => { t with wait := .rdv (c.h.scope == 3) })) s
    enterTrap c.team a.group a.set c.h.scope r.pc r.cd tr s

/-- A `.part` arrival that waits: its absent lanes, which wait with it when they come (R191). -/
def notePart (d : Desc) (c : Ctx) (s : State) : State :=
  if d.part then
    let absent := (s.liveThr c.team c.group).filter (fun k => !c.act.contains k)
    s.modGrp c.team c.group (fun G => { G with part := G.part.set (c.h.scope == 3) ⟨absent, c.pc, c.cd, false, []⟩ })
  else s

/-- The rendezvous keeps an arrival, whose threads wait. -/
def waitRdv (d : Desc) (c : Ctx) (r : Rdv) (s : State) : State :=
  let s := putRdv c.team (rdvSet c s) (some r) s
  notePart d c (s.modThrs c.team c.group c.set (fun t => { t with wait := .rdv (c.h.scope == 3) }))

/-- Every member has arrived: the lead group's word issues, here when the arriving group has the same, else when the lead group is chosen (R190). -/
def meet (d : Desc) (c : Ctx) (r : Rdv) (s : State) : State :=
  if (r.arr.head?).any (fun a => a.word != c.word) then
    match r.arr with
    | [] => s
    | a :: _ => (waitRdv d c r s).modThrs c.team a.group a.set (fun t => { t with wait := .none })
  else
    match lowest (memberTraps d c r s) with
    | some tr => rdvTrap c r tr (notePart d c s)
    | none => rdvIssue d c r s

/-- Set or team scope (R188-R192). A lane that an earlier `.part` arrival left absent does not arrive: its thread is looked at before the rendezvous is (R191). -/
def issueRdv (i : Instr) (d : Desc) (c : Ctx) (s : State) : State :=
  match lowest (early i d c s) with
  | some tr => enterTrap c.team c.group c.set c.h.scope c.pc c.cd tr s
  | none =>
    match partLanes c s with
    | l :: ls => takePart d c (l :: ls) s
    | [] =>
      match lowest (arrivalTraps d c s) with
      | some tr => enterTrap c.team c.group c.set c.h.scope c.pc c.cd tr s
      | none =>
        let s := dropPart c s
        let old : Rdv := (getRdv c s).getD ⟨c.pc, c.cd, [], false⟩
        let r := { old with arr := addArrival ⟨c.group, c.set, c.act, c.word⟩ old.arr, susp := false }
        if rdvComplete c.team (rdvSet c s) r s then meet d c r s else waitRdv d c r s

/-- One instruction of the current issue set: held, recalled, trapped, or issued. -/
def issue (i : Instr) (eng : Nat) (d : Desc) (s : State) : State :=
  match mkCtx i eng s with
  | none => s
  | some c =>
    if held i d c s then s
    else if c.span && (!legal i || recalls d c) then askRecall c.team c.group (c.set.headD 0) s
    else if 2 ≤ c.h.scope && !d.alone then issueRdv i d c s
    else issueLocal i d c s

end Sys2Proof.Machine
end

