-- ==== Sys2Proof/Machine/Flags.lean ====
section
/-! DEFINITION. Every comparison and flag computation: comparison codes and combiners, the synchronisation word's flags, and the identities of folds (R209, R355, R362). -/

namespace Sys2Proof.Machine

/-- Integer comparison codes 0 to 5 of Table comp-7. -/
def cmpInt (code : Nat) (a b : Int) : Bool :=
  match code with
  | 0 => decide (a = b)
  | 1 => decide (a ≠ b)
  | 2 => decide (a < b)
  | 3 => decide (a ≤ b)
  | 4 => decide (b < a)
  | _ => decide (b ≤ a)

/-- Floating-point comparison codes 0 to 13 of Table comp-7: from 8 on, true also when unordered. -/
def cmpFlt (code : Nat) (a b : Exact) : Bool :=
  let un := a.isNan || b.isNan
  match code with
  | 0 => a.eqv b
  | 1 => !un && !a.eqv b
  | 2 => a.lt b
  | 3 => a.lt b || a.eqv b
  | 4 => b.lt a
  | 5 => b.lt a || a.eqv b
  | 6 => !un
  | 7 => un
  | 8 => un || a.eqv b
  | 9 => un || !a.eqv b
  | 10 => un || a.lt b
  | 11 => un || a.lt b || a.eqv b
  | 12 => un || b.lt a
  | _ => un || b.lt a || a.eqv b

/-- R355: the comparison of two patterns of a type. -/
def cmpTy (code ty a b : Nat) : Bool :=
  match intTy ty with
  | some (sg, n) => cmpInt code (intVal sg n a) (intVal sg n b)
  | none => cmpFlt code (valueOf ty a) (valueOf ty b)

/-- COMB of R355. -/
def combine (comb : Nat) (x p : Bool) : Bool :=
  match comb with
  | 1 => x && p
  | 2 => x || p
  | 3 => x != p
  | _ => x

/-- A synchronisation word of Table local-4. -/
structure SyncWord where
  count : Nat
  target : Nat
  gen : Nat
  timeout : Bool
  error : Bool
  overF : Bool
  limit : Nat
  elapsed : Nat
  /-- The reserved bits, kept as stored. -/
  rsv : Nat × Nat
  deriving DecidableEq, Repr

/-- The word in its 16 bytes (Table local-4). -/
def SyncWord.ofNat (x : Nat) : SyncWord :=
  ⟨bits x 127 96, bits x 95 64, bits x 63 48, bit x 47, bit x 46, bit x 45, bits x 39 24, bits x 23 8, (bits x 44 40, bits x 7 0)⟩

/-- The 128-bit pattern of a word. -/
def SyncWord.toNat (w : SyncWord) : Nat :=
  w.count * 2 ^ 96 + w.target * 2 ^ 64 + w.gen * 2 ^ 48 + b2n w.timeout * 2 ^ 47 + b2n w.error * 2 ^ 46
    + b2n w.overF * 2 ^ 45 + w.rsv.1 * 2 ^ 40 + w.limit * 2 ^ 24 + w.elapsed * 2 ^ 8 + w.rsv.2

/-- `sync_update` of R209. -/
def SyncWord.update (w : SyncWord) (amount : Nat) (err : Bool) : SyncWord :=
  let sum := w.count + amount
  let w := if 2 ^ 32 - 1 < sum then { w with count := 2 ^ 32 - 1, overF := true } else { w with count := sum }
  let w := { w with error := w.error || err }
  if w.target != 0 && w.target ≤ w.count then
    let c := w.count - w.target
    { w with count := c, gen := (w.gen + 1) % 2 ^ 16, elapsed := 0, overF := w.overF || decide (w.target ≤ c) }
  else w

/-- R210: the word satisfies a wait for phase `g`. -/
def SyncWord.sat (w : SyncWord) (g : Nat) : Bool := w.gen != g || w.timeout || w.error

/-- The destination of `syncwait` (R383). -/
def SyncWord.result (w : SyncWord) : Nat :=
  w.gen * 2 ^ 16 + b2n w.timeout * 2 ^ 15 + b2n w.error * 2 ^ 14 + b2n w.overF * 2 ^ 13

/-! ### Folds (R362, Table comp-10) -/

/-- One step of a fold: operation codes 0 add, 1 min, 2 max, 3 and, 4 or, 5 xor. -/
def foldStep (op ty rnd pol acc x : Nat) : Nat :=
  match intTy ty with
  | some (_, n) =>
    match op with
    | 0 => intOp .add ty pol acc x 0
    | 1 => intOp .min ty 0 acc x 0
    | 2 => intOp .max ty 0 acc x 0
    | 3 => (acc &&& x) % 2 ^ n
    | 4 => (acc ||| x) % 2 ^ n
    | _ => (acc ^^^ x) % 2 ^ n
  | none =>
    match op with
    | 0 => floatOp .add ty rnd pol acc x 0
    | 1 => floatMinMax false ty acc x
    | _ => floatMinMax true ty acc x

/-- The identity of an operation in a type (Table comp-10). -/
def foldIdentity (op ty : Nat) : Nat :=
  match intTy ty with
  | some (sg, n) =>
    match op with
    | 0 => 0
    | 1 => wrapN n (intMax sg n)
    | 2 => wrapN n (intMin sg n)
    | 3 => 2 ^ n - 1
    | _ => 0
  | none =>
    let f := fmtOf ty
    match op with
    | 0 => f.signed true 0
    | 1 => f.signed false (f.infCode.getD f.maxCode)
    | _ => f.signed true (f.infCode.getD f.maxCode)

/-- The fold of R362; with no value, the identity. -/
def foldVals (op ty rnd pol : Nat) : List Nat → Nat
  | [] => foldIdentity op ty
  | x :: l => l.foldl (foldStep op ty rnd pol) (x % 2 ^ tyBits ty)

end Sys2Proof.Machine
end

