-- ==== Sys2Proof/Machine/Operands.lean ====
section
/-! DEFINITION. The operand forms that instruction families share (R275-R284, R344-R347). -/

namespace Sys2Proof.Machine

/-- The value of a source in a lane, as a pattern of its type. -/
def srcV (c : Ctx) (s : State) (g l sel ty : Nat) : Nat :=
  (readSel c s g l sel (regsOf ty) ty).v % 2 ^ tyBits ty

/-- The immediate of layout I as a pattern of a type (R281). -/
def immVal (ty rnd imm : Nat) : Nat :=
  match intTy ty with
  | some (sg, n) => if n == 64 && sg then wrapN 64 (sext 32 imm) else imm % 2 ^ n
  | none => if ty == 0x28 then imm % 2 ^ 32 else convert 0x28 ty rnd 0 imm

/-- The type code in MOD8 (R281). -/
def modTy (o : OpI) : Nat := bits o.mod8 7 2
/-- The rounding mode in MOD8 (R281). -/
def modRnd (o : OpI) : Nat := bits o.mod8 1 0

/-- Write a per-lane result in every participating lane; all sources are read in the state before (R344). -/
def laneEff (dsel : Nat) (fl : Fill) (f : Ctx → State → Nat → Nat → Nat) (c : Ctx) (s : State) : State :=
  c.lanes.foldl (fun s' m => putLane c m.1 m.2 dsel fl (f c s m.1 m.2) s') s

/-- Write a predicate in every participating lane. -/
def predEff (dsel : Nat) (f : Ctx → State → Nat → Nat → Bool) (c : Ctx) (s : State) : State :=
  c.lanes.foldl (fun s' m => putP c m.1 m.2 (idx dsel) (f c s m.1 m.2) s') s

/-- A lane operation of layout G on one, two or three sources of type `ty`, with a result of type `rty` (R344-R347). -/
def lane1 (h : Hdr) (o : OpG) (ty rty : Nat) (f : Nat → Nat) : Desc where
  opds := [dstSwb o.d (regsOf rty), src 1 o.a (regsOf ty) aluCls]
  unif := h.scope == 1
  eff := laneEff o.d (fillOf rty) (fun c s g l => f (srcV c s g l o.a ty))

/-- Two sources. -/
def lane2 (h : Hdr) (o : OpG) (ty rty : Nat) (f : Nat → Nat → Nat) : Desc where
  opds := [dstSwb o.d (regsOf rty), src 1 o.a (regsOf ty) aluCls, src 2 o.b (regsOf ty) aluCls]
  unif := h.scope == 1
  eff := laneEff o.d (fillOf rty) (fun c s g l => f (srcV c s g l o.a ty) (srcV c s g l o.b ty))

/-- Three sources. -/
def lane3 (h : Hdr) (o : OpG) (ty rty : Nat) (f : Nat → Nat → Nat → Nat) : Desc where
  opds := [dstSwb o.d (regsOf rty), src 1 o.a (regsOf ty) aluCls, src 2 o.b (regsOf ty) aluCls,
    src 3 o.c (regsOf ty) aluCls]
  unif := h.scope == 1
  eff := laneEff o.d (fillOf rty) (fun c s g l =>
    f (srcV c s g l o.a ty) (srcV c s g l o.b ty) (srcV c s g l o.c ty))

/-- The immediate form of a two-source operation (R281). -/
def lane2Imm (h : Hdr) (o : OpI) (f : Nat → Nat → Nat) : Desc where
  opds := [dstSwb o.d (regsOf (modTy o)), src 1 o.a (regsOf (modTy o)) aluCls]
  unif := h.scope == 1
  eff := laneEff o.d (fillOf (modTy o)) (fun c s g l =>
    f (srcV c s g l o.a (modTy o)) (immVal (modTy o) (modRnd o) o.imm))

end Sys2Proof.Machine
end

