-- ==== Sys2Proof/Machine/Groups.lean ====
section
/-! DEFINITION. Masks, waits, hardware barriers, the end of a thread, ejection, and the release counters (R178-R186, R258, R324-R333). -/

namespace Sys2Proof.Machine

/-! ### Release counters (R258, R259) -/

/-- The counters that Table cons-4 names for a release scope are 0 in a thread. -/
def relClear (t : Thread) (msc : Nat) : Bool :=
  t.owl == 0 && (msc ≤ 2 || t.owc == 0) && (msc ≤ 3 || t.owd == 0) && (msc ≤ 4 || t.ows == 0)

/-- The unit whose private cache a thread uses: 16 · cluster + core, or 3 + its Span core. -/
def unitOf (s : State) (k : TKey) : Nat :=
  let T := s.team k.1
  16 * T.cluster + (match (s.thr k).span with
    | some sp => 3 + sp.slot / 4
    | none => T.core)

/-- A core's stores that have not reached the coherent level: those still at the interface, and those that its write-combining store holds. A thread of the core may have seen each of them (R254). -/
def coreStores (u : Nat) (s : State) : Bool :=
  s.wcs.any (fun e => e.1.1 == u) || s.accs.any (fun e => e.2.unit == u && e.2.kind == AKind.store && e.2.stage == Stage.ni)

/-- A thread's loads and atomics that have not returned: a later write that a release of the thread lets another agent make must not reach them, and what an acquiring one has read is released in its turn (R250, R257). -/
def loadsOut (c : Ctx) (s : State) (l : Nat) : Bool :=
  ((s.thr (c.key l)).pend ++ owedS c s).any (fun p =>
    match s.accs.get? p.access with
    | some a => a.kind == AKind.load || a.kind == AKind.atom
    | none => false)

/-- The executing group's stores that are still at the interface: no other thread of the core sees them yet (R254). -/
def storesHeld (c : Ctx) (s : State) : Bool :=
  s.accs.any (fun e => e.2.kind == AKind.store && e.2.stage == Stage.ni && e.2.team == c.team
    && e.2.parts.any (fun p => p.g == c.group && c.act.contains p.lane))

/-- Later accesses of an active lane wait for an acquire (R259). -/
def acqHolds (c : Ctx) (s : State) : Bool := c.act.any (fun l => !(s.thr (c.key l)).acq.isEmpty)

/-- A release at a scope is held by some active lane's outstanding write (R258), load or acquire (R250, R257), and by a store of it that the core's threads cannot see yet. One at `.clus` or wider also covers the stores of other threads of the core that this one has seen at a narrower scope: what is in the core's write-combining store drains first (R56, R257). -/
def relHolds (msc : Nat) (c : Ctx) (s : State) : Bool :=
  !c.act.all (fun l => relClear (s.thr (c.key l)) msc) || c.act.any (loadsOut c s) || acqHolds c s || storesHeld c s
    || (3 ≤ msc && coreStores (unitOf s (c.key (c.set.headD 0))) s)

/-- The levels of Table cons-3 whose failed stores a release at a scope reports: 0 OWL, 1 OWC, 2 OWD, 3 OWS. -/
def errCovered (msc lvl : Nat) : Bool := lvl == 0 || (lvl == 1 && 3 ≤ msc) || (lvl == 2 && 4 ≤ msc) || (lvl == 3 && 5 ≤ msc)

/-- store_error at a release that waits for a failed store (R259). -/
def relTraps (msc : Nat) (c : Ctx) (s : State) : List Trap :=
  c.mem.flatMap (fun m =>
    let l := m.2.filter (fun l => (s.thr (c.team, m.1, l)).storeErr.any (errCovered msc))
    if l.isEmpty then [] else [⟨14, msc, 0, l, m.1⟩])

/-! ### Masks (R178, R185) -/

/-- The threads waiting on a mask. -/
def maskWaiters (t g m : Nat) (s : State) : List Nat :=
  (s.liveThr t g).filter (fun i => (s.thr (t, g, i)).wait == .mask m)

/-- The threads of a mask. -/
def maskThreads (t g m : Nat) (s : State) : List Nat := laneList (s.grp t g).width ((s.grp t g).mask m).bits

/-- What a rejoin timer has counted; a halt stops it (R157, R185). -/
def State.timerCount (s : State) (t : Nat) (r : RejoinTimer) : Nat := r.count + (if (s.team t).halted then 0 else s.now t - r.start)

/-- Stop a rejoin timer; its count is the window's latency when it is the longest (R186). -/
def stopTimer (t g m : Nat) (s : State) : State :=
  let G := s.grp t g
  match G.timers.find? (fun r => r.mask == m) with
  | none => s
  | some r =>
    let lat := s.timerCount t r
    let s := s.modGrp t g (fun G => { G with timers := G.timers.filter (fun r => r.mask != m) })
    s.modTeam t (fun T => { T with winLat := if T.winLat < lat then lat else T.winLat })

/-- Start a rejoin timer unless it runs (R185). -/
def startTimer (t g m : Nat) (s : State) : State :=
  if (s.grp t g).timers.any (fun r => r.mask == m) then s
  else
    let s := s.modGrp t g (fun G => { G with timers := G.timers ++ [⟨m, s.now t, 0⟩] })
    s.push .rejoinTimeout ⟨t, g, m, []⟩

/-- Evaluate the waits on one mask. The timer starts when only ejected threads are missing, and stops when the last of them has rejoined (R178, R179, R185). -/
def evalMask (t g m : Nat) (s : State) : State :=
  let ws := maskWaiters t g m s
  let missing := (maskThreads t g m s).filter (fun i => !ws.contains i)
  if ws.isEmpty then stopTimer t g m s
  else if missing.isEmpty then
    (stopTimer t g m s).modThrs t g ws (fun th => { th with wait := .none, pc := (th.pc + 12) % 2 ^ 64 })
  else if missing.all (fun i => s.ejected (t, g, i)) then startTimer t g m s
  else if missing.any (fun i => s.ejected (t, g, i)) then s
  else stopTimer t g m s

/-- Evaluate every mask wait of a group. -/
def evalMasks (t g : Nat) (s : State) : State := forEach (upFrom 0 12) (fun s m => evalMask t g m s) s

/-! ### Barriers and waiting issue sets (R331-R333) -/

/-- A barrier that nothing has used. -/
def HwBar.zero : HwBar := ⟨0, none, []⟩

/-- A barrier of a bank: `none` the team's, `some n` those of set n. -/
def getBar (t : Nat) (set : Option Nat) (n : Nat) (s : State) : HwBar :=
  match set with
  | none => (s.team t).bars.getD n .zero
  | some k => (s.gset t k).bars.getD n .zero

/-- Replace a barrier. -/
def putBar (t : Nat) (set : Option Nat) (n : Nat) (b : HwBar) (s : State) : State :=
  match set with
  | none => s.modTeam t (fun T => { T with bars := T.bars.set n b })
  | some k => s.modSet t k (fun S => { S with bars := S.bars.set n b })

/-- expected(bar) of R332: the bank's members, restricted by role; a group counts while it has a live thread. -/
def expectedGroups (t : Nat) (set : Option Nat) (role : Nat) (s : State) : List Nat :=
  (members t set s).filter (fun g => role == 0 || (role == 1) == (s.grp t g).prod)

/-- Release an issue set's wait when every lane of it is satisfied: its threads go on at the next word, and the counter that it signalled falls. -/
def finishWait (t g : Nat) (w : WaitRec) (s : State) : State :=
  if w.lanes.all (·.ok) then
    (lowerW t g w.sig s).modThrs t g w.set (fun th => if th.wait == .word then { th with wait := .none, pc := (th.pc + 12) % 2 ^ 64 } else th)
  else s.modGrp t g (fun G => { G with waits := G.waits ++ [w] })

/-- Look again at the barrier waits of a group: a lane whose phase has passed is satisfied from then on (R333). -/
def evalBarWaits (t g : Nat) (s : State) : State :=
  let ws := (s.grp t g).waits
  let set := s.setOf t g
  let s := s.modGrp t g (fun G => { G with waits := [] })
  forEach ws (fun s w =>
    match w.bank with
    | none => s.modGrp t g (fun G => { G with waits := G.waits ++ [w] })
    | some team =>
      let look := fun (l : WaitLane) => (getBar t (if team then none else set) l.at_ s).phase != l.phase
      finishWait t g { w with lanes := w.lanes.map (fun l => { l with ok := l.ok || look l }) } s) s

/-- Flip a barrier when every expected group has arrived and at least one arrival is counted (R332). -/
def evalBar (t : Nat) (set : Option Nat) (n : Nat) (s : State) : State :=
  let b := getBar t set n s
  match b.role with
  | none => s
  | some r =>
    if !b.arrived.isEmpty && (expectedGroups t set r s).all (fun g => b.arrived.contains g) then
      let s := putBar t set n ⟨(b.phase + 1) % 2 ^ 16, none, []⟩ s
      forEach (members t set s) (fun s g => evalBarWaits t g s) s
    else s

/-- The waits on synchronisation words of a group whose ended lanes were the last unsatisfied ones end (R179, R324). -/
def evalEnded (t g : Nat) (s : State) : State :=
  let ws := (s.grp t g).waits
  let s := s.modGrp t g (fun G => { G with waits := [] })
  forEach ws (fun s w =>
    if w.bank.isSome then s.modGrp t g (fun G => { G with waits := G.waits ++ [w] }) else finishWait t g w s) s

/-- Evaluate every barrier of a team and of a group's set. -/
def evalBars (t : Nat) (set : Option Nat) (s : State) : State :=
  let s := forEach (upFrom 0 8) (fun s n => evalBar t none n s) s
  match set with
  | none => s
  | some k => forEach (upFrom 0 8) (fun s n => evalBar t (some k) n s) s

/-! ### The end of a thread (R324) -/

/-- What follows when a group has lost its last live thread: token, rendezvous, barriers, team exit. -/
def groupGone (t g : Nat) (s : State) : State :=
  let set := s.setOf t g
  let s := s.modTeam t (fun T =>
    { T with
      token := if T.token == some g then none else T.token
      tokenOld := if T.tokenOld == some g then none else T.tokenOld })
  let s := wakeRdv t none s
  let s := match set with
    | none => s
    | some k => wakeRdv t (some k) s
  let s := evalBars t set s
  if (s.liveGroups t).isEmpty then s.push .teamExit (.ofK t) else s

/-- A wait without an ended thread. A wait of group scope is one wait of the whole issue set: it goes on for another of its threads. -/
def dropWait (i : Nat) (w : WaitRec) : WaitRec :=
  let set := w.set.filter (fun k => k != i)
  match w.uniform, set with
  | true, k :: _ => { w with set := set, lanes := w.lanes.map (fun l => { l with lane := if l.lane == i then k else l.lane }) }
  | _, _ => { w with set := set, lanes := w.lanes.filter (fun l => l.lane != i) }

/-- `end_thread` of R324, without the waits that follow. -/
def endOne (t g i : Nat) (s : State) : State :=
  let s := s.modThr (t, g, i) (fun th => { th with live := false, wait := .none, span := none })
  s.modGrp t g (fun G =>
    { G with
      masks := G.masks.map (fun e => (e.1, { e.2 with bits := laneSet e.2.bits i false }))
      part := G.part.map (fun e => (e.1, { e.2 with absent := e.2.absent.filter (fun j => j != i) }))
      waits := G.waits.map (dropWait i) })

/-- The rendezvous that a group takes part in at set (false) or team (true) scope. -/
def rdvAt (t g : Nat) (team3 : Bool) (s : State) : Option Rdv :=
  if team3 then (s.team t).rdv
  else
    match s.setOf t g with
    | none => none
    | some k => (s.gset t k).rdv

/-- A `.part` arrival whose threads have all ended is withdrawn: its absent lanes, which waited with it, arrive by themselves. -/
def withdrawPart (t g : Nat) (team3 : Bool) (s : State) : State :=
  let gone := (rdvAt t g team3 s).all (fun r => r.arr.all (fun a => a.group != g))
  match (s.grp t g).part.get? team3 with
  | none => s
  | some p =>
    if p.done || !gone then s
    else
      let s := s.modThrs t g ((s.liveThr t g).filter (fun i => (s.thr (t, g, i)).wait == .rdv team3)) (fun th => { th with wait := .none })
      s.modGrp t g (fun G => { G with part := G.part.filter (fun e => e.1 != team3) })

/-- Remove ended threads from the arrivals of the group's rendezvous, which are looked at again (R179, R190). -/
def trimRdv (t g : Nat) (ended : List Nat) (s : State) : State :=
  let keep := fun (l : List Nat) => l.filter (fun i => !ended.contains i)
  let one := fun (a : Arrival) => if a.group == g then { a with set := keep a.set, act := keep a.act } else a
  let trim := fun (r : Rdv) => { r with arr := (r.arr.map one).filter (fun a => !a.set.isEmpty) }
  let s := s.modTeam t (fun T => { T with rdv := T.rdv.map trim })
  let s := match s.setOf t g with
    | none => s
    | some k => s.modSet t k (fun S => { S with rdv := S.rdv.map trim })
  let s := withdrawPart t g true (withdrawPart t g false s)
  let s := wakeRdv t none s
  match s.setOf t g with
  | none => s
  | some k => wakeRdv t (some k) s

/-- End threads of a group, then evaluate every wait again; a handler left without threads is an unresolved trap (R194, R324). -/
def endThreads (t g : Nat) (l : List Nat) (s : State) : State :=
  if l.isEmpty then s
  else
    let s := forEach l (fun s i => endOne t g i s) s
    let s := trimRdv t g l s
    let s := evalMasks t g s
    let s := evalEnded t g (evalBarWaits t g s)
    let G := s.grp t g
    let s := if G.trap.active && G.handler.all (fun i => !(s.thr (t, g, i)).live) then unresolved t G.trap s else s
    if (s.liveThr t g).isEmpty then groupGone t g s else s

/-! ### Span contexts (R180, R181) -/

/-- The teams that a cluster holds; one that has been saved holds nothing. -/
def State.clusterTeams (s : State) (cl : Nat) : List Nat := (s.teams.filter (fun e => e.2.cluster == cl && !e.2.saved)).map Prod.fst

/-- The Span context numbers in use in a cluster. -/
def State.spanUsed (s : State) (cl : Nat) : List Nat :=
  let ts := s.clusterTeams cl
  s.threads.filterMap (fun e => if ts.contains e.1.1 then e.2.span.map (·.slot) else none)

/-- The Span contexts of a cluster that a context holds. -/
def State.spanHeld (s : State) (cl ctx : Nat) : Nat :=
  let ts := (s.teams.filter (fun e => e.2.cluster == cl && e.2.ctx == ctx && !e.2.saved)).map Prod.fst
  (s.threads.filter (fun e => ts.contains e.1.1 && e.2.span.isSome)).length

/-- SPANMAX of a context (Table host-1). -/
def State.spanMax (s : State) (ctx : Nat) : Nat :=
  match s.ctxs.get? ctx with
  | some r => if r.spanmax < 32 then r.spanmax else 32
  | none => 32

/-- The lowest free Span context of a cluster. -/
def freeSpan (used : List Nat) : Nat := ((upFrom 0 32).filter (fun k => !used.contains k)).headD 0

/-- Eject one thread: it leaves its issue set, and its Span context takes the snapshot (R181). At which moment of the hand-over the snapshot of s0-s23 is taken is the model's choice, the branch (log entry 69). -/
def ejectOne (t g i : Nat) (s : State) : State :=
  let slot := freeSpan (s.spanUsed (s.team t).cluster)
  let snap := (upFrom 0 24).map (s.grp t g).s
  let s := s.modThr (t, g, i) (fun th =>
    let e := if th.wb + 128 < th.lo + th.depth then th.wb + 128 else th.lo + th.depth
    { th with span := some ⟨slot, th.wb, e, snap, (s.grp t g).pendS⟩, wait := .moving, latPipe := none })
  s.push .ejectionHandoverComplete ⟨t, g, i, []⟩

/-- Whether the minority of a divided issue set is ejected (R180). -/
def ejects (c : Ctx) (minority : List Nat) (s : State) : Bool :=
  let T := s.team c.team
  let n := minority.length
  decide (1 ≤ n) && decide (n ≤ T.ej) && !(s.grp c.team c.group).trap.active
    && decide (n + (s.spanUsed T.cluster).length ≤ 32)
    && decide (n + s.spanHeld T.cluster T.ctx ≤ s.spanMax T.ctx)

/-! ### The adaptive threshold (R186) -/

/-- The threshold after a window (R186), from the Span contexts in use and the longest rejoin latency. -/
def nextThreshold (lo hi used lat lathi latlo e : Nat) : Nat :=
  if used ≤ 16 && lat ≤ latlo && latlo ≤ lathi then min (e + 1) hi
  else if 28 ≤ used || lathi ≤ lat then max (e - 1) lo
  else e

/-- What a team's window has counted; a halt stops it (R157, R186). -/
def winElapsed (s : State) (t : Nat) : Nat :=
  let T := s.team t
  T.winCount + (if T.halted then 0 else s.now t - T.winStart)

/-- A team's window of 4,096 a-cycles ends, when it has counted them: the threshold takes its step. -/
def closeWindow (t : Nat) (s : State) : State :=
  let T := s.team t
  let n := winElapsed s t
  if T.halted || n < 4096 then s
  else
    let L := s.launch t
    let e := nextThreshold L.ejmin L.ejmax (s.spanUsed T.cluster).length T.winLat s.lathi s.latlo T.ej
    s.modTeam t (fun T => { T with ej := e, winStart := s.now t, winCount := n - 4096, winLat := 0 })

end Sys2Proof.Machine
end

