-- ==== Sys2Proof/Machine/Control.lean ====
section
/-! DEFINITION. Majors 0x01 to 0x03: control, divergence, scope and system (R318-R343). The window spill and fill stand with the memory instructions. -/

namespace Sys2Proof.Machine

/-! ### Branches and calls (R320-R323) -/

/-- The direct target modulo 2^64, for a negative sum too (R320). -/
def target (c : Ctx) (imm : Nat) : Nat := wrapN 64 ((c.pc : Int) + 12 * sext 32 imm)

/-- Send threads of the executing group to an address. -/
def goTo (c : Ctx) (l : List Nat) (pc : Nat) (s : State) : State :=
  s.modThrs c.team c.group l (fun t => { t with pc := pc })

/-- `bra`: the guard divides the issue set, and the minority may be ejected (R321, R180). -/
def braDesc (o : OpI) : Desc where
  opds := []
  eff := fun c s =>
    let tk := c.act
    let nt := c.set.filter (fun i => !tk.contains i)
    let s' := goTo c tk (target c o.imm) s
    let minority := if tk.length < nt.length then tk else if nt.length < tk.length then nt else []
    if !bit o.mod8 0 && !c.span && ejects c minority s then
      evalMasks c.team c.group (forEach minority (fun s i => ejectOne c.team c.group i s) s')
    else s'

/-- Lanes whose 64-bit source has bits [1:0] set (R320). -/
def badTargets (sel : Nat) (c : Ctx) (s : State) : List Trap :=
  let l := c.act.filter (fun i => srcV c s c.group i sel 0x31 % 4 != 0)
  if l.isEmpty then [] else [⟨3, 1, 0, l, c.group⟩]

/-- `brx` (R321): each active lane goes to its own target. -/
def brxDesc (o : OpI) : Desc where
  opds := [src 1 o.a 2 [0, 2]]
  chk := badTargets o.a
  eff := fun c s => forEach c.act (fun s' i => goTo c [i] (srcV c s c.group i o.a 0x31) s') s

/-- Whether the window from `wb` lies in an ejected thread's segment (R182, R183). -/
def inSegment (t : Thread) (wb : Nat) : Bool :=
  match t.span with
  | some sp => decide (sp.wb0 ≤ wb) && decide (wb + 64 ≤ sp.segEnd)
  | none => true

/-- The conditions of the call of R168: depth_overflow, then spill with the largest deficit. -/
def callTraps (f : Nat) (c : Ctx) (s : State) : List Trap :=
  let deep := c.act.filter (fun i => (s.thr (c.key i)).cd == 1023)
  let lack := fun i => let t := s.thr (c.key i); t.wb + f + 64 - (t.lo + t.depth)
  let short := c.act.filter (fun i => lack i != 0)
  let out := c.act.filter (fun i => let t := s.thr (c.key i); !inSegment t (t.wb + f))
  (if deep.isEmpty then [] else [⟨8, 0, 0, deep, c.group⟩])
    ++ (if short.isEmpty then [] else [⟨9, short.foldl (fun m i => max m (lack i)) 0, 0, short, c.group⟩])
    ++ (if out.isEmpty then [] else [⟨9, 0, 0, out, c.group⟩])

/-- The call of R168 with the return address of R322: the callee's new registers hold undefined values. -/
def doCall (f : Nat) (tgt : Nat → Nat) (c : Ctx) (s : State) : State :=
  let ra := (c.pc + 12) % 2 ^ 64
  forEach c.act (fun s' i =>
    s'.modThr (c.key i) (fun t =>
      let t := { t with wb := t.wb + f, cd := t.cd + 1, pc := tgt i }
      (upFrom (64 - f) f).foldl (fun t k => t.setAbs (t.wb + k) (BitVec.ofNat 32 (Config.freeWord s.tick (1000 * i + k))) false) t)
    |> putVs c c.group i 62 2 ra) s

/-- The absolute registers of the callee's v62 and v63 (R322). -/
def raRegs (f : Nat) (t : Thread) : List Nat := upFrom (t.wb + f + 62) 2

/-- `call` (R322). -/
def callDesc (o : OpI) : Desc where
  opds := []
  also := raRegs (8 * o.mod8)
  chk := callTraps (8 * o.mod8)
  eff := fun c => doCall (8 * o.mod8) (fun _ => target c o.imm) c

/-- `callx` (R322): the target is read in the caller's window. -/
def callxDesc (o : OpI) : Desc where
  opds := [src 1 o.a 2 [0, 2]]
  also := raRegs (8 * o.mod8)
  chk := fun c s => badTargets o.a c s ++ callTraps (8 * o.mod8) c s
  eff := fun c s => doCall (8 * o.mod8) (fun i => srcV c s c.group i o.a 0x31) c s

/-- The conditions of the return of R168: illegal_instruction at CD 0, then fill with the largest deficit. -/
def retTraps (f : Nat) (c : Ctx) (s : State) : List Trap :=
  let top := c.act.filter (fun i => (s.thr (c.key i)).cd == 0)
  let lack := fun i => let t := s.thr (c.key i); t.lo + f - t.wb
  let short := c.act.filter (fun i => lack i != 0)
  let out := c.act.filter (fun i => let t := s.thr (c.key i); !inSegment t (t.wb - f))
  (if top.isEmpty then [] else [⟨2, c.opc, 0, top, c.group⟩])
    ++ (if short.isEmpty then [] else [⟨10, short.foldl (fun m i => max m (lack i)) 0, 0, short, c.group⟩])
    ++ (if out.isEmpty then [] else [⟨10, 0, 0, out, c.group⟩])

/-- `ret` (R323): the address is read in the callee's window. -/
def retDesc (o : OpI) : Desc where
  opds := [src 1 o.a 2 [0, 2]]
  chk := fun c s => badTargets o.a c s ++ retTraps (8 * o.mod8) c s
  eff := fun c s => forEach c.act (fun s' i =>
    let a := srcV c s c.group i o.a 0x31
    s'.modThr (c.key i) (fun t => { t with wb := t.wb - 8 * o.mod8, cd := t.cd - 1, pc := a })) s

/-! ### Ending threads (R324) -/

/-- `exit`. -/
def exitDesc : Desc where
  opds := []
  eff := fun c s => endThreads c.team c.group c.act s

/-- The threads of a mask that an instruction of now reads (R274). -/
def readThreads (c : Ctx) (s : State) (m : Nat) : List Nat :=
  laneList (s.grp c.team c.group).width (s.readM c.team c.group m c.nosb).bits

/-- Write a mask as an instruction does (R274). -/
def putM (c : Ctx) (m : Nat) (r : MaskReg) (s : State) : State :=
  let now := s.now c.team
  s.modGrp c.team c.group (fun G =>
    { G with
      masks := G.masks.set m r
      inflightM := ⟨m, G.mask m, c.due now, c.nosb⟩ :: G.inflightM.filter (fun f => decide (now < f.due)) })

/-- `kill`: acts only with an active lane; every live thread of the mask ends. -/
def killDesc (o : OpI) : Desc where
  opds := [src 1 o.a 1 [4]]
  eff := fun c s =>
    if c.act.isEmpty then s
    else endThreads c.team c.group
      ((readThreads c s (idx o.a)).filter (fun i => (s.thr (c.key i)).live)) s

/-! ### Traps (R336, R337) -/

/-- `trap`: the user trap of its active lanes. -/
def trapDesc (o : OpI) : Desc where
  opds := []
  chk := fun c _ => if c.act.isEmpty then [] else [⟨16, o.imm, 0, c.act, c.group⟩]
  eff := fun _ s => s

/-- The kinds that a retry can serve (Table core-3): spill, fill, rejoin_timeout and user. -/
def retryUseful (kind : Nat) : Bool := kind == 9 || kind == 10 || kind == 15 || kind == 16

/-- The conditions of `tret` (R337). -/
def tretTraps (c : Ctx) (s : State) : List Trap :=
  let G := s.grp c.team c.group
  let all := (G.handler.filter (fun i => (s.thr (c.key i)).live)).all (fun i => c.set.contains i)
  if G.trap.active && all && c.cd == G.trap.depth then [] else [c.trapAll 2 c.opc]

/-- A member group passes its suspended rendezvous: the threads that wait at it, its absent lanes among them, stand at the next word, and the record of a `.part` arrival there is void. -/
def passMember (c : Ctx) (f : TrapFrame) (g : Nat) (s : State) : State :=
  let team3 := f.scope == 3
  let s := s.modThrs c.team g ((s.liveThr c.team g).filter (fun i => (s.thr (c.team, g, i)).wait == .rdv team3))
    (fun t => { t with wait := .none, pc := (f.pc + 12) % 2 ^ 64 })
  s.modGrp c.team g (fun G => { G with part := G.part.filter (fun p => p.1 != team3 || p.2.done || p.2.pc != f.pc) })

/-- Release the members suspended by a trap of their rendezvous (R192): a skip passes them all. -/
def releaseSusp (c : Ctx) (skip : Bool) (f : TrapFrame) (s : State) : State :=
  if f.scope < 2 then s
  else
    let set := if f.scope == 3 then none else s.setOf c.team c.group
    let ro := match set with
      | none => (s.team c.team).rdv
      | some k => (s.gset c.team k).rdv
    match ro with
    | none => s
    | some r =>
      if !r.susp then s
      else if skip then
        let s := putRdv c.team set none s
        forEach r.arr (fun s a => passMember c f a.group s) s
      else putRdv c.team set (some { r with susp := false }) s

/-- `tret` (R337). -/
def tretDesc (o : OpI) : Desc where
  opds := []
  chk := tretTraps
  eff := fun c s =>
    let f := (s.grp c.team c.group).trap
    let skip := bit o.mod8 0
    if !skip && !retryUseful f.kind then unresolved c.team f s
    else
      let s := goTo c c.set (if skip then (f.pc + 12) % 2 ^ 64 else f.pc) s
      let s := s.modThrs c.team c.group c.set (fun t => { t with latPipe := none })
      let s := s.modGrp c.team c.group (fun G => { G with trap := { f with active := false }, handler := [] })
      releaseSusp c skip f s

/-- `pchk`: pD := poisoned(A) (R339). -/
def pchkDesc (o : OpI) : Desc where
  opds := [dst 0 o.d 1 [3], src 1 o.a 1 [0, 1, 2]]
  noPoison := true
  eff := predEff o.d (fun c s g l => (readSel c s g l o.a 1 0x2F).p)

/-! ### Masks (R326-R328) -/

/-- mask_depth of a mask for some lanes (Table core-3). -/
def depthTrap (c : Ctx) (m : Nat) (r : MaskReg) (l : List Nat) : List Trap :=
  if l.isEmpty then [] else [⟨7, m * 2 ^ 10 + r.tag, 0, l, c.group⟩]

/-- `mjoin` (R178). -/
def mjoinDesc (o : OpG) : Desc where
  opds := [dst 0 o.d 1 [4]]
  chk := fun c s =>
    let r := (s.grp c.team c.group).mask (idx o.d)
    if r.bits != 0 && r.tag != c.cd then depthTrap c (idx o.d) r c.act else []
  eff := fun c s =>
    let m := idx o.d
    let r := (s.grp c.team c.group).mask m
    if c.act.isEmpty then s
    else
      evalMasks c.team c.group
        (putM c m ⟨c.act.foldl (fun b i => laneSet b i true) r.bits, if r.bits == 0 then c.cd else r.tag⟩ s)

/-- `mleave` (R178). -/
def mleaveDesc (o : OpG) : Desc where
  opds := [dst 0 o.d 1 [4]]
  eff := fun c s =>
    let m := idx o.d
    let r := (s.grp c.team c.group).mask m
    evalMasks c.team c.group
      (putM c m { r with bits := c.act.foldl (fun b i => laneSet b i false) r.bits } s)

/-- `mwait` (R178): active threads of the mask wait; the others pass. The release of the waiters is a release at `.group`: a thread that waits has none of its writes outstanding (R255, R258). -/
def mwaitDesc (o : OpG) : Desc where
  opds := [src 1 o.a 1 [4]]
  hold := fun c s => relHolds 0 { c with act := c.act.filter (laneIn (s.readM c.team c.group (idx o.a) c.nosb).bits) } s
  chk := fun c s =>
    let r := s.readM c.team c.group (idx o.a) c.nosb
    if r.tag != c.cd then depthTrap c (idx o.a) r (c.act.filter (laneIn r.bits)) else []
  eff := fun c s =>
    let m := idx o.a
    let r := s.readM c.team c.group m c.nosb
    let ws := c.act.filter (laneIn r.bits)
    evalMasks c.team c.group (s.modThrs c.team c.group ws (fun t => { t with pc := c.pc, wait := .mask m }))

/-- `mget` (R327). -/
def mgetDesc (o : OpG) : Desc where
  opds := [dst 0 o.d 1 (if bit o.flags 0 then [2] else [22]), src 1 o.a 1 [4]]
  eff := fun c s =>
    let r := s.readM c.team c.group (idx o.a) c.nosb
    if bit o.flags 0 then putS c c.group (idx o.d) r.tag s
    else putS c c.group (idx o.d + 1) (r.bits.toNat / 2 ^ 64) (putS c c.group (idx o.d) (r.bits.toNat % 2 ^ 64) s)

/-! ### Rendezvous, barriers and the token (R329-R334) -/

/-- MSC of Table ctl-1. -/
def mscOf (o : OpG) : Nat := bits o.flags 9 7

/-- `bar` (R329). -/
def barDesc (o : OpG) : Desc where
  opds := []
  part := bit o.flags 0
  hold := relHolds (mscOf o)
  chk := relTraps (mscOf o)
  eff := fun _ s => s

/-- The bank an `arrive` or `bwait` acts on: the team's, or the executing group's set. -/
def bankOf (c : Ctx) (s : State) : Option Nat := if c.h.scope == 3 then none else s.setOf c.team c.group

/-- `arrive` (R332). -/
def arriveDesc (o : OpG) : Desc where
  opds := [dst 0 o.d 1 [0, 2]]
  full := true
  alone := true
  hold := fun c s =>
    let b := getBar c.team (bankOf c s) (bits o.flags 2 0) s
    let other := match b.role with
      | some r => r != bits o.flags 6 5
      | none => false
    relHolds (mscOf o) c s || (fullArrival c s && (other || b.arrived.contains c.group))
  chk := relTraps (mscOf o)
  eff := fun c s =>
    let n := bits o.flags 2 0
    let role := bits o.flags 6 5
    let bk := bankOf c s
    let b := getBar c.team bk n s
    let s := if cls o.d == 2 then putS c c.group (idx o.d) b.phase s
      else forEach c.act (fun s l => putV c c.group l (idx o.d) b.phase s) s
    let arr := if (expectedGroups c.team bk role s).contains c.group then b.arrived ++ [c.group] else b.arrived
    evalBar c.team bk n (putBar c.team bk n { b with role := some role, arrived := arr } s)

/-- `bwait` (R333). -/
def bwaitDesc (o : OpG) : Desc where
  opds := [src 1 o.a 1 [0, 2, 7]]
  alone := true
  eff := fun c s =>
    let n := bits o.flags 2 0
    let b := getBar c.team (bankOf c s) n s
    let ls := c.act.map (fun l =>
      let g := (srcV c s c.group l o.a 0x2F) % 2 ^ 16
      (⟨l, n, g, b.phase != g, 0⟩ : WaitLane))
    if ls.all (·.ok) then s
    else
      let s := s.modThrs c.team c.group c.set (fun t => { t with pc := c.pc, wait := .word })
      s.modGrp c.team c.group (fun G => { G with waits := G.waits ++ [⟨c.set, ls, some (c.h.scope == 3), false, 7⟩] })

/-- `rdv`: the lead group's value in every member (R330). -/
def rdvDesc (o : OpG) : Desc where
  opds := [dst 0 o.d 1 [2], src 1 o.a 1 [2]]
  hold := relHolds (mscOf o)
  chk := relTraps (mscOf o)
  eff := fun c s =>
    let v := (readS c s (c.set.headD 0) (idx o.a)).v.toNat
    c.mem.foldl (fun s m => putS c m.1 (idx o.d) v s) s

/-- The group that `tokgive` names, as a signed number (R334). -/
def giveTo (c : Ctx) (s : State) (sel : Nat) : Int := sext 64 (readU c s sel 0x30).v

/-- `tokgive` (R334). -/
def tokgiveDesc (o : OpG) : Desc where
  opds := [src 1 o.a 1 [2, 7]]
  chk := fun c s =>
    if decide (giveTo c s o.a < 0) || decide (((s.launch c.team).groups : Int) ≤ giveTo c s o.a) then
      [c.trapAll 3 1] else []
  eff := fun c s =>
    if c.act.isEmpty || s.tokenOf c.team != some c.group then s
    else
      let g := (giveTo c s o.a).toNat
      setHolder c.team (if (s.liveThr c.team g).isEmpty then none else some g) s

/-- `toktake` (R334). -/
def toktakeDesc (o : OpG) : Desc where
  opds := [dst 0 o.d 1 [2]]
  eff := fun c s =>
    if c.act.isEmpty then s
    else
      let h := s.tokenOf c.team
      if h.isNone || bit o.flags 0 then
        putS c c.group (idx o.d) 1 (setHolder c.team (some c.group) s)
      else putS c c.group (idx o.d) (b2n (h == some c.group)) s

/-- `fence` (R335): a release waits for the counters; an acquire holds later accesses until earlier reads have returned. -/
def fenceDesc (o : OpG) : Desc where
  opds := []
  hold := fun c s => bit o.flags 1 && relHolds (mscOf o) c s
  chk := fun c s => if bit o.flags 1 then relTraps (mscOf o) c s else []
  eff := fun c s =>
    if bit o.flags 0 then
      let owed := (owedS c s).map (·.access)
      s.modThrs c.team c.group c.act (fun t => { t with acq := t.acq ++ t.pend.map (·.access) ++ owed })
    else s

/-! ### Clock, place and system registers (R340-R343) -/

/-- Write a value of `n` registers in every active lane, without a latch shift (R173). -/
def ctlPut (o : OpG) (n : Nat) (f : Ctx → State → Nat → Nat) (c : Ctx) (s : State) : State :=
  c.act.foldl (fun s' l => putVs c c.group l (idx o.d) n (f c s l) s') s

/-- `clock` (R340). -/
def clockDesc (o : OpG) : Desc where
  opds := [dst 0 o.d 2 [0]]
  eff := ctlPut o 2 (fun c s _ => if bit o.flags 0 then s.ncyc else s.now c.team)

/-- The bays of view device d (Table host-2). -/
def viewBays (view d : Nat) : List Nat :=
  match view with
  | 0 => [0, 1, 2, 3, 4, 5, 6, 7]
  | 1 => if d == 0 then [0, 1, 4, 5] else [2, 3, 6, 7]
  | _ => [d]

/-- The view of a team's context (Table host-1). -/
def State.viewOf (s : State) (ctx : Nat) : Nat :=
  match s.ctxs.get? ctx with
  | some r => r.view
  | none => 0

/-- The router of a global cluster (R12). -/
def routerOf (cluster : Nat) : Nat × Nat :=
  let b := cluster / 16
  let c := cluster % 16
  (4 * (b % 4) + c % 4, 4 * (b / 4) + c / 4)

/-- The item of Table ctl-5. -/
def placeItem (item : Nat) (c : Ctx) (s : State) (lane : Nat) : Nat :=
  let T := s.team c.team
  let L := s.launch c.team
  match item with
  | 0 =>
    let unit := match (s.thr (c.key lane)).span with
      | some sp => 3 * 2 ^ 7 + sp.slot / 4 * 2 ^ 9
      | none => T.core * 2 ^ 7
    bayOf T.cluster + T.cluster % 16 * 2 ^ 3 + unit
  | 1 => (s.grid c.team).vdev + (viewBays (s.viewOf T.ctx) (s.grid c.team).vdev).length * 2 ^ 3
  | 2 => if L.arrw == 0 then 0 else T.ox + T.oy * 2 ^ 3 + L.arrw * 2 ^ 6 + L.arrh * 2 ^ 10
  | _ => (routerOf T.cluster).1 + (routerOf T.cluster).2 * 2 ^ 4

/-- `place` (R341). -/
def placeDesc (o : OpG) : Desc where
  opds := [dst 0 o.d 1 [0]]
  eff := ctlPut o 1 (placeItem (bits o.flags 1 0))

/-- TRAP.STAT as bits (Table core-4). -/
def TrapFrame.stat (f : TrapFrame) : Nat :=
  b2n f.active * 2 ^ 63 + f.kind * 2 ^ 48 + f.scope * 2 ^ 46 + f.group * 2 ^ 42 + f.depth * 2 ^ 32 + f.info

/-- WIDTH code of Table enc-8. -/
def widthCode (w : Nat) : Nat := if w == 16 then 0 else if w == 32 then 1 else if w == 64 then 2 else 3

/-- The registers that a system register fills (Table ctl-6). -/
def srnRegs (n : Nat) : Nat :=
  if n == 3 || n == 13 then 4 else if [0, 1, 2, 4, 8].contains n then 2 else 1

/-- The contents of a system register (Tables ctl-6 and ctl-7). -/
def sysReg (n : Nat) (c : Ctx) (s : State) (lane : Nat) : Nat :=
  let T := s.team c.team
  let L := s.launch c.team
  let G := s.grp c.team c.group
  let t := s.thr (c.key lane)
  let gr := s.grid c.team
  match n with
  | 0 => G.trap.stat
  | 1 => G.trap.pc
  | 2 => G.trap.va
  | 3 => G.trap.lanes.toNat
  | 4 => t.wb * 2 ^ 32 + t.lo
  | 5 => t.depth * 2 ^ 16 + t.cd
  | 6 => T.lin
  | 7 => widthCode G.width * 2 ^ 13 + b2n G.setNo.isSome * 2 ^ 12 + G.setNo.getD 0 * 2 ^ 9 + b2n G.prod * 2 ^ 8
      + (L.groups - 1) * 2 ^ 4 + c.group
  | 8 => gr.z * 2 ^ 32 + gr.y * 2 ^ 16 + gr.x
  | 9 => gr.vdev * 2 ^ 14 + s.viewOf T.ctx * 2 ^ 12 + T.ctx
  | 10 => L.ejmax * 2 ^ 16 + L.ejmin * 2 ^ 8 + T.ej
  | 11 => (s.tokenOf c.team).getD 31
  | 12 => s.spanHeld T.cluster T.ctx * 2 ^ 8 + (32 - (s.spanUsed T.cluster).length)
  | _ => (lanesOf ((upFrom 0 G.width).filter (fun i => s.ejected (c.key i)))).toNat

/-- `sysrd` (R342). -/
def sysrdDesc (o : OpG) : Desc where
  opds := [dst 0 o.d (srnRegs o.flags) [0]]
  eff := ctlPut o (srnRegs o.flags) (sysReg o.flags)

/-- `syswr`: the ejection threshold, within its bounds; a step of the adaptive loop that is due comes first (Table ctl-7, R343). -/
def syswrDesc (o : OpG) : Desc where
  opds := [src 1 o.a 1 [2]]
  eff := fun c s =>
    if c.act.isEmpty then s
    else
      let L := s.launch c.team
      (closeWindow c.team s).modTeam c.team (fun T => { T with ej := satN (bits (readU c s o.a 0x2F).v 4 0) L.ejmin L.ejmax })

/-- No effect beyond the hints (R319, R328). -/
def noEffect : Desc where
  opds := []
  eff := fun _ s => s

/-- `nop` (R318, Table ctl-2). -/
def execNop (h : Hdr) (o : OpI) (s : State) : Host.Outcome State Fault Refusal :=
  .next (issue (.nop h o) 0 (noEffect) s)

/-- `bra` (R321). -/
def execBra (h : Hdr) (o : OpI) (s : State) : Host.Outcome State Fault Refusal :=
  .next (issue (.bra h o) 0 (braDesc o) s)

/-- `brx` (R321). -/
def execBrx (h : Hdr) (o : OpI) (s : State) : Host.Outcome State Fault Refusal :=
  .next (issue (.brx h o) 0 (brxDesc o) s)

/-- `call` (R322). -/
def execCall (h : Hdr) (o : OpI) (s : State) : Host.Outcome State Fault Refusal :=
  .next (issue (.call h o) 0 (callDesc o) s)

/-- `callx` (R322). -/
def execCallx (h : Hdr) (o : OpI) (s : State) : Host.Outcome State Fault Refusal :=
  .next (issue (.callx h o) 0 (callxDesc o) s)

/-- `ret` (R323). -/
def execRet (h : Hdr) (o : OpI) (s : State) : Host.Outcome State Fault Refusal :=
  .next (issue (.ret h o) 0 (retDesc o) s)

/-- `exit` (R324). -/
def execExit (h : Hdr) (o : OpI) (s : State) : Host.Outcome State Fault Refusal :=
  .next (issue (.exit h o) 0 (exitDesc) s)

/-- `kill` (R324). -/
def execKill (h : Hdr) (o : OpI) (s : State) : Host.Outcome State Fault Refusal :=
  .next (issue (.kill h o) 0 (killDesc o) s)

/-- `rejoin` (R328). -/
def execRejoin (h : Hdr) (o : OpI) (s : State) : Host.Outcome State Fault Refusal :=
  .next (issue (.rejoin h o) 0 (noEffect) s)

/-- `trap` (R336). -/
def execTrap (h : Hdr) (o : OpI) (s : State) : Host.Outcome State Fault Refusal :=
  .next (issue (.trap h o) 0 (trapDesc o) s)

/-- `tret` (R337). -/
def execTret (h : Hdr) (o : OpI) (s : State) : Host.Outcome State Fault Refusal :=
  .next (issue (.tret h o) 0 (tretDesc o) s)

/-- `pchk` (R339). -/
def execPchk (h : Hdr) (o : OpI) (s : State) : Host.Outcome State Fault Refusal :=
  .next (issue (.pchk h o) 0 (pchkDesc o) s)

/-- `mjoin` (R326). -/
def execMjoin (h : Hdr) (o : OpG) (s : State) : Host.Outcome State Fault Refusal :=
  .next (issue (.mjoin h o) 0 (mjoinDesc o) s)

/-- `mleave` (R326). -/
def execMleave (h : Hdr) (o : OpG) (s : State) : Host.Outcome State Fault Refusal :=
  .next (issue (.mleave h o) 0 (mleaveDesc o) s)

/-- `mwait` (R326). -/
def execMwait (h : Hdr) (o : OpG) (s : State) : Host.Outcome State Fault Refusal :=
  .next (issue (.mwait h o) 0 (mwaitDesc o) s)

/-- `mget` (R327). -/
def execMget (h : Hdr) (o : OpG) (s : State) : Host.Outcome State Fault Refusal :=
  .next (issue (.mget h o) 0 (mgetDesc o) s)

/-- `bar` (R329). -/
def execBar (h : Hdr) (o : OpG) (s : State) : Host.Outcome State Fault Refusal :=
  .next (issue (.bar h o) 0 (barDesc o) s)

/-- `arrive` (R332). -/
def execArrive (h : Hdr) (o : OpG) (s : State) : Host.Outcome State Fault Refusal :=
  .next (issue (.arrive h o) 0 (arriveDesc o) s)

/-- `bwait` (R333). -/
def execBwait (h : Hdr) (o : OpG) (s : State) : Host.Outcome State Fault Refusal :=
  .next (issue (.bwait h o) 0 (bwaitDesc o) s)

/-- `rdv` (R330). -/
def execRdv (h : Hdr) (o : OpG) (s : State) : Host.Outcome State Fault Refusal :=
  .next (issue (.rdv h o) 0 (rdvDesc o) s)

/-- `tokgive` (R334). -/
def execTokgive (h : Hdr) (o : OpG) (s : State) : Host.Outcome State Fault Refusal :=
  .next (issue (.tokgive h o) 0 (tokgiveDesc o) s)

/-- `toktake` (R334). -/
def execToktake (h : Hdr) (o : OpG) (s : State) : Host.Outcome State Fault Refusal :=
  .next (issue (.toktake h o) 0 (toktakeDesc o) s)

/-- `fence` (R335). -/
def execFence (h : Hdr) (o : OpG) (s : State) : Host.Outcome State Fault Refusal :=
  .next (issue (.fence h o) 0 (fenceDesc o) s)

/-- `clock` (R340). -/
def execClock (h : Hdr) (o : OpG) (s : State) : Host.Outcome State Fault Refusal :=
  .next (issue (.clock h o) 0 (clockDesc o) s)

/-- `place` (R341). -/
def execPlace (h : Hdr) (o : OpG) (s : State) : Host.Outcome State Fault Refusal :=
  .next (issue (.place h o) 0 (placeDesc o) s)

/-- `sysrd` (R342). -/
def execSysrd (h : Hdr) (o : OpG) (s : State) : Host.Outcome State Fault Refusal :=
  .next (issue (.sysrd h o) 0 (sysrdDesc o) s)

/-- `syswr` (R342). -/
def execSyswr (h : Hdr) (o : OpG) (s : State) : Host.Outcome State Fault Refusal :=
  .next (issue (.syswr h o) 0 (syswrDesc o) s)

end Sys2Proof.Machine
end

