-- ==== Sys2Proof/Machine/Local.lean ====
section
/-! DEFINITION. Local memory, generic pointers, the private layout, synchronisation words and shape records (R200-R212, R285-R287, R367). -/

namespace Sys2Proof.Machine

/-! ### Bytes by address -/

/-- The byte listed at an address. -/
def cellAt : List Host.Cell → Nat → Option Byte
  | [], _ => none
  | (a, b) :: l, x => if x = a then some b else if x < a then none else cellAt l x

/-- List a byte at an address, keeping addresses strictly rising. -/
def cellPut : List Host.Cell → Nat → Byte → List Host.Cell
  | [], x, v => [(x, v)]
  | (a, b) :: l, x, v => if x < a then (x, v) :: (a, b) :: l else if x = a then (a, v) :: l else (a, b) :: cellPut l x v

/-- Unlist an address. -/
def cellDrop : List Host.Cell → Nat → List Host.Cell
  | [], _ => []
  | (a, b) :: l, x => if x < a then (a, b) :: l else if x = a then l else (a, b) :: cellDrop l x

/-- A byte of local memory: the listed one, else zero, else the allotment's own undefined byte (R143). -/
def LMem.byte (m : LMem) (o : Nat) : Byte :=
  match cellAt m.cells o with
  | some b => b
  | none =>
    match m.fresh with
    | some u => Config.freeByte u o
    | none => 0

/-- `n` bytes of local memory as a little-endian number. -/
def LMem.num (m : LMem) (o n : Nat) : Nat := leVal ((upFrom o n).map m.byte)

/-- Whether a word that the bytes touch is poisoned (R202). -/
def LMem.bad (m : LMem) (o n : Nat) : Bool := m.poison.any (fun w => decide (w * 4 < o + n) && decide (o < w * 4 + 4))

/-- Write bytes from an offset. -/
def putBytes (cells : List Host.Cell) : Nat → List Byte → List Host.Cell
  | _, [] => cells
  | o, b :: l => putBytes (cellPut cells o b) (o + 1) l

/-- Write bytes; a word whose four bytes are all written loses its poison (R202). -/
def LMem.write (m : LMem) (o : Nat) (l : List Byte) : LMem :=
  { m with
    cells := putBytes m.cells o l
    poison := m.poison.filter (fun w => !(decide (o ≤ w * 4) && decide (w * 4 + 4 ≤ o + l.length))) }

/-- A write that is made in several pieces has covered these bytes: words with all four among them lose their poison (R202). -/
def LMem.cover (m : LMem) (offs : List Nat) : LMem :=
  { m with poison := m.poison.filter (fun w => !(upFrom (4 * w) 4).all offs.contains) }

/-- Mark the words that a byte range touches as poisoned. -/
def LMem.spoil (m : LMem) (o n : Nat) : LMem :=
  { m with poison := distinct (m.poison ++ (upFrom (o / 4) ((o + n + 3) / 4 - o / 4))) }

/-- A byte of a memory; an unlisted byte reads as 0 (R26 step 6). -/
def memByte (m : List Host.Cell) (a : Nat) : Byte := (cellAt m a).getD 0

/-- Write a byte, keeping the canonical form. -/
def memPut (m : List Host.Cell) (a : Nat) (b : Byte) : List Host.Cell := if b == 0 then cellDrop m a else cellPut m a b

/-- Write bytes at rising addresses. -/
def memPuts (m : List Host.Cell) : Nat → List Byte → List Host.Cell
  | _, [] => m
  | a, b :: l => memPuts (memPut m a b) (a + 1) l

/-! ### Bytes that asynchronous operations read or write (R214, R228, R263) -/

/-- A byte of a memory. -/
def State.areaByte (s : State) (a : Area) (o : Nat) : Byte :=
  match a with
  | .spad t => (s.team t).spad.byte o
  | .clsh g c => (s.clsh.getD (g, c) .empty).byte o
  | .dev => memByte s.mem o
  | .host => memByte s.hmem o

/-- Change a byte of a memory; poison stays. -/
def State.areaPut (s : State) (a : Area) (o : Nat) (b : Byte) : State :=
  match a with
  | .spad t => s.modTeam t (fun T => { T with spad := { T.spad with cells := cellPut T.spad.cells o b } })
  | .clsh g c =>
    let m := s.clsh.getD (g, c) .empty
    { s with clsh := s.clsh.set (g, c) { m with cells := cellPut m.cells o b } }
  | .dev => { s with mem := memPut s.mem o b }
  | .host => { s with hmem := memPut s.hmem o b }

/-- A byte lies in one of the spans. -/
def inSpans (l : List Span) (a : Area) (o : Nat) : Bool :=
  l.any (fun x => x.area == a && decide (x.lo ≤ o) && decide (o < x.lo + x.len))

/-- The bytes of spans in order. -/
def spanCells (l : List Span) : List (Area × Nat) := l.flatMap (fun x => (upFrom x.lo x.len).map (fun o => (x.area, o)))

/-- The bytes that spans hold in some memory, once each. -/
def spanBytes (l : List Span) : List (Area × Nat) := distinct (spanCells (l.filter (fun x => decide (x.lo < 2 ^ 60))))

/-- The aligned 4-byte pieces that a write replaces, while some grid runs (R268). -/
def oldPieces (s : State) (host : Bool) (a n : Nat) : List OldPiece :=
  if s.grids.isEmpty then []
  else (upFrom (a / 4) ((a + n + 3) / 4 - a / 4)).map (fun k =>
    ⟨host, 4 * k, (upFrom (4 * k) 4).map (memByte (if host then s.hmem else s.mem)), s.ncyc⟩)

/-- The destination bytes of a command that a write of the program to one of its bytes leaves undefined: the byte itself, or those that come from it (R214 step 4). -/
def DoneOp.touched (d : DoneOp) (a : Area) (offs : List Nat) : List (Area × Nat) :=
  let own := (offs.filter (inSpans d.writes a)).map (fun o => (a, o))
  if offs.any (inSpans d.reads a) then
    own ++ (if d.inStep then
        (((spanCells d.reads).zip (spanCells d.writes)).filter (fun x => x.1.1 == a && offs.contains x.1.2 && decide (x.2.2 < 2 ^ 60))).map Prod.snd
      else spanBytes d.writes)
  else own

/-- Operations in flight note bytes that have been written among those that they touch. -/
def noteHits (mine : AOp → Bool) (a : Area) (offs : List Nat) (s : State) : State :=
  { s with ops := s.ops.map (fun e =>
      if mine e.2 then
        (e.1, { e.2 with hits := e.2.hits ++ (offs.filter (fun o => inSpans e.2.reads a o || inSpans e.2.writes a o)).map (fun o => (a, o)) })
      else e) }

/-- The operation still holds what a destination byte is to become. -/
def AOp.holds (p : AOp) (k : Area × Nat) : Bool := p.old.any (fun x => x.1 == k)

/-- The program has written bytes. An operation in flight that reads or writes them notes it, and a destination byte holds an undefined value again; so does one of a command that no wait has observed (R214 step 4, R228). -/
def disturb (a : Area) (offs : List Nat) (s : State) : State :=
  if s.ops.isEmpty && s.doneOps.isEmpty then s
  else
    let s1 := s.ops.foldl (fun s e =>
      (offs.filter (fun o => e.2.holds (a, o))).foldl (fun s o => s.areaPut a o (Config.freeByte e.2.fresh o)) s)
      (noteHits (fun _ => true) a offs s)
    s.doneOps.foldl (fun s d => (d.touched a offs).foldl (fun s k => s.areaPut k.1 k.2 (Config.freeByte d.fresh k.2)) s) s1

/-- A wait has observed a word: the commands that have counted their last into it are done with (R214 step 4). -/
def observe (t off : Nat) (s : State) : State :=
  if s.doneOps.isEmpty then s
  else { s with doneOps := s.doneOps.filter (fun d => d.team != t || d.word != some off) }

/-- A group has written scratchpad bytes since its last operand-ready fence (R394). -/
def noteWrite (t g off n : Nat) (s : State) : State :=
  s.modGrp t g (fun G => { G with unfenced := G.unfenced ++ [⟨off, n⟩] })

/-! ### Spaces -/

/-- The address spaces of a generic pointer (Table local-1). -/
inductive Space where
  | glob | spad | clsh | priv
  deriving DecidableEq, Repr

/-- An address, or the sub-code of the address trap it raises (Table local-3). -/
abbrev Loc := Except Nat (Space × Nat)

/-- `team_tag()` of R203. -/
def teamTag (s : State) (t : Nat) : Nat := (s.team t).lin % 2 ^ 20

/-- The size of a space for a team (R203). -/
def spaceSize (s : State) (t : Nat) : Space → Nat
  | .glob => 2 ^ 57
  | .spad => (s.launch t).spad
  | .clsh => (s.launch t).cshared
  | .priv => (s.launch t).privSize

/-- The sub-code of an offset beyond a space (Table local-3). -/
def boundCode : Space → Nat
  | .glob => 1
  | .spad => 3
  | .clsh => 5
  | .priv => 6

/-- The window step of R203: the space and offset a pointer names. -/
def window (s : State) (t g : Nat) : Loc :=
  if bits g 63 57 != 0 then .error 1
  else if bits g 56 44 != 0x1FFF then .ok (.glob, bits g 56 0)
  else
    match bits g 43 40 with
    | 0 => if bit g 19 then .error 2 else if bits g 39 20 != teamTag s t then .error 4 else .ok (.spad, bits g 18 0)
    | 1 => if bits g 39 20 != 0 then .error 2 else .ok (.clsh, bits g 19 0)
    | 2 => if bits g 39 32 != 0 then .error 2 else .ok (.priv, bits g 31 0)
    | _ => .error 2

/-- The bound and alignment steps of R203. -/
def boundAlign (s : State) (t n : Nat) : Space × Nat → Loc
  | (sp, o) =>
    if sp != .glob && spaceSize s t sp < o + n then .error (boundCode sp)
    else if o % n != 0 then .error 7
    else .ok (sp, o)

/-- `decode_generic(g, n)` of R203. -/
def decodeGeneric (s : State) (t g n : Nat) : Loc :=
  match window s t g with
  | .error e => .error e
  | .ok x => boundAlign s t n x

/-- How an instruction forms its address (R367). -/
inductive AddrForm where
  | generic
  | global
  | space (sp : Space)
  deriving DecidableEq, Repr

/-- Registers of the address source. -/
def AddrForm.regs : AddrForm → Nat
  | .space _ => 1
  | _ => 2

/-- The classes of the address source (R367). -/
def AddrForm.cls : AddrForm → List Nat
  | .space _ => [0, 2, 60, 7]
  | _ => [0, 2, 60]

/-- `addr_of(lane, n)` of R367 from the source value. -/
def addrFrom (s : State) (t : Nat) (f : AddrForm) (base off n : Nat) : Loc :=
  match f with
  | .generic => decodeGeneric s t (wrapN 64 ((base : Int) + sext 14 off)) n
  | .global =>
    let va := wrapN 64 ((base : Int) + sext 14 off)
    if bits va 63 57 != 0 then .error 1
    else if bits va 56 44 == 0x1FFF then .error 2
    else if va % n != 0 then .error 7
    else .ok (.glob, bits va 56 0)
  | .space sp =>
    let o := ((base % 2 ^ 32 : Nat) : Int) + sext 14 off
    if o < 0 || ((spaceSize s t sp : Nat) : Int) < o + (n : Int) then .error (boundCode sp)
    else if o.toNat % n != 0 then .error 7
    else .ok (sp, o.toNat)

/-- The value of an address source in a lane: 64 bits of a pointer, or the low 32 bits of an offset (R367). -/
def addrBase (c : Ctx) (s : State) (g l : Nat) (f : AddrForm) (sel : Nat) : Nat :=
  match f with
  | .space _ => (readSel c s g l sel 1 0x2F).v % 2 ^ 32
  | _ => (readSel c s g l sel 2 0x31).v

/-- `addr_of` of a lane. -/
def addrOf (c : Ctx) (s : State) (g l : Nat) (f : AddrForm) (sel off n : Nat) : Loc :=
  addrFrom s c.team f (addrBase c s g l f sel) off n

/-- The virtual address that TRAP.VA shows for a lane: the formed address, modulo 2^57. -/
def addrShown (c : Ctx) (s : State) (g l : Nat) (f : AddrForm) (sel off : Nat) : Nat :=
  wrapN 57 ((addrBase c s g l f sel : Int) + sext 14 off)

/-- The address trap over failing lanes of a member: the lowest lane's sub-code, and its address (R365). -/
def addrTrap (g : Nat) (bad : List (Nat × Nat × Nat)) : List Trap :=
  match bad with
  | [] => []
  | (_, code, va) :: _ => [⟨13, code, va, bad.map (·.1), g⟩]

/-- The failing lanes of a check, with sub-code and shown address. -/
def locErrs (ls : List Nat) (f : Nat → Loc) (shown : Nat → Nat) : List (Nat × Nat × Nat) :=
  ls.filterMap (fun l =>
    match f l with
    | .error e => some (l, e, shown l)
    | .ok _ => none)

/-- The global address of a private offset (R205). -/
def privVa (s : State) (t g l o : Nat) : Nat :=
  let L := s.launch t
  let q := (s.team t).lin * L.groups + g
  (L.privBase + L.privSize * L.width * q + 4 * L.width * (o / 4) + 4 * l + o % 4) % 2 ^ 64

/-! ### Ports -/

/-- The cluster-shared segment of a team's grid on its cluster (R142). -/
def State.seg (s : State) (t : Nat) : LMem := s.clsh.getD ((s.team t).grid, (s.team t).cluster) .empty

/-- Change the segment of a team's grid on its cluster. -/
def State.modSeg (s : State) (t : Nat) (f : LMem → LMem) : State :=
  { s with clsh := s.clsh.set ((s.team t).grid, (s.team t).cluster) (f (s.seg t)) }

/-- A local space's memory. -/
def State.local (s : State) (t : Nat) : Space → LMem
  | .clsh => s.seg t
  | _ => (s.team t).spad

/-- A local space as a memory. -/
def State.areaOf (s : State) (t : Nat) : Space → Area
  | .clsh => .clsh (s.team t).grid (s.team t).cluster
  | _ => .spad t

/-- Change a local space's memory. -/
def State.modLocal (s : State) (t : Nat) (sp : Space) (f : LMem → LMem) : State :=
  match sp with
  | .clsh => s.modSeg t f
  | _ => s.modTeam t (fun T => { T with spad := f T.spad })

/-! ### Synchronisation words (R208-R212) -/

/-- The word at an offset of a team's allotment. -/
def syncAt (s : State) (t off : Nat) : SyncWord := .ofNat ((s.team t).spad.num off 16)

/-- A satisfied lane observes its word and takes the result (R383). -/
def putSync (t g : Nat) (w : WaitRec) (l : WaitLane) (v : Nat) (s : State) : State :=
  let s := observe t l.at_ s
  if w.uniform then s.setS t g l.dst v
  else s.modThr (t, g, l.lane) (fun th => th.setAbs l.dst (BitVec.ofNat 32 v) false)

/-- An issue set of the team waits on the word. -/
def wordWaited (s : State) (t off : Nat) : Bool :=
  (s.liveGroups t).any (fun g => (s.grp t g).waits.any (fun w => w.bank.isNone && w.lanes.any (fun l => !l.ok && l.at_ == off)))

/-- The engine of a cluster times a word that is waited on, when it times fewer than 512 (R211). -/
def timeWord (t off : Nat) (s : State) : State :=
  let cl := (s.team t).cluster
  if s.timed.any (fun x => x.team == t && x.off == off)
      || decide (512 ≤ (s.timed.filter (fun x => (s.team x.team).cluster == cl)).length) then s
  else ({ s with timed := s.timed ++ [⟨t, off, s.now t, 0⟩] } : State).push .syncTimerTick (⟨t, off, 0, []⟩ : EvArg)

/-- A word is timed no longer, and the words of its cluster that wait untimed may be. -/
def untimeWord (t off : Nat) (s : State) : State :=
  let cl := (s.team t).cluster
  let s := { s with timed := s.timed.filter (fun x => x.team != t || x.off != off) }
  (s.teams.filter (fun e => e.2.cluster == cl && !e.2.halted)).foldl (fun s e =>
    (s.liveGroups e.1).foldl (fun s g =>
      (s.grp e.1 g).waits.foldl (fun s w =>
        if w.bank.isSome then s else (w.lanes.filter (fun l => !l.ok)).foldl (fun s l => timeWord e.1 l.at_ s) s) s) s) s

/-- Restart the unit of 1,024 a-cycles that a word's timer counts. -/
def restartWord (t off start : Nat) (s : State) : State :=
  { s with timed := s.timed.map (fun x => if x.team == t && x.off == off then { x with start := start, count := 0 } else x) }

/-- The timers count only a-cycles in which the word is waited on, has a LIMIT and no TIMEOUT: any other word's unit of 1,024 begins anew, and a word that nothing waits on leaves its place to another (R211). -/
def settleTimed (s : State) : State :=
  s.timed.foldl (fun s x =>
    if (s.team x.team).halted then s
    else if (s.teams.get? x.team).isNone || !wordWaited s x.team x.off then untimeWord x.team x.off s
    else
      let w := syncAt s x.team x.off
      if w.limit == 0 || w.timeout then restartWord x.team x.off (s.now x.team) s else s) s

/-- Evaluate the waits of a group on synchronisation words (R210). -/
def evalSync (t g : Nat) (s : State) : State :=
  let ws := (s.grp t g).waits
  let s := s.modGrp t g (fun G => { G with waits := [] })
  forEach ws (fun s w =>
    if w.bank.isSome then s.modGrp t g (fun G => { G with waits := G.waits ++ [w] })
    else
      let now := w.lanes.filter (fun l => !l.ok && (syncAt s t l.at_).sat l.phase)
      let s := forEach now (fun s l => putSync t g w l (syncAt s t l.at_).result s) s
      finishWait t g { w with lanes := w.lanes.map (fun l => { l with ok := l.ok || now.contains l }) } s) s

/-- A write has reached a team's scratchpad port: every wait on a word is looked at again (R210), but not while the team is halted (R156). -/
def evalPort (t : Nat) (s : State) : State :=
  if (s.team t).halted then s else forEach (s.liveGroups t) (fun s g => evalSync t g s) s

/-- Write bytes of a local space at its port. -/
def portWrite (t : Nat) (sp : Space) (o : Nat) (l : List Byte) (s : State) : State :=
  let s := disturb (s.areaOf t sp) (upFrom o l.length) (s.modLocal t sp (fun m => m.write o l))
  if sp == .clsh then s else evalPort t s

/-- `sync_update` applied to a team's word at its port (R209, R212). On a word with poisoned bytes, which the manual does not cover, it takes the stored bits, and its 16-byte write clears the poison: the model's choice (log entry 72). -/
def syncApply (t off amount : Nat) (err : Bool) (s : State) : State :=
  let w := (syncAt s t off).update amount err
  portWrite t .spad off (leBytes 16 w.toNat) s

/-- A word of a barrier that matrix operations name is updated by 1 in the same way; the barrier object is 32 bytes (R242). -/
def barOff (mode : Nat) : Nat := 32 * bits mode 18 5

/-- Count a local write of some lanes, to be acknowledged by the port (Table cons-3), as a part of the instruction's track. -/
def countLocal (t g : Nat) (lanes : List Nat) (track : Nat) (s : State) : State :=
  if lanes.isEmpty then s
  else
    let s := s.modThrs t g lanes (fun th => { th with owl := th.owl + 1 })
    s.push .portWriteAcknowledgement ⟨t, g, (lanesOf lanes).toNat, leBytes 8 track⟩

/-! ### Shape records (R285-R288) -/

/-- The fields of a 512-bit record (Table enc-6). -/
structure Shape where
  base : Nat
  ty : Nat
  rank : Nat
  swz : Nat
  btrap : Bool
  rsv : Nat
  ext : List Nat
  stride : List Nat
  tile : List Nat
  deriving DecidableEq, Repr

/-- Read a record's fields (Table enc-6); STRIDE[0] is 1. -/
def Shape.ofNat (x : Nat) : Shape :=
  ⟨bits x 511 448, bits x 447 442, bits x 441 439, bits x 438 433, bit x 432, bits x 431 428,
    (upFrom 0 7).map (fun k => bits x (260 + 24 * k + 23) (260 + 24 * k)),
    1 :: (upFrom 1 6).map (fun k => bits x (56 + 34 * (k - 1) + 33) (56 + 34 * (k - 1))),
    (upFrom 0 7).map (fun k => bits x (8 * k + 7) (8 * k))⟩

/-- A record is valid (R286). -/
def Shape.valid (h : Shape) (s : State) (t : Nat) : Bool :=
  decide (1 ≤ h.rank) && (valTy h.ty || h.ty == 0x26 || h.ty == 0x27) && h.rsv == 0
    && (h.ext.drop h.rank).all (· == 0) && (h.tile.drop h.rank).all (· == 0) && (h.stride.drop h.rank).all (· == 0)
    && (match decodeGeneric s t h.base (tySize h.ty) with
        | .ok (sp, _) => h.swz == 0 || sp == .spad
        | .error _ => false)

/-- An element's place: out of bounds, or a space, byte and nibble (R287). -/
inductive ElemLoc where
  | oob
  | at_ (sp : Space) (byte nib : Nat)
  | bad (code : Nat)
  deriving DecidableEq, Repr

/-- `shape_addr(h, c)` of R287, without the bound checks of R203; a coordinate at or beyond RANK plays no part. -/
def shapeAddr (s : State) (t : Nat) (h : Shape) (c : List Int) : ElemLoc :=
  let dims := upFrom 0 h.rank
  if dims.any (fun k => decide (c.getD k 0 < 0) || decide (((h.ext.getD k 0 : Nat) : Int) ≤ c.getD k 0)) then .oob
  else
    let e := dims.foldl (fun a k => a + (c.getD k 0).toNat * (if k == 0 then 1 else h.stride.getD k 0)) 0
    match window s t h.base with
    | .error x => .bad x
    | .ok (sp, off) =>
      let half := h.ty == 0x26 || h.ty == 0x27
      let byte := if half then off + e / 2 else off + e * tySize h.ty
      let nib := if half then e % 2 else 0
      let byte := if sp == .spad then
          setBits byte 8 3 (bits byte 8 3 ^^^ ((wrapN 6 (if h.rank < 2 then 0 else c.getD 1 0)) &&& h.swz)) else byte
      .at_ sp byte nib

/-- The bound and alignment checks of an element that is in bounds (R287, R375). -/
def elemCheck (s : State) (t ty : Nat) (l : ElemLoc) : ElemLoc :=
  match l with
  | .at_ sp b nib =>
    if sp == .glob && bits b 56 44 == 0x1FFF then .bad 2
    else if sp == .glob && 2 ^ 57 ≤ b then .bad 1
    else
      match boundAlign s t (tySize ty) (sp, b) with
      | .error e => .bad e
      | .ok _ => .at_ sp b nib
  | x => x

end Sys2Proof.Machine
end

