-- ==== Sys2Proof/Machine/Mem.lean ====
section
/-! DEFINITION. Device and host memory at the coherent level, poison of half-bursts, the host sectors, and the error log (R13, R14, R38, R39, R76, R77, R105, R415). -/

namespace Sys2Proof.Machine

/-! ### Bytes -/

/-- The canonical form of a memory: addresses strictly rising, and no byte 0 listed. -/
def memWf : List Host.Cell → Bool
  | [] => true
  | [(_, b)] => b != 0
  | (a, b) :: (c, d) :: l => b != 0 && decide (a < c) && memWf ((c, d) :: l)

/-- Bytes of device (false) or host (true) memory. -/
def State.rd (s : State) (host : Bool) (a n : Nat) : List Byte :=
  (upFrom a n).map (memByte (if host then s.hmem else s.mem))

/-- A little-endian number in memory. -/
def State.num (s : State) (host : Bool) (a n : Nat) : Nat := leVal (s.rd host a n)

/-- Write bytes of device or host memory. -/
def State.wr (s : State) (host : Bool) (a : Nat) (l : List Byte) : State :=
  let old := oldPieces s host a l.length
  if host then { s with hmem := memPuts s.hmem a l, oldCode := s.oldCode ++ old }
  else { s with mem := memPuts s.mem a l, oldCode := s.oldCode ++ old }

/-! ### Poison of half-bursts (R415) -/

/-- The number of a half-burst in the poison list. -/
def hbKey (host : Bool) (a : Nat) : Nat := 2 * (a / 32) + b2n host

/-- The half-bursts that a byte range touches. -/
def hbRange (host : Bool) (a n : Nat) : List Nat :=
  if n = 0 then [] else (upFrom (a / 32) ((a + n + 31) / 32 - a / 32)).map (fun k => 2 * k + b2n host)

/-- The private cache that holds the newest data of the line at an address, if any. -/
def State.holder (s : State) (host : Bool) (la : Nat) : Option L1Line :=
  (s.l1.find? (fun e => e.2.attr.host == host && e.2.pa == la && (e.2.st == CSt.m || e.2.st == CSt.o))).map Prod.snd

/-- A slice holds the line at an address. -/
def State.inSlice (s : State) (host : Bool) (la : Nat) : Bool := s.slices.any (fun e => e.2.attr.host == host && e.2.pa == la)

/-- The newest copy of a half-burst is poisoned: that of a private cache, else of the slice, else of the memory; or a crossing strikes it (R46, R415). -/
def State.badHb (s : State) (host : Bool) (k : Nat) : Bool :=
  let h := k / 2
  let la := h / 4 * 128
  s.crossed.contains k ||
    (match s.holder host la with
     | some c => c.bad.contains (h % 4)
     | none => if s.inSlice host la then s.sbad.contains k else s.bad.contains k)

/-- Some half-burst of the lines that the range touches is poisoned. -/
def State.badLine (s : State) (host : Bool) (a n : Nat) : Bool :=
  let lo := a / 128 * 128
  let hi := (a + n + 127) / 128 * 128
  (hbRange host lo (hi - lo)).any (s.badHb host)

/-- A half-burst that a range covers in part only. -/
def hbPart (a n k : Nat) : Bool := decide (k / 2 * 32 < a) || decide (a + n < k / 2 * 32 + 32)

/-- The write would cover only part of a poisoned half-burst. -/
def State.badMerge (s : State) (host : Bool) (a n : Nat) : Bool :=
  (hbRange host a n).any (fun k => s.badHb host k && hbPart a n k)

/-- KIND of an uncorrectable error of a line: 1 when a crossing strikes it, 2 where a slice or a private cache holds it, 0 in the stack (Table fabric-10). -/
def lineKind (s : State) (host : Bool) (a : Nat) : Nat :=
  if (hbRange host (a / 128 * 128) 128).any s.crossed.contains then 1
  else if s.inSlice host (a / 128 * 128) || (s.holder host (a / 128 * 128)).isSome then 2 else 0

/-- What a slice holds of a written range is newer than the stack's (R69). -/
def dirtySlices (host : Bool) (a n : Nat) (s : State) : State :=
  if s.slices.isEmpty then s
  else { s with slices := s.slices.map (fun e =>
      if e.2.attr.host == host && decide (a < e.2.pa + 128) && decide (e.2.pa < a + n) then (e.1, { e.2 with dirty := true }) else e) }

/-- Half-bursts are written whole with valid check symbols, wherever their newest copy stands (R415). -/
def State.heal (s : State) (ks : List Nat) : State :=
  if s.bad.isEmpty && s.sbad.isEmpty && s.l1.all (fun e => e.2.bad.isEmpty) then s
  else { s with
    bad := s.bad.filter (fun k => !ks.contains k)
    sbad := s.sbad.filter (fun k => !ks.contains k)
    l1 := s.l1.map (fun e => (e.1, { e.2 with bad := e.2.bad.filter (fun h => !ks.contains (2 * (e.2.pa / 32 + h) + b2n e.2.attr.host)) })) }

/-- A write at the memory controller: half-bursts that it covers lose their poison; the caller has excluded a poisoned one that it covers in part (R415). -/
def State.ctlWr (s : State) (host : Bool) (a : Nat) (l : List Byte) : State :=
  dirtySlices host a l.length ((s.wr host a l).heal ((hbRange host a l.length).filter (fun k => !hbPart a l.length k)))

/-- Store half-bursts as poisoned, wherever their newest copy stands (R215, R236). -/
def State.poisonMem (s : State) (host : Bool) (a n : Nat) : State :=
  let ks := hbRange host a n
  { s with
    bad := distinct (s.bad ++ ks)
    sbad := distinct (s.sbad ++ ks.filter (fun k => s.inSlice host (k / 2 / 4 * 128)))
    l1 := s.l1.map (fun e =>
      (e.1, { e.2 with bad := distinct (e.2.bad ++ (upFrom 0 4).filter (fun h => e.2.attr.host == host && ks.contains (hbKey host (e.2.pa + 32 * h)))) })) }

/-- A slice's line goes: data newer than the stack's is written there with its poison (R69, R415). -/
def dropSlice (ctx line : Nat) (s : State) : State :=
  match s.slices.get? (ctx, line) with
  | none => s
  | some c =>
    let ks := hbRange c.attr.host c.pa 128
    let sick := s.sbad.filter ks.contains
    { s with
      slices := s.slices.del (ctx, line)
      sbad := s.sbad.filter (fun k => !ks.contains k)
      bad := if c.dirty then s.bad.filter (fun k => !ks.contains k) ++ sick else s.bad }

/-! ### Where the results of operations land (R202, R214, R215, R415) -/

/-- Give a byte its value when an operation ends; while another operation in flight also writes the byte, that operation holds the value instead. A byte that the operation left unchanged matters only to operations that began after it. -/
def landByte (id : Nat) (result : Bool) (k : Area × Nat) (b : Byte) (s : State) : State :=
  if s.ops.any (fun e => e.2.holds k) then
    { s with ops := s.ops.map (fun e =>
        if e.2.holds k && (result || decide (id < e.1)) then
          (e.1, { e.2 with old := e.2.old.map (fun x => if x.1 == k then (k, b) else x) })
        else e) }
  else s.areaPut k.1 k.2 b

/-- Poison after an operation has written: units wholly written lose it, and the spoiled ones take it, wherever their newest copy stands. -/
def landPoison (outs : List (Area × Nat)) (spoil : List (Area × Nat)) (a : Area) (s : State) : State :=
  let whole := fun (lo n : Nat) => (upFrom lo n).all (fun o => outs.contains (a, o))
  let offs := fun (l : List (Area × Nat)) => (l.filter (fun k => k.1 == a)).map Prod.snd
  let local_ := fun (m : LMem) =>
    { m with poison := distinct (m.poison.filter (fun w => !whole (4 * w) 4) ++ (offs spoil).map (· / 4)) }
  let phys := fun (h : Bool) =>
    let ks := (distinct ((offs outs).map (hbKey h))).filter (fun k => whole (k / 2 * 32) 32)
    (distinct ((offs spoil).map (hbKey h))).foldl (fun s k => s.poisonMem h (k / 2 * 32) 32) (s.heal ks)
  match a with
  | .spad t => s.modTeam t (fun T => { T with spad := local_ T.spad })
  | .clsh g c => { s with clsh := s.clsh.set (g, c) (local_ (s.clsh.getD (g, c) .empty)) }
  | .dev => phys false
  | .host => phys true

/-- The bytes of a range leave the part's hands while operations write them: what has been moved is there, what has not holds what it held at issue, and the operations hold these bytes no more (R44, R267). -/
def landRange (a : Area) (lo n : Nat) (s : State) : State :=
  let mine := fun (k : Area × Nat) => k.1 == a && decide (lo ≤ k.2) && decide (k.2 < lo + n)
  s.ops.foldl (fun s e =>
    let p := e.2
    if p.old.all (fun x => !mine x.1) then s
    else
      let outs := p.outs.filter (fun x => mine x.1)
      let s : State := { s with ops := s.ops.set e.1 { p with
        outs := p.outs.filter (fun x => !mine x.1), old := p.old.filter (fun x => !mine x.1), spoil := p.spoil.filter (fun k => !mine k) } }
      let s := (p.old.filter (fun x => mine x.1) ++ outs).foldl (fun s x => s.areaPut x.1.1 x.1.2 x.2) s
      dirtySlices (a == .host) lo n (landPoison (outs.map Prod.fst) (p.spoil.filter mine) a s)) s

/-! ### Bays, registers and the error log (R76, R77, R202) -/

/-- A bay. -/
def State.bay (s : State) (b : Nat) : Bay := s.bays.getD b .zero

/-- Change a bay. -/
def State.modBay (s : State) (b : Nat) (f : Bay → Bay) : State := { s with bays := s.bays.set b (f (s.bay b)) }

/-- Requester of an access, for the log: kind and global number (Table fabric-10). -/
structure Agent where
  kind : Nat
  id : Nat
  deriving DecidableEq, Repr

/-- No requester (Table fabric-10, R202). -/
def Agent.none : Agent := ⟨7, 0⟩

/-- The agent of a unit number 16 · cluster + u; 2047 names none. -/
def agentOf (unit : Nat) : Agent :=
  let c := unit / 16
  let u := unit % 16
  if unit == 2047 then Agent.none else if u < 3 then ⟨0, 3 * c + u⟩ else ⟨1, 8 * c + u - 3⟩

/-- Write an error-log entry of a bay (R77). -/
def logErr (b kind ctx router : Nat) (ag : Agent) (va : Nat) (s : State) : State :=
  s.modBay b (fun B =>
    let old := B.errent.getD B.errhead 0
    let e := 2 ^ 127 + kind * 2 ^ 123 + ctx * 2 ^ 111 + router * 2 ^ 104 + ag.kind * 2 ^ 101 + ag.id * 2 ^ 90
      + s.ncyc / 1024 % 2 ^ 24 * 2 ^ 66 + va % 2 ^ 57
    { B with
      errent := B.errent.set B.errhead e
      errhead := (B.errhead + 1) % 64
      uncorr := (B.uncorr + 1) % 256
      ovf := B.ovf || bit old 127 })

/-- R123: a port logs a translation error once per page and kind in 4,096 n-cycles, and counts the rest. The page is named by VA[56:16] of its first address. -/
def logXlate (port b kind ctx router : Nat) (ag : Agent) (va page : Nat) (s : State) : State :=
  let same := fun (x : XLog) => x.port == port && x.ctx == ctx && x.page == page && x.kind == kind
  if s.xlogs.any (fun x => same x && decide (s.ncyc < x.time + 4096)) then
    s.modBay b (fun B => { B with suppress := (B.suppress + 1) % 2 ^ 16 })
  else
    let s := { s with xlogs := ⟨port, ctx, page, kind, s.ncyc⟩ :: s.xlogs.filter (fun x => !same x) }
    logErr b kind ctx router ag va s

/-! ### What leaves the part (R32, R33) -/

/-- Link 0 is the KHL; link p + 1 is KFL port p. -/
def State.link (s : State) (i : Nat) : LinkStat := if i == 0 then s.regs.khl else s.regs.kfl.getD (i - 1) .zero

/-- Replace a link. -/
def State.setLink (s : State) (i : Nat) (l : LinkStat) : State :=
  if i == 0 then { s with regs := { s.regs with khl := l } }
  else { s with regs := { s.regs with kfl := s.regs.kfl.set (i - 1) l } }

/-- The KHL is down (R34). -/
def State.khlLost (s : State) : Bool := s.regs.khl.state == 0

/-- The link that carries a message; the KHA-2's own reports need none. -/
def noticeLink : Notice → Option Nat
  | .msix _ | .snoopMiss | .snoopHit _ | .barData _ | .evictSector _ _ | .hostReq _ _ => some 0
  | .kfl p _ _ _ _ _ => some (p + 1)
  | .linkDown | .trip _ | .overrun | .sideData _ => none

/-- Send a flit: it takes the next sequence number, acknowledges the last flit accepted, and stays in the replay buffer until it is acknowledged (R33, Table links-2). The manual gives the virtual channel no use; the model sends 0. -/
def LinkStat.emit (ty : Nat) (msg : Option Notice) (l : LinkStat) : LinkStat :=
  let x : Flit := ⟨ty, 0, l.txNext, (l.next + 4095) % 4096, msg⟩
  { l with buffer := l.buffer ++ [x], wire := l.wire ++ [x], txNext := (l.txNext + 1) % 4096 }

/-- The payloads that carry a message: of its data each holds at most 240 bytes (Table links-2). The manual gives the messages no form in bytes: in the model the data alone counts (log entry 57). -/
def Notice.payloads (n : Notice) : List Notice :=
  let cut := fun (d : List Byte) => (upFrom 0 (max 1 ((d.length + 239) / 240))).map (fun k => (d.drop (240 * k)).take 240)
  match n with
  | .barData d => (cut d).map .barData
  | .kfl p t i g d sick => (cut d).map (fun x => .kfl p t i g x sick)
  | _ => [n]

/-- Send what is held, as far as the replay buffer of 512 flits has room; nothing while the link trains or is down (R33). -/
def LinkStat.release (l : LinkStat) : LinkStat :=
  if l.state < 2 then l
  else
    let k := 512 - l.buffer.length
    (l.held.take k).foldl (fun l n => l.emit 1 (some n)) { l with held := l.held.drop k }

/-- A message leaves the part: toward the host, to a peer, or as a report of the KHA-2. -/
def State.tell (s : State) (n : Notice) : State :=
  let s := { s with notices := s.notices ++ [n] }
  match noticeLink n with
  | none => s
  | some i => let l := s.link i
              s.setLink i ({ l with held := l.held ++ n.payloads } : LinkStat).release

/-! ### Host sectors (R38, R39) -/

/-- Return a held host sector to the host with DirtyEvict or CleanEvict (R38). -/
def dropSector (h : HostSector) (s : State) : State :=
  ({ s with hsect := s.hsect.filter (fun x => x != h) }).tell (.evictSector h.hs (h.st == HSt.m))

/-- Mark the held sectors of a written host range as modified. -/
def dirtySectors (a n : Nat) (s : State) : State :=
  { s with hsect := s.hsect.map (fun h => if a / 64 ≤ h.hs && h.hs * 64 < a + n then { h with st := .m } else h) }

/-- A write of cached or home-held data: host sectors become modified. -/
def State.cwr (s : State) (host : Bool) (a : Nat) (l : List Byte) : State :=
  let s := dirtySlices host a l.length (disturb (if host then .host else .dev) (upFrom a l.length) (s.wr host a l))
  if host then dirtySectors a l.length s else s

/-! ### Meshes of routers (R11, R12, R50, R51) -/

/-- Router number 16·y + x. -/
def rnum (x y : Nat) : Nat := 16 * y + x

/-- The next router on the X-first route. -/
def stepX (r d : Nat) : Nat :=
  let x := r % 16
  let y := r / 16
  if x < d % 16 then rnum (x + 1) y else if d % 16 < x then rnum (x - 1) y
  else if y < d / 16 then rnum x (y + 1) else if d / 16 < y then rnum x (y - 1) else r

/-- The port by which a neighbour is reached: 0 N, 1 E, 2 S, 3 W. -/
def dirTo (r q : Nat) : Nat :=
  if q % 16 == r % 16 + 1 && q / 16 == r / 16 then 1
  else if r % 16 == q % 16 + 1 && q / 16 == r / 16 then 3
  else if q / 16 == r / 16 + 1 then 2
  else 0

/-- The neighbour at a port. -/
def nbr (r p : Nat) : Nat :=
  match p with
  | 0 => r - 16
  | 1 => r + 1
  | 2 => r + 16
  | _ => r - 1

/-- The X-first route from one router to another, both included. -/
def routeGo : Nat → Nat → Nat → List Nat
  | 0, r, _ => [r]
  | f + 1, r, d => if r == d then [r] else r :: routeGo f (stepX r d) d

/-- The X-first route; at most 22 hops. -/
def routeX (r d : Nat) : List Nat := routeGo 24 r d

/-- The Y-first route: the X-first route back, reversed (R50). -/
def routeY (r d : Nat) : List Nat := (routeX d r).reverse

/-- The router number of a cluster. -/
def routerNo (cluster : Nat) : Nat := rnum (routerOf cluster).1 (routerOf cluster).2

/-- The cluster at a router (R12). -/
def clusterAt (r : Nat) : Nat := 16 * (r % 16 / 4 + 4 * (r / 16 / 4)) + 4 * (r / 16 % 4) + r % 16 % 4

/-- The router at which what leaves the mesh for an I/O die, or comes from it, passes the edge: in the row of the router that it comes from or goes to (R11, R50). -/
def edgeRouter (die r : Nat) : Nat := rnum (if die == 0 then 0 else 15) (r / 16)

/-- The I/O die that carries a KFL port (R11). -/
def dieOfPort (p : Nat) : Nat := p / 2

/-- The bay of a router (R11). -/
def bayOfRouter (r : Nat) : Nat := r % 16 / 4 + 4 * (r / 16 / 4)

/-- The home router of a line in a bay (R51). -/
def homeOf (bay line : Nat) : Nat :=
  let va := line * 128
  let i := bits va 10 7 ^^^ bits va 14 11 ^^^ bits va 18 15 ^^^ bits va 22 19
  rnum (4 * (bay % 4) + i % 4) (4 * (bay / 4) + i / 4)

/-- A fresh number for a record. -/
def State.newId (s : State) : Nat × State := (s.nextId, { s with nextId := s.nextId + 1 })

/-- An event that concerns a message or record: messages of one class and line keep their order (R54). -/
def State.send (s : State) (ev : Instr) (k vn ctx line : Nat) : State :=
  { s with agenda := s.agenda ++ [⟨ev, .ofK k, s.ncyc, 1 + vn + 8 * (ctx + 4096 * line)⟩] }

/-- The same for an event with more operands. -/
def State.sendArg (s : State) (ev : Instr) (x : EvArg) (vn ctx line : Nat) : State :=
  { s with agenda := s.agenda ++ [⟨ev, x, s.ncyc, 1 + vn + 8 * (ctx + 4096 * line)⟩] }

end Sys2Proof.Machine
end

