-- ==== Sys2Proof/Machine/Granules.lean ====
section
/-! DEFINITION. The granules of declared objects, and what their states permit (R43, R44, R288, Tables links-6 and links-7). -/

namespace Sys2Proof.Machine

/-! ### Granules (R288) -/

/-- The shape record of an object. -/
def objShape (s : State) (o : ObjEnt) : Shape := .ofNat (s.num false o.shape 64)

/-- The tiles along a dimension. -/
def tilesAlong (h : Shape) (k : Nat) : Nat :=
  let t := h.tile.getD k 0 + 1
  (h.ext.getD k 0 + t - 1) / t

/-- Π n_k. -/
def tileCount (h : Shape) : Nat := (upFrom 0 h.rank).foldl (fun a k => a * tilesAlong h k) 1

/-- The coordinates of granule g's tile. -/
def tileCoords (h : Shape) (g : Nat) : List Nat :=
  ((upFrom 0 h.rank).foldl (fun (a : Nat × List Nat) k => (a.1 / tilesAlong h k, a.2 ++ [a.1 % tilesAlong h k])) (g, [])).2

/-- Every coordinate of a box given by its first corner and extents. -/
def boxCoords : List (Nat × Nat) → List (List Nat)
  | [] => [[]]
  | (lo, n) :: l => (upFrom lo n).flatMap (fun c => (boxCoords l).map (fun r => c :: r))

/-- The byte offset of an element from the base; two 4-bit elements share a byte. -/
def elemByte (h : Shape) (c : List Nat) : Nat :=
  let e := (upFrom 0 h.rank).foldl (fun a k => a + c.getD k 0 * (if k == 0 then 1 else h.stride.getD k 0)) 0
  if h.ty == 0x26 || h.ty == 0x27 then e / 2 else e * tySize h.ty

/-- The lines of a granule: those that hold any of its elements. -/
def granLines (s : State) (o : ObjEnt) (g : Nat) : List Nat :=
  let h := objShape s o
  let t := tileCoords h g
  let box := (upFrom 0 h.rank).map (fun k =>
    let w := h.tile.getD k 0 + 1
    let lo := t.getD k 0 * w
    (lo, min (lo + w) (h.ext.getD k 0) - lo))
  distinct ((boxCoords box).map (fun c => (o.base + elemByte h c) / 128))

/-- The granule that holds a line. -/
def granOfLine (s : State) (o : ObjEnt) (line : Nat) : Option Nat :=
  (upFrom 0 o.ngran).find? (fun g => (granLines s o g).contains line)

/-- The object and granule of a line of a context. -/
def objOf (s : State) (ctx line : Nat) : Option (Nat × ObjEnt × Nat) :=
  firstSome (s.objs.map (fun e =>
    if e.2.ctx == ctx then (granOfLine s e.2 line).map (fun g => (e.1, e.2, g)) else none))

/-! ### State bytes (Table links-7) -/

/-- The state byte of a granule. -/
def granByte (s : State) (o : ObjEnt) (g : Nat) : Nat := s.num false (o.state + g) 1

/-- Whether this package's access to a granule is permitted now (R43, Table links-8). -/
def granAllows (s : State) (o : ObjEnt) (g : Nat) (wr : Bool) : Bool :=
  let b := granByte s o g
  if o.home == 7 then !bit b 3 && (!wr || bits b 7 4 == 0)
  else if wr then bits b 1 0 == 2
  else bits b 1 0 == 1 || bits b 1 0 == 2

/-- The home of the object is a peer whose port is down (R43). -/
def objLost (s : State) (o : ObjEnt) : Bool := o.home != 7 && (s.link (o.home + 1)).state == 0

/-! ### Asking for a granule (R43 to R45) -/

/-- Add a transfer, unless this package already waits for the same one; the I/O die runs one per granule at a time (R45). -/
def addXfer (i g port : Nat) (excl : Bool) (s : State) : State :=
  if port == 7 && s.xfers.any (fun x => x.obj == i && x.gran == g && x.port == 7 && x.excl == excl) then s
  else { s with xfers := s.xfers ++ [⟨i, g, port, excl, [], false⟩] }

/-- This package asks for a granule, unless it waits for it already. -/
def askGranule (i g : Nat) (excl : Bool) (s : State) : State :=
  if s.xfers.any (fun x => x.obj == i && x.gran == g && x.port == 7 && x.excl == excl) then s
  else (addXfer i g 7 excl s).push (if excl then .getx else .gets) ⟨i, g, 7, []⟩

/-- Whether an access to a page with the object attribute may go on. -/
inductive GranRes where
  | ok
  | lost
  | wait
  deriving DecidableEq, Repr

/-- R43: an access to a line of an object page goes on when its granule's state permits it, waits while a transfer runs or an eviction of the granule is not acknowledged, and fails when its home is lost. -/
def granGate (ctx line : Nat) (wr : Bool) (s : State) : State × GranRes :=
  match objOf s ctx line with
  | none => (s, .ok)
  | some (i, o, g) =>
    if objLost s o then (s, .lost)
    else if s.putxs.contains ⟨i, g⟩ then (s, .wait)
    else if granAllows s o g wr then (s, .ok)
    else (askGranule i g wr s, .wait)

/-- A sole holder of a line of the page may become its writer without asking any further package (R44). -/
def granMayOwn (s : State) (ctx line : Nat) : Bool :=
  match objOf s ctx line with
  | none => true
  | some (i, o, g) => granAllows s o g true && !s.putxs.contains ⟨i, g⟩

end Sys2Proof.Machine
end

