-- ==== Sys2Proof/Machine/Xlate.lean ====
section
/-! DEFINITION. The placement record, the page walk, allocation and zeroing of frames, mappings, and accesses of agents that have no private cache (R51, R83, R84, R104-R123). -/

namespace Sys2Proof.Machine

/-! ### Contexts -/

/-- A context's record; context 0 and a number that does not exist have none. -/
def State.ctxRec (s : State) (ctx : Nat) : Option CtxRec := s.ctxs.get? ctx

/-- Insert at the end of a list that keeps the last `n`. -/
def pushCap {α : Type} (n : Nat) (l : List α) (a : α) : List α := (l ++ [a]).drop (l.length + 1 - n)

/-! ### Placement (R107, R108, R84) -/

/-- What the placement record says of an address. -/
inductive Placed where
  | bay (b : Nat)
  /-- Code 8: the byte that holds the code, its lowest bit there, and GRAN. -/
  | unset (a lo gran : Nat)
  | bad (kind : Nat)
  deriving DecidableEq, Repr

/-- Read the middle entry of an address. -/
def middleEntry (s : State) (r : CtxRec) (va : Nat) : Except Nat (Nat × Nat) :=
  let d := r.placerec + 8 * bits va 56 44
  let e := s.num false d 8
  if s.badLine false d 8 then .error (lineKind s false d)
  else if !bit e 63 then .error 4
  else
    let m := bits e 39 0 + 8 * bits va 43 30
    let f := s.num false m 8
    if s.badLine false m 8 then .error (lineKind s false m)
    else if !bit f 63 || bits f 62 61 == 3 then .error 4
    else .ok (m, f)

/-- A placement code. -/
def codeOf (c a lo gran : Nat) : Placed := if c < 8 then .bay c else if c == 8 then .unset a lo gran else .bad 4

/-- The placement record's answer (R107, R108). -/
def placedAt (s : State) (ctx va : Nat) : Placed :=
  if ctx == 0 then .bay (bits va 39 37)
  else
    match s.ctxRec ctx with
    | none => .bad 4
    | some r =>
      match middleEntry s r va with
      | .error k => .bad k
      | .ok (m, f) =>
        let gran := bits f 62 61
        if gran == 2 then codeOf (bits f 60 57) (m + 7) 1 2
        else
          let k := if gran == 0 then bits va 29 16 else bits va 29 21
          let a := bits f 39 0 + k / 2
          if s.badLine false a 1 then .bad (lineKind s false a)
          else
            let lo := if k % 2 == 0 then 0 else 4
            codeOf (bits (s.num false a 1) (lo + 3) lo) a lo gran

/-- The first-touch bay of R84, for a toucher in a bay or none, of a view device. -/
def touchBay (r : CtxRec) (vd : Nat) (bay : Option Nat) (gran va : Nat) : Nat :=
  let l := viewBays r.view vd
  if r.place == 0 then bay.getD (l.headD 0)
  else
    let n := l.length
    let k := if n == 8 then 3 else if n == 4 then 2 else 0
    l.getD ((if gran == 2 then va / 2 ^ 30 else va / 2 ^ 21) % 2 ^ k) 0

/-- GRAN of the region of an address, as a power of two. -/
def granOf (s : State) (ctx va : Nat) : Nat :=
  match s.ctxRec ctx with
  | none => 30
  | some r =>
    match middleEntry s r va with
    | .ok (_, f) => if bits f 62 61 == 0 then 16 else if bits f 62 61 == 1 then 21 else 30
    | .error _ => 30

/-- Look the home bay up, deciding it at a first touch unless the access is a prefetch (R108, R380). -/
def place (ctx va vd : Nat) (bay : Option Nat) (prefetch : Bool) (s : State) : State × Except Nat Nat :=
  match placedAt s ctx va with
  | .bay b => (s, .ok b)
  | .bad k => (s, .error k)
  | .unset a lo gran =>
    match prefetch, s.ctxRec ctx with
    | false, some r =>
      let b := touchBay r vd bay gran va
      (s.wr false a [BitVec.ofNat 8 (setBits (s.num false a 1) (lo + 3) lo b)], .ok b)
    | _, _ => (s, .error 4)

/-! ### The walk (R110 to R112) -/

/-- The index of a level. -/
def walkIdx (va : Nat) : Nat → Nat
  | 0 => bits va 20 16
  | 1 => bits va 29 21
  | 2 => bits va 38 30
  | 3 => bits va 47 39
  | _ => bits va 56 48

/-- ADDR of an entry. -/
def pteAddr (e : Nat) : Nat := bits e 47 8 * 256

/-- From a table at a level to the leaf: its address, its value, and the page size; or the kind of the error. -/
def walkGo (s : State) (va : Nat) : Nat → Nat → Except Nat (Nat × Nat × Nat)
  | 0, base =>
    let a := base + 8 * walkIdx va 0
    let e := s.num false a 8
    if s.badLine false a 8 then .error (lineKind s false a)
    else if bit e 63 && bit e 62 then .ok (a, e, 16) else .error 4
  | l + 1, base =>
    let a := base + 8 * walkIdx va (l + 1)
    let e := s.num false a 8
    if s.badLine false a 8 then .error (lineKind s false a)
    else if !bit e 63 then .error 4
    else if bit e 62 then
      (if l == 0 then .ok (a, e, 21) else if l == 1 then .ok (a, e, 30) else .error 4)
    else if pteAddr e % (if l == 0 then 256 else 4096) != 0 || bits e 47 40 != 0 then .error 4
    else walkGo s va l (pteAddr e)

/-- The leaf of an address. -/
def walkLeaf (s : State) (ctx va : Nat) : Except Nat (Nat × Nat × Nat) :=
  match s.ctxRec ctx with
  | none => .error 4
  | some r => walkGo s va 4 r.ptroot

/-- The conditions of R109 and R112 on a leaf. A leaf that asks for a frame names none yet, so only its bay is not looked at. -/
def leafOk (s : State) (ctx va home : Nat) (e size : Nat) : Bool :=
  let host := bit e 57
  let alloc := bit e 54
  !(host && (alloc || bit e 53)) && !(size == 30 && alloc) && decide (size ≤ granOf s ctx va)
    && pteAddr e % 2 ^ size == 0 && (host || (bits e 47 40 == 0 && (alloc || pteAddr e / 2 ^ 37 == home)))

/-- VA[56:16] of the first address of a page, and its size as a power of two: those of the leaf, or of a 64 KiB page where there is none (R122, R123). -/
def pageOf (s : State) (ctx va : Nat) : Nat × Nat :=
  match walkLeaf s ctx va with
  | .ok (_, _, size) => (va / 2 ^ size * 2 ^ (size - 16), size)
  | .error _ => (va / 2 ^ 16, 16)

/-- An eviction of the page is in progress (EVP, R126). -/
def evicting (s : State) (ctx va : Nat) : Bool :=
  match walkLeaf s ctx va with
  | .ok (_, e, _) => bit e 51
  | .error _ => false

/-- The translation that a leaf gives. -/
def leafXl (ctx va pte e size : Nat) (d : Bool) : Xl :=
  ⟨ctx, va / 2 ^ size * 2 ^ size, ⟨bits e 59 58, bit e 61, bit e 60, bit e 57, size⟩, pteAddr e,
    bit e 57 && bit e 56 && size != 30, bit e 55, d, pte⟩

/-! ### Translation caches and mappings (R114, R116, R117) -/

/-- The port of a line's home router, or I/O die 0 for a host-memory access. -/
def State.tlbFind (s : State) (port ctx va : Nat) : Option Xl :=
  (s.tlb.find? (fun e => e.1 == port && e.2.ctx == ctx && va / 2 ^ e.2.attr.size * 2 ^ e.2.attr.size == e.2.va)).map Prod.snd

/-- Entries of a translation cache. -/
def tlbCap (port : Nat) : Nat := if port == 128 then 16384 else 4096

/-- Put a translation into a port's cache, dropping that port's oldest when it is full. -/
def tlbPut (port : Nat) (x : Xl) (s : State) : State :=
  let rest := s.tlb.filter (fun e => !(e.1 == port && e.2.ctx == x.ctx && e.2.va == x.va))
  let n := (rest.filter (fun e => e.1 == port)).length
  let rest := if n < tlbCap port then rest else dropFirst (fun e => e.1 == port) rest
  { s with tlb := rest ++ [(port, x)] }

/-- Two frames share a byte. -/
def overlaps (a la b lb : Nat) : Bool := decide (a < b + lb) && decide (b < a + la)

/-- A recorded mapping is the one that a translation makes. -/
def MapRec.isOf (m : MapRec) (x : Xl) : Bool := m.ctx == x.ctx && m.va == x.va && m.host == x.attr.host && m.frame == x.pa && m.size == x.attr.size

/-- R117: whether a mapping may be made. A host frame is not a controller's, and R39 keeps its names apart. -/
def mapOk (s : State) (x : Xl) : Bool :=
  x.attr.host || s.maps.all (fun m =>
    m.isOf x || m.host || !overlaps m.frame (2 ^ m.size) x.pa (2 ^ x.attr.size) || (!m.w && !x.attr.w))

/-- Record a mapping that lasts, with the owner of its page (R83, R117). -/
def mapPut (x : Xl) (vd : Nat) (s : State) : State :=
  if s.maps.any (fun m => m.isOf x) then { s with maps := s.maps.map (fun m => if m.isOf x then { m with w := m.w || x.attr.w } else m) }
  else { s with maps := s.maps ++ [⟨x.attr.host, x.pa, x.attr.size, x.ctx, x.va, x.attr.w, vd⟩] }

/-! ### Writes of the part itself at device addresses (R43, R116, R121, R126, R415) -/

/-- Log an uncorrectable error that such a write meets: at the home of the device address, without a requester. -/
def logOwn (a kind : Nat) (s : State) : State :=
  let r := homeOf (bits a 39 37) (a / 128)
  logErr (bayOfRouter r) kind 0 r Agent.none a s

/-- A write; one that covers only part of a poisoned half-burst has no effect. -/
def partWr (a : Nat) (l : List Byte) (s : State) : State :=
  if s.badMerge false a l.length then logOwn a (lineKind s false a) s else s.ctlWr false a l

/-- An atomic change of an 8-byte entry; a line with poison stays as it is. -/
def partRmw (a : Nat) (f : Nat → Nat) (s : State) : State :=
  if s.badLine false a 8 then logOwn a (lineKind s false a) s else s.wr false a (leBytes 8 (f (s.num false a 8)))

/-- Set bits of a PTE by an atomic OR. -/
def pteOr (a m : Nat) (s : State) : State := partRmw a (fun e => e ||| m) s

/-- Clear bits of a PTE by an atomic AND. -/
def pteClear (a m : Nat) (s : State) : State := partRmw a (fun e => e &&& notN 64 m) s

/-! ### Frame rings and zeroing (R119 to R121) -/

/-- A frame ring at reset. -/
def FrameRing.zero : FrameRing := ⟨0, 0, 0, 0⟩

/-- The entries of a ring. -/
def FrameRing.len (r : FrameRing) : Nat := 2 ^ (r.size + 4)

/-- Take the frame at HEAD of a ring: none when it is empty, an error kind when its entry cannot be read. -/
def takeFrame (b i : Nat) (s : State) : State × Except Nat (Option Nat) :=
  let r := (s.bay b).rings.getD i .zero
  if r.head % r.len == r.tail % r.len then (s, .ok none)
  else
    let a := r.base + 8 * (r.head % r.len)
    if s.badLine false a 8 then (s, .error (lineKind s false a))
    else
      (s.modBay b (fun B => { B with rings := B.rings.set i { r with head := (r.head + 1) % r.len } }),
        .ok (some (s.num false a 8)))

/-- A failed allocation (R119). -/
def noFrame (b : Nat) (s : State) : State := s.modBay b (fun B => { B with noframe := (B.noframe + 1) % 256 })

/-- Allocate a frame for a leaf: the PTE gets ADDR and ZERO in place of ALLOC (R119). R119 names an empty ring and a frame outside the bay; that an entry not aligned to its page size fails in the same way (kind 4, NOFRAME) is the model's choice (log entry 75). -/
def allocFrame (b pte e size : Nat) (s : State) : State × Option Nat :=
  match takeFrame b (if size == 16 then 0 else 1) s with
  | (s, .error k) => (s, some k)
  | (s, .ok none) => (noFrame b s, some 4)
  | (s, .ok (some f)) =>
    if f / 2 ^ 37 != b || f % 2 ^ size != 0 then (noFrame b s, some 4)
    else
      let e' := setBits (setBit (setBit e 54 false) 53 true) 47 8 (f / 256)
      (partRmw pte (fun _ => e') s, none)

/-- Drop the cells of an address range. -/
def memClear (m : List Host.Cell) (a n : Nat) : List Host.Cell := m.filter (fun c => decide (c.1 < a) || decide (a + n ≤ c.1))

/-- Zero a frame in the stacks with valid check symbols, and clear ZERO (R120). -/
def zeroFrame (ctx va : Nat) (s : State) : State :=
  let s := { s with zeroing := s.zeroing.filter (fun z => z != (ctx, va)) }
  match walkLeaf s ctx va with
  | .error _ => s
  | .ok (pte, e, size) =>
    if !bit e 53 then s
    else
      let f := pteAddr e
      let s := { s with
        mem := memClear s.mem f (2 ^ size)
        bad := s.bad.filter (fun k => k % 2 == 1 || decide (k / 2 * 32 < f) || decide (f + 2 ^ size ≤ k / 2 * 32))
        sbad := s.sbad.filter (fun k => k % 2 == 1 || decide (k / 2 * 32 < f) || decide (f + 2 ^ size ≤ k / 2 * 32)) }
      pteClear pte (2 ^ 53) s

/-! ### One walk -/

/-- What a walk answers. -/
inductive XRes where
  | ok (x : Xl)
  | err (kind : Nat)
  /-- The access waits: an eviction is in progress, or the frame is not yet zeroed. -/
  | wait (zero : Bool)
  deriving DecidableEq, Repr

/-- The translation of context 0: one to one, never translated (R105). -/
def idXl (va : Nat) : Xl := ⟨0, va / 2 ^ 16 * 2 ^ 16, ⟨0, true, true, false, 16⟩, va / 2 ^ 16 * 2 ^ 16, false, false, true, 0⟩

/-- One walk of a page at a port (R109 to R112, R116, R117, R119, R120). -/
def walkPage (port home ctx va vd : Nat) (wr : Bool) (s : State) : State × XRes :=
  if ctx == 0 then (s, .ok (idXl va))
  else
    match walkLeaf s ctx va with
    | .error k => (s, .err k)
    | .ok (pte, e, size) =>
      if !leafOk s ctx va home e size then (s, .err 4)
      else if bit e 51 then (s, .wait false)
      else if bit e 54 then
        match allocFrame home pte e size s with
        | (s, some k) => (s, .err k)
        | (s, none) => (s, .wait true)
      else if bit e 53 then (s, .wait true)
      else
        let x := leafXl ctx va pte e size (wr || bit e 49)
        if !mapOk s x then
          (s.modBay home (fun B => { B with synonym := (B.synonym + 1) % 256 }), .err 5)
        else
          let s := pteOr pte (2 ^ 50 + if wr then 2 ^ 49 else 0) s
          (tlbPut port x (mapPut x vd s), .ok x)

/-- Set D at the first write-kind translation of a cached entry (R116). -/
def touchD (port : Nat) (x : Xl) (s : State) : State :=
  if x.d || x.ctx == 0 then s else tlbPut port { x with d := true } (pteOr x.pte (2 ^ 49) s)

/-! ### Accesses of engines, the command processor and instruction fetch -/

/-- Translate at a port, a line's home router or 128 for I/O die 0, for an agent that performs its access in this step: zeroing that it waits for ends first. -/
def xlateNow : Nat → Nat → Nat → Nat → Nat → Nat → Bool → State → State × XRes
  | 0, _, _, _, _, _, _, s => (s, .wait true)
  | f + 1, port, home, ctx, va, vd, wr, s =>
    if ctx == 0 then (s, .ok (idXl va))
    else
      match s.tlbFind port ctx va with
      | some x => (if wr then touchD port x s else s, .ok x)
      | none =>
        match walkPage port home ctx va vd wr s with
        | (s, .wait true) => xlateNow f port home ctx va vd wr (zeroFrame ctx va s)
        | r => r

/-- The agent of a direct access: for the log, its bay (if it is in one) and view device. -/
structure Who where
  ag : Agent
  bay : Option Nat
  vd : Nat
  deriving DecidableEq, Repr

/-- The command processor, or the host through a window (R76, R83). -/
def Who.cp : Who := ⟨⟨6, 0⟩, none, 0⟩

/-- Log an error that the home of a line finds, in its own bay's log; of the host link in I/O die 0, in the requester's bay, or bay 0 (R76). -/
def logWho (w : Who) (kind ctx home va : Nat) (s : State) : State :=
  let router := homeOf home (va / 128)
  if kind == 4 || kind == 5 then logXlate router (bayOfRouter router) kind ctx router w.ag va (pageOf s ctx va).1 s
  else if kind == 7 then logErr (w.bay.getD 0) 7 ctx (edgeRouter 0 router) w.ag va s
  else logErr (bayOfRouter router) kind ctx router w.ag va s

/-- The interface of an agent: its cluster, an array's at its operand queue; an I/O die's is 128 or 129 (Table package-1, R108). -/
def Agent.ni (a : Agent) : Nat :=
  match a.kind with
  | 0 => a.id / 3
  | 1 => a.id / 8
  | 2 | 3 | 4 => a.id
  | 5 => 16 * (a.id / 64) + 2 * (a.id % 64 / 8) + a.id % 8 / 4
  | _ => 128 + a.id % 2

/-- The router at which an agent's interface stands; for an I/O die's agent the edge router in the row of the line's router in bay 0, since an access without a placement has no home (R77). -/
def Agent.router (a : Agent) (line : Nat) : Nat := if a.ni < 128 then routerNo a.ni else edgeRouter (a.ni - 128) (homeOf 0 line)

/-- Log an error that the placement at the requester's own interface finds (R76, R108). -/
def logNi (w : Who) (kind ctx va : Nat) (s : State) : State :=
  let router := w.ag.router (va / 128)
  if kind == 4 then logXlate (256 + w.ag.ni) (w.bay.getD 0) kind ctx router w.ag va (pageOf s ctx va).1 s
  else logErr (w.bay.getD 0) kind ctx router w.ag va s

/-! ### The caches of an interface (R108, R416) -/

/-- Put an entry into a table of which each interface holds 1,024, dropping that interface's oldest. -/
def niPut {α : Type} (t : Tbl (Nat × Nat × Nat) α) (k : Nat × Nat × Nat) (v : α) : Tbl (Nat × Nat × Nat) α :=
  let rest := t.filter (fun e => e.1 != k)
  let mine := fun (e : (Nat × Nat × Nat) × α) => e.1.1 == k.1
  (if (rest.filter mine).length < 1024 then rest else dropFirst mine rest) ++ [(k, v)]

/-- The attributes of the page of an address that an interface holds. -/
def atcFind (s : State) (ni ctx va : Nat) : Option Attr :=
  (s.atc.find? (fun e => e.1.1 == ni && e.1.2.1 == ctx && va / 2 ^ e.2.size * 2 ^ (e.2.size - 16) == e.1.2.2)).map Prod.snd

/-- An interface learns a page's attributes. -/
def atcPut (ni ctx va : Nat) (x : Attr) (s : State) : State := { s with atc := niPut s.atc (ni, ctx, va / 2 ^ x.size * 2 ^ (x.size - 16)) x }

/-- The home bay from an interface's placement cache, or from the record. -/
def placeAt (ni ctx va vd : Nat) (bay : Option Nat) (prefetch : Bool) (s : State) : State × Except Nat Nat :=
  if ctx == 0 then (s, .ok (bits va 39 37))
  else
    match s.plc.get? (ni, ctx, va / 2 ^ 16) with
    | some b => (s, .ok b)
    | none =>
      match place ctx va vd bay prefetch s with
      | (s, .ok b) => ({ s with plc := niPut s.plc (ni, ctx, va / 2 ^ 16) b }, .ok b)
      | r => r

/-- The sectors of host memory that a range touches are held, and for a write in E or M: no request to the host is needed (R38, R41). -/
def hostHeld (s : State) (pa n : Nat) (wr : Bool) : Bool :=
  (upFrom (pa / 64) ((pa + n + 63) / 64 - pa / 64)).all (fun hs => s.hsect.any (fun h => h.hs == hs && (!wr || h.st != HSt.s)))

/-- A page is being flipped (R42). -/
def flipping (s : State) (ctx va : Nat) : Bool :=
  s.flips.any (fun f => f.ctx == ctx && decide (f.va ≤ va) && decide (va < f.va + f.size))

/-- An address beyond the 57 bits of a context, or the 40 bits of context 0 (R104, R105): answered with Err. -/
def outOfSpace (ctx va : Nat) : Bool := decide (2 ^ 57 ≤ va) || (ctx == 0 && decide (2 ^ 40 ≤ va))

/-- The physical address of a virtual one: byte k of a page lies at byte k of its frame, which is the model's choice, since the manual calls the place of a page's lines inside its frame internal to the part (R106, log entry 75). -/
def Xl.phys (x : Xl) (va : Nat) : Nat := x.pa + (va - x.va)

end Sys2Proof.Machine
end

