-- ==== Sys2Proof/Machine/Objects.lean ====
section
/-! DEFINITION. Declared objects, their granules, and the granule transfers between packages (R43-R45, R288). -/

namespace Sys2Proof.Machine

/-! ### Purges -/

/-- The device address of a line's bytes in the local backing. -/
def lineBacking (s : State) (ctx line : Nat) : Option (Bool × Nat) :=
  match walkLeaf s ctx (line * 128) with
  | .ok (pte, e, size) =>
    let x := leafXl ctx (line * 128) pte e size false
    some (x.attr.host, x.phys (line * 128))
  | .error _ => none

/-- The data of a private cache's line, with its poison, is written into the slice, or into the stack where the slice does not hold the line (R55, R66, R415). -/
def writeBack (ctx line : Nat) (host : Bool) (pa : Nat) (sick : List Nat) (s : State) : State :=
  let ks := hbRange host pa 128
  let new := sick.map (fun h => hbKey host (pa + 32 * h))
  match s.slices.get? (ctx, line) with
  | some c => { s with slices := s.slices.set (ctx, line) { c with dirty := true }, sbad := s.sbad.filter (fun k => !ks.contains k) ++ new }
  | none => { s with bad := s.bad.filter (fun k => !ks.contains k) ++ new }

/-- What a teardown of a line with no writer leaves (R63): no private cache holds it, and every Stable entry of the line has gone through Tearing, with no step between (log entry 25), and is free; those of requests on their way keep the link of the request. -/
def tornLine (ctx line : Nat) (s : State) : State :=
  let mine := s.l1.filter (fun e => e.1.2.1 == ctx && e.1.2.2 == line)
  let s := mine.foldl (fun s e => if e.2.st == CSt.m || e.2.st == CSt.o then writeBack ctx line e.2.attr.host e.2.pa e.2.bad s else s) s
  { s with
    l1 := s.l1.filter (fun e => !(e.1.2.1 == ctx && e.1.2.2 == line))
    trees := s.trees.filterMap (fun e =>
      if e.1.2.1 == ctx && e.1.2.2 == line && e.2.st != TSt.building then
        e.2.keep.map (fun l => (e.1, { e.2 with st := TSt.building, links := [l], keep := none, owned := false, pend := 0, req := e.2.kreq }))
      else some e) }

/-- A request of the fabric, which may wait on its way or at its home. -/
def isRequest (ev : Instr) : Bool := [Instr.rds, .rdx, .upg, .rdu, .wru, .atom, .red, .redp].contains ev

/-- A message of the Tree or Up class. -/
def isTreeMsg (ev : Instr) : Bool :=
  [Instr.fwd, .inv, .graft, .pruneack, .wback, .pathRelease, .invack, .prune, .wbd].contains ev

/-- Nothing of a line is on its way but requests that wait, and no entry of it is being torn down: it can be invalidated as one act (log entry 25). -/
def lineQuiet (s : State) (ctx line : Nat) : Bool :=
  let moving := fun (d : Due) => match s.msgs.get? d.arg.k with
    | some m => isTreeMsg d.ev && m.ctx == ctx && m.line == line
    | none => false
  !s.agenda.any moving
    && s.accs.all (fun a => a.2.ctx != ctx || a.2.line != line || a.2.stage != Stage.sent || a.2.kind == AKind.red
        || s.msgs.any (fun m => m.2.acc == a.1))
    && s.trees.all (fun t => t.1.2.1 != ctx || t.1.2.2 != line || t.2.st == TSt.stable || t.2.st == TSt.building)
    && s.l1.all (fun e => e.1.2.1 != ctx || e.1.2.2 != line || e.2.st != CSt.w)

/-- Operations in flight let go of their destination bytes in a line (R267). -/
def landLine (ctx line : Nat) (s : State) : State :=
  if s.ops.isEmpty then s
  else
    match lineBacking s ctx line with
    | some (h, a) => landRange (if h then .host else .dev) a 128 s
    | none => s

/-- Invalidate lines everywhere on chip, with the write-back of what is newer there, the results of operations in flight among it. Host sectors return to the host. -/
def purgeLines (ctx : Nat) (lines : List Nat) (s : State) : State :=
  let s := lines.foldl (fun s l => dropSlice ctx l (tornLine ctx l (landLine ctx l s))) s
  (s.hsect.filter (fun h => h.ctx == ctx && lines.contains (h.vs / 2))).foldl (fun s h => dropSector h s) s

/-- The bytes of a granule, line by line. -/
def granData (s : State) (o : ObjEnt) (g : Nat) : List Byte :=
  (granLines s o g).flatMap (fun l =>
    match lineBacking s o.ctx l with
    | some (h, a) => s.rd h a 128
    | none => List.replicate 128 0)

/-- The lines of a granule, by position, whose read meets poison; they go as poison (R415). -/
def granSick (s : State) (o : ObjEnt) (g : Nat) : List Nat :=
  let ls := granLines s o g
  (upFrom 0 ls.length).filter (fun i =>
    match lineBacking s o.ctx (ls.getD i 0) with
    | some (h, a) => s.badLine h a 128
    | none => true)

/-- A peer's first touch of the granule's pages: they are placed, mapped and belong to view device 0 (R83). -/
def touchGran (o : ObjEnt) (g : Nat) (s : State) : State :=
  let pages := distinct ((granLines s o g).map (fun l => (pageOf s o.ctx (l * 128)).1))
  pages.foldl (fun s p =>
    let va := p * 2 ^ 16
    match placeAt 128 o.ctx va 0 none false s with
    | (s, .ok home) => (xlateNow 4 (homeOf home (va / 128)) home o.ctx va 0 false s).1
    | (s, .error _) => s) s

/-- Write a received granule to the local backing; the lines whose bit in the mask is set are stored as poisoned. -/
def putGranData (o : ObjEnt) (g : Nat) (d : List Byte) (sick : Nat) (s : State) : State :=
  if d.isEmpty then s
  else
    ((granLines s o g).foldl (fun (a : State × List Byte × Nat) l =>
      match lineBacking a.1 o.ctx l with
      | some (h, x) =>
        let s := disturb (if h then .host else .dev) (upFrom x 128) (a.1.ctlWr h x (a.2.1.take 128))
        let s := if h then dirtySectors x 128 s else s
        (if bit sick a.2.2 then s.poisonMem h x 128 else s, a.2.1.drop 128, a.2.2 + 1)
      | none => (a.1, a.2.1.drop 128, a.2.2 + 1)) (s, d, 0)).1

/-- Write the state byte of a granule. -/
def setGranByte (o : ObjEnt) (g v : Nat) (s : State) : State := partWr (o.state + g) [BitVec.ofNat 8 v] s

/-- Every line of a granule can be invalidated as one act. -/
def granQuiet (s : State) (o : ObjEnt) (g : Nat) : Bool := (granLines s o g).all (fun l => lineQuiet s o.ctx l)

/-! ### Transfers (R44, R45) -/

/-- The first transfer of a granule in order of arrival. -/
def firstXfer (s : State) (i g : Nat) : Option Xfer := s.xfers.find? (fun x => x.obj == i && x.gran == g)

/-- Replace a granule's first transfer. -/
def setXfer (i g : Nat) (y : Option Xfer) (s : State) : State :=
  let rec go : List Xfer → List Xfer
    | [] => []
    | x :: l =>
      if x.obj == i && x.gran == g then
        (match y with
         | some z => z :: l
         | none => l)
      else x :: go l
  { s with xfers := go s.xfers }

/-- Ports in a 4-bit mask. -/
def portsOf (m : Nat) : List Nat := (upFrom 0 4).filter (bit m)

/-- Start the next transfer of a granule. -/
def nextXfer (i g : Nat) (s : State) : State :=
  match firstXfer s i g with
  | some y => if y.started then s else s.push (if y.excl then .getx else .gets) ⟨y.obj, y.gran, y.port, []⟩
  | none => s

/-- Finish the first transfer of a granule at its home: a local purge, the granule is sent, and the new state recorded (R44). -/
def grantXfer (o : ObjEnt) (x : Xfer) (s : State) : State :=
  let b := granByte s o x.gran
  let s := setXfer x.obj x.gran none s
  let s := if x.port == 7 then s
    else
      let b' := if x.excl then 8 + 2 * x.port else setBit b (4 + x.port) true
      let s := purgeLines o.ctx (granLines s o x.gran) (touchGran o x.gran s)
      (setGranByte o x.gran b' s).tell (.kfl x.port 0 x.obj x.gran (granData s o x.gran) (granSick s o x.gran))
  nextXfer x.obj x.gran s

/-- Start the first transfer of a granule: recall the owner, or invalidate every sharer for a writer, the requester's own shared copy among them, as Table links-8 and its example give. -/
def startXfer (i : Nat) (o : ObjEnt) (g : Nat) (s : State) : State :=
  match firstXfer s i g with
  | none => s
  | some x =>
    if x.started then s
    else if o.home == 7 then
      let b := granByte s o g
      let owner := if bit b 3 then [bits b 2 1] else []
      let sharers := if x.excl then portsOf (bits b 7 4) else []
      let ws := owner ++ sharers
      if ws.isEmpty then
        if x.port != 7 && !granQuiet s o g then s.push (if x.excl then .getx else .gets) ⟨i, g, x.port, []⟩
        else grantXfer o { x with started := true } s
      else
        let s := setXfer i g (some { x with started := true, waits := ws }) s
        ws.foldl (fun s p => s.tell (.kfl p (if x.excl then 4 else 3) i g [] [])) s
    else (setXfer i g (some { x with started := true }) s).tell (.kfl o.home (if x.excl then 2 else 1) i g [] [])

/-- What a peer sends by a KFL port: held while the link trains, lost while it is down (R33, R34). -/
def overKfl (port : Nat) (ev : Instr) (f : State → State) (s : State) : State :=
  let l := s.link (port + 1)
  if l.state == 0 then s else if l.state < 2 then s.keep ev else f s

/-- A granule request joins the transfers of its granule. -/
def joinXfer (excl : Bool) (i g v : Nat) (o : ObjEnt) (s : State) : State :=
  let waiting := s.xfers.any (fun x => x.obj == i && x.gran == g && x.port == v && x.excl == excl)
  startXfer i o g (if waiting then s else addXfer i g v excl s)

/-- `GETS` or `GETX`: a request for a granule, of this package (port 7) or of a peer, reaches the I/O die (R44, R45). -/
def getGranule (excl : Bool) (s : State) : State :=
  match s.objs.get? s.ev.k with
  | none => s
  | some o =>
    let run := joinXfer excl s.ev.k s.ev.a s.ev.v o
    if s.ev.v == 7 then run s else overKfl s.ev.v (if excl then .getx else .gets) run s

/-- A port no longer holds up the granule's transfer. -/
def portAnswered (i : Nat) (o : ObjEnt) (g port : Nat) (s : State) : State :=
  match firstXfer s i g with
  | none => s
  | some x =>
    let ws := x.waits.filter (fun p => p != port)
    if !x.started || !x.waits.contains port then s
    else if ws.isEmpty then grantXfer o { x with waits := [] } s
    else setXfer i g (some { x with waits := ws }) s

/-- A recalled or returned granule arrives at its home from a port. -/
def returned (i : Nat) (o : ObjEnt) (g port : Nat) (keepS : Bool) (d : List Byte) (sick : Nat) (s : State) : State :=
  let s := purgeLines o.ctx (granLines s o g) s
  let s := putGranData o g d sick s
  let b := granByte s o g
  let b := if bit b 3 && bits b 2 1 == port then b - bits b 3 0 else b
  portAnswered i o g port (setGranByte o g (setBit b (4 + port) keepS) s)

/-- A granted granule has arrived and waits to be taken: a recall that the home sent after it waits behind it (R45). -/
def grantWaits (s : State) (i g : Nat) : Bool := s.agenda.any (fun d => d.ev == .granuleGrant && d.arg.k == i && d.arg.a == g)

/-- A recall at a package that is not the home: a local purge; the granule returns if it was in E. The value is 0 for a recall to S, 1 to invalidate. -/
def answerRecall (o : ObjEnt) (s : State) : State :=
  let i := s.ev.k
  let g := s.ev.a
  let b := bits (granByte s o g) 1 0
  let s := purgeLines o.ctx (granLines s o g) s
  let d := if b == 2 then granData s o g else []
  let sick := if b == 2 then granSick s o g else []
  (setGranByte o g (if s.ev.v == 0 && b != 0 then 1 else 0) s).tell (.kfl o.home 5 i g d sick)

/-- `GRANULE_RECALL` (R44). A recall that crosses this package's PutX is answered by it. -/
def granuleRecallStep (s : State) : State :=
  match s.objs.get? s.ev.k with
  | none => s
  | some o =>
    overKfl o.home .granuleRecall (fun s =>
      if s.putxs.contains ⟨s.ev.k, s.ev.a⟩ then s
      else if grantWaits s s.ev.k s.ev.a || !granQuiet s o s.ev.a then s.keep .granuleRecall
      else answerRecall o s) s

/-- The granule that the home grants arrives: E when the value's bit 3 is set. From bit 4 on, the value names the lines that arrive as poison. -/
def takeGrant (o : ObjEnt) (s : State) : State :=
  let i := s.ev.k
  let g := s.ev.a
  let v := s.ev.v
  let s := putGranData o g s.ev.data (v / 16) (touchGran o g (purgeLines o.ctx (granLines s o g) s))
  nextXfer i g (setXfer i g none (setGranByte o g (if bit v 3 then 2 else 1) s))

/-- `GRANULE_GRANT`: the granule arrives, from the home or, at the home, from the port in bits [1:0] of the value (bit 3: the port keeps S). It waits until every line of it can be invalidated. -/
def granuleGrantStep (s : State) : State :=
  match s.objs.get? s.ev.k with
  | none => s
  | some o =>
    let g := s.ev.a
    let v := s.ev.v
    overKfl (if o.home == 7 then v % 4 else o.home) .granuleGrant (fun s =>
      if !granQuiet s o g then s.keep .granuleGrant
      else if o.home == 7 then returned s.ev.k o g (v % 4) (bit v 3) s.ev.data (v / 16) s
      else takeGrant o s) s

/-- This package gives a granule back that it holds in E: until the home acknowledges, it keeps the data and answers no recall. -/
def giveBack (o : ObjEnt) (s : State) : State :=
  let i := s.ev.k
  let g := s.ev.a
  if bits (granByte s o g) 1 0 != 2 || s.putxs.contains ⟨i, g⟩ then s
  else if !granQuiet s o g then s.keep .putx
  else
    let s := purgeLines o.ctx (granLines s o g) s
    let d := granData s o g
    let sick := granSick s o g
    ({ s with putxs := s.putxs ++ [⟨i, g⟩] } : State).tell (.kfl o.home 6 i g d sick)

/-- `PUTX`: an owner gives a granule back (R44). The value is 7 for this package's own eviction, at the home the port that sends it (with the poisoned lines from bit 4 on), and at the owner 8 for the home's acknowledgement. -/
def putxStep (s : State) : State :=
  match s.objs.get? s.ev.k with
  | none => s
  | some o =>
    let i := s.ev.k
    let g := s.ev.a
    let v := s.ev.v
    if o.home == 7 then
      overKfl (v % 4) .putx (fun s =>
        if !granQuiet s o g then s.keep .putx
        else (returned i o g (v % 4) false s.ev.data (v / 16) s).tell (.kfl (v % 4) 7 i g [] [])) s
    else if v == 8 then
      overKfl o.home .putx (fun s =>
        if s.putxs.contains ⟨i, g⟩ then
          nextXfer i g (setGranByte o g 0 { s with putxs := s.putxs.filter (fun x => x != ⟨i, g⟩) })
        else s) s
    else giveBack o s

/-- The home's granule is lost with its owner's port: every line is poisoned and logged, one entry for each line, without a requester, in bay 0, at the edge of the port's I/O die (R43, R76; the manual says only that the address is logged, log entry 57). -/
def loseGranule (port : Nat) (o : ObjEnt) (g b : Nat) (s : State) : State :=
  let s := purgeLines o.ctx (granLines s o g) s
  let s := (granLines s o g).foldl (fun s l =>
    match lineBacking s o.ctx l with
    | some (h, a) =>
      let home := match placedAt s o.ctx (l * 128) with
        | .bay b => b
        | _ => 0
      logErr 0 6 o.ctx (edgeRouter (dieOfPort port) (homeOf home l)) ⟨6, dieOfPort port⟩ (l * 128) (s.poisonMem h a 128)
    | none => s) s
  setGranByte o g (b - bits b 3 0) s

/-- Nothing is on its way of the granules that the loss of a port changes: those owned through it, those whose transfer waits for it, and those of the objects homed behind it. -/
def portQuiet (port : Nat) (s : State) : Bool :=
  s.objs.all (fun e => (upFrom 0 e.2.ngran).all (fun g =>
    let b := granByte s e.2 g
    let waits := s.xfers.any (fun x => x.obj == e.1 && x.gran == g && (x.port == port || x.waits.contains port))
    !(if e.2.home == 7 then (bit b 3 && bits b 2 1 == port) || waits else e.2.home == port) || granQuiet s e.2 g))

/-- A KFL port goes down: granules owned through it are poisoned, its sharer bits cleared, the objects of the lost peer go to I, and no transfer waits for the port any more (R43). -/
def kflDown (port : Nat) (s : State) : State :=
  let s := s.objs.foldl (fun s e =>
    let o := e.2
    (upFrom 0 o.ngran).foldl (fun s g =>
      let b := granByte s o g
      if o.home == 7 then
        let s := if bit b 3 && bits b 2 1 == port then loseGranule port o g b s else s
        let b := granByte s o g
        if bit b (4 + port) then setGranByte o g (setBit b (4 + port) false) s else s
      else if o.home == port then setGranByte o g 0 (purgeLines o.ctx (granLines s o g) s)
      else s) s) { s with
        xfers := s.xfers.filter (fun x => x.port != port && !(x.port == 7 && (match s.objs.get? x.obj with
          | some o => o.home == port
          | none => true)))
        putxs := s.putxs.filter (fun x => match s.objs.get? x.obj with
          | some o => o.home != port
          | none => false) }
  (s.xfers.filter (fun x => x.started)).foldl (fun s x =>
    match s.objs.get? x.obj with
    | some o => portAnswered x.obj o x.gran port s
    | none => s) ((s.xfers.filter (fun x => !x.started)).foldl (fun s x => nextXfer x.obj x.gran s) s)

/-- `GETS` (R44). -/
def execGets (s : State) : Host.Outcome State Fault Refusal := .next (getGranule false s)

/-- `GETX` (R44). -/
def execGetx (s : State) : Host.Outcome State Fault Refusal := .next (getGranule true s)

/-- `GRANULE_RECALL` (R44). -/
def execGranuleRecall (s : State) : Host.Outcome State Fault Refusal := .next (granuleRecallStep s)

/-- `GRANULE_GRANT` (R44). -/
def execGranuleGrant (s : State) : Host.Outcome State Fault Refusal := .next (granuleGrantStep s)

/-- `PUTX` (R44). -/
def execPutx (s : State) : Host.Outcome State Fault Refusal := .next (putxStep s)

end Sys2Proof.Machine
end

