-- ==== Sys2Proof/Machine/Access.lean ====
section
/-! DEFINITION. The requester's side of a global access: the network interface, the write-combining store, the private cache, and the return of values (R56, R57, R66, R76, R108, R196, R200, R221, R254, R258, R259, R368, R416). -/

namespace Sys2Proof.Machine

/-! ### Units -/

/-- The router of a unit. -/
def unitRouter (u : Nat) : Nat := routerNo (u / 16)

/-- The link of a unit at its router: 4 + local holder bit. -/
def unitLink (u : Nat) : Nat := 4 + u % 16

/-! ### Completion -/

/-- Lower the track of an instruction by one part; its counter falls with the last (R175). -/
def trackDone (id : Nat) (s : State) : State :=
  match s.tracks.get? id with
  | none => s
  | some k =>
    if k.left ≤ 1 then forEach k.groups (fun s g => lowerW k.team g k.sig s) { s with tracks := s.tracks.del id }
    else { s with tracks := s.tracks.set id { k with left := k.left - 1 } }

/-- Open a track for an instruction with `n` parts outstanding: the counters of its groups rise, and fall with its last part; with none they fall one a-cycle later (R175, R272). -/
def openTrack (c : Ctx) (n msc : Nat) (s : State) : Nat × State :=
  let (id, s) := s.newId
  let gs := c.mem.map Prod.fst
  if n == 0 then (id, sigSoon c s)
  else (id, forEach gs (fun s g => raiseW c.team g (sigOf c) s) { s with tracks := s.tracks.set id ⟨c.team, gs, sigOf c, n, msc⟩ })

/-- Lower a track by several parts. -/
def trackDones : Nat → Nat → State → State
  | 0, _, s => s
  | n + 1, id, s => trackDones n id (trackDone id s)

/-- A returned access frees its destinations and the acquires that wait for it (R259, R274). -/
def clearAccess (team id : Nat) (s : State) : State :=
  { s with
    threads := s.threads.map (fun e =>
      if e.1.1 == team then
        (e.1, { e.2 with
          pend := e.2.pend.filter (fun p => p.access != id)
          acq := e.2.acq.filter (fun a => a != id)
          span := e.2.span.map (fun sp => { sp with owed := sp.owed.filter (fun p => p.access != id) }) })
      else e)
    groups := s.groups.map (fun e =>
      if e.1.1 == team then (e.1, { e.2 with pendS := e.2.pendS.filter (fun p => p.access != id) }) else e) }

/-- Remove an access and complete its part of the instruction. -/
def retire (id : Nat) (s : State) : State :=
  match s.accs.get? id with
  | none => s
  | some a => trackDone a.track (clearAccess a.team id { s with accs := s.accs.del id })

/-- Change an access. -/
def modAcc (id : Nat) (f : Acc → Acc) (s : State) : State :=
  match s.accs.get? id with
  | none => s
  | some a => { s with accs := s.accs.set id (f a) }

/-! ### Returned values (R196, R368) -/

/-- Write a returned word to an absolute register, unless a later write of it stays (R274). -/
def Thread.land (t : Thread) (n : Nat) (v : Word) (p : Bool) : Thread :=
  if t.pend.any (fun q => q.lost && q.reg % t.depth == n % t.depth) then t else t.setAbs n v p

/-- Write a returned value of `bits` bits to absolute registers of a thread: poison on Err. -/
def putAbs (t : Thread) (reg ty v : Nat) (err : Bool) : Thread :=
  let w := tyBits ty
  match intTy ty with
  | some (sg, n) =>
    if n == 64 then
      (t.land reg (BitVec.ofNat 32 v) err).land (reg + 1) (BitVec.ofNat 32 (v / 2 ^ 32)) err
    else t.land reg (BitVec.ofNat 32 (if sg then wrapN 32 (sext n v) else v % 2 ^ n)) err
  | none =>
    if w == 64 then
      (t.land reg (BitVec.ofNat 32 v) err).land (reg + 1) (BitVec.ofNat 32 (v / 2 ^ 32)) err
    else t.land reg (BitVec.ofNat 32 (setBits (t.abs reg).v.toNat (w - 1) 0 v)) err

/-- The 64-bit contents of an s register that takes an element (R368). -/
def sValue (ty v : Nat) : Nat :=
  match intTy ty with
  | some (sg, n) => if sg then wrapN 64 (sext n v) else v % 2 ^ n
  | none => v % 2 ^ tyBits ty

/-- The snapshot of an ejected thread takes an s register that was still to be written (R182). -/
def SpanCtx.land (sp : SpanCtx) (reg : Nat) (w : SWord) : SpanCtx :=
  if sp.owed.any (fun q => !q.lost && q.reg == reg) then
    { sp with snap := (sp.snap.zip (upFrom 0 sp.snap.length)).map (fun x => if x.2 == reg then w else x.1) }
  else sp

/-- Write a returned element to its destination; an s register also to the snapshots that it was owed. -/
def putElem (team : Nat) (p : APart) (v : Nat) (err : Bool) (s : State) : State :=
  if p.isS then
    let w : SWord := ⟨BitVec.ofNat 64 (sValue p.ty v), err⟩
    let s := s.modGrp team p.g (fun G =>
      if G.pendS.any (fun q => q.lost && q.reg == p.reg) then G
      else { G with sregs := G.sregs.set p.reg w })
    { s with threads := s.threads.map (fun e =>
        if e.1.1 == team && e.1.2.1 == p.g && e.2.span.isSome then (e.1, { e.2 with span := e.2.span.map (·.land p.reg w) }) else e) }
  else s.modThr (team, p.g, p.lane) (fun t => putAbs t p.reg p.ty v err)

/-- The element of a part in the bytes of its line. -/
def partVal (p : APart) (l : List Byte) : Nat :=
  let v := leVal ((l.drop p.off).take p.n)
  match p.nib with
  | some k => v / 16 ^ k % 16
  | none => v

/-- Return a load's elements. -/
def returnLoad (a : Acc) (l : List Byte) (err : Bool) (s : State) : State :=
  a.parts.foldl (fun s p => putElem a.team p (if err then 0 else partVal p l) err s) s

/-- A part reads a byte of one of these sectors. -/
def APart.sick (p : APart) (bad : List Nat) : Bool := bad.contains (p.off / 32) || bad.contains ((p.off + p.n - 1) / 32)

/-! ### The write-combining store (R254, R56) -/

/-- Merge nibbles of a byte. -/
def mergeByte (m : Nat) (old new : Byte) : Byte :=
  if m == 3 then new
  else if m == 1 then BitVec.ofNat 8 (setBits old.toNat 3 0 new.toNat)
  else if m == 2 then BitVec.ofNat 8 (setBits old.toNat 7 4 (new.toNat / 16))
  else old

/-- Put bytes into an entry; a nibble joins what the entry holds. -/
def wcsPut (cells : Tbl Nat (Nat × Byte)) (o m : Nat) (b : Byte) : Tbl Nat (Nat × Byte) :=
  match cells.get? o with
  | some (m', b') => cells.set o (m ||| m', mergeByte m b' b)
  | none => cells.set o (m, b)

/-- Bytes of a line as a thread of the core sees them: what the entry holds lies over the coherent value. -/
def overlay (e : Option Wcs) (l : List Byte) : List Byte :=
  match e with
  | none => l
  | some w => (l.zip (upFrom 0 l.length)).map (fun x =>
      match w.cells.get? x.2 with
      | some (m, b) => mergeByte m x.1 b
      | none => x.1)

/-- Whether an entry holds every byte of a part. -/
def covers (e : Option Wcs) (p : APart) : Bool :=
  match e with
  | none => false
  | some w => (upFrom p.off p.n).all (fun o => match w.cells.get? o with
      | some (m, _) => m == 3
      | none => false)

/-- Return a load's elements where sectors of the line are poison, and what the write-combining store covers is not (R46). -/
def returnSick (a : Acc) (e : Option Wcs) (l : List Byte) (bad : List Nat) (s : State) : State :=
  a.parts.foldl (fun s p =>
    let err := p.sick bad && !covers e p
    putElem a.team p (if err then 0 else partVal p l) err s) s

/-- The sectors of a line of which an entry holds every byte. -/
def Wcs.full (w : Wcs) : List Nat :=
  (upFrom 0 4).filter (fun h => (upFrom (32 * h) 32).all (fun o => match w.cells.get? o with
    | some (m, _) => m == 3
    | none => false))

/-- Add stored elements and their owners to an entry; a new entry will be evicted (R254). -/
def wcsStore (u ctx line : Nat) (parts : List APart) (owners : List Owner) (s : State) : State :=
  let key := (u, ctx, line)
  let e := s.wcs.getD key ⟨[], [], false⟩
  let put := fun (c : Tbl Nat (Nat × Byte)) (p : APart) =>
    match p.nib with
    | some k => wcsPut c p.off (if k == 0 then 1 else 2) (BitVec.ofNat 8 (p.x % 16 * 17))
    | none => ((leBytes p.n p.x).zip (upFrom p.off p.n)).foldl (fun c x => wcsPut c x.2 3 x.1) c
  let s' := { s with wcs := s.wcs.set key { e with cells := parts.foldl put e.cells, owners := e.owners ++ owners } }
  if (s.wcs.get? key).isSome then s' else s'.push .wcsEviction ⟨u, ctx, line, []⟩

/-- Lower OWC of an entry's owners and complete their stores (Table cons-3). -/
def ownersDone (l : List Owner) (err : Bool) (s : State) : State :=
  l.foldl (fun s o =>
    trackDone o.track (s.modThr (o.team, o.group, o.lane) (fun t =>
      { t with owc := t.owc - 1, storeErr := if err then t.storeErr ++ [1] else t.storeErr }))) s

/-- A line's entry is written under ownership: its bytes take their point (R253). -/
def wcsCommit (u ctx line pa : Nat) (host : Bool) (s : State) : State :=
  match s.wcs.get? (u, ctx, line) with
  | none => s
  | some e =>
    let s := { s with wcs := s.wcs.del (u, ctx, line) }
    let s := s.wr host pa (overlay (some e) (s.rd host pa 128))
    let s := disturb (if host then .host else .dev) (e.cells.map (fun c => pa + c.1)) s
    let s := if host then e.cells.foldl (fun s c => dirtySectors (pa + c.1) 1 s) s else s
    let s : State := match s.l1.get? (u, ctx, line) with
      | some c => if c.bad.isEmpty then s else { s with l1 := s.l1.set (u, ctx, line) { c with bad := c.bad.filter (fun h => !e.full.contains h) } }
      | none => s
    ownersDone e.owners false s

/-- An entry is dropped: its stores complete without effect (R76, R382). -/
def wcsDrop (u ctx line : Nat) (err : Bool) (s : State) : State :=
  match s.wcs.get? (u, ctx, line) with
  | none => s
  | some e => ownersDone e.owners err { s with wcs := s.wcs.del (u, ctx, line) }

/-! ### Messages -/

/-- The virtual network of an event (Table fabric-2). -/
def vnOf (ev : Instr) : Nat :=
  match ev with
  | .fwd | .inv | .graft | .pruneack | .wback | .pathRelease => 1
  | .invack | .prune | .wbd => 2
  | .data | .grant | .err => 3
  | .wrack | .atomack | .redack | .syncCountUpdate => 4
  | .red | .redp => 5
  | _ => 0

/-- A message that has not moved. -/
def Msg.mk0 (acc ctx line at_ from_ dst unit : Nat) : Msg := ⟨0, 1, false, acc, ctx, line, at_, from_, dst, unit, 0, 0, none, false, 0, 0⟩

/-- The sectors of a message: its header, and four for a line that it carries (R49). -/
def msgSize (ev : Instr) (m : Msg) : Nat := if ev == .wbd || ev == .wru || (ev == .invack && m.dirty) then 5 else 1

/-! ### Credits (R49) -/

/-- The input port of a router by which a message came: a mesh port, the cluster's, or that of the slice and the controller. -/
def inPort (from_ : Nat) : Nat := if from_ < 4 then from_ else if from_ == 15 then 15 else 4

/-- The sectors of an input port that the messages of a virtual network hold; one that waits its turn at its home is in the slice. -/
def portUsed (s : State) (r port vn : Nat) : Nat :=
  s.msgs.foldl (fun n e => if e.2.inq && e.2.seq == 0 && e.2.at_ == r && inPort e.2.from_ == port && e.2.vn == vn then n + e.2.size else n) 0

/-- The input port has credit for a message: each holds 64 sectors for each virtual network. -/
def portRoom (s : State) (m : Msg) (r from_ : Nat) : Bool := decide (portUsed s r (inPort from_) m.vn + m.size ≤ 64)

/-- Send a message as an event: it takes its place in the input port before it when that has credit (R49). -/
def sendMsg (ev : Instr) (m : Msg) (s : State) : State :=
  let (id, s) := s.newId
  let m := { m with vn := vnOf ev, size := msgSize ev m }
  ({ s with msgs := s.msgs.set id { m with inq := portRoom s m m.at_ m.from_ } }).send ev id (vnOf ev) m.ctx m.line

/-- A message stands in the input port where it is, or enters it; none where the port has no credit. -/
def enterPort (m : Msg) (s : State) : Option Msg :=
  if m.inq then some m else if portRoom s m m.at_ m.from_ then some { m with inq := true } else none

/-- A message at the next router of its X-first route, when the input port there has credit. -/
def nextHop (m : Msg) (s : State) : Option Msg :=
  let r := stepX m.at_ m.dst
  let p := dirTo r m.at_
  if portRoom s m r p then some { m with at_ := r, from_ := p } else none

/-- A message of a tree goes one link further when the input port there has credit. -/
def stepLink (m : Msg) (p : Nat) (s : State) : Option Msg :=
  let r := nbr m.at_ p
  if portRoom s m r (dirTo r m.at_) then some { m with at_ := r, from_ := dirTo r m.at_ } else none

/-- A message as far on its X-first route as credits let it go. -/
def hopOn : Nat → Msg → State → Msg
  | 0, m, _ => m
  | f + 1, m, s =>
    if m.at_ == m.dst then m
    else
      match nextHop m s with
      | some m => hopOn f m s
      | none => m

/-- Send a message's event once more: it waits where it stands. -/
def again (ev : Instr) (id : Nat) (m : Msg) (s : State) : State :=
  ({ s with msgs := s.msgs.set id m }).send ev id (vnOf ev) m.ctx m.line

/-- An answer to a requester: the bytes of a line, a value, and a flag (1 ownership or error). -/
def answer (ev : Instr) (acc v fl ctx line : Nat) (d : List Byte) (s : State) : State :=
  { s with agenda := s.agenda ++ [⟨ev, ⟨acc, fl, v, d⟩, s.ncyc, 1 + vnOf ev + 8 * (ctx + 4096 * line)⟩] }

/-! ### The private cache (R57, R66, R200) -/

/-- SPLIT of the core of a unit: that of a team on it (R140); none when it is a Span core or holds no team. -/
def splitOf (s : State) (u : Nat) : Option Nat :=
  if 3 ≤ u % 16 then none
  else
    match s.teams.find? (fun e => e.2.cluster == u / 16 && e.2.core == u % 16 && !e.2.saved) with
    | some (_, T) => some T.split
    | none => none

/-- The L1 set of a line (R200); the manual gives a Span core's cache no geometry. -/
def l1Set (s : State) (u ctx line : Nat) : Option Nat :=
  match splitOf s u with
  | none => none
  | some sp =>
    let n := (2 ^ 19 - sp) / 2 ^ 16
    if n == 0 then none
    else some (32 * ((bits line 20 5 ^^^ ctx % 2 ^ 16) % n) + line % 32)

/-- Evict a line: Prune from S or E, WbD from M or O; the line enters W (R66). -/
def evictLine (u ctx line : Nat) (owners : List Owner) (s : State) : State :=
  let key := (u, ctx, line)
  match s.l1.get? key with
  | none => s
  | some c =>
    if c.st == CSt.w then { s with l1 := s.l1.set key { c with owners := c.owners ++ owners } }
    else
      let ev : Instr := if c.st == CSt.m || c.st == CSt.o then .wbd else .prune
      let s := if ev == .wbd then writeBack ctx line c.attr.host c.pa c.bad s else s
      let s := { s with l1 := s.l1.set key { c with st := CSt.w, owners := owners } }
      sendMsg ev (Msg.mk0 0 ctx line (unitRouter u) (unitLink u) (unitRouter u) u) s

/-- Install a filled line: the least recently used line of a full set that may be replaced leaves (R200, R113). -/
def install (u ctx line : Nat) (st : CSt) (attr : Attr) (pa : Nat) (bad : List Nat) (s : State) : State :=
  let put := fun (s : State) => { s with l1 := s.l1.set (u, ctx, line) ⟨st, attr, pa, s.tick, [], bad⟩ }
  match l1Set s u ctx line with
  | none => put s
  | some n =>
    let same := s.l1.filter (fun e => e.1.1 == u && e.2.st != CSt.w && l1Set s u e.1.2.1 e.1.2.2 == some n)
    if same.length < 16 then put s
    else
      match same.filter (fun e => e.2.attr.home != 1) with
      | [] => evictLine u ctx line [] (put s)
      | v :: vs =>
        let lru := vs.foldl (fun (b : (Nat × Nat × Nat) × L1Line) e => if e.2.used < b.2.used then e else b) v
        put (evictLine u lru.1.2.1 lru.1.2.2 [] s)

/-- The bytes of a line that a cache or slice holds. -/
def lineBytes (s : State) (host : Bool) (pa : Nat) : List Byte := s.rd host pa 128

/-- Whether the cache has a fill of the line pending whose answer is on its way (R57). -/
def fillPending (s : State) (u ctx line : Nat) : Option Nat :=
  (s.accs.find? (fun e => e.2.unit == u && e.2.ctx == ctx && e.2.line == line && e.2.stage == Stage.sent
    && (e.2.graft || e.2.got.isSome))).map Prod.fst

/-- A Fwd reaches a cache (Table fabric-4): Data goes to the requester. A snoop's Fwd has no access and changes nothing: the sector that it names, in the newest data on chip, goes to the host (R40, R70). -/
def onFwd (u : Nat) (m : Msg) (s : State) : State :=
  let key := (u, m.ctx, m.line)
  if m.acc == 0 then s.tell (.snoopHit (s.rd true (m.cnt * 64) 64))
  else
    match s.l1.get? key with
    | some c =>
      let st := if c.st == CSt.e then CSt.s else if c.st == CSt.m then CSt.o else c.st
      let s := { s with l1 := s.l1.set key { c with st := st } }
      answer .data m.acc c.pa 0 m.ctx m.line (lineBytes s c.attr.host c.pa) (modAcc m.acc (fun a => { a with bad := c.bad }) s)
    | none =>
      match s.slices.get? (m.ctx, m.line) with
      | some c => answer .data m.acc c.pa 0 m.ctx m.line (lineBytes s c.attr.host c.pa) s
      | none => answer .err m.acc 0 0 m.ctx m.line [] s

/-- An Inv reaches a cache (Table fabric-4): InvAck to its router, with data from M or O; a flush that waits ends with the line. -/
def onInv (u : Nat) (m : Msg) (dirtyFill : Bool) (s : State) : State :=
  let key := (u, m.ctx, m.line)
  let c := s.l1.get? key
  let held := match c with
    | some l => l.st == CSt.m || l.st == CSt.o
    | none => false
  let owners := (c.map (·.owners)).getD []
  let s := match c with
    | some l => if held then writeBack m.ctx m.line l.attr.host l.pa l.bad s else s
    | none => s
  let s := ownersDone owners false { s with l1 := s.l1.del key }
  sendMsg .invack { Msg.mk0 0 m.ctx m.line (unitRouter u) (unitLink u) (unitRouter u) u with dirty := dirtyFill || held } s

/-! ### The line stage -/

/-- Every response buffer of a SIMT core is taken (R55); the manual gives a Span core no number. -/
def unitFull (s : State) (u : Nat) : Bool :=
  decide (u % 16 < 3) && decide (768 ≤ (s.accs.filter (fun e => e.2.unit == u && e.2.stage == Stage.sent)).length)

/-- Send the request of an access toward its home, or hold it for a response buffer. -/
def request (ev : Instr) (id : Nat) (s : State) : State :=
  match s.accs.get? id with
  | none => s
  | some a =>
    if unitFull s a.unit then modAcc id (fun a => { a with stage := Stage.buffer ev }) s
    else
      let home := homeOf a.bay a.line
      let s := modAcc id (fun a => { a with stage := Stage.sent, home := home }) s
      sendMsg ev (Msg.mk0 id a.ctx a.line (unitRouter a.unit) (unitLink a.unit) home a.unit) s

/-- The event of the request that waits for a buffer. -/
def Stage.asked : Stage → Option Instr
  | .buffer ev => some ev
  | .ni | .line | .sent => none

/-- The requests that wait for a buffer are sent, oldest first, while there are buffers. -/
def bufferPump (s : State) : State :=
  s.accs.foldl (fun s e => match e.2.stage.asked with
    | some ev => request ev e.1 s
    | none => s) s

/-- Another access of the unit to the line has its request under way. -/
def lineBusy (s : State) (a : Acc) : Bool :=
  s.accs.any (fun e => e.2.unit == a.unit && e.2.ctx == a.ctx && e.2.line == a.line && (e.2.stage == Stage.sent || e.2.stage.asked.isSome)
    && (e.2.kind == AKind.load || e.2.kind == AKind.own || e.2.kind == AKind.pref false))

/-- An access meets its private cache (Table fabric-4). -/
def lineTry (id : Nat) (s : State) : State :=
  match s.accs.get? id with
  | none => s
  | some a =>
    let key := (a.unit, a.ctx, a.line)
    let wait := modAcc id (fun a => { a with stage := Stage.line }) s
    let e := s.wcs.get? key
    let own := a.parts.map (fun p => (⟨a.team, p.g, p.lane, a.track⟩ : Owner))
    if a.kind == AKind.load && a.parts.all (covers e) then
      retire id (returnLoad a (overlay e (List.replicate 128 0)) false s)
    else if lineBusy s a || (a.kind != AKind.own && flipping s a.ctx (a.line * 128)) then wait
    else if a.kind == AKind.flush then
      if e.isSome || s.accs.any (fun x => decide (x.1 < id) && x.2.stage == Stage.ni && x.2.unit == a.unit && x.2.ctx == a.ctx && x.2.line == a.line) then wait
      else
        let s := { s with accs := s.accs.del id }
        if (s.l1.get? key).isSome then evictLine a.unit a.ctx a.line own s else ownersDone own false s
    else
      match s.l1.get? key with
      | some c =>
        if c.st == CSt.w then wait
        else
          let s := { s with l1 := s.l1.set key { c with used := s.tick } }
          match a.kind with
          | .load => retire id (returnSick a e (overlay e (lineBytes s c.attr.host c.pa)) c.bad s)
          | .own =>
            if c.st == CSt.m || c.st == CSt.e then
              let s := { s with l1 := s.l1.set key { c with st := CSt.m } }
              retire id (wcsCommit a.unit a.ctx a.line c.pa c.attr.host s)
            else request .upg id s
          | _ => retire id s
      | none => if a.kind == AKind.own then request .rdx id s else request .rds id s

/-- The accesses that wait for a line try again, oldest first. -/
def linePump (u ctx line : Nat) (s : State) : State :=
  let ids := (s.accs.filter (fun e => e.2.unit == u && e.2.ctx == ctx && e.2.line == line && e.2.stage == Stage.line)).map Prod.fst
  ids.foldl (fun s id => lineTry id s) s

/-! ### The network interface (R108, R416) -/

/-- Home-executed writes: count them from OWC, where they stood while the page was unknown, at their own level (Table cons-3). -/
def countHome (a : Acc) (host : Bool) (s : State) : State :=
  let slice := homeOf a.bay a.line
  a.parts.foldl (fun s p =>
    s.modThr (a.team, p.g, p.lane) (fun t =>
      let t := { t with owc := t.owc - 1 }
      if host then { t with ows := t.ows + 1 }
      else { t with owd := t.owd + 1, touched := t.touched.set slice (t.touched.getD slice 0 + 1) })) s

/-- A home-executed write is acknowledged (Table cons-3). -/
def homeDone (a : Acc) (err : Bool) (s : State) : State :=
  let host := (a.attr.map (·.host)).getD false && a.kind == AKind.store
  a.parts.foldl (fun s p =>
    s.modThr (a.team, p.g, p.lane) (fun t =>
      let t := { t with storeErr := if err && a.kind == AKind.store then t.storeErr ++ [if host then 3 else 2] else t.storeErr }
      if host then { t with ows := t.ows - 1 }
      else
        let n := t.touched.getD a.home 0
        { t with owd := t.owd - 1, touched := if n ≤ 1 then t.touched.del a.home else t.touched.set a.home (n - 1) })) s

/-- A write that its home will execute stands in the counter of its level as soon as its home is known. -/
def countOnce (id : Nat) (host : Bool) (s : State) : State :=
  match s.accs.get? id with
  | none => s
  | some a => if a.counted then s else modAcc id (fun a => { a with counted := true, home := homeOf a.bay a.line }) (countHome a host s)

/-- With the attributes known, an access takes its form (R113, R416). -/
def goLine (id : Nat) (s : State) : State :=
  match s.accs.get? id with
  | none => s
  | some a =>
    let at3 := (a.attr.map (·.home)).getD 0 == 3
    let host := (a.attr.map (·.host)).getD false
    match a.kind with
    | .load => if at3 then request .rdu id (modAcc id (fun a => { a with graft := true }) s) else lineTry id s
    | .store =>
      if at3 then
        let s := countOnce id host s
        let narrow := match s.tracks.get? a.track with
          | some k => decide (k.msc ≤ (if host then 4 else 3))
          | none => false
        let s := if narrow then modAcc id (fun a => { a with track := 0 }) (trackDones a.parts.length a.track s) else s
        request .wru id s
      else
        let own := a.parts.map (fun p => (⟨a.team, p.g, p.lane, a.track⟩ : Owner))
        let s := wcsStore a.unit a.ctx a.line a.parts own s
        clearAccess a.team id { s with accs := s.accs.del id }
    | .own => lineTry id s
    | .pref false => if at3 then retire id s else lineTry id s
    | .flush => lineTry id s
    | .pref true => if at3 then retire id s else request .rds id s
    | .atom => request .atom id (countOnce id false s)
    | .red => request .red id (countOnce id false s)

/-- The interface of a unit's cluster. -/
def niOf (u : Nat) : Nat := u / 16

/-- Two parts lie in a common byte. -/
def APart.meets (p q : APart) : Bool := overlaps p.off p.n q.off q.n

/-- Two accesses concern a byte of one thread; the load of an s register is every active thread's. -/
def sharesByte (a b : Acc) : Bool :=
  a.team == b.team && a.parts.any (fun p => b.parts.any (fun q =>
    p.g == q.g && (p.lane == q.lane || p.isS || q.isS) && p.meets q))

/-- A write of the same core, to a byte of the access: its threads see it, and what follows it, in the write-combining store (R254, R257). -/
def mateWrites (e a : Acc) : Bool :=
  e.unit == a.unit && e.kind != AKind.load && a.parts.any (fun p => e.parts.any p.meets)

/-- A load, store, atomic or reduction of a program. -/
def AKind.data : AKind → Bool
  | .load | .store | .atom | .red => true
  | _ => false

/-- R250: an earlier access of the same thread to the same location, or an earlier write of its core, is outstanding; or the access goes to the home, while the core's write-combining store holds a byte of it. -/
def behind (s : State) (id : Nat) (a : Acc) : Bool :=
  a.kind.data &&
    (s.accs.any (fun e => decide (e.1 < id) && e.2.ctx == a.ctx && e.2.line == a.line && e.2.kind.data && (sharesByte e.2 a || mateWrites e.2 a))
    || ((a.kind == AKind.atom || a.kind == AKind.red) &&
      (match s.wcs.get? (a.unit, a.ctx, a.line) with
        | some w => a.parts.any (fun p => (upFrom p.off p.n).any (fun k => (w.cells.get? k).isSome))
        | none => false)))

/-- An access is a write that its home executes. -/
def Acc.atHome (a : Acc) (at_ : Option Attr) : Bool :=
  a.kind == AKind.atom || a.kind == AKind.red || (a.kind == AKind.store && (at_.map (·.home)) == some 3)

/-- Move an access on at its interface: ask for what is not cached, or go on. -/
def niTry (id : Nat) (s : State) : State :=
  match s.accs.get? id with
  | none => s
  | some a =>
    let pg := a.line / 512
    let va := a.line * 128
    let asked := fun (ev : Instr) => s.agenda.any (fun d => d.ev == ev && d.arg.k == id)
    match (if a.ctx == 0 then some (bits (a.line * 128) 39 37) else s.plc.get? (niOf a.unit, a.ctx, pg)) with
    | none => if asked .placementLookup then s else s.push .placementLookup (.ofK id)
    | some b =>
      let known := if a.ctx == 0 then some (idXl 0).attr else atcFind s (niOf a.unit) a.ctx va
      let s := modAcc id (fun a => { a with bay := b, attr := known }) s
      let s := if a.atHome known then countOnce id (a.kind == AKind.store && (known.map (·.host)) == some true) s else s
      match known with
      | none => if asked .attributeQuery then s else s.send .attributeQuery id 0 a.ctx a.line
      | some _ =>
        if behind s id a || (a.kind != AKind.own && flipping s a.ctx va) then s
        else goLine id s

/-- The accesses that wait at an interface try again, oldest first. -/
def niPump (ni : Nat) (s : State) : State :=
  ((s.accs.filter (fun e => niOf e.2.unit == ni && e.2.stage == Stage.ni)).map Prod.fst).foldl (fun s id => niTry id s) s

/-- Every access that waits at an interface or for a response buffer tries again: what it waited for may have gone. -/
def settle (s : State) : State :=
  let s := bufferPump s
  ((s.accs.filter (fun e => e.2.stage == Stage.ni)).map Prod.fst).foldl (fun s id => niTry id s) s

/-- Begin an access: its number, and the state in which it has gone as far as it can. -/
def startAcc (a : Acc) (s : State) : Nat × State :=
  let (id, s) := s.newId
  (id, niTry id { s with accs := s.accs ++ [(id, a)] })

/-- An access of a kind with everything else open. -/
def Acc.new (kind : AKind) (unit ctx line team : Nat) (parts : List APart) (track : Nat) : Acc :=
  ⟨kind, unit, ctx, line, team, Stage.ni, parts, 0, 0, 0, 0, none, track, 0, none, none, false, false, 0, 0, [], [], false⟩

/-! ### Err and atomics at the requester -/

/-- Apply the operation of an atomic, rounding to nearest (R219): 0 add, 1 min, 2 max, 3 and, 4 or, 5 xor, 6 exch, 7 cas. -/
def atomOp (op ty old x y : Nat) : Nat :=
  match op with
  | 6 => x
  | 7 => if old == y then x else old
  | _ => foldStep op ty 0 0 old x

/-- Table local-8: the element's new value from its old one. -/
def atomNew (op ty v : Nat) (l : List APart) : Nat :=
  if op ≤ 5 then
    match l with
    | [] => v
    | p :: r => atomOp op ty v (r.foldl (fun a q => atomOp op ty a q.x 0) p.x) 0
  else l.foldl (fun a q => atomOp op ty a q.x q.y) v

/-- Table local-8: the old values of the lanes, in order. -/
def atomOlds (op ty v : Nat) (l : List APart) : List Nat :=
  (upFrom 0 l.length).map (fun j => if j == 0 then v else atomNew op ty v (l.take j))

/-- The aggregated operand of a reduction (R221). -/
def redVal (op ty : Nat) (l : List APart) : Nat :=
  match l with
  | [] => 0
  | p :: r => r.foldl (fun a q => atomOp op ty a q.x 0) p.x

/-- A never-cached store is acknowledged, or answered with Err. -/
def storeDone (id : Nat) (err : Bool) (s : State) : State :=
  match s.accs.get? id with
  | none => s
  | some a => settle (trackDones a.parts.length a.track (homeDone a err { s with accs := s.accs.del id }))

/-- A home-executed write has failed, wherever it stood. -/
def failHome (id : Nat) (a : Acc) (s : State) : State :=
  if a.counted then homeDone a true s else homeDone { a with home := homeOf a.bay a.line } true (countOnce id false s)

/-- An access is answered with Err (R76). -/
def failAcc (id : Nat) (s : State) : State :=
  match s.accs.get? id with
  | none => s
  | some a =>
    let held := a.heldMsgs
    let s := match a.kind with
      | .load => returnLoad a [] true s
      | .store =>
        if a.counted then storeDone id true s
        else ownersDone (a.parts.map (fun p => (⟨a.team, p.g, p.lane, a.track⟩ : Owner))) true s
      | .own => wcsDrop a.unit a.ctx a.line true s
      | .pref _ | .flush => s
      | .atom =>
        let s := failHome id a s
        a.parts.foldl (fun s p => if p.ty == 0 then s else putElem a.team p 0 true s) s
      | .red =>
        failHome id a s
    let s := match a.kind, a.word with
      | .red, some off => s.sendArg .syncCountUpdate ⟨a.team, off, a.parts.length * 2 + 1, []⟩ 4 a.ctx a.line
      | _, _ => s
    let s := if a.kind == AKind.store then clearAccess a.team id { s with accs := s.accs.del id } else retire id s
    let s := held.foldl (fun s mid =>
      match s.msgs.get? mid with
      | some m => if m.acc == 0 && m.val == 1 then onInv a.unit m false { s with msgs := s.msgs.del mid } else onFwd a.unit m { s with msgs := s.msgs.del mid }
      | none => s) s
    settle (linePump a.unit a.ctx a.line s)

/-- R57: with Data and Graft (or Grant and Graft) the fill serves the access that missed, then the held messages. -/
def fillTry (id : Nat) (s : State) : State :=
  match s.accs.get? id with
  | none => s
  | some a =>
    match a.got, a.graft with
    | some (l, false), true =>
      let attr := a.attr.getD (idXl 0).attr
      if attr.home == 3 then settle (retire id (returnSick a none l a.bad s))
      else
        let invs := a.heldMsgs.filter (fun mid => ((s.msgs.get? mid).map (·.val)).getD 0 == 1)
        let st := if a.kind == AKind.own then CSt.m else if a.excl then CSt.e else CSt.s
        let e := s.wcs.get? (a.unit, a.ctx, a.line)
        let full := (e.map Wcs.full).getD []
        let sick := if a.kind == AKind.own then a.bad.filter (fun h => !full.contains h) else a.bad
        let s := if a.kind == AKind.own then
            wcsCommit a.unit a.ctx a.line a.pa attr.host s
          else returnSick a e (overlay e l) a.bad s
        let s := { s with l1 := s.l1.set (a.unit, a.ctx, a.line) ⟨st, attr, a.pa, s.tick, [], sick⟩ }
        let fwds := a.heldMsgs.filter (fun mid => !invs.contains mid)
        let s := fwds.foldl (fun s mid =>
          match s.msgs.get? mid with
          | some m => onFwd a.unit m { s with msgs := s.msgs.del mid }
          | none => s) s
        let s := match invs with
          | [] =>
            let st := ((s.l1.get? (a.unit, a.ctx, a.line)).map (·.st)).getD st
            install a.unit a.ctx a.line st attr a.pa sick { s with l1 := s.l1.del (a.unit, a.ctx, a.line) }
          | mid :: _ =>
            match s.msgs.get? mid with
            | some m => onInv a.unit m false { s with msgs := s.msgs.del mid }
            | none => s
        settle (linePump a.unit a.ctx a.line (retire id s))
    | _, _ => s

end Sys2Proof.Machine
end

