-- ==== Sys2Proof/Machine/Fabric.lean ====
section
/-! DEFINITION. The routers, their tree caches, the homes, combine buffers and ordered reductions: the messages of Table fabric-2 (R48-R76, R113-R116, R222, R416). -/

namespace Sys2Proof.Machine

/-! ### Tree-cache entries (R58 to R60) -/

/-- Key of an entry. -/
abbrev TreeKey := Nat × Nat × Nat

/-- The set of a line in a tree cache (R58). -/
def treeSet (ctx line : Nat) : Nat := line % 512 ^^^ ctx % 512

/-- The entries of a router in a line's set. -/
def treeSetOf (s : State) (r ctx line : Nat) : List (TreeKey × Tree) :=
  s.trees.filter (fun e => e.1.1 == r && treeSet e.1.2.1 e.1.2.2 == treeSet ctx line)

/-- Replace an entry. The manual does not say what counts as a use for R60: in the model every write of the entry does, and a Fwd that passes does not (log entry 58). -/
def putTree (k : TreeKey) (t : Tree) (s : State) : State := { s with trees := s.trees.set k { t with used := s.tick } }

/-- Free an entry. -/
def freeTree (k : TreeKey) (s : State) : State := { s with trees := s.trees.del k }

/-- The lowest free way of a set, if any. -/
def freeWay (l : List (TreeKey × Tree)) : Option Nat := (upFrom 0 8).find? (fun w => l.all (fun e => e.2.way != w))

/-- The victim of R60: the least recently used Stable entry, one with ROOT 0 before any other. -/
def victimOf (l : List (TreeKey × Tree)) : Option (TreeKey × Tree) :=
  let st := l.filter (fun e => e.2.st == TSt.stable)
  let nr := st.filter (fun e => !e.2.root)
  match (if nr.isEmpty then st else nr) with
  | [] => none
  | v :: vs => some (vs.foldl (fun b e => if e.2.used < b.2.used then e else b) v)

/-- A Building entry with one link. The manual gives NEARPORT and NEAR no value before a Graft passes: the model writes local and 22 (log entry 58). -/
def Tree.building (way link : Nat) (root host : Bool) (req : Nat) : Tree :=
  ⟨way, TSt.building, [link], root, false, 4, 22, 0, none, 0, host, false, false, req, 0⟩

/-! ### Invalidation (R63, R67) -/

/-- A message stands in the input port before its router or unit and is dealt with, or waits for credit there (R49). -/
def inPlace (ev : Instr) (id : Nat) (s : State) (run : Msg → State → State) : State :=
  match s.msgs.get? id with
  | none => s
  | some m =>
    match enterPort m s with
    | none => again ev id m s
    | some m => run m s

/-- Send Inv along a link of a router: to the neighbour, or to a local holder. -/
def sendInv (r ctx line link : Nat) (s : State) : State :=
  if link < 4 then sendMsg .inv { Msg.mk0 0 ctx line (nbr r link) (dirTo (nbr r link) r) (nbr r link) 2047 with val := 1 } s
  else sendMsg .inv { Msg.mk0 0 ctx line r 15 r (16 * clusterAt r + link - 4) with val := 1 } s

/-- A Stable entry becomes Tearing: Inv goes to every link, and PEND counts them (R63). -/
def tear (k : TreeKey) (t : Tree) (victim : Bool) (req : Nat) (s : State) : State :=
  let s := putTree k { t with st := TSt.tearing, pend := t.links.length, victim := victim, dirty := false, req := req } s
  t.links.foldl (fun s l => sendInv k.1 k.2.1 k.2.2 l s) s

/-- Send InvAck up the X-first link of a router. -/
def ackUp (k : TreeKey) (home : Nat) (dirty : Bool) (s : State) : State :=
  let up := stepX k.1 home
  sendMsg .invack { Msg.mk0 0 k.2.1 k.2.2 up (dirTo up k.1) up 2047 with dirty := dirty } s

/-- The home router of a line that a router's entry belongs to: where its root stands, or by the placement of the line. -/
def lineHome (s : State) (ctx line : Nat) : Nat :=
  match s.trees.find? (fun e => e.1.2.1 == ctx && e.1.2.2 == line && e.2.root) with
  | some e => e.1.1
  | none =>
    match placedAt s ctx (line * 128) with
    | .bay b => homeOf b line
    | _ => homeOf 0 line

/-- An entry ends: a link kept for a waiting writer makes it Building, else it is freed (R63 step 3). -/
def endTree (k : TreeKey) (t : Tree) (s : State) : State :=
  match t.keep with
  | some l => putTree k { t with st := TSt.building, links := [l], keep := none, pend := 0, req := t.kreq } s
  | none => freeTree k s

/-- PEND of a Tearing entry has reached 0 (R63 steps 3 and 4, R67 steps 2 and 3). -/
def torn (k : TreeKey) (t : Tree) (s : State) : State :=
  let home := lineHome s k.2.1 k.2.2
  match t.root, t.keep with
  | true, some l => putTree k { t with st := TSt.building, links := [l], keep := none, owned := false, pend := 0, req := t.kreq } s
  | true, none => freeTree k s
  | false, _ =>
    if t.victim then
      let up := stepX k.1 home
      let s := putTree k { t with st := TSt.pruning, pend := 0 } s
      sendMsg (if t.dirty then .wbd else .prune) (Msg.mk0 0 k.2.1 k.2.2 up (dirTo up k.1) k.1 2047) s
    else
      ackUp k home t.dirty (endTree k t s)

/-- Room for a new entry: its way, or none while the victim that leaves for this request is torn down, or no entry can be (R60). -/
def roomFor (id r ctx line : Nat) (s : State) : State × Option Nat :=
  let l := treeSetOf s r ctx line
  match freeWay l with
  | some w => (s, some w)
  | none =>
    if l.any (fun e => e.2.req == id && (e.2.st == TSt.tearing || e.2.st == TSt.pruning)) then (s, none)
    else
      match victimOf l with
      | some (k, t) => (tear k t true id s, none)
      | none => (s, none)

/-! ### The home (R52, R62 to R64, R112 to R116) -/

/-- R52: a message's turn at its home; it takes its place in the order when it first arrives, while fewer than 64 wait. -/
def homeTurn (id : Nat) (m : Msg) (s : State) : State × Msg × Bool :=
  if m.seq == 0 then
    if 64 ≤ (s.msgs.filter (fun e => e.2.seq != 0 && e.2.at_ == m.at_)).length then (s, m, false)
    else
      let (n, s) := s.newId
      let m := { m with seq := n }
      let first := s.msgs.all (fun e => e.1 == id || e.2.seq == 0 || e.2.ctx != m.ctx || e.2.line != m.line)
      (s, m, first)
  else
    (s, m, s.msgs.all (fun e => e.1 == id || e.2.seq == 0 || decide (m.seq < e.2.seq) || e.2.ctx != m.ctx || e.2.line != m.line))

/-- What the home knows of a line. -/
inductive HomeRes where
  | ready (attr : Attr) (pa : Nat) (slice : Bool)
  | err (kind : Nat)
  | wait
  deriving DecidableEq, Repr

/-- Ask for a walk of a page at a port for an access, joining one in progress (R122). -/
def askWalk (port ctx va vd : Nat) (wr : Bool) (acc : Nat) (s : State) : State :=
  let p := pageOf s ctx va
  let same := fun (w : Walk) => w.port == port && w.ctx == ctx && w.page == p.1
  if s.walks.any same then
    { s with walks := s.walks.map (fun w => if same w then { w with wr := w.wr || wr, joined := distinct (w.joined ++ [acc]) } else w) }
  else if 32 ≤ (s.walks.filter (fun w => w.port == port)).length then s
  else ({ s with walks := s.walks ++ [(⟨port, ctx, p.1, p.2, wr, vd, [acc]⟩ : Walk)] }).push .translationWalk ⟨port, ctx, p.1, []⟩

/-- The translation of a line at a port. -/
def xlateAt (port vd : Nat) (wr : Bool) (m : Msg) (s : State) : State × HomeRes :=
  let va := m.line * 128
  if m.ctx == 0 then (s, .ready (idXl va).attr va false)
  else
    match s.tlbFind port m.ctx va with
    | some x => (if wr then touchD port x s else s, .ready x.attr (x.phys va) x.obj)
    | none =>
      match m.err with
      | some k => (s, .err k)
      | none => (askWalk port m.ctx va vd wr m.acc s, .wait)

/-- Lines of a slice (R1), and the lines of pages with HOME = SLICE that it keeps (R113). -/
def sliceLines : Nat := 32768
def sliceKeeps : Nat := 16384

/-- The page is in device bias: I/O die 0 keeps its sectors (R41). -/
def pageBias (s : State) (ctx va : Nat) : Bool :=
  match walkLeaf s ctx va with
  | .ok (_, e, size) => bit e 57 && bit e 56 && size != 30
  | .error _ => false

/-- A line of host memory has left a cache or a slice: once no private cache holds it and no request for it is under way, its sectors return to the host; those of a page in device bias stay (R38, R41, R69). -/
def hostLeave (ctx line : Nat) (s : State) : State :=
  if s.hsect.all (fun h => h.ctx != ctx || h.vs / 2 != line) then s
  else if s.l1.any (fun e => e.1.2.1 == ctx && e.1.2.2 == line) || s.trees.any (fun e => e.1.2.1 == ctx && e.1.2.2 == line)
      || pageBias s ctx (line * 128) then s
  else purgeLines ctx [line] s

/-- The lines of a slice that may be replaced. -/
def sliceVictims (s : State) (h : Nat) : List (Nat × Nat) :=
  let mine := s.slices.filter (fun e => e.2.router == h)
  let kept := ((mine.filter (fun e => e.2.attr.home == 2)).map Prod.fst).take sliceKeeps
  (mine.map Prod.fst).filter (fun k => !kept.contains k)

/-- Room in a slice for a line: the manual names no order of replacement, so any line that may go can (R113, log entry 27). -/
def sliceRoom (h : Nat) (s : State) : State :=
  if (s.slices.filter (fun e => e.2.router == h)).length < sliceLines then s
  else
    let l := sliceVictims s h
    match l[Config.freeChoice s.tick 4000 % l.length]? with
    | none => s
    | some k => hostLeave k.1 k.2 (dropSlice k.1 k.2 s)

/-- A line enters the slice of its home. -/
def fillSlice (h ctx line : Nat) (attr : Attr) (pa : Nat) (obj : Bool) (s : State) : State :=
  let s := sliceRoom h s
  { s with slices := s.slices.set (ctx, line) ⟨attr, pa, obj, h, false⟩ }

/-- A fetch of the line's sectors is under way. -/
def fetching (s : State) (ctx line : Nat) : Bool :=
  s.agenda.any (fun d => d.ev == .hostSectorFetch && d.arg.k == ctx && d.arg.a == line)

/-- The home asks I/O die 0 for a line's sectors: the request leaves by the edge router of its row (R11, R48, R114). -/
def askDie (h ctx line : Nat) (wr : Bool) (s : State) : State :=
  let (id, s) := s.newId
  let m := Msg.mk0 0 ctx line h 15 (edgeRouter 0 h) 2047
  ({ s with msgs := s.msgs.set id { m with inq := portRoom s m m.at_ m.from_ } }).sendArg .hostSectorFetch ⟨ctx, line, b2n wr + 2 * id, []⟩ 0 ctx line

/-- A located line for a cached access: its granule permits it, its host sectors are held as it needs them, and the slice holds it or fills it from the stack (R38, R43, R114). -/
def lineGate (h : Nat) (wr : Bool) (m : Msg) (attr : Attr) (pa : Nat) (obj : Bool) (s : State) : State × HomeRes :=
  match (if obj then granGate m.ctx m.line wr s else (s, GranRes.ok)) with
  | (s, .lost) => (s, .err 6)
  | (s, .wait) => (s, .wait)
  | (s, .ok) =>
    let here := (s.slices.get? (m.ctx, m.line)).isSome
    if attr.host && (!here || !hostHeld s pa 128 wr) then
      match m.err with
      | some k => (s, .err k)
      | none => (if fetching s m.ctx m.line then s else askDie h m.ctx m.line wr s, .wait)
    else if here then (s, .ready attr pa true)
    else if s.badLine false pa 128 then (s, .err (lineKind s false pa))
    else (fillSlice h m.ctx m.line attr pa obj s, .ready attr pa false)

/-- The line for a cached access: from the slice, or filled from the stack, the host or a peer (R114, R43, R38). -/
def homeLine (h vd : Nat) (wr : Bool) (m : Msg) (s : State) : State × HomeRes :=
  match s.slices.get? (m.ctx, m.line) with
  | some c => if wr && !c.attr.w then (s, .err 5) else lineGate h wr m c.attr c.pa c.obj s
  | none =>
    match xlateAt h vd wr m s with
    | (s, .ready attr pa obj) => if attr.home == 3 || (wr && !attr.w) then (s, .err 5) else lineGate h wr m attr pa obj s
    | r => r

/-- Every access under a contributor to a combined reduction. -/
def leavesOf (s : State) : Nat → Nat → List Nat
  | 0, _ => []
  | f + 1, id =>
    match s.combSent.get? id with
    | some l => l.flatMap (leavesOf s f)
    | none => [id]

/-- The unit for which a message travels: its own, or for a combined partial that of the first contributor of its list (the manual names no requester of a RedP, log entry 58). -/
def msgUnit (s : State) (m : Msg) : Nat :=
  if m.unit != 2047 then m.unit
  else
    match (leavesOf s 24 m.acc).head? with
    | none => 2047
    | some i => ((s.accs.get? i).map (·.unit)).getD 2047

/-- Log an error that the home finds, in its bay's log, or one that I/O die 0 found (16 more than its kind), in the requester's bay's log with the edge router of the home's row (R76, R77, R123). -/
def logHome (m : Msg) (kind : Nat) (s : State) : State :=
  let u := msgUnit s m
  let k := kind % 16
  let va := m.line * 128
  let page := (pageOf s m.ctx va).1
  if 16 ≤ kind then
    let b := if u / 16 < 127 then bayOf (u / 16) else 0
    let r := edgeRouter 0 m.at_
    if k == 4 || k == 5 then logXlate 128 b k m.ctx r (agentOf u) va page s else logErr b k m.ctx r (agentOf u) va s
  else if k == 4 || k == 5 then logXlate m.at_ (bayOfRouter m.at_) k m.ctx m.at_ (agentOf u) va page s
  else logErr (bayOfRouter m.at_) k m.ctx m.at_ (agentOf u) va s

/-- Take a message out of the network. -/
def dropMsg (id : Nat) (s : State) : State := { s with msgs := s.msgs.del id }

/-- The message asks for a prefetch, which an error drops without a report (R380). -/
def isPrefetch (s : State) (m : Msg) : Bool :=
  match s.accs.get? m.acc with
  | some a => a.kind == AKind.pref false || a.kind == AKind.pref true
  | none => false

/-- A prefetch of a page that is being evicted is dropped without a response and without an error (R126): its path is released. -/
def dropPrefetch (id : Nat) (m : Msg) (s : State) : State :=
  let s := settle (linePump m.unit m.ctx m.line (retire m.acc (dropMsg id s)))
  sendMsg .pathRelease { Msg.mk0 m.acc m.ctx m.line m.at_ 15 (unitRouter m.unit) m.unit with val := id } s

/-- Err to the requester, with the path release that accompanies it for RdS, RdX and Upg (R115). -/
def refuse (id : Nat) (m : Msg) (kind : Nat) (release : Bool) (s : State) : State :=
  let s := dropMsg id s
  let s := if isPrefetch s m then s else logHome m kind s
  let s := answer .err m.acc (kind % 16) 0 m.ctx m.line [] s
  if release then sendMsg .pathRelease { Msg.mk0 m.acc m.ctx m.line m.at_ 15 (unitRouter m.unit) m.unit with val := id } s else s

/-- Data or Grant and a Graft leave the home (R61, R63). -/
def supply (ev : Instr) (id : Nat) (m : Msg) (attr : Attr) (pa : Nat) (excl : Bool) (s : State) : State :=
  let s := modAcc m.acc (fun a => { a with attr := some attr, excl := excl }) (dropMsg id s)
  let s := answer ev m.acc pa (b2n excl) m.ctx m.line (lineBytes s attr.host pa) s
  sendMsg .graft (Msg.mk0 m.acc m.ctx m.line m.at_ 15 (unitRouter m.unit) m.unit) s

/-- The view device of an access: the one of its team's grid. -/
def vdOf (s : State) (m : Msg) : Nat :=
  match s.accs.get? m.acc with
  | some a => (s.grid a.team).vdev
  | none => 0

/-- The home may give a sole reader the line in E: the translation carries W, its host sectors are in E or M, and its granule is this package's to write (R38, R44, R115). -/
def mayExclude (s : State) (m : Msg) (attr : Attr) (pa : Nat) : Bool :=
  let obj := ((s.slices.get? (m.ctx, m.line)).map (·.obj)).getD false
  attr.w && (!attr.host || hostHeld s pa 128 true) && (!obj || granMayOwn s m.ctx m.line)

/-- The home runs a read or a request for ownership whose root entry is its own and Building. -/
def serveRoot (ev : Instr) (own : Bool) (id : Nat) (m : Msg) (k : TreeKey) (t : Tree) (s : State) : State :=
  if !own && flipping s m.ctx (m.line * 128) then again ev id m s
  else
    match homeLine m.at_ (vdOf s m) own m s with
    | (s, .wait) => if isPrefetch s m && evicting s m.ctx (m.line * 128) then dropPrefetch id m s else again ev id m s
    | (s, .err e) => refuse id m e true s
    | (s, .ready attr pa _) =>
      if s.badLine attr.host pa 128 then refuse id m (lineKind s attr.host pa) true s
      else
        let excl := own || mayExclude s m attr pa
        let s := putTree k { t with owned := excl, host := attr.host } s
        supply (if own then .grant else .data) id m attr pa excl s

/-- The HOST bit of a new entry: the requester knows the page's attributes before it sends (R58, R113). -/
def reqHost (s : State) (m : Msg) : Bool :=
  match s.accs.get? m.acc with
  | some a => (a.attr.map (·.host)).getD false
  | none => false

/-! ### Reads (R61, R62) -/

/-- A Fwd starts down the links of an entry (R61): to a local holder, along NEARPORT, or along the lowest link. A snoop's Fwd has no access, and names its host sector. -/
def steer (k : TreeKey) (t : Tree) (acc hs : Nat) (s : State) : State :=
  let loc := t.links.filter (fun l => 4 ≤ l)
  match loc with
  | l :: ls =>
    let b := ls.foldl min l
    sendMsg .fwd { Msg.mk0 acc k.2.1 k.2.2 k.1 15 k.1 (16 * clusterAt k.1 + b - 4) with cnt := hs } s
  | [] =>
    match t.links with
    | [] => s
    | l :: ls =>
      let p := if t.links.contains t.nearport then t.nearport else ls.foldl min l
      sendMsg .fwd { Msg.mk0 acc k.2.1 k.2.2 (nbr k.1 p) (dirTo (nbr k.1 p) k.1) (nbr k.1 p) 2047 with cnt := hs } s

/-- A Stable entry catches a read: it takes the link, and the line comes from the slice or from a holder (R61, R62). -/
def catchRead (id : Nat) (m : Msg) (k : TreeKey) (t : Tree) (s : State) : State :=
  let link := fun (s : State) => putTree k { t with links := distinct (t.links ++ [m.from_]) } s
  let graft := fun (s : State) => sendMsg .graft (Msg.mk0 m.acc m.ctx m.line m.at_ 15 (unitRouter m.unit) m.unit) s
  match t.root, s.slices.get? (m.ctx, m.line) with
  | true, some c =>
    if !t.owned then
      if s.badLine c.attr.host c.pa 128 then refuse id m (lineKind s c.attr.host c.pa) true s
      else supply .data id m c.attr c.pa false (link s)
    else graft (steer k t m.acc 0 (link (dropMsg id s)))
  | _, _ => graft (steer k t m.acc 0 (link (dropMsg id s)))

/-- A read travels toward its home until it waits, is caught, or is served (R61). At the home it takes its place in the order of arrival first (R52, R62). -/
def readGo : Nat → Nat → Msg → State → State
  | 0, id, m, s => again .rds id m s
  | f + 1, id, m, s =>
    let k := (m.at_, m.ctx, m.line)
    let home := m.at_ == m.dst
    let go := fun (s : State) =>
      match nextHop m s with
      | some m => readGo f id m s
      | none => again .rds id m s
    let (s, m, turn) := if home then homeTurn id m s else (s, m, true)
    if !turn then again .rds id m s
    else
      match s.trees.get? k with
      | none =>
        match roomFor id m.at_ m.ctx m.line s with
        | (s, none) => again .rds id m s
        | (s, some w) =>
          let t := Tree.building w m.from_ home (reqHost s m) id
          let s := putTree k t s
          if home then serveRoot .rds false id { m with work := 1 } k t s else go s
      | some t =>
        if t.st == TSt.stable then catchRead id m k t s
        else if t.req == id && t.st == TSt.building then (if home then serveRoot .rds false id m k t s else go s)
        else again .rds id m s

/-- A prefetch into the slice: filled at the home without a holder, and dropped on any error, or while the page is evicted (R126, R380). -/
def slicePrefetch (id : Nat) (m : Msg) (s : State) : State :=
  let m := hopOn 40 m s
  if m.at_ != m.dst then again .rds id m s
  else
    let (s, m, turn) := homeTurn id m s
    if !turn then again .rds id m s
    else if (s.trees.get? (m.at_, m.ctx, m.line)).isSome then settle (retire m.acc (dropMsg id s))
    else
      match homeLine m.at_ (vdOf s m) false m s with
      | (s, .wait) => if evicting s m.ctx (m.line * 128) then settle (retire m.acc (dropMsg id s)) else again .rds id m s
      | (s, _) => settle (retire m.acc (dropMsg id s))

/-- `RDS`. -/
def rdsStep (s : State) : State :=
  match s.msgs.get? s.ev.k with
  | none => s
  | some m =>
    match enterPort m s, s.accs.get? m.acc with
    | none, _ => again .rds s.ev.k m s
    | some m, some a => if a.kind == AKind.pref true then slicePrefetch s.ev.k m s else readGo 40 s.ev.k m s
    | some m, none => readGo 40 s.ev.k m s

/-! ### Ownership (R63, R115) -/

/-- The permission of a request for a line, before the home acts on it (R115). -/
def homePermits (m : Msg) (s : State) : State × HomeRes :=
  match s.slices.get? (m.ctx, m.line) with
  | some c => (s, if c.attr.w then .ready c.attr c.pa true else .err 5)
  | none =>
    match xlateAt m.at_ (vdOf s m) true m s with
    | (s, .ready attr pa o) => (s, if attr.w then .ready attr pa o else .err 5)
    | r => r

/-- RdX or Upg travels toward its home, allocating Building entries and writing KEEP; at the home it takes its place in the order of arrival first (R52, R63). -/
def ownGo (ev : Instr) : Nat → Nat → Msg → State → State
  | 0, id, m, s => again ev id m s
  | f + 1, id, m, s =>
    let k := (m.at_, m.ctx, m.line)
    let home := m.at_ == m.dst
    let go := fun (s : State) =>
      match nextHop m s with
      | some m => ownGo ev f id m s
      | none => again ev id m s
    let (s, m, turn) := if home then homeTurn id m s else (s, m, true)
    if !turn then again ev id m s
    else
      match s.trees.get? k with
      | none =>
        match roomFor id m.at_ m.ctx m.line s with
        | (s, none) => again ev id m s
        | (s, some w) =>
          let t := Tree.building w m.from_ home (reqHost s m) id
          let s := putTree k t s
          if home then serveRoot ev true id m k t s else go s
      | some t =>
        if t.st == TSt.stable then
          if home then
            match homePermits m s with
            | (s, .wait) => again ev id m s
            | (s, .err e) => refuse id m e true s
            | (s, .ready _ _ _) =>
              again ev id m (tear k { t with keep := some m.from_, kreq := id } false id s)
          else if t.keep.isSome then (if t.kreq == id then go s else again ev id m s)
          else go (putTree k { t with keep := some m.from_, kreq := id } s)
        else if t.req == id && t.st == TSt.building then (if home then serveRoot ev true id m k t s else go s)
        else again ev id m s

/-- `RDX` and `UPG`. -/
def ownStep (ev : Instr) (s : State) : State :=
  match s.msgs.get? s.ev.k with
  | none => s
  | some m =>
    match enterPort m s with
    | none => again ev s.ev.k m s
    | some m => ownGo ev 40 s.ev.k m s

/-! ### The tree class: Fwd, Inv, Graft and acknowledgements -/

/-- A tree message reaches a unit: it is held while a fill of the line is pending (R57). -/
def toUnit (id u : Nat) (m : Msg) (s : State) : State :=
  match fillPending s u m.ctx m.line with
  | some a => modAcc a (fun x => { x with heldMsgs := x.heldMsgs ++ [id] }) { s with msgs := s.msgs.set id { m with inq := false } }
  | none => if m.val == 1 then onInv u m false (dropMsg id s) else onFwd u m (dropMsg id s)

/-- A Fwd travels down to a holder: to LOCAL (of several local holders, which the manual does not rank, the one with the lowest bit, log entry 58), along NEARPORT, or along the lowest link in the order N, E, S, W (R61). -/
def fwdGo : Nat → Nat → Msg → State → State
  | 0, id, m, s => onFwd 2047 m (dropMsg id s)
  | f + 1, id, m, s =>
    if m.unit != 2047 then toUnit id m.unit m s
    else
      match s.trees.get? (m.at_, m.ctx, m.line) with
      | none => onFwd 2047 m (dropMsg id s)
      | some t =>
        match t.links.filter (fun l => 4 ≤ l) with
        | l :: ls => toUnit id (16 * clusterAt m.at_ + (ls.foldl min l) - 4) m s
        | [] =>
          match t.links with
          | [] => onFwd 2047 m (dropMsg id s)
          | l :: ls =>
            let p := if t.links.contains t.nearport then t.nearport else ls.foldl min l
            match stepLink m p s with
            | some m => fwdGo f id m s
            | none => again .fwd id m s

/-- `FWD`. -/
def fwdStep (s : State) : State := inPlace .fwd s.ev.k s (fun m s => fwdGo 40 s.ev.k m s)

/-- A Graft passes a router: a Building entry becomes Stable, and NEAR keeps the smaller distance (R59, R61). -/
def graftAt (m : Msg) (r : Nat) (s : State) : State :=
  let k := (r, m.ctx, m.line)
  match s.trees.get? k with
  | none => s
  | some t =>
    let left := (routeY r m.dst).length - 1
    let port := match routeY r m.dst with
      | _ :: q :: _ => dirTo r q
      | _ => 4
    let fresh := t.st == TSt.building
    let t := if fresh || left < t.near then { t with near := left, nearport := port } else t
    putTree k (if fresh then { t with st := TSt.stable, req := 0 } else t) s

/-- `GRAFT`: along the Y-first route to the requester, which holds it from then on. -/
def graftStep (s : State) : State :=
  inPlace .graft s.ev.k s (fun m s =>
    let s := (routeY m.at_ m.dst).foldl (fun s r => graftAt m r s) (dropMsg s.ev.k s)
    fillTry m.acc (modAcc m.acc (fun a => { a with graft := true }) s))

/-- `INV` at a router or at a unit (R63, Table fabric-6). -/
def invStep (s : State) : State :=
  inPlace .inv s.ev.k s (fun m s =>
    if m.unit != 2047 then toUnit s.ev.k m.unit m s
    else
      let k := (m.at_, m.ctx, m.line)
      let home := lineHome s m.ctx m.line
      let s := dropMsg s.ev.k s
      match s.trees.get? k with
      | none => ackUp k home false s
      | some t =>
        match t.st with
        | .stable => tear k t false 0 s
        | .tearing => putTree k { t with victim := false } s
        | .pruning => if t.links.isEmpty then ackUp k home false (endTree k t s) else tear k t false 0 s
        | .building => ackUp k home false s)

/-- `INVACK` (R63, R67). -/
def invackStep (s : State) : State :=
  inPlace .invack s.ev.k s (fun m s =>
    let k := (m.at_, m.ctx, m.line)
    let s := dropMsg s.ev.k s
    match s.trees.get? k with
    | none => s
    | some t =>
      if t.st != TSt.tearing then s
      else
        let t := { t with pend := t.pend - 1, dirty := t.dirty || m.dirty }
        if t.pend == 0 then torn k t s else putTree k t s)

/-- A departing branch passes the routers toward the home, as far as credits let it go (R66). `work` 1: the pruning has stopped. -/
def departGo (wb : Bool) : Nat → Nat → Msg → State → State
  | 0, _, _, s => s
  | f + 1, id, m, s =>
    let home := lineHome s m.ctx m.line
    let k := (m.at_, m.ctx, m.line)
    let atHome := m.at_ == home
    let ack := fun (s : State) =>
      sendMsg (if wb then .wback else .pruneack) (Msg.mk0 0 m.ctx m.line m.at_ 15 m.dst m.unit) s
    let go := fun (m : Msg) (s : State) =>
      if atHome then ack s
      else
        match stepLink m (dirTo m.at_ (stepX m.at_ home)) s with
        | some m => departGo wb f id m s
        | none => again (if wb then .wbd else .prune) id m s
    match s.trees.get? k with
    | none => go m s
    | some t =>
      let t := if wb && atHome then { t with owned := false, dirty := t.dirty || t.st == TSt.tearing } else t
      let s := putTree k t s
      if m.work == 1 || t.st == TSt.tearing || t.st == TSt.pruning then go m s
      else if t.st == TSt.building then (if wb then go { m with work := 1 } s else ack s)
      else if t.links == [m.from_] then go m (putTree k { t with st := TSt.pruning } s)
      else
        let s := putTree k { t with links := t.links.filter (fun l => l != m.from_) } s
        if wb then go { m with work := 1 } s else ack s

/-- `PRUNE` (false) and `WBD` (true) (R55, R66). The slice always accepts a write-back; for one to an object page whose granule's state does not permit it, the I/O die is asked (R43). -/
def departStep (wb : Bool) (s : State) : State :=
  inPlace (if wb then .wbd else .prune) s.ev.k s (fun m s =>
    let obj := wb && ((s.slices.get? (m.ctx, m.line)).map (·.obj)).getD false
    let s := if obj then (granGate m.ctx m.line true s).1 else s
    departGo wb 40 s.ev.k m (dropMsg s.ev.k s))

/-- `PRUNEACK` and `WBACK`: Pruning entries on the way are freed, and the evicting cache's line leaves W (R57, R66). -/
def departAck (ev : Instr) (s : State) : State :=
  inPlace ev s.ev.k s (fun m s =>
    let s := (routeY m.at_ m.dst).foldl (fun s r =>
      let k := (r, m.ctx, m.line)
      match s.trees.get? k with
      | some t => if t.st == TSt.pruning then endTree k t s else s
      | none => s) (dropMsg s.ev.k s)
    if m.unit == 2047 then s
    else
      match s.l1.get? (m.unit, m.ctx, m.line) with
      | some c =>
        if c.st == CSt.w then
          let s := hostLeave m.ctx m.line { s with l1 := s.l1.del (m.unit, m.ctx, m.line) }
          settle (linePump m.unit m.ctx m.line (ownersDone c.owners false s))
        else s
      | none => s)

/-- `PATH_RELEASE`: frees the Building entries that the request allocated and clears the KEEP that it wrote (R115). -/
def releaseStep (s : State) : State :=
  inPlace .pathRelease s.ev.k s (fun m s =>
    (routeY m.at_ m.dst).foldl (fun s r =>
      let k := (r, m.ctx, m.line)
      match s.trees.get? k with
      | some t =>
        if t.st == TSt.building && t.req == m.val then freeTree k s
        else if t.keep.isSome && t.kreq == m.val then putTree k { t with keep := none, kreq := 0 } s
        else s
      | none => s) (dropMsg s.ev.k s))

/-! ### Responses at the requester -/

/-- `DATA` and `GRANT`: the line's bytes, with E or ownership when the value is 1. -/
def dataStep (s : State) : State :=
  fillTry s.ev.k (modAcc s.ev.k (fun a => { a with got := some (s.ev.data, false), pa := s.ev.v }) s)

/-- `ERR` (R76). -/
def errStep (s : State) : State := failAcc s.ev.k s

/-- `WRACK` (R258). -/
def wrackStep (s : State) : State := storeDone s.ev.k false s

/-- `ATOMACK`: the old values of the lanes are rebuilt (R221); a double-bit error on the answer's way makes them poison (R46). -/
def atomackStep (s : State) : State :=
  let id := s.ev.k
  match s.accs.get? id with
  | none => s
  | some a =>
    let olds := atomOlds a.op a.ty s.ev.v a.parts
    settle (retire id ((a.parts.zip olds).foldl (fun s x => putElem a.team x.1 x.2 (!a.bad.isEmpty) s) (homeDone a false s)))

/-! ### Operations that the home executes (R64, R113, R220) -/

/-- What a home-executed operation does next. -/
inductive HomeGo where
  | run (attr : Attr) (pa : Nat)
  | wait (s : State)
  | done (s : State)

/-- The line for an operation at the home: through the slice, or for a never-cached page at its place in memory, where an object's granule must permit it (R43, R113). -/
def opLine (wr nocache : Bool) (m : Msg) (s : State) : State × HomeRes :=
  match s.slices.get? (m.ctx, m.line) with
  | some _ => homeLine m.at_ (vdOf s m) wr m s
  | none =>
    match xlateAt m.at_ (vdOf s m) wr m s with
    | (s, .ready attr pa o) =>
      if wr && !attr.w then (s, .err 5)
      else if attr.home != 3 && !nocache then homeLine m.at_ (vdOf s m) wr m s
      else if o then
        (match granGate m.ctx m.line wr s with
         | (s, .lost) => (s, .err 6)
         | (s, .wait) => (s, .wait)
         | (s, .ok) => (s, .ready attr pa o))
      else (s, .ready attr pa o)
    | r => r

/-- R64: reach the home and take a turn there, translate and check, then tear the tree down with no KEEP, then run. `nocache`: the request is a RdU or WrU. -/
def homeReady (ev : Instr) (id : Nat) (wr nocache : Bool) (m : Msg) (s : State) : State × HomeGo :=
  match enterPort m s with
  | none => (s, .wait (again ev id m s))
  | some m =>
    let m := hopOn 40 m s
    if m.at_ != m.dst then (s, .wait (again ev id m s))
    else
      let (s, m, turn) := homeTurn id m s
      if !turn || flipping s m.ctx (m.line * 128) then (s, .wait (again ev id m s))
      else
        let k := (m.at_, m.ctx, m.line)
        match opLine wr nocache m s with
        | (s, .wait) => (s, .wait (again ev id m s))
        | (s, .err e) => (s, .done (refuse id m e false s))
        | (s, .ready attr pa _) =>
          if nocache && attr.home != 3 then (s, .done (refuse id m 5 false s))
          else if attr.host && nocache && s.regs.khl.state < 2 then
            (s, if s.khlLost then .done (refuse id m 23 false s) else .wait (again ev id m s))
          else
            match s.trees.get? k with
            | none => (s, .run attr pa)
            | some t =>
              if t.st == TSt.stable then (s, .wait (again ev id m (tear k { t with keep := none } false id s)))
              else (s, .wait (again ev id m s))

/-- Requests to the host for the sectors of a range (R38). -/
def askHost (op pa n : Nat) (s : State) : State :=
  (upFrom (pa / 64) ((pa + n + 63) / 64 - pa / 64)).foldl (fun s hs => s.tell (.hostReq op hs)) s

/-- `RDU`: a never-cached read (R113, R38). -/
def rduStep (s : State) : State :=
  match s.msgs.get? s.ev.k with
  | none => s
  | some m =>
    match homeReady .rdu s.ev.k false true m s with
    | (_, .wait s) | (_, .done s) => s
    | (s, .run attr pa) =>
      let m := { m with at_ := m.dst }
      if s.badLine attr.host pa 128 then refuse s.ev.k m (lineKind s attr.host pa) false s
      else
        let s := if attr.host then askHost 2 pa 128 s else s
        answer .data m.acc pa 0 m.ctx m.line (lineBytes s attr.host pa)
          (modAcc m.acc (fun a => { a with attr := some attr, graft := true }) (dropMsg s.ev.k s))

/-- The byte ranges that a store's parts cover in a line. -/
def storeRanges (a : Acc) : List (Nat × Nat) := a.parts.map (fun p => (p.off, p.n))

/-- Write a store's elements over a line's bytes. -/
def storeBytes (a : Acc) (l : List Byte) : List Byte :=
  let cells := a.parts.foldl (fun c p =>
    match p.nib with
    | some k => wcsPut c p.off (if k == 0 then 1 else 2) (BitVec.ofNat 8 (p.x % 16 * 17))
    | none => ((leBytes p.n p.x).zip (upFrom p.off p.n)).foldl (fun c x => wcsPut c x.2 3 x.1) c) ([] : Tbl Nat (Nat × Byte))
  overlay (some ⟨cells, [], false⟩) l

/-- Offsets of a line that a store writes. -/
def storeOffs (a : Acc) : List Nat := distinct (a.parts.flatMap (fun p => upFrom p.off p.n))

/-- Whether a store's bytes cover only part of a poisoned half-burst (R415). -/
def storeBadMerge (s : State) (host : Bool) (pa : Nat) (a : Acc) : Bool :=
  (upFrom 0 4).any (fun h => s.badHb host (hbKey host (pa + 32 * h))
    && (upFrom (32 * h) 32).any (storeOffs a).contains && !(upFrom (32 * h) 32).all (storeOffs a).contains)

/-- Clear the poison of the half-bursts that a store covers. -/
def storeHeal (host : Bool) (pa : Nat) (a : Acc) (s : State) : State :=
  let full := (upFrom 0 4).filter (fun h => (upFrom (32 * h) 32).all (storeOffs a).contains)
  s.heal (full.map (fun h => hbKey host (pa + 32 * h)))

/-- `WRU`: a never-cached write (R64, R113, R415); toward the host it is an ItoMWr, whose completion the host reports (R38). -/
def wruStep (s : State) : State :=
  match s.msgs.get? s.ev.k with
  | none => s
  | some m =>
    match homeReady .wru s.ev.k true true m s with
    | (_, .wait s) | (_, .done s) => s
    | (s, .run attr pa) =>
      let m := { m with at_ := m.dst }
      match s.accs.get? m.acc with
      | none => dropMsg s.ev.k s
      | some a =>
        if storeBadMerge s attr.host pa a then refuse s.ev.k m (lineKind s attr.host pa) false s
        else
          let s := storeHeal attr.host pa a (dropMsg s.ev.k s)
          let s := dirtySlices attr.host pa 128 (s.wr attr.host pa (storeBytes a (lineBytes s attr.host pa)))
          let s := disturb (if attr.host then .host else .dev) ((storeOffs a).map (pa + ·)) s
          if attr.host then (askHost 3 pa 128 s).push .itomwrCompletion (.ofK m.acc) else answer .wrack m.acc 0 0 m.ctx m.line [] s

/-- `ATOM`: at the home slice (R64, R220); a NOCACHE host page is refused with kind 5. -/
def atomStep (s : State) : State :=
  match s.msgs.get? s.ev.k with
  | none => s
  | some m =>
    match homeReady .atom s.ev.k true false m s with
    | (_, .wait s) | (_, .done s) => s
    | (s, .run attr pa) =>
      let m := { m with at_ := m.dst }
      match s.accs.get? m.acc with
      | none => dropMsg s.ev.k s
      | some a =>
        let off := (a.parts.map (·.off)).headD 0
        let n := (a.parts.map (·.n)).headD 4
        if attr.host && attr.home == 3 then refuse s.ev.k m 5 false s
        else if s.badLine attr.host pa 128 then refuse s.ev.k m (lineKind s attr.host pa) false s
        else
          let old := s.num attr.host (pa + off) n
          let s := (dropMsg s.ev.k s).cwr attr.host (pa + off) (leBytes n (atomNew a.op a.ty old a.parts))
          answer .atomack m.acc old 0 m.ctx m.line [] s

/-! ### Reductions (R71 to R75, R222) -/

/-- EN and WIN of MESH.COMBWIN (Table fabric-8). -/
def combOn (s : State) : Bool := bit s.regs.combwin 31
def combWindow (s : State) : Nat := bits s.regs.combwin 15 0

/-- Close an entry: it goes on toward its home as RedP (R72). -/
def forwardComb (c : Comb) (s : State) : State :=
  let home := lineHome s c.ctx (c.va / 128)
  let s := { s with combs := s.combs.filter (fun x => x.id != c.id), combSent := s.combSent.set c.id c.list }
  sendMsg .redp { Msg.mk0 c.id c.ctx (c.va / 128) c.router 15 home 2047 with val := c.val, cnt := c.cnt } s

/-- What a reduction's request carries: its element, operation, type and word. -/
structure RedKey where
  ctx : Nat
  va : Nat
  op : Nat
  ty : Nat
  word : Option (Nat × Nat)
  deriving DecidableEq, Repr

/-- A contribution meets a router's combine buffer (R72): absorbed, opening an entry, or passing on. One whose entry is forwarded because its count would pass 65,535 passes on: R74 leaves it that or a new entry (log entry 58). -/
def absorb (r : Nat) (k : RedKey) (who val cnt : Nat) (s : State) : State × Bool :=
  match s.combs.find? (fun c => c.router == r && c.ctx == k.ctx && c.va == k.va && c.op == k.op && c.ty == k.ty && c.word == k.word) with
  | some c =>
    if 65535 < c.cnt + cnt then (forwardComb c s, false)
    else
      let c' := { c with val := foldStep k.op k.ty 0 0 c.val val, cnt := c.cnt + cnt, list := c.list ++ [who] }
      let s := { s with combs := s.combs.map (fun x => if x.id == c.id then c' else x) }
      (if 16 ≤ c'.list.length then forwardComb c' s else s, true)
  | none =>
    if 64 ≤ (s.combs.filter (fun c => c.router == r)).length then (s, false)
    else
      let (id, s) := s.newId
      let s := { s with
        combs := s.combs ++ [⟨id, r, k.ctx, k.va, k.op, k.ty, k.word, val, cnt, [who]⟩]
        agenda := s.agenda ++ [⟨.combineWindowExpiry, .ofK id, s.ncyc + combWindow s, 0⟩] }
      (s, true)

/-- The key of a reduction's access. -/
def redKey (a : Acc) : RedKey :=
  ⟨a.ctx, a.line * 128 + (a.parts.map (·.off)).headD 0, a.op, a.ty, a.word.map (fun w => (a.team, w))⟩

/-- The key of a forwarded entry's contributors: that of the first access under it. -/
def sentKey (s : State) : Nat → Nat → Option RedKey
  | 0, _ => none
  | f + 1, id =>
    match s.accs.get? id with
    | some a => some (redKey a)
    | none =>
      match s.combSent.get? id with
      | some (c :: _) => sentKey s f c
      | _ => none

/-- Add a reduction's count to its word by an update of the Acknowledge class: with err when its access failed (R53, R73, R379). -/
def countWord (w : Option (Nat × Nat)) (cnt : Nat) (err : Bool) (ctx line : Nat) (s : State) : State :=
  match w with
  | some (t, off) => s.sendArg .syncCountUpdate ⟨t, off, 2 * cnt + b2n err, []⟩ 4 ctx line
  | none => s

/-- A reduction's request is marked combinable: its sender held the page as other than NOCACHE (R416). -/
def redCombines (s : State) (acc : Nat) : Bool := ((s.accs.get? acc).bind (·.attr)).map (·.home) != some 3

/-- Apply a contribution at its home (R64, R73); one whose mark does not agree with the page is answered with Err of kind 5 (R416). -/
def applyRed (ev : Instr) (id : Nat) (m : Msg) (k : RedKey) (s : State) : State :=
  match homeReady ev id true false m s with
  | (_, .wait s) => s
  | (_, .done s) =>
    if ev == .redp && (s.msgs.get? id).isNone then
      (leavesOf s 24 m.acc).foldl (fun s a => answer .err a 0 0 m.ctx m.line [] s) { s with combSent := s.combSent.del m.acc }
    else s
  | (s, .run attr pa) =>
    let m := { m with at_ := m.dst }
    let a := pa + k.va % 128
    let n := tyBits k.ty / 8
    let bad := s.badLine attr.host pa 128
    let stale := (ev == .redp || redCombines s m.acc) != (attr.home != 3)
    if (attr.host && attr.home == 3) || stale || bad then
      let s := logHome m (if bad && !stale then lineKind s attr.host pa else 5) (dropMsg id s)
      (leavesOf s 24 m.acc).foldl (fun s a => answer .err a 0 0 m.ctx m.line [] s) { s with combSent := s.combSent.del m.acc }
    else
      let s := (dropMsg id s).cwr attr.host a (leBytes n (foldStep k.op k.ty 0 0 (s.num attr.host a n) m.val))
      let s := answer .redack m.acc 0 0 m.ctx m.line [] s
      countWord k.word m.cnt false m.ctx m.line s

/-- A combinable contribution travels toward its home through the combine buffers; at the home it is applied (R72). -/
def redGo (ev : Instr) (k : RedKey) : Nat → Nat → Msg → State → State
  | 0, id, m, s => again ev id m s
  | f + 1, id, m, s =>
    if m.at_ == m.dst then applyRed ev id m k s
    else
      let (s, took) := if m.from_ == 15 then (s, false) else absorb m.at_ k m.acc m.val m.cnt s
      if took then dropMsg id s
      else
        match nextHop m s with
        | some m => redGo ev k f id m s
        | none => again ev id m s

/-- Apply the held contributions of a series whose turn has come (R222). -/
def ordDrain (ctx va : Nat) (host : Bool) (pa : Nat) : Nat → State → State
  | 0, s => s
  | f + 1, s =>
    let next := s.ords.getD (ctx, va) 0
    match s.ordHeld.find? (fun h => h.ctx == ctx && h.va == va && h.idx == next) with
    | none => s
    | some h =>
      let n := tyBits h.ty / 8
      let s := { s with ordHeld := s.ordHeld.filter (fun x => x.id != h.id) }
      let s := s.cwr host pa (leBytes n (foldStep h.op h.ty 0 0 (s.num host pa n) h.val))
      let s := { s with ords := if next + 1 == h.tot then s.ords.del (ctx, va) else s.ords.set (ctx, va) (next + 1) }
      ordDrain ctx va host pa f (countWord h.word h.cnt false ctx (va / 128) s)

/-- An ordered contribution at its home: applied when its index is next, held, or returned (R222). -/
def ordStep (id : Nat) (m : Msg) (a : Acc) (s : State) : State :=
  match homeReady .red id true false m s with
  | (_, .wait s) | (_, .done s) => s
  | (s, .run attr pa) =>
    let m := { m with at_ := m.dst }
    let k := redKey a
    let at_ := pa + k.va % 128
    let stale := (attr.host && attr.home == 3) || redCombines s m.acc != (attr.home != 3)
    if stale || s.badLine attr.host pa 128 then refuse id m (if stale then 5 else lineKind s attr.host pa) false s
    else
      let (hid, s) := (dropMsg id s).newId
      let h : OrdHeld := ⟨hid, m.at_, a.ctx, k.va, a.oidx, a.otot, a.op, a.ty, m.val, m.cnt, k.word⟩
      let next := s.ords.getD (a.ctx, k.va) 0
      let here := s.ordHeld.filter (fun x => x.router == m.at_)
      if a.oidx == next then
        ordDrain a.ctx k.va attr.host at_ 300
          (answer .redack m.acc 0 0 m.ctx m.line [] { s with ordHeld := h :: s.ordHeld })
      else if here.length < 256 && (here.filter (fun x => x.ctx == a.ctx)).length < 16 then
        answer .redack m.acc 0 0 m.ctx m.line [] { s with ordHeld := s.ordHeld ++ [h] }
      else { s with agenda := s.agenda ++ [⟨.ordContributionResend, .ofK m.acc, s.ncyc + 1024, 0⟩] }

/-- `RED` (R71, R72, R222). -/
def redStep (s : State) : State :=
  match s.msgs.get? s.ev.k with
  | none => s
  | some m =>
    match s.accs.get? m.acc with
    | none => dropMsg s.ev.k s
    | some a =>
      let m := { m with val := redVal a.op a.ty a.parts, cnt := a.parts.length }
      if a.otot != 0 then ordStep s.ev.k m a s
      else if combOn s && redCombines s m.acc then
        (match enterPort m s with
         | some m => redGo .red (redKey a) 40 s.ev.k m s
         | none => again .red s.ev.k m s)
      else applyRed .red s.ev.k m (redKey a) s

/-- `REDP`: the partial of a forwarded entry (R72, R73). -/
def redpStep (s : State) : State :=
  match s.msgs.get? s.ev.k with
  | none => s
  | some m =>
    match sentKey s 24 m.acc with
    | none => dropMsg s.ev.k s
    | some k =>
      if combOn s then
        (match enterPort m s with
         | some m => redGo .redp k 40 s.ev.k m s
         | none => again .redp s.ev.k m s)
      else applyRed .redp s.ev.k m k s

/-- `COMBINE_WINDOW_EXPIRY` (R72). -/
def combExpire (s : State) : State :=
  match s.combs.find? (fun c => c.id == s.ev.k) with
  | none => s
  | some c => forwardComb c s

/-- `REDACK`: to a contributor, or to a combining router that acknowledges each of its list (R73). -/
def redackStep (s : State) : State :=
  match s.combSent.get? s.ev.k with
  | some l =>
    let k := (sentKey s 24 s.ev.k).getD ⟨0, 0, 0, 0, none⟩
    l.foldl (fun s c => answer .redack c 0 0 k.ctx (k.va / 128) [] s) { s with combSent := s.combSent.del s.ev.k }
  | none =>
    match s.accs.get? s.ev.k with
    | none => s
    | some a => settle (retire s.ev.k (homeDone a false s))

/-- `ORD_CONTRIBUTION_RESEND` (R222). -/
def ordResend (s : State) : State :=
  match s.accs.get? s.ev.k with
  | none => s
  | some _ => request .red s.ev.k s

/-- `SYNC_COUNT_UPDATE`: the engine applies an Acknowledge-class count (R73, R74, R265). -/
def syncCount (s : State) : State :=
  if (s.teams.get? s.ev.k).isSome then syncApply s.ev.k s.ev.a (s.ev.v / 2) (s.ev.v % 2 == 1) s else s

/-! ### The interfaces and the ports (R108, R110, R114, R120, R416) -/

/-- `PLACEMENT_LOOKUP` (R108): an error answers the access, and drops a prefetch without one. -/
def placementStep (s : State) : State :=
  match s.accs.get? s.ev.k with
  | none => s
  | some a =>
    let pf := match a.kind with
      | .pref _ => true
      | _ => false
    let bay := bayOf (niOf a.unit)
    match placeAt (niOf a.unit) a.ctx (a.line * 128) (s.grid a.team).vdev (some bay) pf s with
    | (s, .ok _) => niPump (niOf a.unit) s
    | (s, .error k) =>
      if pf then niPump (niOf a.unit) (retire s.ev.k s)
      else
        let r := unitRouter a.unit
        let s := if k == 4 then logXlate (256 + niOf a.unit) (bayOfRouter r) 4 a.ctx r (agentOf a.unit) (a.line * 128) (pageOf s a.ctx (a.line * 128)).1 s
          else logErr (bayOfRouter r) k a.ctx r (agentOf a.unit) (a.line * 128) s
        niPump (niOf a.unit) (answer .err s.ev.k 0 0 a.ctx a.line [] (modAcc s.ev.k (fun a => { a with stage := Stage.line }) s))

/-- `ATTRIBUTE_QUERY` (R416): the home port answers from its translation. The event's value is 1 once it has joined a walk that failed, with the kind in its second index. -/
def attributeStep (s : State) : State :=
  match s.accs.get? s.ev.k with
  | none => s
  | some a =>
    let pf := match a.kind with
      | .pref _ => true
      | _ => false
    let h := homeOf a.bay a.line
    let m : Msg := { Msg.mk0 s.ev.k a.ctx a.line h 15 h a.unit with err := if s.ev.v == 1 then some s.ev.a else none }
    match xlateAt h (s.grid a.team).vdev false m s with
    | (s, .wait) =>
      if pf && evicting s a.ctx (a.line * 128) then niPump (niOf a.unit) (retire s.ev.k s)
      else s.sendArg .attributeQuery s.ev 0 a.ctx a.line
    | (s, .ready attr _ _) => niPump (niOf a.unit) (atcPut (niOf a.unit) a.ctx (a.line * 128) attr s)
    | (s, .err k) =>
      if pf then niPump (niOf a.unit) (retire s.ev.k s)
      else niPump (niOf a.unit) (answer .err s.ev.k 0 0 a.ctx a.line [] (modAcc s.ev.k (fun a => { a with stage := Stage.line }) (logHome m k s)))

/-- A walk has failed: every access that joined it receives the outcome (R122). -/
def failWalk (w : Walk) (kind : Nat) (s : State) : State :=
  { s with
    msgs := s.msgs.map (fun e =>
      if e.2.at_ == w.port && e.2.ctx == w.ctx && w.joined.contains e.2.acc then (e.1, { e.2 with err := some kind }) else e)
    agenda := s.agenda.map (fun d =>
      if d.ev == .attributeQuery && w.joined.contains d.arg.k then { d with arg := { d.arg with v := 1, a := kind } } else d) }

/-- `TRANSLATION_WALK` (R110, R119, R120, R122): the walk of a page at a port, or at I/O die 0. -/
def walkStep (s : State) : State :=
  match s.walks.find? (fun w => w.port == s.ev.k && w.ctx == s.ev.a && w.page == s.ev.v) with
  | none => s
  | some w =>
    let va := w.page * 2 ^ 16
    let home := match placedAt s w.ctx va with
      | .bay b => b
      | _ => 0
    match walkPage w.port home w.ctx va w.vd w.wr s with
    | (s, .ok _) => { s with walks := s.walks.filter (fun x => x != w) }
    | (s, .wait z) =>
      let s := if z && !s.zeroing.contains (w.ctx, w.page) then
          ({ s with zeroing := s.zeroing ++ [(w.ctx, w.page)] }).push .frameZeroingComplete ⟨w.ctx, w.page, 0, []⟩
        else s
      s.push .translationWalk s.ev
    | (s, .err k) => failWalk w k { s with walks := s.walks.filter (fun x => x != w) }

/-- `FRAME_ZEROING_COMPLETE` (R120). -/
def zeroingStep (s : State) : State :=
  zeroFrame s.ev.k (s.ev.a * 2 ^ 16) { s with zeroing := s.zeroing.filter (fun z => z != (s.ev.k, s.ev.a)) }

/-! ### Write-combining stores -/

/-- `WCS_EVICTION`: an entry goes to the coherent level under ownership (R56, R254). -/
def wcsEvictStep (s : State) : State :=
  let key := (s.ev.k, s.ev.a, s.ev.v)
  match s.wcs.get? key with
  | none => s
  | some e =>
    if e.draining then s
    else
      let team := (e.owners.map (·.team)).headD 0
      let s := { s with wcs := s.wcs.set key { e with draining := true } }
      settle (startAcc (Acc.new AKind.own s.ev.k s.ev.a s.ev.v team [] 0) s).2

/-- `ITOMWR_COMPLETION`: the host has reported a never-cached write complete (R38, R258). -/
def itomwrStep (s : State) : State := storeDone s.ev.k false s

end Sys2Proof.Machine
end

