-- ==== Sys2Proof/Machine/Direct.lean ====
section
/-! DEFINITION. The sectors of host memory that the part holds, and the accesses of engines, the command processor, instruction fetch and the host's windows, which have no private cache (R38, R39, R41, R52, R64, R76, R108, R113, R114). -/

namespace Sys2Proof.Machine

/-! ### Host sectors (R38, R39, R41) -/

/-- Sectors that the filter holds. -/
def filterCap : Nat := 2097152

/-- Evict everything on chip of a host line, and return its sectors (R38, R40). -/
def evictHostLine (ctx line : Nat) (s : State) : State := purgeLines ctx [line] s

/-- Take a sector under a name: a second name is first evicted under the first, and a full filter evicts the oldest fill (R39). A sector that is held already keeps its place in the order of fills, which the manual does not settle (log entry 57), and its state unless the new one allows more. -/
def takeSector (hs ctx vs : Nat) (st : HSt) (s : State) : State :=
  let s := match s.hsect.find? (fun h => h.hs == hs) with
    | some h => if h.ctx == ctx && h.vs == vs then s else evictHostLine h.ctx (h.vs / 2) s
    | none => s
  let known := s.hsect.any (fun h => h.hs == hs)
  let s := if known || s.hsect.length < filterCap then s
    else match s.hsect with
      | h :: _ => evictHostLine h.ctx (h.vs / 2) s
      | [] => s
  if known then { s with hsect := s.hsect.map (fun h => if h.hs == hs && h.st == HSt.s then { h with st := st } else h) }
  else { s with hsect := s.hsect ++ [⟨hs, ctx, vs, st⟩] }

/-- The lines that taking sectors under their names would evict: those that hold them under another name, and the oldest of a full filter (R39). -/
def victimsOf (s : State) (ctx : Nat) (l : List (Nat × Nat)) : List (Nat × Nat) :=
  let other := l.filterMap (fun x => (s.hsect.find? (fun h => h.hs == x.1 && !(h.ctx == ctx && h.vs == x.2))).map (fun h => (h.ctx, h.vs / 2)))
  let new := (l.filter (fun x => !s.hsect.any (fun h => h.hs == x.1))).length
  other ++ (s.hsect.take (s.hsect.length + new - filterCap)).map (fun h => (h.ctx, h.vs / 2))

/-- The sectors of a line that a fetch must ask the host for: those not held, and for a write those not in E or M. -/
def sectorsToAsk (s : State) (pa : Nat) (own : Bool) : List Nat :=
  (upFrom (pa / 64) 2).filter (fun hs => !s.hsect.any (fun h => h.hs == hs && (!own || h.st != HSt.s)))

/-- The outcome of a host fetch for every message that waits at the home for the line; 16 more than the kind, since I/O die 0 found it (R76). -/
def failLine (ctx line kind : Nat) (s : State) : State :=
  { s with msgs := s.msgs.map (fun e =>
      if e.2.ctx == ctx && e.2.line == line && e.2.seq != 0 then (e.1, { e.2 with err := some (16 + kind) }) else e) }

/-- What a fetch of sectors comes to: they are held and the slice has the line, the link is down, or something must be waited for. -/
inductive SectorRes where
  | held | lost | wait
  deriving DecidableEq, Repr

/-- Absent sectors of a line are asked for with RdShared, or with RdOwn for a write or in device bias; sectors held in the state that is needed are not asked for, and the host is needed for no other (R38, R41, R114). What leaves the filter for them must have nothing on its way. The line enters the slice of its home. -/
def getSectors (h ctx line : Nat) (wr : Bool) (x : Xl) (s : State) : State × SectorRes :=
  let pa := x.phys (line * 128)
  let own := wr || x.bias
  let ask := sectorsToAsk s pa own
  if !ask.isEmpty && s.regs.khl.state < 2 then (s, if s.khlLost then .lost else .wait)
  else
    let names := (upFrom 0 2).map (fun i => (pa / 64 + i, line * 2 + i))
    if !(victimsOf s ctx names).all (fun k => lineQuiet s k.1 k.2) then (s, .wait)
    else
      let s := ask.foldl (fun s hs => s.tell (.hostReq (if own then 1 else 0) hs)) s
      let s := names.foldl (fun s n => takeSector n.1 ctx n.2 (if own then HSt.e else HSt.s) s) s
      (if (s.slices.get? (ctx, line)).isSome then s else fillSlice h ctx line x.attr pa x.obj s, .held)

/-- The home bay of a line by the placement record, and its home router there. -/
def homeBay (s : State) (ctx line : Nat) : Nat :=
  match placedAt s ctx (line * 128) with
  | .bay b => b
  | _ => 0
def homeOfLine (s : State) (ctx line : Nat) : Nat := homeOf (homeBay s ctx line) line

/-! ### What a direct access waits for, or fails by -/

/-- The home runs another transaction of the line: its tree is being built or torn down for one (R52). A direct access arrives at the home when none runs (log entry 25). -/
def lineRuns (s : State) (ctx line : Nat) : Bool :=
  s.trees.any (fun e => e.1.2.1 == ctx && e.1.2.2 == line && e.2.root && e.2.st != TSt.stable)

/-- Log an error that I/O die 0 finds, in the requester's bay, or bay 0, with the edge router of the home's row (R76, R77). -/
def logDie (w : Who) (kind ctx home va : Nat) (s : State) : State :=
  let r := edgeRouter 0 (homeOf home (va / 128))
  if kind == 4 || kind == 5 then logXlate 128 (w.bay.getD 0) kind ctx r w.ag va (pageOf s ctx va).1 s
  else logErr (w.bay.getD 0) kind ctx r w.ag va s

/-- A never-cached access to host memory is a RdCurr or an ItoMWr of its line (R38). -/
def uncachedHost (w : Who) (ctx home va : Nat) (wr : Bool) (x : Xl) (s : State) : State × Except Nat Xl :=
  if s.regs.khl.state < 2 then
    if s.khlLost then (logDie w 7 ctx home va s, .error 7) else (s, .error 255)
  else (askHost (if wr then 3 else 2) (x.phys (va / 128 * 128)) 128 s, .ok x)

/-- A cached access to host memory needs its sectors: I/O die 0 translates and fetches those that are absent (R38, R41, R114). -/
def sectorGate (w : Who) (ctx home va : Nat) (wr : Bool) (x : Xl) (s : State) : State × Except Nat Xl :=
  let pa := x.phys va / 128 * 128
  if hostHeld s pa 128 wr then (s, .ok x)
  else
    match xlateNow 4 128 home ctx va w.vd wr s with
    | (s, .err k) => (logDie w k ctx home va s, .error k)
    | (s, .wait _) => (s, .error 255)
    | (s, .ok y) =>
      match getSectors (homeOf home (va / 128)) ctx (va / 128) wr y s with
      | (s, .held) => (s, .ok x)
      | (s, .lost) => (logDie w 7 ctx home va s, .error 7)
      | (s, .wait) => (s, .error 255)

/-- A write at the home finds holders of the line: their tree is torn down first, with no KEEP (R64). -/
def dropHolders (home ctx va : Nat) (s : State) : Option State :=
  let k := (homeOf home (va / 128), ctx, va / 128)
  (s.trees.get? k).map (fun t => tear k { t with keep := none } false 0 s)

/-- What a direct access to a line waits for, with 255, or fails by: a flip of the page (R42), another transaction at the home (R52), holders that a write must tear down (R64), a granule (R43), the link (R33, R34). -/
def locateGate (w : Who) (ctx home va : Nat) (wr : Bool) (x : Xl) (s : State) : State × Except Nat Xl :=
  if (x.attr.host && flipping s ctx va) || lineRuns s ctx (va / 128) then (s, .error 255)
  else
    match (if wr then dropHolders home ctx va s else none) with
    | some s => (s, .error 255)
    | none =>
    match (if x.obj then granGate ctx (va / 128) wr s else (s, GranRes.ok)) with
    | (s, .lost) => (logWho w 6 ctx home va s, .error 6)
    | (s, .wait) => (s, .error 255)
    | (s, .ok) =>
      if !x.attr.host then (s, .ok x)
      else if x.attr.home == 3 then uncachedHost w ctx home va wr x s
      else sectorGate w ctx home va wr x s

/-! ### Translation of a direct access (R108, R114, R416) -/

/-- What the slice of the home recorded of a line at its fill: a hit is not translated (R114). -/
def sliceXl (s : State) (ctx va : Nat) : Option Xl :=
  (s.slices.get? (ctx, va / 128)).map (fun c => ⟨ctx, va / 128 * 128, c.attr, c.pa, false, c.obj, true, 0⟩)

/-- The translation of a line at its home. -/
def homeXl (home ctx va vd : Nat) (wr : Bool) (s : State) : State × XRes :=
  match sliceXl s ctx va with
  | some x => (s, .ok x)
  | none => xlateNow 4 (homeOf home (va / 128)) home ctx va vd wr s

/-- Find a line for a direct access: place, translate, check the permission and the attributes that the interface holds; with its home bay. -/
def findLine (w : Who) (ctx va : Nat) (wr fetch : Bool) (s : State) : State × Except Nat (Nat × Xl) :=
  if outOfSpace ctx va then (logNi w 4 ctx va s, .error 4)
  else
    match placeAt w.ag.ni ctx va w.vd w.bay false s with
    | (s, .error k) => (logNi w k ctx va s, .error k)
    | (s, .ok home) =>
      match homeXl home ctx va w.vd wr s with
      | (s, .err k) => (logWho w k ctx home va s, .error k)
      | (s, .wait _) => (s, .error 255)
      | (s, .ok x) =>
        if (wr && !x.attr.w) || (fetch && !x.attr.x) then (logWho w 5 ctx home va s, .error 5)
        else if ctx == 0 then (s, .ok (home, x))
        else
          match atcFind s w.ag.ni ctx va with
          | none => (atcPut w.ag.ni ctx va x.attr s, .ok (home, x))
          | some b => if (b.home == 3) != (x.attr.home == 3) then (logWho w 5 ctx home va s, .error 5) else (s, .ok (home, x))

/-- A line for a direct access, once nothing stands before it. -/
def locate (w : Who) (ctx va : Nat) (wr fetch : Bool) (s : State) : State × Except Nat Xl :=
  match findLine w ctx va wr fetch s with
  | (s, .error k) => (s, .error k)
  | (s, .ok (home, x)) => if ctx == 0 then (s, .ok x) else locateGate w ctx home va wr x s

/-- The home bay of a located line. -/
def Xl.home (x : Xl) (s : State) (va : Nat) : Nat :=
  if x.attr.host then
    match placedAt s x.ctx va with
    | .bay b => b
    | _ => 0
  else x.pa / 2 ^ 37

/-- Read bytes of a located line; the error kind that answers it, if any. -/
def rdAt (w : Who) (ctx va n : Nat) (x : Xl) (s : State) : State × Except Nat (List Byte) :=
  let a := x.phys va
  if s.badLine x.attr.host a n then (logWho w (lineKind s x.attr.host a) ctx (x.home s va) va s, .error 0)
  else (s, .ok (s.rd x.attr.host a n))

/-- Read bytes of one line. -/
def rdLine (w : Who) (ctx va n : Nat) (fetch : Bool) (s : State) : State × Except Nat (List Byte) :=
  match locate w ctx va false fetch s with
  | (s, .error k) => (s, .error k)
  | (s, .ok x) => rdAt w ctx va n x s

/-- Write bytes of one line. -/
def wrLine (w : Who) (ctx va : Nat) (l : List Byte) (s : State) : State × Option Nat :=
  match locate w ctx va true false s with
  | (s, .error k) => (s, some k)
  | (s, .ok x) =>
    let a := x.phys va
    if s.badMerge x.attr.host a l.length then (logWho w (lineKind s x.attr.host a) ctx (x.home s va) va s, some 0)
    else
      let s := s.ctlWr x.attr.host a l
      (if x.attr.host then dirtySectors a l.length s else s, none)

/-- The pieces of a range that lie in one line each: address and length. -/
def linePieces : Nat → Nat → Nat → List (Nat × Nat)
  | 0, _, _ => []
  | f + 1, a, n =>
    if n == 0 then []
    else
      let k := min n (128 - a % 128)
      (a, k) :: linePieces f (a + k) (n - k)

/-- The number of lines that a range can touch. -/
def pieces (a n : Nat) : List (Nat × Nat) := linePieces (n / 128 + 2) a n

/-- Read a range; the first error kind stops it. -/
def rdRange (w : Who) (ctx va n : Nat) (s : State) : State × Except Nat (List Byte) :=
  (pieces va n).foldl (fun (acc : State × Except Nat (List Byte)) p =>
    match acc with
    | (s, .error k) => (s, .error k)
    | (s, .ok l) =>
      match rdLine w ctx p.1 p.2 false s with
      | (s, .error k) => (s, .error k)
      | (s, .ok m) => (s, .ok (l ++ m))) (s, .ok [])

/-- Write a range line by line; the first error kind, if any, is answered. -/
def wrRange (w : Who) (ctx va : Nat) (l : List Byte) (s : State) : State × Option Nat :=
  (pieces va l.length).foldl (fun (acc : State × Option Nat) p =>
    match wrLine w ctx p.1 ((l.drop (p.1 - va)).take p.2) acc.1 with
    | (s, e) => (s, acc.2.orElse (fun _ => e))) (s, none)

end Sys2Proof.Machine
end

