-- ==== Sys2Proof/Machine/HostLink.lean ====
section
/-! DEFINITION. Host sectors, host snoops, bias flips, the device-memory window, and the links (R32-R42, R69, R70, R99, R100). -/

namespace Sys2Proof.Machine

/-! ### The fetch of a line's sectors (R38, R39, R114) -/

/-- The fetch of a line that I/O die 0 has translated, for the accesses that wait for it at the home. -/
def fetchSectors (ctx line : Nat) (wr : Bool) (x : Xl) (s : State) : State :=
  match getSectors (homeOfLine s ctx line) ctx line wr x s with
  | (s, .held) => s
  | (s, .lost) => failLine ctx line 7 s
  | (s, .wait) => s.sendArg .hostSectorFetch s.ev 0 ctx line

/-- The request stands at the edge router, where I/O die 0 takes it; on its way it goes as far as credits let it (R48, R49). -/
def fetchArrives (s : State) : State × Bool :=
  let id := s.ev.v / 2
  match s.msgs.get? id with
  | none => (s, true)
  | some m =>
    match enterPort m s with
    | none => (s, false)
    | some m =>
      let m := hopOn 40 m s
      if m.at_ == m.dst then (dropMsg id s, true) else ({ s with msgs := s.msgs.set id m }, false)

/-- `HOST_SECTOR_FETCH`: I/O die 0 translates, reads BIAS, and fetches the sectors of the line (R38, R41, R114). During a flip to device bias, and for reads during any flip, it waits (R42); so does one that the KHL's training holds (R33). -/
def hostFetchStep (s : State) : State :=
  let ctx := s.ev.k
  let line := s.ev.a
  let va := line * 128
  let wr := s.ev.v % 2 == 1
  let again := fun (s : State) => s.sendArg .hostSectorFetch s.ev 0 ctx line
  match fetchArrives s with
  | (s, false) => again s
  | (s, true) =>
    if s.flips.any (fun f => f.ctx == ctx && decide (f.va ≤ va) && decide (va < f.va + f.size) && (f.toDev || !wr)) then again s
    else
      match (match s.tlbFind 128 ctx va with
        | some x => ((if wr then touchD 128 x s else s), XRes.ok x)
        | none => walkPage 128 (homeBay s ctx line) ctx va 0 wr s) with
      | (s, .wait _) => again s
      | (s, .err k) => failLine ctx line k s
      | (s, .ok x) => if x.attr.host then fetchSectors ctx line wr x s else s

/-! ### Host snoops (R40, R70) -/

/-- The kinds of a host snoop. -/
inductive Snoop where
  | data | inv | cur
  deriving DecidableEq, Repr

/-- The data that a host writes after an invalidating snoop reaches host memory, outside the part. -/
def hostWrites (hs : Nat) (d : List Byte) (s : State) : State := s.wr true (hs * 64) d

/-- The state of a held sector becomes S toward the host. -/
def shareSector (hs : Nat) (s : State) : State :=
  { s with hsect := s.hsect.map (fun (x : HostSector) => if x.hs == hs then { x with st := HSt.s } else x) }

/-- A snoop that hits the filter enters the mesh at the edge router of its home's row and takes its place in the order of arrival at the home of the line (R48, R70); the message that stands for it has the number given. -/
def snoopTurn (ev : Instr) (h : HostSector) (s : State) : State × Nat × Bool :=
  let line := h.vs / 2
  let home := lineHome s h.ctx line
  let (id, s) := if s.ev.a == 0 then s.newId else (s.ev.a, s)
  let m := (s.msgs.get? id).getD { Msg.mk0 0 h.ctx line (edgeRouter 0 home) 3 home 2047 with vn := vnOf ev }
  match enterPort m s with
  | none => ({ s with msgs := s.msgs.set id m }, id, false)
  | some m =>
    let m := hopOn 40 m s
    if m.at_ != m.dst then ({ s with msgs := s.msgs.set id m }, id, false)
    else
      let (s, m, turn) := homeTurn id m s
      ({ s with msgs := s.msgs.set id m }, id, turn)

/-- A host snoop of a sector (the event's number is the host sector, its data what the host writes once SnpInv is answered, its second number the message that stands for it at the home). Nothing reaches the part while the KHL is down, and training holds it. One that misses the filter is answered by I/O die 0; one that hits waits its turn at the home, and while the line's tree is torn down (R40, R70, Table fabric-7). -/
def snoopStep (kd : Snoop) (ev : Instr) (s : State) : State :=
  let e := s.ev
  let hs := e.k
  let leave := fun (s : State) => if kd == Snoop.inv then hostWrites hs e.data s else s
  if s.khlLost then s
  else if s.regs.khl.state < 2 then s.keep ev
  else
    match s.hsect.find? (fun h => h.hs == hs) with
    | none => leave ((dropMsg e.a s).tell .snoopMiss)
    | some h =>
      let line := h.vs / 2
      let (s, id, turn) := snoopTurn ev h s
      let again := fun (s : State) => s.push ev { e with a := id }
      if !turn then again s
      else
        let k := (lineHome s h.ctx line, h.ctx, line)
        match s.trees.get? k with
        | none =>
          let s := landLine h.ctx line s
          let d := s.rd true (hs * 64) 64
          if kd == Snoop.inv && !lineQuiet s h.ctx line then again s
          else
            let s := dropMsg id s
            (match kd with
             | .data => (shareSector hs s).tell (.snoopHit d)
             | .inv => leave (purgeLines h.ctx [line] (s.tell (.snoopHit d)))
             | .cur => s.tell (.snoopHit d))
        | some t =>
          if t.st != TSt.stable then again s
          else if kd == Snoop.cur then steer k t 0 hs (landLine h.ctx line (dropMsg id s))
          else again (tear k { t with keep := none } false id s)

/-! ### Bias flips (R41, R42) -/

/-- The lines of a page. -/
def pageLines (va size : Nat) : List Nat := upFrom (va / 128) (size / 128)

/-- A flip is in progress. To device bias every sector is fetched with RdOwn; to host bias the write-combining stores drain and the lines go back. -/
def flipWork (f : Flip) (s : State) : State :=
  match walkLeaf s f.ctx f.va with
  | .error _ => s
  | .ok (pte, e, sz) =>
    let x := leafXl f.ctx f.va pte e sz true
    if f.toDev then
      (upFrom 0 (f.size / 64)).foldl (fun s i =>
        let hs := x.pa / 64 + i
        let s := if s.hsect.any (fun h => h.hs == hs && h.st != HSt.s) then s else s.tell (.hostReq 1 hs)
        takeSector hs f.ctx (f.va / 64 + i) HSt.e s) s
    else purgeLines f.ctx (pageLines f.va f.size) s

/-- Set or clear BIAS in a page's PTE, and forget its cached translations. -/
def setBias (f : Flip) (s : State) : State :=
  let s := { s with tlb := s.tlb.filter (fun e => !(e.2.ctx == f.ctx && e.2.va == f.va)) }
  match walkLeaf s f.ctx f.va with
  | .error _ => s
  | .ok (pte, _, _) => if f.toDev then pteOr pte (2 ^ 56) s else pteClear pte (2 ^ 56) s

/-- To device bias, nothing is on its way of the lines that taking the page's sectors evicts (R39). -/
def flipVictimsQuiet (f : Flip) (s : State) : Bool :=
  match walkLeaf s f.ctx f.va with
  | .error _ => true
  | .ok (pte, e, sz) =>
    (victimsOf s f.ctx ((upFrom 0 (f.size / 64)).map (fun i => ((leafXl f.ctx f.va pte e sz true).pa / 64 + i, f.va / 64 + i)))).all (fun k => lineQuiet s k.1 k.2)

/-- The page can not yet be flipped: to host bias a line of it has stores that have not reached the coherent level, and either way something of it is still on its way (R41). -/
def flipHolds (f : Flip) (s : State) : Bool :=
  (!f.toDev && s.wcs.any (fun e => e.1.2.1 == f.ctx && decide (f.va ≤ e.1.2.2 * 128) && decide (e.1.2.2 * 128 < f.va + f.size)))
    || !(pageLines f.va f.size).all (fun l => lineQuiet s f.ctx l)
    || (f.toDev && !flipVictimsQuiet f s)

/-! ### The device-memory window (R100) -/

/-- Bytes read through the device-memory window: an access of context 0, split at 128-byte lines; a line answered with Err reads as all ones. -/
def memWindow (o n : Nat) (s : State) : State × List Byte :=
  (pieces o n).foldl (fun (acc : State × List Byte) p =>
    match rdLine Who.cp 0 p.1 p.2 false acc.1 with
    | (s, .ok l) => (s, acc.2 ++ l)
    | (s, .error _) => (s, acc.2 ++ List.replicate p.2 0xFF#8)) (s, [])

/-- The host's link holds its traffic while it trains, and carries none while it is down (R33, R34). -/
def overKhl (ev : Instr) (f : State → State) (s : State) : State :=
  if s.khlLost then s else if s.regs.khl.state < 2 then s.keep ev else f s

/-- `BAR_MEMORY_READ` at the offset and of the length that the event names. -/
def barRead (s : State) : State :=
  overKhl .barMemoryRead (fun s =>
    let r := memWindow s.ev.k s.ev.v s
    State.tell { r.1 with regs := { r.1.regs with readback := r.2 } } (.barData r.2)) s

/-- `BAR_MEMORY_WRITE`: dropped and logged, line by line, when answered with Err. -/
def barWrite (s : State) : State := overKhl .barMemoryWrite (fun s => (wrRange Who.cp 0 s.ev.k s.ev.data s).1) s

/-! ### Links (R32 to R36) -/

/-- Lanes of a link at full width (Table links-1). -/
def fullWidth (i : Nat) : Nat := if i == 0 then 16 else 32

/-- Start a retrain: traffic is held (R33). A link that is down does not train again by itself. WIDTH keeps the former lanes while the link trains, which the manual leaves open (log entry 57). -/
def startRetrain (i : Nat) (s : State) : State :=
  let l := s.link i
  if l.training || l.state == 0 then s else s.setLink i { l with state := 1, training := true }

/-- Send a replay request for the flit awaited: REPLAY counts it (R33, R36). -/
def LinkStat.askReplay (l : LinkStat) : LinkStat :=
  let x : Flit := ⟨2, 0, l.next, (l.next + 4095) % 4096, none⟩
  { l with replay := (l.replay + 1) % 256, replaying := true, wire := l.wire ++ [x] }

/-- Resend the replay buffer from a sequence number on (R33). -/
def LinkStat.resend (seq : Nat) (l : LinkStat) : LinkStat := { l with wire := l.wire ++ l.buffer.dropWhile (fun x => x.seq != seq) }

/-- The flits up to an acknowledged one leave the replay buffer, and what was held for room is sent. -/
def LinkStat.acknowledge (ack : Nat) (l : LinkStat) : LinkStat :=
  if l.buffer.any (fun x => x.seq == ack) then
    LinkStat.release { l with acked := ack, buffer := (l.buffer.dropWhile (fun x => x.seq != ack)).drop 1 }
  else l

/-- The CRC check of a flit fails: it and every later flit are discarded and a replay is requested; the eighth failure in a row of the flit awaited starts a retrain. While a replay is awaited, a flit with another number is one of the later ones. -/
def flitFails (i seq : Nat) (s : State) : State :=
  let l := s.link i
  if l.replaying && seq != l.next then s
  else
    let l : LinkStat := { l.askReplay with fails := l.fails + 1 }
    if 8 ≤ l.fails then startRetrain i (s.setLink i { l with fails := 0 }) else s.setLink i l

/-- A flit as it arrives, in 256 bytes: HDR, PAYLOAD, CRC and FEC (Table links-2). The manual names neither code, so the value brings the checks' results: bit 0 that FEC corrected the flit, bit 1 that its CRC failed. A replay request names the failed flit and takes no place in the sequence; every other type of Table links-2 does, idle and link-control flits too, which the manual leaves open (log entry 57). That a flit of a reserved type is dropped, with its acknowledgement, and takes no number is the model's choice too (log entry 57). A discarded flit acknowledges nothing. The virtual channel has no stated effect. -/
def flitStep (s : State) : State :=
  let i := s.ev.k
  let l := s.link i
  let h := leVal (s.ev.data.take 4)
  let ty := bits h 31 28
  let seq := bits h 23 12
  if l.state < 2 then s
  else if bit s.ev.v 1 then flitFails i seq s
  else
    let l := if bit s.ev.v 0 then { l with feccorr := (l.feccorr + 1) % 256 } else l
    let ack := bits h 11 0
    if ty == 2 then s.setLink i ((l.acknowledge ack).resend seq)
    else if seq == l.next && ty ≤ 3 then
      let l := { l.acknowledge ack with next := (l.next + 1) % 4096, fails := 0, replaying := false }
      s.setLink i (if ty == 1 then { l with got := l.got ++ [(s.ev.data.drop 4).take 240] } else l)
    else s.setLink i l

/-- `REPLAY_REQUEST`: the sender resends from the sequence number named, which its buffer of 512 holds (R33). The value is that number. -/
def replayStep (s : State) : State :=
  let i := s.ev.k
  let l := s.link i
  if l.state < 2 then s else s.setLink i (l.resend s.ev.v)

/-- R34: the KHL is down. Outstanding host-memory requests end in Err, and the KHA-2 tells the host. -/
def khlDown (s : State) : State :=
  let fetches := s.agenda.filter (fun d => d.ev == .hostSectorFetch)
  let asked := fetches.map (fun d => (d.arg.k, d.arg.a))
  let lost := (s.agenda.filter (fun d => d.ev == .itomwrCompletion)).map (·.arg.k)
  let s : State := { s with
    agenda := s.agenda.filter (fun d => d.ev != .itomwrCompletion && d.ev != .hostSectorFetch)
    msgs := s.msgs.filter (fun e => fetches.all (fun d => d.arg.v / 2 != e.1)) }
  let s := asked.foldl (fun s x => failLine x.1 x.2 7 s) s
  let s := lost.foldl (fun s id => storeDone id true s) s
  s.tell .linkDown

/-- The limits that training records for the settings of the lanes: value, lowest and highest, three bytes each (R35; the manual does not number the settings). -/
def eqOf : List Byte → List EqSet
  | v :: lo :: hi :: l => ⟨satN v.toNat lo.toNat hi.toNat, lo.toNat, hi.toNat, 0⟩ :: eqOf l
  | _ => []

/-- A link that training has brought up: what it had not acknowledged is sent again, then what was held. -/
def LinkStat.up (st width : Nat) (l : LinkStat) : LinkStat :=
  LinkStat.release (LinkStat.resend (l.buffer.headD ⟨0, 0, 0, 0, none⟩).seq { l with state := st, width := width, bad := 0 })

/-- A KFL port is down: what R43 says of it happens once nothing is on its way of the granules concerned. -/
def portDown (i : Nat) (s : State) : State :=
  if portQuiet (i - 1) s then kflDown (i - 1) (s.setLink i { s.link i with bad := 0 }) else s.keep .linkRetrainDone

/-- `LINK_RETRAIN_DONE`: the value is the number of lanes that trained, the data the settings of the lanes. Three failures in a row take the link down (R33, R34, R43). The KHL returns from being down by a reset only; a KFL port, of which the manual does not say how it first comes up, does so by this event. -/
def retrainStep (s : State) : State :=
  let i := s.ev.k
  let l := s.link i
  if i != 0 && l.state == 0 && l.bad == 3 then portDown i s
  else if !l.training && (i == 0 || l.state != 0) then s
  else
    let l := { l with retrain := if l.training then (l.retrain + 1) % 256 else l.retrain, training := false, eq := eqOf s.ev.data }
    if fullWidth i ≤ s.ev.v then s.setLink i (l.up 2 (fullWidth i))
    else if fullWidth i / 2 ≤ s.ev.v then s.setLink i (l.up 3 (fullWidth i / 2))
    else if l.bad + 1 < 3 then startRetrain i (s.setLink i { l with state := 1, bad := l.bad + 1 })
    else
      let s := s.setLink i { l with state := 0, width := 0, bad := 3 }
      if i == 0 then khlDown s else portDown i s

/-- One step of a setting, at most once per 100 µs and inside its limits: up (true) or down. -/
def EqSet.step (now : Nat) (up : Bool) (e : EqSet) : EqSet :=
  if now < e.at_ then e
  else { e with value := if up then min e.hi (e.value + 1) else max e.lo (e.value - 1), at_ := now + 200000 }

/-- `EQUALISATION_STEP` of the setting a of a link: value 2 moves it up, 3 down; 1 says that a lane's corrected-byte rate exceeds its bound, which requests a retrain. Traffic is never paused (R35). -/
def equaliseStep (s : State) : State :=
  let i := s.ev.k
  let l := s.link i
  if l.state < 2 then s
  else if s.ev.v == 1 then startRetrain i s
  else if s.ev.v == 2 || s.ev.v == 3 then
    match l.eq[s.ev.a]? with
    | some e => s.setLink i { l with eq := l.eq.set s.ev.a (e.step s.ncyc (s.ev.v == 2)) }
    | none => s
  else s

end Sys2Proof.Machine
end

