-- ==== Sys2Proof/Machine/MemCommon.lean ====
section
/-! DEFINITION. What the memory instructions share: elements and their places, loads, stores, and atomics in every space (R365-R373, R377-R379). -/

namespace Sys2Proof.Machine

/-! ### Elements -/

/-- Elements per lane of a VEC code (R282). -/
def vecN (v : Nat) : Nat := 2 ^ v

/-- Registers that a vector of elements spans (R368). -/
def vecRegs (ty v : Nat) : Nat := vecN v * regsOf ty

/-- An element of a lane: where it lies, and its registers or value. -/
structure Elem where
  g : Nat
  lane : Nat
  sp : Space
  off : Nat
  n : Nat
  nib : Option Nat
  /-- Absolute v register, or s register. -/
  reg : Nat
  isS : Bool
  ty : Nat
  x : Nat
  y : Nat
  deriving DecidableEq, Repr

/-- The part of an element in its line. -/
def Elem.part (e : Elem) (va : Nat) : APart := ⟨e.g, e.lane, va % 128, e.n, e.reg, e.isS, e.ty, e.nib, e.x, e.y⟩

/-- The global places of an element: its address, or the 4-byte words of a private one (R205). -/
def globalParts (s : State) (t : Nat) (e : Elem) : List (Nat × APart) :=
  if e.sp == Space.priv then
    if e.n == 8 then
      let half := fun (k : Nat) =>
        let va := privVa s t e.g e.lane (e.off + 4 * k)
        (va / 128, { ({ e with n := 4, ty := 0x2F, reg := e.reg + k, x := e.x / 2 ^ (32 * k) % 2 ^ 32 } : Elem).part va with y := 0 })
      [half 0, half 1]
    else
      let va := privVa s t e.g e.lane e.off
      [(va / 128, e.part va)]
  else [(e.off / 128, e.part e.off)]

/-- Whether an element lies in a local space. -/
def Elem.isLocal (e : Elem) : Bool := e.sp == Space.spad || e.sp == Space.clsh

/-- The parts by line, in order of first appearance. -/
def byLine (l : List (Nat × APart)) : List (Nat × List APart) :=
  (distinct (l.map Prod.fst)).map (fun k => (k, (l.filter (fun p => p.1 == k)).map Prod.snd))

/-- The context of the executing team. -/
def ctxOf (c : Ctx) (s : State) : Nat := (s.team c.team).ctx

/-- The unit of the executing issue set. -/
def issueUnit (c : Ctx) (g : Nat) (s : State) : Nat := unitOf s (c.team, g, c.set.headD 0)

/-- An earlier store, atomic or reduction of the unit to a line has not reached the write-combining store or its home, or a load of the team's from it has not returned: a read made at once would pass it (R250). -/
def accessesOut (c : Ctx) (s : State) (u ctx line : Nat) : Bool :=
  s.accs.any (fun e => e.2.unit == u && e.2.ctx == ctx && e.2.line == line && e.2.kind.data && (e.2.kind != AKind.load || e.2.team == c.team))

/-- The instruction stays where it is and issues again: what it reads at issue must be waited for. -/
def retry (c : Ctx) (s : State) : State := s.modThrs c.team c.group c.set (fun t => { t with pc := c.pc })

/-- Read the words of one line or several as the issuing threads see them, the write-combining store of their core over the coherent value: none with 255 when a page or granule must be waited for, and with another number on Err or poison. -/
def readLines (c : Ctx) (g : Nat) (words : List (Nat × Nat)) (s : State) : State × Except Nat (List Byte) :=
  let u := issueUnit c g s
  let w : Who := ⟨agentOf u, some (bayOf (s.team c.team).cluster), (s.grid c.team).vdev⟩
  words.foldl (fun (a : State × Except Nat (List Byte)) p =>
    match a.2 with
    | .error _ => a
    | .ok l =>
      if accessesOut c a.1 u (ctxOf c s) (p.1 / 128) then (a.1, .error 255)
      else
        match rdLine w (ctxOf c s) p.1 p.2 false a.1 with
        | (s', .error k) => (s', .error k)
        | (s', .ok b) =>
          let o := p.1 % 128
          let full := overlay (s'.wcs.get? (u, ctxOf c s, p.1 / 128))
            (List.replicate o 0 ++ b ++ List.replicate (128 - o - p.2) 0)
          (s', .ok (l ++ (full.drop o).take p.2))) (s, .ok [])

/-! ### Loads -/

/-- The registers of a part that are pending. -/
def partRegs (p : APart) : List Nat := if !p.isS && regsOf p.ty == 2 then [p.reg, p.reg + 1] else [p.reg]

/-- Mark a load's destinations as owed (R274). -/
def owe (c : Ctx) (id : Nat) (l : List APart) (s : State) : State :=
  l.foldl (fun s p =>
    let new := (partRegs p).map (fun r => (⟨r, id, c.nosb, false⟩ : Pending))
    if p.isS then s.modGrp c.team p.g (fun G => { G with pendS := G.pendS ++ new })
    else s.modThr (c.team, p.g, p.lane) (fun t => { t with pend := t.pend ++ new })) s

/-- The lanes that an acquire concerns: those of a line's elements, and every active lane for a uniform load (R369). -/
def acqLanes (c : Ctx) (l : List APart) : List (Nat × Nat) :=
  if l.any (·.isS) then c.lanes else distinct (l.map (fun q => (q.g, q.lane)))

/-- Start one access per line; the lanes of those that have not returned hold their later accesses when the instruction acquires (R259). -/
def launchReads (c : Ctx) (kind : AKind) (track : Nat) (acq : Bool) (l : List (Nat × List APart)) (s : State) : State :=
  l.foldl (fun s p =>
    let g := (p.2.map (·.g)).headD c.group
    let a := Acc.new kind (issueUnit c g s) (ctxOf c s) p.1 c.team p.2 track
    let s := owe c s.nextId p.2 s
    let (id, s) := startAcc a s
    if acq && (s.accs.get? id).isSome then
      (acqLanes c p.2).foldl (fun s m =>
        s.modThr (c.team, m.1, m.2) (fun t => { t with acq := t.acq ++ [id] })) s
    else s) s

/-- Read an element of a local space: its value, and whether a word of it is poisoned. -/
def localRead (s : State) (t : Nat) (e : Elem) : Nat × Bool :=
  let m := s.local t e.sp
  let v := m.num e.off e.n
  ((match e.nib with
    | some k => v / 16 ^ k % 16
    | none => v), m.bad e.off e.n)

/-- Write a result that comes with the issue; where the instruction bypasses the scoreboard, what the register held stays readable until the result is due (R274). -/
def landElem (c : Ctx) (p : APart) (v : Nat) (err : Bool) (s : State) : State :=
  let now := s.now c.team
  let s' := putElem c.team p v err s
  if !c.nosb then s'
  else if p.isS then
    s'.modGrp c.team p.g (fun G => { G with inflightS := ⟨p.reg, (s.grp c.team p.g).s p.reg, c.due now, true⟩ :: G.inflightS })
  else
    let old := s.thr (c.team, p.g, p.lane)
    s'.modThr (c.team, p.g, p.lane) (fun t => (partRegs p).foldl (fun t r => { t with inflight := fly c now r (old.abs r) t.inflight }) t)

/-- The local part of an instruction whose other part goes to memory is done when its registers are written (R175). -/
def nearPart (c : Ctx) (track : Nat) (s : State) : State :=
  s.push .portWriteAcknowledgement ⟨c.team, c.group, 0, leBytes 8 track ++ leBytes 8 (c.due (s.now c.team))⟩

/-- Open the track of an instruction with `far` requests to memory and, when `near`, a local part: one count for them all, which falls with the last (R175). With no request, it falls when the local part's registers are written. -/
def openParts (c : Ctx) (near : Bool) (far : Nat) (s : State) : Nat × State :=
  if near && far == 0 then (0, sigAt c.team (c.mem.map Prod.fst) (sigOf c) (c.due (s.now c.team)) s)
  else
    let (tr, s) := openTrack c (far + b2n near) 0 s
    (tr, if near then nearPart c tr s else s)

/-- Load elements: local ones at once, global ones by an access for each line (R371). The counter falls when every destination has been written. -/
def loadElems (c : Ctx) (acq : Bool) (l : List Elem) (s0 s : State) : State :=
  let near := l.filter (·.isLocal)
  let s := near.foldl (fun s e =>
    let r := localRead s0 c.team e
    landElem c (e.part e.off) r.1 r.2 s) s
  let lines := byLine ((l.filter (fun e => !e.isLocal)).flatMap (globalParts s0 c.team))
  let (tr, s) := openParts c (!near.isEmpty) lines.length s
  launchReads c .load tr acq lines s

/-- The zeroing form: destinations of the lanes outside `active` become 0 (R371). -/
def zeroLanes (c : Ctx) (k n : Nat) (s : State) : State :=
  (c.set.filter (fun l => !c.act.contains l)).foldl (fun s l =>
    (upFrom k n).foldl (fun s r => putV c c.group l r 0 s) s) s

/-! ### Stores -/

/-- The bytes that a local store leaves: a nibble keeps its neighbour. -/
def elemBytes (m : LMem) (e : Elem) : List Byte :=
  match e.nib with
  | some k => [mergeByte (if k == 0 then 1 else 2) (m.byte e.off) (BitVec.ofNat 8 (e.x % 16 * 17))]
  | none => leBytes e.n e.x

/-- The bytes that each lane's elements fill. -/
def filledBytes (l : List Elem) : List (List Nat) :=
  (distinct (l.map (fun e => (e.g, e.lane)))).map (fun k =>
    (l.filter (fun e => (e.g, e.lane) == k && e.nib.isNone)).flatMap (fun e => upFrom e.off e.n))

/-- The elements in ascending lane and element order, so that of several lanes' stores to one byte the last stays (R370). A lane's elements form one write: it heals the words of which it fills every byte (R202), and 16 bytes arm as one (R208). -/
def localWrite (t : Nat) (sp : Space) (l : List Elem) (s : State) : State :=
  if l.isEmpty then s
  else
    let s := s.modLocal t sp (fun m =>
      (filledBytes l).foldl LMem.cover (l.foldl (fun m e => m.write e.off (elemBytes m e)) m))
    let s := disturb (s.areaOf t sp) (l.flatMap (fun e => upFrom e.off e.n)) s
    if sp == Space.spad then evalPort t (l.foldl (fun s e => noteWrite t e.g e.off e.n s) s) else s

/-- Store elements: local ones at their port, global ones into the write-combining store (R372). The counter falls when nothing of it would hold back a release at MSCOPE: at a scope inside the core, the local part alone (Table mem-2). -/
def storeElems (c : Ctx) (msc : Nat) (l : List Elem) (s : State) : State :=
  let loc := l.filter (·.isLocal)
  let s := localWrite c.team .spad (loc.filter (fun e => e.sp == Space.spad)) s
  let s := localWrite c.team .clsh (loc.filter (fun e => e.sp == Space.clsh)) s
  let lines := byLine ((l.filter (fun e => !e.isLocal)).flatMap (globalParts s c.team))
  let far := if msc ≤ 2 then 0 else (lines.map (fun p => p.2.length)).foldl (fun a b => a + b) 0
  let (tr, s) := openTrack c (far + (if loc.isEmpty then 0 else 1)) msc s
  let s := countLocal c.team c.group (distinct (loc.map (·.lane))) tr s
  lines.foldl (fun s p =>
    let s := p.2.foldl (fun s q => s.modThr (c.team, q.g, q.lane) (fun t => { t with owc := t.owc + 1 })) s
    (startAcc (Acc.new .store (issueUnit c c.group s) (ctxOf c s) p.1 c.team p.2 (if far == 0 then 0 else tr)) s).2) s

/-! ### Plain loads and stores of layout M (R371, R372) -/

/-- The elements of a lane at a checked place. -/
def laneElems (c : Ctx) (s : State) (g l : Nat) (ty v k : Nat) (data : Option Nat) : Space × Nat → List Elem
  | (sp, o) =>
    let t := s.thr (c.team, g, l)
    (upFrom 0 (vecN v)).map (fun e =>
      let x := match data with
        | some sel => (readSel c s g l (sel + e * regsOf ty) (regsOf ty) ty).v % 2 ^ tyBits ty
        | none => 0
      ⟨g, l, sp, o + e * tySize ty, tySize ty, none, t.wb + k + e * regsOf ty, false, ty, x, 0⟩)

/-- The places of the active lanes that pass their checks. -/
def placesOf (c : Ctx) (s : State) (f : AddrForm) (sel off n : Nat) : List (Nat × Space × Nat) :=
  c.act.filterMap (fun l =>
    match addrOf c s c.group l f sel off n with
    | .ok p => some (l, p)
    | .error _ => none)

/-- The address trap of the active lanes. -/
def addrChk (f : AddrForm) (sel off n : Nat) (c : Ctx) (s : State) : List Trap :=
  addrTrap c.group (locErrs c.act (fun l => addrOf c s c.group l f sel off n) (fun l => addrShown c s c.group l f sel off))

/-- A load of a form (R371). -/
def loadDesc (f : AddrForm) (o : OpM) : Desc where
  opds := [dst 0 o.d (vecRegs o.ty o.vec) [0], src 1 o.a f.regs f.cls]
  hold := acqHolds
  chk := addrChk f o.a o.off (vecN o.vec * tySize o.ty)
  eff := fun c s =>
    let n := vecN o.vec * tySize o.ty
    let es := (placesOf c s f o.a o.off n).flatMap (fun p => laneElems c s c.group p.1 o.ty o.vec (idx o.d) none p.2)
    let s' := loadElems c (o.ord == 1) es s s
    if bit o.modm 0 then zeroLanes c (idx o.d) (vecRegs o.ty o.vec) s' else s'

/-- The operand of a store's data: a vector or a 64-bit element needs class 0 (Table mem-3). -/
def dataOpd (ty vec b : Nat) : Opd :=
  src 2 b (vecRegs ty vec) (if vec == 0 && tyBits ty ≤ 32 then [0, 2, 60, 7] else [0])

/-- A store of a form (R372). -/
def storeDesc (f : AddrForm) (o : OpM) : Desc where
  opds := [src 1 o.a f.regs f.cls, dataOpd o.ty o.vec o.b]
  hold := fun c s => acqHolds c s || (o.ord == 2 && relHolds o.msc c s)
  chk := fun c s => addrChk f o.a o.off (vecN o.vec * tySize o.ty) c s ++ (if o.ord == 2 then relTraps o.msc c s else [])
  eff := fun c s =>
    let n := vecN o.vec * tySize o.ty
    storeElems c o.msc ((placesOf c s f o.a o.off n).flatMap (fun p =>
      laneElems c s c.group p.1 o.ty o.vec 0 (some o.b) p.2)) s

/-! ### Atomics and reductions (R377 to R379) -/

/-- A contribution: its lane, place, destination and operands. -/
abbrev Contrib := Elem

/-- The contributions of the participants in ascending order, at the places that pass. -/
def contribs (c : Ctx) (s : State) (ty a off d : Nat) (x y : Nat → Nat → Nat) : List Contrib :=
  c.lanes.filterMap (fun m =>
    match addrOf c s m.1 m.2 .generic a off (tySize ty) with
    | .ok (sp, o) => some ⟨m.1, m.2, sp, o, tySize ty, none, (s.thr (c.team, m.1, m.2)).wb + d, false, ty, x m.1 m.2, y m.1 m.2⟩
    | .error _ => none)

/-- The address traps of a member: a failing address, or private space. -/
def atomPlace (c : Ctx) (s : State) (ty a off g l : Nat) (globalOnly : Bool) : Loc :=
  match addrOf c s g l .generic a off (tySize ty) with
  | .ok (sp, o) => if sp == Space.priv || (globalOnly && sp != Space.glob) then .error 8 else .ok (sp, o)
  | .error e => .error e

/-- The address traps of an atomic or reduction, by member. -/
def atomChk (ty a off : Nat) (globalOnly : Bool) (c : Ctx) (s : State) : List Trap :=
  c.mem.flatMap (fun m =>
    addrTrap m.1 (locErrs m.2 (fun l => atomPlace c s ty a off m.1 l globalOnly) (fun l => addrShown c s m.1 l .generic a off)))

/-- The distinct elements of the contributions, each with its contributions in order (R221). -/
def byElem (l : List Contrib) : List ((Space × Nat) × List Contrib) :=
  (distinct (l.map (fun e => (e.sp, e.off)))).map (fun k => (k, l.filter (fun e => e.sp == k.1 && e.off == k.2)))

/-- A request at a local port: the old value, and whether a word of the element is poisoned, in which case nothing happens (R220). -/
def localAtom (t op ty : Nat) (k : Space × Nat) (ps : List APart) (s : State) : State × Nat × Bool :=
  let m := s.local t k.1
  let n := tySize ty
  let old := m.num k.2 n
  if m.bad k.2 n then (s, old, true)
  else
    let s := if k.1 == Space.spad then ps.foldl (fun s p => noteWrite t p.g k.2 n s) s else s
    (portWrite t k.1 k.2 (leBytes n (atomNew op ty old ps)) s, old, false)

/-- One request of an atomic (R221, R378). -/
def atomRequest (c : Ctx) (op ty track : Nat) (acq : Bool) (k : Space × Nat) (l : List Contrib) (s : State) : State :=
  let ps := l.map (fun e => e.part e.off)
  if k.1 == Space.glob then
    let s := l.foldl (fun s e => s.modThr (c.team, e.g, e.lane) (fun t => { t with owc := t.owc + 1 })) s
    let g := (l.map (·.g)).headD c.group
    let a := { Acc.new .atom (issueUnit c g s) (ctxOf c s) (k.2 / 128) c.team ps track with op := op, ty := ty }
    let s := owe c s.nextId ps s
    let (id, s) := startAcc a s
    if acq && (s.accs.get? id).isSome then
      l.foldl (fun s e => s.modThr (c.team, e.g, e.lane) (fun t => { t with acq := t.acq ++ [id] })) s
    else s
  else
    let (s, old, bad) := localAtom c.team op ty k ps s
    let s := (ps.zip (atomOlds op ty old ps)).foldl (fun s x => landElem c x.1 x.2 bad s) s
    (distinct (l.map (·.g))).foldl (fun s g =>
      countLocal c.team g ((l.filter (fun e => e.g == g)).map (·.lane)) 0 s) s

/-- `atom` (R377, R378). -/
def atomDesc (op : Nat) (h : Hdr) (o : OpM) : Desc where
  opds := [dst 0 o.d (regsOf o.ty) [0], src 1 o.a 2 [0, 2, 60],
    if op == 7 then src 2 o.b (if cls o.b == 2 then 2 else 2 * regsOf o.ty) [0, 23] else src 2 o.b (regsOf o.ty) [0, 2, 60, 7]]
  unif := h.scope == 1
  hold := fun c s => acqHolds c s || (2 ≤ o.ord && relHolds o.msc c s)
  chk := fun c s => atomChk o.ty o.a o.off false c s ++ (if 2 ≤ o.ord then relTraps o.msc c s else [])
  eff := fun c s =>
    let w := regsOf o.ty
    let first := fun g l => (readSel c s g l o.b w o.ty).v % 2 ^ tyBits o.ty
    let second := fun g l =>
      (readSel c s g l (if cls o.b == 2 then o.b + 1 else o.b + w) w o.ty).v % 2 ^ tyBits o.ty
    let es := contribs c s o.ty o.a o.off (idx o.d) (if op == 7 then second else first) (if op == 7 then first else fun _ _ => 0)
    let groups := byElem es
    let far := groups.filter (fun k => k.1.1 == Space.glob)
    let (tr, s) := openParts c (decide (far.length < groups.length)) far.length s
    groups.foldl (fun s k => atomRequest c op o.ty tr (bit o.ord 0) k.1 k.2 s) s

/-- The record of Table mem-7 that a reduction with `.ord` or `.cnt` reads from the lead group. -/
def redRecord (c : Ctx) (s : State) (o : OpM) : Nat := if bits o.modm 2 1 == 0 then 0 else (readS c s (c.set.headD 0) (idx o.d)).v.toNat

/-- TOTAL, INDEX and WORD. -/
def recTotal (r : Nat) : Nat := bits r 63 47
def recIndex (r : Nat) : Nat := bits r 46 31
def recWord (r : Nat) : Nat := bits r 18 0

/-- R379: the record keeps its rules. -/
def recordOk (o : OpM) (r : Nat) : Bool :=
  bits r 30 19 == 0
    && (if bit o.modm 1 then decide (1 ≤ recTotal r) && decide (recTotal r ≤ 65536) && decide (recIndex r < recTotal r)
        else recTotal r == 0 && recIndex r == 0)
    && (bit o.modm 2 || recWord r == 0)

/-- The traps of a reduction's record and word. -/
def recordChk (o : OpM) (c : Ctx) (s : State) : List Trap :=
  let r := redRecord c s o
  if bits o.modm 2 1 == 0 then []
  else if !recordOk o r then [c.trapAll 3 0]
  else if c.lanes.isEmpty then []
  else if bit o.modm 2 && decide ((s.launch c.team).spad < recWord r + 16) then [⟨13, 3, 0, c.act, c.lead⟩]
  else if bit o.modm 2 && recWord r % 16 != 0 then [⟨13, 7, 0, c.act, c.lead⟩]
  else []

/-- One request of a reduction (R378, R379). -/
def redRequest (c : Ctx) (op : Nat) (o : OpM) (rec track : Nat) (k : Space × Nat) (l : List Contrib) (s : State) : State :=
  let ps := l.map (fun e => e.part e.off)
  let word := if bit o.modm 2 then some (recWord rec) else none
  if k.1 == Space.glob then
    let s := l.foldl (fun s e => s.modThr (c.team, e.g, e.lane) (fun t => { t with owc := t.owc + 1 })) s
    let g := (l.map (·.g)).headD c.group
    let a := { Acc.new .red (issueUnit c g s) (ctxOf c s) (k.2 / 128) c.team ps track with
      op := op, ty := o.ty, oidx := recIndex rec, otot := recTotal rec, word := word }
    (startAcc a s).2
  else
    let (s, _, bad) := localAtom c.team op o.ty k ps s
    let s := match word with
      | some w => syncApply c.team w l.length bad s
      | none => s
    (distinct (l.map (·.g))).foldl (fun s g =>
      countLocal c.team g ((l.filter (fun e => e.g == g)).map (·.lane)) track s) s

/-- The parts that a reduction's request is complete with: its RedAck, or the acknowledgement to each member group (Table mem-2). -/
def redParts (k : (Space × Nat) × List Contrib) : Nat := if k.1.1 == Space.glob then 1 else (distinct (k.2.map (·.g))).length

/-- `red` (R377 to R379). -/
def redDesc (op : Nat) (h : Hdr) (o : OpM) : Desc where
  opds := (if bits o.modm 2 1 != 0 then [src 0 o.d 1 [2]] else []) ++ [src 1 o.a 2 [0, 2, 60], src 2 o.b (regsOf o.ty) [0, 2, 60, 7]]
  unif := h.scope == 1
  part := bit o.modm 0
  hold := fun c s => acqHolds c s || (o.ord == 2 && relHolds o.msc c s)
  chk := fun c s => recordChk o c s ++ atomChk o.ty o.a o.off (bit o.modm 1) c s ++ (if o.ord == 2 then relTraps o.msc c s else [])
  eff := fun c s =>
    let rec_ := redRecord c s o
    let x := fun g l => (readSel c s g l o.b (regsOf o.ty) o.ty).v % 2 ^ tyBits o.ty
    let groups := byElem (contribs c s o.ty o.a o.off 0 x (fun _ _ => 0))
    let (tr, s) := openTrack c ((groups.map redParts).foldl (fun a b => a + b) 0) 0 s
    groups.foldl (fun s k => redRequest c op o rec_ tr k.1 k.2 s) s

end Sys2Proof.Machine
end

