-- ==== Sys2Proof/Machine/MemOps.lean ====
section
/-! DEFINITION. Majors 0x20 to 0x23: loads, stores, atomics and reductions, and the window spill and fill of major 0x01 (R338, R365-R373, R377-R379). -/

namespace Sys2Proof.Machine

/-! ### Uniform load (R373) -/

/-- Load the private elements of the lowest active lane at once through their backing, as far as nothing must be waited for. -/
def loadPriv (c : Ctx) (es : List Elem) (s : State) : State × Bool :=
  es.foldl (fun (a : State × Bool) e =>
    if a.2 then a
    else
      let words := (globalParts a.1 c.team { e with ty := 0x2F, isS := false }).map (fun p => (p.1 * 128 + p.2.off, p.2.n))
      match readLines c c.group words a.1 with
      | (s, .error 255) => (s, true)
      | (s, .error _) => (landElem c (e.part 0) 0 true s, false)
      | (s, .ok l) => (landElem c (e.part 0) (leVal l) false s, false)) (s, false)

/-- `sld`: once at issue, when a lane is active. -/
def sldDesc (o : OpM) : Desc where
  opds := [dst 0 o.d (vecN o.vec) [24], src 1 o.a 2 [2, 60]]
  hold := acqHolds
  chk := fun c s =>
    match c.act with
    | [] => []
    | l :: _ =>
      match addrOf c s c.group l .generic o.a o.off (vecN o.vec * tySize o.ty) with
      | .error e => [⟨13, e, addrShown c s c.group l .generic o.a o.off, c.act, c.group⟩]
      | .ok _ => []
  eff := fun c s =>
    match c.act with
    | [] => sigSoon c s
    | l :: _ =>
      match addrOf c s c.group l .generic o.a o.off (vecN o.vec * tySize o.ty) with
      | .error _ => s
      | .ok (sp, off) =>
        let es := (upFrom 0 (vecN o.vec)).map (fun e =>
          (⟨c.group, l, sp, off + e * tySize o.ty, tySize o.ty, none, idx o.d + e, true, o.ty, 0, 0⟩ : Elem))
        match loadPriv c (es.filter (fun e => e.sp == Space.priv)) s with
        | (s', true) => retry c s'
        | (s', false) =>
          if sp == Space.priv then sigAt c.team [c.group] (sigOf c) (c.due (s.now c.team)) s' else loadElems c (o.ord == 1) es s s'

/-! ### Window spill and fill (R338, R169) -/

/-- The count of a lane. -/
def windowCount (fill : Bool) (o : OpI) (c : Ctx) (s : State) (l : Nat) : Int :=
  if bit o.mod8 0 then
    let f := (s.grp c.team c.group).trap
    if f.kind == (if fill then 10 else 9) then (f.info : Int) else 0
  else sext 32 (wrapN 32 (sext 32 (readSel c s c.group l o.a 1 0x2E).v + sext 32 o.imm))

/-- Whether a lane's count keeps the invariant of R168. -/
def windowOk (fill : Bool) (t : Thread) (n : Int) : Bool :=
  decide (0 ≤ n)
    && (if fill then decide (n ≤ (t.lo : Int)) && decide ((t.wb : Int) + 64 ≤ (t.lo : Int) - n + t.depth)
        else decide ((t.lo : Int) + n ≤ t.wb))

/-- The absolute registers that a lane moves. -/
def windowRegs (fill : Bool) (t : Thread) (n : Int) : List Nat :=
  if fill then upFrom (t.lo - n.toNat) n.toNat else upFrom t.lo n.toNat

/-- The traps of a spill or fill: the count, the private bound, then poison (R338). -/
def windowChk (fill : Bool) (o : OpI) (c : Ctx) (s : State) : List Trap :=
  let n := windowCount fill o c s
  let t := fun l => s.thr (c.key l)
  let bad := c.act.filter (fun l => !windowOk fill (t l) (n l))
  let top := fun l => if fill then ((t l).lo : Int) else ((t l).lo : Int) + n l
  let size := ((s.launch c.team).privSize : Int)
  let far := c.act.filter (fun l => decide (size < 4 * top l))
  let pois := fun l => (windowRegs fill (t l) (n l)).filter (fun k => ((t l).read (s.now c.team) s.tick l c.nosb k).p)
  let pl := if fill then [] else c.act.filter (fun l => windowOk fill (t l) (n l) && !(pois l).isEmpty)
  if !bad.isEmpty then [⟨3, 1, 0, bad, c.group⟩]
  else
    (match far with
     | [] => []
     | l :: _ => [⟨13, 6, privVa s c.team c.group l (4 * (top l).toNat) % 2 ^ 57, far, c.group⟩])
      ++ (match pl.flatMap pois with
          | [] => []
          | k :: ks => [⟨12, 0x10000 + ks.foldl min k, 0, pl, c.group⟩])

/-- The private words of a spill or fill as elements of the lanes. -/
def windowElems (fill : Bool) (o : OpI) (c : Ctx) (s : State) : List Elem :=
  c.act.flatMap (fun l =>
    let t := s.thr (c.key l)
    (windowRegs fill t (windowCount fill o c s l)).map (fun k =>
      (⟨c.group, l, .priv, 4 * k, 4, none, k, false, 0x2F, (t.read (s.now c.team) s.tick l c.nosb k).v.toNat, 0⟩ : Elem)))

/-- The count operand. -/
def windowOpds (o : OpI) : List Opd := if bit o.mod8 0 then [] else [src 1 o.a 1 [0, 2, 60, 7]]

/-- A spill or fill waits for the writes, outstanding or in flight, of the stack words that it moves, as for any register that an instruction reads or writes (R274); an ejected thread's waits for them all (R182). -/
def windowHolds (fill : Bool) (o : OpI) (c : Ctx) (s : State) : Bool :=
  acqHolds c s || (!c.nosb && c.act.any (fun l =>
    let t := s.thr (c.key l)
    let n := windowCount fill o c s l
    let mine := fun (r : Nat) => (windowRegs fill t n).any (fun k => k % t.depth == r % t.depth)
    windowOk fill t n && (t.pend.any (fun p => c.waitsFor p.nosb && mine p.reg)
      || t.inflight.any (fun f => c.waitsFor f.nosb && decide (s.now c.team < f.due) && mine f.reg))))

/-- `wspill`. -/
def wspillDesc (o : OpI) : Desc where
  opds := windowOpds o
  hold := windowHolds false o
  chk := windowChk false o
  eff := fun c s =>
    let s' := storeElems c 0 (windowElems false o c s) s
    c.act.foldl (fun s' l =>
      s'.modThr (c.key l) (fun t => { t with lo := t.lo + (windowCount false o c s l).toNat })) s'

/-- `wfill`. -/
def wfillDesc (o : OpI) : Desc where
  opds := windowOpds o
  hold := windowHolds true o
  chk := windowChk true o
  eff := fun c s =>
    let s' := c.act.foldl (fun s' l =>
      s'.modThr (c.key l) (fun t => { t with lo := t.lo - (windowCount true o c s l).toNat })) s
    loadElems c false (windowElems true o c s) s s'

/-- `ld` (R371, R372). -/
def execLd (h : Hdr) (o : OpM) (s : State) : Host.Outcome State Fault Refusal :=
  .next (issue (.ld h o) 2 (loadDesc .generic o) s)

/-- `st` (R371, R372). -/
def execSt (h : Hdr) (o : OpM) (s : State) : Host.Outcome State Fault Refusal :=
  .next (issue (.st h o) 2 (storeDesc .generic o) s)

/-- `sld` (R373). -/
def execSld (h : Hdr) (o : OpM) (s : State) : Host.Outcome State Fault Refusal :=
  .next (issue (.sld h o) 2 (sldDesc o) s)

/-- `lds` (R371). -/
def execLds (h : Hdr) (o : OpM) (s : State) : Host.Outcome State Fault Refusal :=
  .next (issue (.lds h o) 2 (loadDesc (.space .spad) o) s)

/-- `sts` (R372). -/
def execSts (h : Hdr) (o : OpM) (s : State) : Host.Outcome State Fault Refusal :=
  .next (issue (.sts h o) 2 (storeDesc (.space .spad) o) s)

/-- `ldc` (R371). -/
def execLdc (h : Hdr) (o : OpM) (s : State) : Host.Outcome State Fault Refusal :=
  .next (issue (.ldc h o) 2 (loadDesc (.space .clsh) o) s)

/-- `stc` (R372). -/
def execStc (h : Hdr) (o : OpM) (s : State) : Host.Outcome State Fault Refusal :=
  .next (issue (.stc h o) 2 (storeDesc (.space .clsh) o) s)

/-- `ldpr` (R371). -/
def execLdpr (h : Hdr) (o : OpM) (s : State) : Host.Outcome State Fault Refusal :=
  .next (issue (.ldpr h o) 2 (loadDesc (.space .priv) o) s)

/-- `stpr` (R372). -/
def execStpr (h : Hdr) (o : OpM) (s : State) : Host.Outcome State Fault Refusal :=
  .next (issue (.stpr h o) 2 (storeDesc (.space .priv) o) s)

/-- `ldg` (R371). -/
def execLdg (h : Hdr) (o : OpM) (s : State) : Host.Outcome State Fault Refusal :=
  .next (issue (.ldg h o) 2 (loadDesc .global o) s)

/-- `stg` (R372). -/
def execStg (h : Hdr) (o : OpM) (s : State) : Host.Outcome State Fault Refusal :=
  .next (issue (.stg h o) 2 (storeDesc .global o) s)

/-- `atom.add` (R219, R377, R378). -/
def execAtomAdd (h : Hdr) (o : OpM) (s : State) : Host.Outcome State Fault Refusal :=
  .next (issue (.atomAdd h o) 2 (atomDesc 0 h o) s)

/-- `atom.min` (R219, R377, R378). -/
def execAtomMin (h : Hdr) (o : OpM) (s : State) : Host.Outcome State Fault Refusal :=
  .next (issue (.atomMin h o) 2 (atomDesc 1 h o) s)

/-- `atom.max` (R219, R377, R378). -/
def execAtomMax (h : Hdr) (o : OpM) (s : State) : Host.Outcome State Fault Refusal :=
  .next (issue (.atomMax h o) 2 (atomDesc 2 h o) s)

/-- `atom.and` (R219, R377, R378). -/
def execAtomAnd (h : Hdr) (o : OpM) (s : State) : Host.Outcome State Fault Refusal :=
  .next (issue (.atomAnd h o) 2 (atomDesc 3 h o) s)

/-- `atom.or` (R219, R377, R378). -/
def execAtomOr (h : Hdr) (o : OpM) (s : State) : Host.Outcome State Fault Refusal :=
  .next (issue (.atomOr h o) 2 (atomDesc 4 h o) s)

/-- `atom.xor` (R219, R377, R378). -/
def execAtomXor (h : Hdr) (o : OpM) (s : State) : Host.Outcome State Fault Refusal :=
  .next (issue (.atomXor h o) 2 (atomDesc 5 h o) s)

/-- `atom.exch` (R219, R377, R378). -/
def execAtomExch (h : Hdr) (o : OpM) (s : State) : Host.Outcome State Fault Refusal :=
  .next (issue (.atomExch h o) 2 (atomDesc 6 h o) s)

/-- `atom.cas` (R219, R377, R378). -/
def execAtomCas (h : Hdr) (o : OpM) (s : State) : Host.Outcome State Fault Refusal :=
  .next (issue (.atomCas h o) 2 (atomDesc 7 h o) s)

/-- `red.add` (R219, R377-R379). -/
def execRedAdd (h : Hdr) (o : OpM) (s : State) : Host.Outcome State Fault Refusal :=
  .next (issue (.redAdd h o) 2 (redDesc 0 h o) s)

/-- `red.min` (R219, R377-R379). -/
def execRedMin (h : Hdr) (o : OpM) (s : State) : Host.Outcome State Fault Refusal :=
  .next (issue (.redMin h o) 2 (redDesc 1 h o) s)

/-- `red.max` (R219, R377-R379). -/
def execRedMax (h : Hdr) (o : OpM) (s : State) : Host.Outcome State Fault Refusal :=
  .next (issue (.redMax h o) 2 (redDesc 2 h o) s)

/-- `red.and` (R219, R377-R379). -/
def execRedAnd (h : Hdr) (o : OpM) (s : State) : Host.Outcome State Fault Refusal :=
  .next (issue (.redAnd h o) 2 (redDesc 3 h o) s)

/-- `red.or` (R219, R377-R379). -/
def execRedOr (h : Hdr) (o : OpM) (s : State) : Host.Outcome State Fault Refusal :=
  .next (issue (.redOr h o) 2 (redDesc 4 h o) s)

/-- `red.xor` (R219, R377-R379). -/
def execRedXor (h : Hdr) (o : OpM) (s : State) : Host.Outcome State Fault Refusal :=
  .next (issue (.redXor h o) 2 (redDesc 5 h o) s)

/-- `wspill` (R338). -/
def execWspill (h : Hdr) (o : OpI) (s : State) : Host.Outcome State Fault Refusal :=
  .next (issue (.wspill h o) 0 (wspillDesc o) s)

/-- `wfill` (R338). -/
def execWfill (h : Hdr) (o : OpI) (s : State) : Host.Outcome State Fault Refusal :=
  .next (issue (.wfill h o) 0 (wfillDesc o) s)

end Sys2Proof.Machine
end

