-- ==== Sys2Proof/Machine/Tensor.lean ====
section
/-! DEFINITION. Majors 0x24 to 0x27: shape slots and tensor accesses, space test and cast, prefetch, flush and discard, and synchronisation words (R374-R376, R380-R384). -/

namespace Sys2Proof.Machine

/-! ### Shape slots (R174, R374) -/

/-- The record of a slot, if it holds one. -/
def slotOf (c : Ctx) (s : State) (k : Nat) : Option Shape := ((s.grp c.team c.group).shapes.get? k).map Shape.ofNat

/-- Read bytes of any space as the issuing threads see them (R374). -/
def readThrough (c : Ctx) (g : Nat) (sp : Space) (off n : Nat) (s : State) : State × Except Nat (List Byte) :=
  match sp with
  | .spad | .clsh =>
    let m := s.local c.team sp
    (s, if m.bad off n then .error 0 else .ok ((upFrom off n).map m.byte))
  | .priv => readLines c g ((upFrom 0 (n / 4)).map (fun k => (privVa s c.team g (c.set.headD 0) (off + 4 * k), 4))) s
  | .glob => readLines c g (pieces off n) s

/-- The pointer of `hld`. -/
def hldPtr (c : Ctx) (s : State) (o : OpT) : Nat := (readS c s (c.set.headD 0) (idx o.coord)).v.toNat

/-- The conditions of `hld`: the address, Err or poison, then the validity of the record. -/
def hldChk (o : OpT) (c : Ctx) (s : State) : List Trap :=
  if c.act.isEmpty then []
  else
    match decodeGeneric s c.team (hldPtr c s o) 64 with
    | .error e => [⟨13, e, hldPtr c s o % 2 ^ 57, c.act, c.group⟩]
    | .ok (sp, off) =>
      match readThrough c c.group sp off 64 s with
      | (_, .error 255) => []
      | (_, .error _) => [c.trapAll 12 1]
      | (s', .ok b) => if (Shape.ofNat (leVal b)).valid s' c.team then [] else [c.trapAll 3 4]

/-- The record has been read before one of its conditions fails: an Err is logged (R76). -/
def hldSeen (o : OpT) (c : Ctx) (s : State) : State :=
  if c.act.isEmpty then s
  else
    match decodeGeneric s c.team (hldPtr c s o) 64 with
    | .error _ => s
    | .ok (sp, off) => (readThrough c c.group sp off 64 s).1

/-- `hld` (R374). -/
def hldDesc (o : OpT) : Desc where
  opds := [src 1 o.coord 1 [2]]
  unif := true
  recalled := true
  hold := acqHolds
  chk := hldChk o
  seen := hldSeen o
  eff := fun c s =>
    if c.act.isEmpty then sigSoon c s
    else
      match decodeGeneric s c.team (hldPtr c s o) 64 with
      | .error _ => s
      | .ok (sp, off) =>
        match readThrough c c.group sp off 64 s with
        | (s', .ok b) => sigSoon c (s'.modGrp c.team c.group (fun G => { G with shapes := G.shapes.set o.hs (leVal b) }))
        | (s', .error 255) => retry c s'
        | (s', .error _) => s'

/-- `hclr` (R374). -/
def hclrDesc (o : OpT) : Desc where
  opds := []
  unif := true
  recalled := true
  eff := fun c s =>
    let s := sigSoon c s
    if c.act.isEmpty then s else s.modGrp c.team c.group (fun G => { G with shapes := G.shapes.del o.hs })

/-! ### Tensor accesses (R287, R375) -/

/-- The coordinates of element e of a lane: NC registers from COORD, the first raised by e. -/
def coordsOf (c : Ctx) (s : State) (o : OpT) (g l e : Nat) : List Int :=
  (upFrom 0 7).map (fun k =>
    if k < o.nc then
      sext 32 (readSel c s g l (o.coord + k) 1 0x2E).v + (if k == 0 then (e : Int) else 0)
    else 0)

/-- The place of an element, checked. -/
def tensorLoc (c : Ctx) (s : State) (o : OpT) (h : Shape) (l e : Nat) : ElemLoc :=
  elemCheck s c.team o.ty (shapeAddr s c.team h (coordsOf c s o c.group l e))

/-- A lane's first element that fails a check of R203: its sub-code, and its generic pointer. -/
def tensorBad (c : Ctx) (s : State) (o : OpT) (h : Shape) (l : Nat) : Option (Nat × Nat) :=
  let base := match window s c.team h.base with
    | .ok (_, off) => h.base - off
    | .error _ => h.base
  firstSome ((upFrom 0 (vecN o.vec)).map (fun e =>
    match tensorLoc c s o h l e with
    | .bad k =>
      some (k, match shapeAddr s c.team h (coordsOf c s o c.group l e) with
        | .at_ _ b _ => (base + b) % 2 ^ 57
        | _ => base % 2 ^ 57)
    | .oob | .at_ _ _ _ => none))

/-- A lane has an element out of bounds. -/
def tensorOob (c : Ctx) (s : State) (o : OpT) (h : Shape) (l : Nat) : Bool :=
  (upFrom 0 (vecN o.vec)).any (fun e => tensorLoc c s o h l e == .oob)

/-- The address traps of a tensor access: every element is checked under R203 first; then, with BTRAP, the lanes with an element out of bounds, which has no address (R375). -/
def tensorAddr (o : OpT) (h : Shape) (c : Ctx) (s : State) : List Trap :=
  match c.act.filterMap (fun l => (tensorBad c s o h l).map (fun x => (l, x))) with
  | [] => if h.btrap then addrTrap c.group ((c.act.filter (tensorOob c s o h)).map (fun l => (l, 32, 0))) else []
  | l => addrTrap c.group l

/-- The traps of a tensor access: the slot, NC and TY, then the addresses. -/
def tensorChk (o : OpT) (c : Ctx) (s : State) : List Trap :=
  match slotOf c s o.hs with
  | none => [c.trapAll 11 o.hs]
  | some h =>
    if h.rank < o.nc then [c.trapAll 3 1]
    else if h.ty != o.ty then [c.trapAll 3 4]
    else tensorAddr o h c s

/-- Registers of the coordinates: consecutive, of class 0 or 2. -/
def coordOpds (o : OpT) : List Opd :=
  if cls o.coord == 0 then (upFrom 0 o.nc).map (fun k => src 1 (o.coord + k) 1 [0]) else [src 1 o.coord o.nc [23]]

/-- The elements of a lane that lie inside their shape. -/
def tensorElems (o : OpT) (data : Bool) (h : Shape) (c : Ctx) (s : State) : List Elem :=
  c.act.flatMap (fun l =>
    let t := s.thr (c.key l)
    (upFrom 0 (vecN o.vec)).filterMap (fun e =>
      match tensorLoc c s o h l e with
      | .at_ sp b nib =>
        let x := if data then (readSel c s c.group l (o.data + e * regsOf o.ty) (regsOf o.ty) o.ty).v % 2 ^ tyBits o.ty else 0
        some ⟨c.group, l, sp, b, tySize o.ty, if o.ty == 0x26 || o.ty == 0x27 then some nib else none,
          t.wb + idx o.data + e * regsOf o.ty, false, o.ty, x, 0⟩
      | _ => none))

/-- Elements out of bounds are loaded as 0 (R375). -/
def tensorZero (o : OpT) (h : Shape) (c : Ctx) (s0 s : State) : State :=
  c.act.foldl (fun s l =>
    (upFrom 0 (vecN o.vec)).foldl (fun s e =>
      match tensorLoc c s0 o h l e with
      | .oob =>
        let r := (s0.thr (c.key l)).wb + idx o.data + e * regsOf o.ty
        landElem c ⟨c.group, l, 0, tySize o.ty, r, false, o.ty, none, 0, 0⟩ 0 false s
      | _ => s) s) s

/-- `tld` (R375). -/
def tldDesc (o : OpT) : Desc where
  opds := [dst 0 o.data (vecRegs o.ty o.vec) [0]] ++ coordOpds o
  recalled := true
  hold := acqHolds
  chk := tensorChk o
  eff := fun c s =>
    match slotOf c s o.hs with
    | none => s
    | some h =>
      let s' := loadElems c (o.ord == 1) (tensorElems o false h c s) s (tensorZero o h c s s)
      if bit o.modt 0 then zeroLanes c (idx o.data) (vecRegs o.ty o.vec) s' else s'

/-- `tst` (R375). -/
def tstDesc (o : OpT) : Desc where
  opds := [src 0 o.data (vecRegs o.ty o.vec) [0]] ++ coordOpds o
  recalled := true
  hold := fun c s => acqHolds c s || (o.ord == 2 && relHolds o.msc c s)
  chk := fun c s => tensorChk o c s ++ (if o.ord == 2 then relTraps o.msc c s else [])
  eff := fun c s =>
    match slotOf c s o.hs with
    | none => s
    | some h => storeElems c o.msc (tensorElems o true h c s) s

/-! ### Space test and cast (R206, R376) -/

/-- The code of Table local-2. -/
def spaceCode (s : State) (t g : Nat) : Nat :=
  match window s t g with
  | .ok (.glob, _) => 0
  | .ok (.spad, _) => 1
  | .ok (.clsh, _) => 2
  | .ok (.priv, _) => 3
  | .error 4 => 4
  | .error _ => 5

/-- A space of the cast's SP code. -/
def spOf : Nat → Space
  | 0 => .glob
  | 1 => .spad
  | 2 => .clsh
  | _ => .priv

/-- The generic pointer of an offset or VA, or the sub-code 9 (R206). -/
def toGeneric (s : State) (t sp x : Nat) : Except Nat Nat :=
  match spOf sp with
  | .glob => if bits x 63 57 != 0 || bits x 56 44 == 0x1FFF then .error 9 else .ok x
  | .spad => if spaceSize s t .spad ≤ x then .error 9 else .ok (0x1FFF * 2 ^ 44 + teamTag s t * 2 ^ 20 + x)
  | .clsh => if spaceSize s t .clsh ≤ x then .error 9 else .ok (0x1FFF * 2 ^ 44 + 2 ^ 40 + x)
  | .priv => if spaceSize s t .priv ≤ x then .error 9 else .ok (0x1FFF * 2 ^ 44 + 2 * 2 ^ 40 + x)

/-- The offset or VA of a pointer of a space (R206). -/
def fromGeneric (s : State) (t sp g : Nat) : Except Nat Nat :=
  match window s t g with
  | .error e => .error e
  | .ok (q, o) => if q == spOf sp then .ok o else .error 8

/-- Write a cast's results: per lane, or once to s with the value of the lowest active lane. -/
def putCast (o : OpG) (n : Nat) (f : Nat → Nat) (c : Ctx) (s : State) : State :=
  let s := sigAt c.team [c.group] (sigOf c) (c.due (s.now c.team)) s
  if cls o.d == 2 then
    (match c.act with
     | l :: _ => putS c c.group (idx o.d) (f l) s
     | [] => s)
  else c.act.foldl (fun s l => putVs c c.group l (idx o.d) n (f l) s) s

/-- Lanes that a cast concerns: all, or the lowest for an s destination. -/
def castLanes (c : Ctx) : List Nat := c.act

/-- `spt`. -/
def sptDesc (o : OpG) : Desc where
  opds := [dst 0 o.d 1 [0, 2], src 1 o.a 2 [0, 2]]
  eff := fun c s => putCast o 1 (fun l => spaceCode s c.team (readSel c s c.group l o.a 2 0x31).v) c s

/-- The source of `cvta`: a 64-bit VA, or a 32-bit offset whose negative short immediate has no generic form. -/
def cvtaSrc (o : OpG) (c : Ctx) (s : State) (l : Nat) : Nat :=
  if bits o.flags 1 0 == 0 then (readSel c s c.group l o.a 2 0x31).v % 2 ^ 64 else (readSel c s c.group l o.a 1 0x2F).v % 2 ^ 32

/-- `cvta`. -/
def cvtaDesc (o : OpG) : Desc where
  opds := [dst 0 o.d 2 [0, 2], src 1 o.a (if bits o.flags 1 0 == 0 then 2 else 1) [0, 2, 60, 7]]
  chk := fun c s =>
    addrTrap c.group ((castLanes c).filterMap (fun l =>
      match toGeneric s c.team (bits o.flags 1 0) (cvtaSrc o c s l) with
      | .error e => some (l, e, cvtaSrc o c s l % 2 ^ 57)
      | .ok _ => none))
  eff := fun c s => putCast o 2 (fun l =>
    match toGeneric s c.team (bits o.flags 1 0) (cvtaSrc o c s l) with
    | .ok g => g
    | .error _ => 0) c s

/-- `cvts`. -/
def cvtsDesc (o : OpG) : Desc where
  opds := [dst 0 o.d (if bits o.flags 1 0 == 0 then 2 else 1) [0, 2], src 1 o.a 2 [0, 2]]
  chk := fun c s =>
    addrTrap c.group ((castLanes c).filterMap (fun l =>
      let g := (readSel c s c.group l o.a 2 0x31).v
      match fromGeneric s c.team (bits o.flags 1 0) g with
      | .error e => some (l, e, g % 2 ^ 57)
      | .ok _ => none))
  eff := fun c s => putCast o (if bits o.flags 1 0 == 0 then 2 else 1) (fun l =>
    match fromGeneric s c.team (bits o.flags 1 0) (readSel c s c.group l o.a 2 0x31).v with
    | .ok x => x
    | .error _ => 0) c s

/-! ### Prefetch, flush and discard (R380 to R382) -/

/-- Lines that the active lanes prefetch: a lane that cannot is passed over. -/
def prefLines (o : OpM) (c : Ctx) (s : State) : List Nat :=
  distinct (c.act.filterMap (fun l =>
    if (readSel c s c.group l o.a 2 0x31).p then none
    else
      match addrOf c s c.group l .generic o.a o.off 1 with
      | .ok (.glob, va) => some (va / 128)
      | _ => none))

/-- `pf` (R380). -/
def pfDesc (o : OpM) : Desc where
  opds := [src 1 o.a 2 [0, 2, 60]]
  noPoison := true
  hold := acqHolds
  eff := fun c s =>
    (prefLines o c s).foldl (fun s line =>
      (startAcc (Acc.new (.pref (bit o.modm 0)) (issueUnit c c.group s) (ctxOf c s) line c.team [] 0) s).2) (sigSoon c s)

/-- The global lines of the active lanes, each with its lanes; an address in one of the three local spaces needs no action (R203, R381). -/
def lineLanes (o : OpM) (n : Nat) (c : Ctx) (s : State) : List (Nat × List APart) :=
  byLine (((placesOf c s .generic o.a o.off n).filter (fun p => p.2.1 == Space.glob)).flatMap (fun p =>
    globalParts s c.team ⟨c.group, p.1, p.2.1, p.2.2, 1, none, 0, false, 0x25, 0, 0⟩))

/-- Evict a line from the private cache once its stores have gone; OWC counts it until then (R381). -/
def flushLine (c : Ctx) (track line : Nat) (ps : List APart) (s : State) : State :=
  let u := issueUnit c c.group s
  let ps := ps.map (fun p => { p with ty := 0x2F })
  let s := ps.foldl (fun s p => s.modThr (c.team, p.g, p.lane) (fun t => { t with owc := t.owc + 1 })) s
  let (id, s) := s.newId
  let a := { Acc.new .flush u (ctxOf c s) line c.team ps track with stage := .line }
  lineTry id { s with accs := s.accs ++ [(id, a)] }

/-- Start draining a line's write-combining entry. -/
def drainLine (u ctx line : Nat) (s : State) : State :=
  match s.wcs.get? (u, ctx, line) with
  | none => s
  | some e =>
    if e.draining then s
    else
      let team := (e.owners.map (·.team)).headD 0
      let s := { s with wcs := s.wcs.set (u, ctx, line) { e with draining := true } }
      settle (startAcc (Acc.new AKind.own u ctx line team [] 0) s).2

/-- The lines, then their eviction. -/
def flushLines (o : OpM) (n : Nat) (first : Nat → Nat → Nat → State → State) (c : Ctx) (s : State) : State :=
  let ls := (lineLanes o n c s).filter (fun p => !p.2.isEmpty)
  let (tr, s) := openTrack c ((ls.map (fun p => p.2.length)).foldl (fun a b => a + b) 0) 5 s
  ls.foldl (fun s p =>
    let u := issueUnit c c.group s
    flushLine c tr p.1 p.2 (first u (ctxOf c s) p.1 s)) s

/-- `flush` (R381). -/
def flushDesc (o : OpM) : Desc where
  opds := [src 1 o.a 2 [0, 2, 60]]
  hold := acqHolds
  chk := addrChk .generic o.a o.off 1
  eff := flushLines o 1 drainLine

/-- Drop a line's stores that have not reached the coherent level (R382). -/
def dropLine (u ctx line : Nat) (s : State) : State :=
  let waiting := s.accs.filter (fun e => e.2.kind == AKind.store && e.2.stage == Stage.ni && e.2.unit == u && e.2.ctx == ctx && e.2.line == line)
  let s := waiting.foldl (fun s e =>
    ownersDone (e.2.parts.map (fun p => (⟨e.2.team, p.g, p.lane, e.2.track⟩ : Owner))) false { s with accs := s.accs.del e.1 }) s
  settle (wcsDrop u ctx line false s)

/-- Lanes whose line address is not aligned to 128 bytes, or does not decode. -/
def discLoc (o : OpM) (c : Ctx) (s : State) (l : Nat) : Loc :=
  match addrOf c s c.group l .generic o.a o.off 1 with
  | .ok (sp, x) => if x % 128 != 0 then .error 7 else .ok (sp, x)
  | .error e => .error e

/-- `disc` (R382). -/
def discDesc (o : OpM) : Desc where
  opds := [src 1 o.a 2 [0, 2, 60]]
  hold := acqHolds
  chk := fun c s => addrTrap c.group (locErrs c.act (discLoc o c s) (fun l => addrShown c s c.group l .generic o.a o.off))
  eff := flushLines o 1 dropLine

/-! ### Synchronisation words (R383, R384) -/

/-- The address source of majors 0x27 at its scope. -/
def syncOpd (h : Hdr) (a : Nat) : Opd := src 1 a 1 (if h.scope == 1 then [2, 60, 7] else [0, 2, 60, 7])

/-- The lanes that act: every active lane, or once for the group. -/
def syncLanes (h : Hdr) (c : Ctx) : List Nat := if h.scope == 1 then c.act.take 1 else c.act

/-- The address trap of a synchronisation instruction. -/
def syncChk (h : Hdr) (o : OpM) (c : Ctx) (s : State) : List Trap :=
  let bad := locErrs (syncLanes h c) (fun l => addrOf c s c.group l (.space .spad) o.a o.off 16)
    (fun l => addrShown c s c.group l (.space .spad) o.a o.off)
  if h.scope == 1 then
    (match bad with
     | [] => []
     | (_, e, va) :: _ => [⟨13, e, va, c.act, c.group⟩])
  else addrTrap c.group bad

/-- The offset of a lane's word. -/
def syncOff (o : OpM) (c : Ctx) (s : State) (l : Nat) : Nat :=
  match addrOf c s c.group l (.space .spad) o.a o.off 16 with
  | .ok (_, x) => x
  | .error _ => 0

/-- Issue sets of a core that wait on words (R211). -/
def coreWaits (s : State) (t : Nat) : Nat :=
  ((s.groups.filter (fun e => !(s.team e.1.1).saved && (s.team e.1.1).cluster == (s.team t).cluster && (s.team e.1.1).core == (s.team t).core)).map
    (fun e => (e.2.waits.filter (fun w => w.bank.isNone)).length)).foldl (fun a b => a + b) 0

/-- `syncwait` (R383). -/
def syncwaitDesc (h : Hdr) (o : OpM) : Desc where
  opds := [dst 0 o.d 1 (if h.scope == 1 then [2] else [0]), syncOpd h o.a, src 2 o.b 1 [0, 2, 7]]
  unif := h.scope == 1
  hold := fun c s => acqHolds c s || decide (128 ≤ coreWaits s c.team)
  chk := syncChk h o
  eff := fun c s =>
    let ls := (syncLanes h c).map (fun l =>
      let g := (readSel c s c.group l o.b 1 0x2F).v % 2 ^ 16
      let off := syncOff o c s l
      (⟨l, off, g, (syncAt s c.team off).sat g, if h.scope == 1 then idx o.d else (s.thr (c.key l)).wb + idx o.d⟩ : WaitLane))
    let w : WaitRec := ⟨c.set, ls, none, h.scope == 1, sigOf c⟩
    let s := (ls.filter (·.ok)).foldl (fun s l => putSync c.team c.group w l (syncAt s c.team l.at_).result s) s
    if ls.all (·.ok) then sigSoon c s
    else
      let s := raiseW c.team c.group (sigOf c) s
      let s := s.modThrs c.team c.group c.set (fun t => { t with pc := c.pc, wait := .word })
      let s := s.modGrp c.team c.group (fun G => { G with waits := G.waits ++ [w] })
      ls.foldl (fun s l => if l.ok then s else timeWord c.team l.at_ s) s

/-- `syncadd` (R384). -/
def syncaddDesc (h : Hdr) (o : OpM) : Desc where
  opds := [syncOpd h o.a, src 2 o.b 1 (if h.scope == 1 then [2, 60, 7] else [0, 2, 60, 7])]
  unif := h.scope == 1
  hold := fun c s => acqHolds c s || (o.ord == 2 && relHolds o.msc c s)
  chk := fun c s => syncChk h o c s ++ (if o.ord == 2 then relTraps o.msc c s else [])
  eff := fun c s =>
    let ls := (syncLanes h c).map (fun l => (l, syncOff o c s l, (readSel c s c.group l o.b 1 0x2F).v % 2 ^ 32))
    let s := ls.foldl (fun s x => noteWrite c.team c.group x.2.1 16 (syncApply c.team x.2.1 x.2.2 false s)) s
    countLocal c.team c.group (if h.scope == 1 then c.act else ls.map (·.1)) 0 (sigSoon c s)

/-- `tld` (R375). -/
def execTld (h : Hdr) (o : OpT) (s : State) : Host.Outcome State Fault Refusal :=
  .next (issue (.tld h o) 2 (tldDesc o) s)

/-- `tst` (R375). -/
def execTst (h : Hdr) (o : OpT) (s : State) : Host.Outcome State Fault Refusal :=
  .next (issue (.tst h o) 2 (tstDesc o) s)

/-- `hld` (R374). -/
def execHld (h : Hdr) (o : OpT) (s : State) : Host.Outcome State Fault Refusal :=
  .next (issue (.hld h o) 2 (hldDesc o) s)

/-- `hclr` (R374). -/
def execHclr (h : Hdr) (o : OpT) (s : State) : Host.Outcome State Fault Refusal :=
  .next (issue (.hclr h o) 2 (hclrDesc o) s)

/-- `spt` (R376). -/
def execSpt (h : Hdr) (o : OpG) (s : State) : Host.Outcome State Fault Refusal :=
  .next (issue (.spt h o) 2 (sptDesc o) s)

/-- `cvta` (R376). -/
def execCvta (h : Hdr) (o : OpG) (s : State) : Host.Outcome State Fault Refusal :=
  .next (issue (.cvta h o) 2 (cvtaDesc o) s)

/-- `cvts` (R376). -/
def execCvts (h : Hdr) (o : OpG) (s : State) : Host.Outcome State Fault Refusal :=
  .next (issue (.cvts h o) 2 (cvtsDesc o) s)

/-- `pf` (R380). -/
def execPf (h : Hdr) (o : OpM) (s : State) : Host.Outcome State Fault Refusal :=
  .next (issue (.pf h o) 2 (pfDesc o) s)

/-- `flush` (R381). -/
def execFlush (h : Hdr) (o : OpM) (s : State) : Host.Outcome State Fault Refusal :=
  .next (issue (.flush h o) 2 (flushDesc o) s)

/-- `disc` (R382). -/
def execDisc (h : Hdr) (o : OpM) (s : State) : Host.Outcome State Fault Refusal :=
  .next (issue (.disc h o) 2 (discDesc o) s)

/-- `syncwait` (R383). -/
def execSyncwait (h : Hdr) (o : OpM) (s : State) : Host.Outcome State Fault Refusal :=
  .next (issue (.syncwait h o) 2 (syncwaitDesc h o) s)

/-- `syncadd` (R384). -/
def execSyncadd (h : Hdr) (o : OpM) (s : State) : Host.Outcome State Fault Refusal :=
  .next (issue (.syncadd h o) 2 (syncaddDesc h o) s)

end Sys2Proof.Machine
end

