-- ==== Sys2Proof/Machine/Async.lean ====
section
/-! DEFINITION. Asynchronous operations: their issue, the bytes that they hold undefined, and how their results land (R213, R214, R228, R243, R263, R385, R391). -/

namespace Sys2Proof.Machine

/-! ### The record of an operation -/

/-- An operation with everything open. -/
def AOp.zero : AOp :=
  { opc := 0, mode := 0, place := 0, a := [], b := [], c := [], recs := [], team := 0, ctx := 0, cluster := 0, core := 0,
    word := none, stage := 0, sig := none, reads := [], writes := [], hits := [], old := [], outs := [], spoil := [],
    pos := 0, err := false, fresh := 0, arrived := 0, badRows := [], node := none, start := 0, tileHits := [], code := 0, flags := 0 }

/-- An operation in flight. -/
def State.op (s : State) (id : Nat) : AOp := s.ops.getD id .zero

/-- Change an operation. -/
def State.modOp (s : State) (id : Nat) (f : AOp → AOp) : State :=
  match s.ops.get? id with
  | none => s
  | some p => { s with ops := s.ops.set id (f p) }

/-- An engine-command of major 0x28, or a piece of a COPY node. -/
def AOp.isEngine (p : AOp) : Bool := p.opc / 256 == 0x28 || p.opc == 0

/-- Operations that a team has in flight (OPS of R158, R325). -/
def opsOf (s : State) (t : Nat) : List (Nat × AOp) := s.ops.filter (fun e => e.2.node.isNone && e.2.team == t)

/-- The requester of an engine's access: 2 copy engine, 3 Firkin, 5 matrix die with the number of its array in the package (Tables fabric-10 and package-1). -/
def opWho (s : State) (p : AOp) : Who :=
  let ag := if p.opc == 0x2802 || p.opc == 0x2803 then ⟨3, p.cluster⟩
    else if p.isEngine then ⟨2, p.cluster⟩
    else if p.opc / 256 == 0x30 then ⟨5, 64 * bayOf p.cluster + p.place⟩
    else ⟨5, 64 * bayOf p.cluster⟩
  let vd := match p.node with
    | some (r, _) => ((s.runs.get? r).map (·.queue)).getD 0 / 4
    | none => (s.grid p.team).vdev
  ⟨ag, some (bayOf p.cluster), vd⟩

/-! ### The memories that an operation touches -/

/-- The translation that an engine will use, made as its access makes it, without a check of permission. -/
def touchXl (w : Who) (ctx va : Nat) (wr : Bool) (s : State) : State × XRes :=
  if outOfSpace ctx va then (s, .err 4)
  else
    match place ctx va w.vd w.bay false s with
    | (s, .error k) => (s, .err k)
    | (s, .ok home) =>
      match homeXl home ctx va w.vd wr s with
      | (s, .ok x) => (s, if wr && !x.attr.w then .err 5 else .ok x)
      | r => r

/-- A memory of physical addresses. -/
def physArea (host : Bool) : Area := if host then .host else .dev

/-- A stretch of an operand that no memory holds: the span keeps its place in the order. -/
def noSpan (va n : Nat) : Span := ⟨.dev, 2 ^ 60 + va, n⟩

/-- The physical spans of a global range, in order. -/
def globSpans (w : Who) (ctx va n : Nat) (wr : Bool) (s : State) : State × List Span :=
  (pieces va n).foldl (fun (a : State × List Span) p =>
    match touchXl w ctx p.1 wr a.1 with
    | (s, .ok x) => (s, a.2 ++ [⟨physArea x.attr.host, x.phys p.1, p.2⟩])
    | (s, _) => (s, a.2 ++ [noSpan p.1 p.2])) (s, [])

/-- A page that the operation translated at its issue and that is being evicted since: the access carries the older epoch and completes against the frame (R126). -/
def heldXl (p : AOp) (va : Nat) (s : State) : Option Xl :=
  match walkLeaf s p.ctx va with
  | .error _ => none
  | .ok (pte, e, size) =>
    let x := leafXl p.ctx va pte e size true
    if bit e 51 && inSpans (p.reads ++ p.writes) .dev (x.phys va) then some x else none

/-- Find a line for an operation's access. -/
def opLocate (p : AOp) (va : Nat) (wr : Bool) (s : State) : State × Except Nat Xl :=
  match heldXl p va s with
  | some x => (s, if wr && !x.attr.w then .error 5 else .ok x)
  | none => locate (opWho s p) p.ctx va wr false s

/-- Read bytes of one line for an operation. -/
def opRead (p : AOp) (va n : Nat) (s : State) : State × Except Nat (List Byte) :=
  match opLocate p va false s with
  | (s, .error k) => (s, .error k)
  | (s, .ok x) => rdAt (opWho s p) p.ctx va n x s

/-- The spans of a range in a space of a team. -/
def spotSpans (w : Who) (ctx t : Nat) (k : Space × Nat) (n : Nat) (wr : Bool) (s : State) : State × List Span :=
  match k.1 with
  | .glob => globSpans w ctx k.2 n wr s
  | sp => (s, [⟨s.areaOf t sp, k.2, n⟩])

/-- The program has written a byte that the operation reads. -/
def AOp.stirred (p : AOp) : Bool := p.hits.any (fun h => inSpans p.reads h.1 h.2)

/-- The program has written one of the bytes that an operation reads at an offset of a memory. -/
def AOp.stirredAt (p : AOp) (a : Area) (o n : Nat) : Bool := p.hits.any (fun h => h.1 == a && decide (o ≤ h.2) && decide (h.2 < o + n))

/-- A copy's destination bytes that come from source bytes which the program has written, for spans that run in step (R214 step 4). -/
def spreadHits (p : AOp) : List (Area × Nat) :=
  if p.stirred then
    (((spanCells p.reads).zip (spanCells p.writes)).filter (fun x => p.hits.contains x.1)).map Prod.snd
  else []

/-- Begin an operation: from its issue on its destination bytes hold undefined values (R214 step 4, R263). -/
def startOp (p : AOp) (s : State) : Nat × State :=
  let (id, s) := s.newId
  let (f, s) := s.newId
  let bs := spanBytes p.writes
  let old := bs.map (fun k => (k, s.areaByte k.1 k.2))
  let code := (p.writes.filter (fun x => decide (x.lo < 2 ^ 60))).flatMap (fun x =>
    match x.area with
    | .dev => oldPieces s false x.lo x.len
    | .host => oldPieces s true x.lo x.len
    | _ => [])
  let s := bs.foldl (fun s k => s.areaPut k.1 k.2 (Config.freeByte f k.2)) { s with oldCode := s.oldCode ++ code }
  (id, { s with ops := s.ops ++ [(id, { p with fresh := f, old := p.old ++ old })] })

/-! ### Landing (R214 steps 4 and 5, R215, R243) -/

/-- Results of an operation reach bytes that matrix operations in flight read (R228, R241). -/
def noteReads (l : List (Area × Nat)) (s : State) : State :=
  { s with ops := s.ops.map (fun e =>
      if e.2.opc / 256 == 0x30 || e.2.opc / 256 == 0x31 then
        (e.1, { e.2 with hits := e.2.hits ++ l.filter (fun k => inSpans e.2.reads k.1 k.2) })
      else e) }

/-- An operation ends: its results take their bytes, the others get back what they held, and bytes that the program wrote meanwhile stay undefined. -/
def landOp (id : Nat) (s : State) : State :=
  match s.ops.get? id with
  | none => s
  | some p =>
    let s := { s with ops := s.ops.del id }
    let s := p.old.foldl (fun s x => landByte id false x.1 x.2 s) s
    let s := noteReads (p.outs.map Prod.fst) (p.outs.foldl (fun s x => landByte id true x.1 x.2 s) s)
    let s := (p.hits.filter p.holds).foldl
      (fun s k => landByte id true k (Config.freeByte p.fresh k.2) s) s
    let s := (distinct (p.writes.map (·.area))).foldl (fun s a => landPoison (p.outs.map Prod.fst) p.spoil a s) s
    let s := p.writes.foldl (fun s x => if x.area == Area.host then dirtySectors x.lo x.len s else s) s
    if (s.teams.get? p.team).isSome then evalPort p.team s else s

/-- What waits for an operation's end: its team's exit or the save of its accumulators, or its COPY node (R92, R161, R325). -/
def afterOp (p : AOp) (s : State) : State :=
  match p.node with
  | some (r, n) =>
    match s.runs.get? r with
    | none => s
    | some R =>
      let N := R.nodes.getD n ⟨0, [], 0, 0, 0, 0, 0, false⟩
      let N := { N with count := N.count - 1, err := N.err || p.err }
      let s : State := { s with runs := s.runs.set r { R with nodes := R.nodes.set n N } }
      if N.count == 0 then s.push .nodeComplete ⟨r, n, if N.err then 3 else 0, []⟩ else s
  | none =>
    if !(opsOf s p.team).isEmpty || (s.teams.get? p.team).isNone then s
    else if (s.team p.team).halted then s.push .accumulatorSave (.ofK p.team)
    else if (s.liveGroups p.team).isEmpty then s.push .teamExit (.ofK p.team)
    else s

/-! ### Issue of engine commands and matrix operations (R258, R385, R391) -/

/-- What holds the issue: an acquire, the counters of MSCOPE, OWC at every scope, and the core's own stores, which the engine does not see in the write-combining store (R254, R258, R259, R263). -/
def engHolds (msc : Nat) (c : Ctx) (s : State) : Bool :=
  acqHolds c s || relHolds msc c s || c.act.any (fun l => (s.thr (c.key l)).owc != 0)
    || coreStores (unitOf s (c.key (c.set.headD 0))) s

/-- store_error at that release: OWC is waited for at every scope (R258, R259). -/
def engTraps (msc : Nat) (c : Ctx) (s : State) : List Trap :=
  c.mem.flatMap (fun m =>
    let l := m.2.filter (fun l => (s.thr (c.team, m.1, l)).storeErr.any (fun v => v == 1 || errCovered msc v))
    if l.isEmpty then [] else [⟨14, msc, 0, l, m.1⟩])

/-- A core's command queue has no room: it takes 16 engine commands, or 8 matrix operations (Table sched-4). -/
def cmdQueueFull (engine : Bool) (cluster core : Nat) (s : State) : Bool :=
  let n := (s.ops.filter (fun e => e.2.stage == 0 && e.2.isEngine == engine && e.2.node.isNone
    && e.2.cluster == cluster && e.2.core == core)).length
  decide ((if engine then 16 else 8) ≤ n)

/-- A full queue holds the instruction; of the first group of a slot, the choice of the slot has seen to it (R150). -/
def queueFull (engine : Bool) (c : Ctx) (s : State) : Bool :=
  match s.slot with
  | some (_, false) => false
  | _ => cmdQueueFull engine (s.team c.team).cluster (s.team c.team).core s

/-- An operation as the executing team issues it; its counter falls when its unit takes it (Table mem-2, R391). -/
def opFrom (opc mode : Nat) (word : Option Nat) (c : Ctx) (s : State) : AOp :=
  let T := s.team c.team
  { AOp.zero with
    opc := opc, mode := mode, team := c.team, ctx := T.ctx, cluster := T.cluster, core := T.core, word := word,
    sig := if sigOf c < 6 then some (c.mem.map Prod.fst, sigOf c) else none, start := s.now c.team }

/-- The s register that an operand names, from the lead group. -/
def sReg (c : Ctx) (s : State) (sel k : Nat) : Nat :=
  if cls sel == 2 then (readS c s (c.set.headD 0) (idx sel + k)).v.toNat else 0

/-- Send an operation to its core's queue, raising its counter, and let the unit's event follow. -/
def sendOp (ev : Instr) (p : AOp) (s : State) : State :=
  let s := match p.sig with
    | some (gs, k) => forEach gs (fun s g => raiseW p.team g k s) s
    | none => s
  let (id, s) := startOp p s
  s.push ev (.ofK id)

/-- The unit takes an operation from the queue: from then on it has its place in the order of arrival (R135, R227). -/
def takeOp (id : Nat) (s : State) : State :=
  let p := s.op id
  let (n, s) := s.newId
  let s := s.modOp id (fun p => { p with stage := 1, sig := none, arrived := n })
  match p.sig with
  | some (gs, k) => forEach gs (fun s g => lowerW p.team g k s) s
  | none => s

/-- The operation `e` has arrived before the operation `p`. -/
def AOp.before (e p : AOp) : Bool := e.stage != 0 && decide (e.arrived < p.arrived)

/-- An operation stands at the head of its core's queue. -/
def atHead (id : Nat) (s : State) : Bool :=
  let p := s.op id
  s.ops.all (fun e => decide (id ≤ e.1) || e.2.stage != 0 || e.2.isEngine != p.isEngine || e.2.cluster != p.cluster || e.2.core != p.core)

end Sys2Proof.Machine
end

