-- ==== Sys2Proof/Machine/Engines.lean ====
section
/-! DEFINITION. Major 0x28: the copy engine and the Firkin decoder (R213-R218, R385-R388). -/

namespace Sys2Proof.Machine

/-! ### MODE of Table mem-8 -/

/-- The word that a command counts into, none with NW = 1. -/
def wordOf (mode : Nat) : Option Nat := if bit mode 3 then none else some (16 * bits mode 18 4)

/-- SLOT. -/
def slotBit (mode : Nat) : Nat := bits mode 2 2

/-- A word beyond the allotment: sub-code 3 (R385). A scratchpad offset that an operand names is no virtual address, so TRAP.VA is 0 (Table core-4). -/
def wordChk (mode : Nat) (c : Ctx) (s : State) : List Trap :=
  match wordOf mode with
  | some o => if !c.act.isEmpty && (s.launch c.team).spad < o + 16 then [⟨13, 3, 0, c.act, c.lead⟩] else []
  | none => []

/-! ### Places (R386 to R388) -/

/-- A pointer of an engine command: the window step, and no alignment (R386). A private pointer is refused. -/
def engLoc (s : State) (t ptr : Nat) : Loc :=
  match window s t ptr with
  | .error e => .error e
  | .ok (.priv, _) => .error 8
  | .ok k => .ok k

/-- The bound of a range: the space's size, or the window region (R386). An offset that names a byte beyond the space fails whatever the length, as the decoding with n = 1 has it (R203). -/
def engBound (s : State) (t n : Nat) : Space × Nat → Loc
  | (.glob, o) => if 2 ^ 57 - 2 ^ 44 < o + n then .error 2 else .ok (.glob, o)
  | (sp, o) => if spaceSize s t sp < o + max n 1 then .error (boundCode sp) else .ok (sp, o)

/-- A place whose space an instruction accepts; another space is refused before its bounds are looked at (R388). -/
def inSpaces (ok : Space → Bool) : Loc → Loc
  | .ok (sp, o) => if ok sp then .ok (sp, o) else .error 8
  | .error e => .error e

/-- The checked range of a place. -/
def boundOf (s : State) (t n : Nat) : Loc → Loc
  | .ok k => engBound s t n k
  | .error e => .error e

/-- A checked range. -/
def engRange (s : State) (t ptr n : Nat) : Loc :=
  boundOf s t n (engLoc s t ptr)

/-- The pairings of Table local-5. -/
def pairOk (src dst : Space) : Bool := !(src == Space.clsh && dst == Space.clsh)

/-- The address trap of a command, of the active lanes (R365). -/
def cmdTrap (c : Ctx) (code va : Nat) : List Trap := if c.act.isEmpty then [] else [⟨13, code, va % 2 ^ 57, c.act, c.lead⟩]

/-- The first failing place among several, in order. -/
def firstBad (c : Ctx) (l : List (Loc × Nat)) : List Trap :=
  match l.filterMap (fun x => match x.1 with
    | .error e => some (e, x.2)
    | .ok _ => none) with
  | (e, va) :: _ => cmdTrap c e va
  | [] => []

/-! ### `copy` (R386) -/

/-- The conditions of `copy`; that of the length register is looked at whatever the guard (R291). -/
def copyChk (o : OpE) (c : Ctx) (s : State) : List Trap :=
  let d := sReg c s o.a 0
  let f := sReg c s o.b 0
  let n := sReg c s o.c 0
  if n / 2 ^ 32 != 0 then [c.trapAll 3 3]
  else
    match engRange s c.team d n, engRange s c.team f n with
    | .ok (ds, _), .ok (fs, _) => if pairOk fs ds then wordChk o.mode c s else cmdTrap c 8 d
    | x, y => firstBad c [(x, d), (y, f)]

/-- A command whose spans are known. -/
def withSpans (p : AOp) (dst src : Option ((Space × Nat) × Nat)) (s : State) : State × AOp :=
  let w := opWho s p
  let (s, rs) := match src with
    | some (k, n) => spotSpans w p.ctx p.team k n false s
    | none => (s, match dst with
      | some (_, n) => [noSpan 0 n]
      | none => [])
  let (s, ws) := match dst with
    | some (k, n) => spotSpans w p.ctx p.team k n true s
    | none => (s, [])
  (s, { p with reads := p.reads ++ rs, writes := p.writes ++ ws })

/-- `copy` (R386). -/
def copyDesc (o : OpE) : Desc where
  opds := [src 1 o.a 1 [2], src 2 o.b 1 [2], src 3 o.c 1 [2]]
  hold := fun c s => engHolds o.msc c s || queueFull true c s
  chk := fun c s => copyChk o c s ++ engTraps o.msc c s
  eff := fun c s =>
    if c.act.isEmpty then sigSoon c s
    else
      let d := sReg c s o.a 0
      let f := sReg c s o.b 0
      let n := sReg c s o.c 0
      let p := { opFrom 0x2800 o.mode (wordOf o.mode) c s with a := [d], b := [f], c := [n] }
      match engLoc s c.team d, engLoc s c.team f with
      | .ok kd, .ok kf =>
        let (s, p) := withSpans p (some (kd, n)) (some (kf, n)) s
        sendOp .copyCommandAccept p s
      | _, _ => s

/-! ### `tcopy` (R387) -/

/-- The record of a shape slot of the lead group. -/
def leadSlot (c : Ctx) (s : State) (sel : Nat) : Option Nat := (s.grp c.team c.lead).shapes.get? (idx sel)

/-- The coordinates of eight s registers: those of the destination, then those of the source. -/
def originOf (l : List Nat) (j0 : Nat) : List Int :=
  (upFrom 0 7).map (fun k => sext 32 (l.getD (j0 + k / 2) 0 / 2 ^ (32 * (k % 2)) % 2 ^ 32))

/-- Every index of a tile of extents TILE[k] + 1, in ascending order with the first fastest. -/
def tileIndices (h : Shape) : List (List Int) :=
  (boxCoords ((upFrom 0 h.rank).reverse.map (fun k => (0, h.tile.getD k 0 + 1)))).map (fun c => c.reverse.map Int.ofNat)

/-- The places of one element of a tile: destination and source (R387). -/
def tilePair (s : State) (p : AOp) (t : List Int) : ElemLoc × ElemLoc :=
  let hd := Shape.ofNat (p.recs.getD 0 0)
  let hs := Shape.ofNat (p.recs.getD 1 0)
  let add := fun (o : List Int) => (upFrom 0 7).map (fun k => o.getD k 0 + t.getD k 0)
  (elemCheck s p.team hd.ty (shapeAddr s p.team hd (add (originOf p.c 0))),
    elemCheck s p.team hs.ty (shapeAddr s p.team hs (add (originOf p.c 4))))

/-- The elements that a tile copy writes. -/
def tilePairs (s : State) (p : AOp) : List (ElemLoc × ElemLoc) :=
  ((tileIndices (Shape.ofNat (p.recs.getD 0 0))).map (tilePair s p)).filter (fun x => x.1 != .oob)

/-- The space that a record's base names. -/
def recSpace (s : State) (t : Nat) (h : Shape) : Option Space :=
  match window s t h.base with
  | .ok (sp, _) => some sp
  | .error _ => none

/-- The conditions of `tcopy`; those of its slots are looked at whatever the guard (R174, R291). -/
def tcopyChk (o : OpE) (c : Ctx) (s : State) : List Trap :=
  match leadSlot c s o.a, leadSlot c s o.b with
  | none, _ => [c.trapAll 11 (idx o.a)]
  | _, none => [c.trapAll 11 (idx o.b)]
  | some rd, some rs =>
    let hd := Shape.ofNat rd
    let hs := Shape.ofNat rs
    if hd.rank != hs.rank || hd.ty != hs.ty || hd.ty == 0x26 || hd.ty == 0x27 then [c.trapAll 3 2]
    else
      match recSpace s c.team hd, recSpace s c.team hs with
      | some d, some f =>
        if d == Space.priv || f == Space.priv || !pairOk f d then cmdTrap c 8 hd.base else wordChk o.mode c s
      | _, _ => cmdTrap c 8 hd.base

/-- `tcopy` (R387). -/
def tcopyDesc (o : OpE) : Desc where
  opds := [src 1 o.a 1 [62], src 2 o.b 1 [62], src 3 o.c 8 [23]]
  unif := true
  recalled := true
  hold := fun c s => engHolds o.msc c s || queueFull true c s
  chk := fun c s => tcopyChk o c s ++ engTraps o.msc c s
  eff := fun c s =>
    if c.act.isEmpty then sigSoon c s
    else
      match leadSlot c s o.a, leadSlot c s o.b with
      | some rd, some rs =>
        let p := { opFrom 0x2801 o.mode (wordOf o.mode) c s with
          recs := [rd, rs], c := (upFrom 0 8).map (sReg c s o.c) }
        let n := tySize (Shape.ofNat rd).ty
        let (s, p) := (tilePairs s p).foldl (fun (a : State × AOp) x =>
          let put := fun (l : ElemLoc) => match l with
            | .at_ sp b _ => some ((sp, b), n)
            | _ => none
          withSpans a.2 (put x.1) (put x.2) a.1) (s, p)
        sendOp .copyCommandAccept p s
      | _, _ => s

/-! ### `fktab` and `fkdec` (R388) -/

/-- The conditions of `fktab`. -/
def fktabChk (o : OpE) (c : Ctx) (s : State) : List Trap :=
  let d := sReg c s o.a 0
  match boundOf s c.team 320 (inSpaces (· != Space.spad) (engLoc s c.team d)) with
  | .error e => cmdTrap c e d
  | .ok (_, off) => if off % 64 != 0 then cmdTrap c 7 d else wordChk o.mode c s

/-- `fktab` (R388). -/
def fktabDesc (o : OpE) : Desc where
  opds := [src 1 o.a 1 [2]]
  hold := fun c s => engHolds o.msc c s || queueFull true c s
  chk := fun c s => fktabChk o c s ++ engTraps o.msc c s
  eff := fun c s =>
    if c.act.isEmpty then sigSoon c s
    else
      let d := sReg c s o.a 0
      match engLoc s c.team d with
      | .ok k =>
        let (s, p) := withSpans { opFrom 0x2802 o.mode (wordOf o.mode) c s with a := [d] } none (some (k, 320)) s
        sendOp .copyCommandAccept p s
      | .error _ => s

/-- The conditions of `fkdec`. -/
def fkdecChk (o : OpE) (c : Ctx) (s : State) : List Trap :=
  let d := sReg c s o.a 0
  let f := sReg c s o.b 0
  let k := sReg c s o.c 0
  let n := bits k 24 0
  if bits k 31 25 != 0 || 2 ^ 24 < n then [c.trapAll 3 3]
  else
    match boundOf s c.team n (inSpaces (· == Space.spad) (engLoc s c.team d)),
        boundOf s c.team (bits k 63 32) (inSpaces (· != Space.spad) (engLoc s c.team f)) with
    | .ok _, .ok _ => wordChk o.mode c s
    | x, y => firstBad c [(x, d), (y, f)]

/-- `fkdec` (R388). -/
def fkdecDesc (o : OpE) : Desc where
  opds := [src 1 o.a 1 [2], src 2 o.b 1 [2], src 3 o.c 1 [2]]
  hold := fun c s => engHolds o.msc c s || queueFull true c s
  chk := fun c s => fkdecChk o c s ++ engTraps o.msc c s
  eff := fun c s =>
    if c.act.isEmpty then sigSoon c s
    else
      let d := sReg c s o.a 0
      let f := sReg c s o.b 0
      let k := sReg c s o.c 0
      match engLoc s c.team d, engLoc s c.team f with
      | .ok kd, .ok kf =>
        let p := { opFrom 0x2803 o.mode (wordOf o.mode) c s with a := [d], b := [f], c := [k] }
        let (s, p) := withSpans p (some (kd, bits k 24 0)) (some (kf, bits k 63 32)) s
        sendOp .copyCommandAccept p s
      | _, _ => s

/-! ### Reading and writing for an engine (R214, R215) -/

/-- Bytes of a source, each with a flag for Err or poison; none when a page of it must be waited for. -/
def engRead (p : AOp) (k : Space × Nat) (n : Nat) (s : State) : State × Option (List (Byte × Bool)) :=
  match k.1 with
  | .glob =>
    (pieces k.2 n).foldl (fun (a : State × Option (List (Byte × Bool))) q =>
      match a.2 with
      | none => a
      | some l =>
        match opRead p q.1 q.2 a.1 with
        | (s, .ok b) => (s, some (l ++ b.map (fun x => (x, false))))
        | (s, .error 255) => (s, none)
        | (s, .error _) => (s, some (l ++ List.replicate q.2 (0, true)))) (s, some [])
  | sp =>
    let m := s.local p.team sp
    (s, some ((upFrom k.2 n).map (fun o => (m.byte o, m.bad (o / 4 * 4) 4))))

/-- Results of a step at their places: the bytes, those to be poisoned, and whether a write was answered with Err. -/
structure Landed where
  outs : List ((Area × Nat) × Byte)
  spoil : List (Area × Nat)
  err : Bool
  deriving DecidableEq, Repr

/-- Place bytes at a destination; none when a page of it must be waited for. A line that takes a failed source byte is poisoned whole in global memory (R215). -/
def engWrite (p : AOp) (k : Space × Nat) (l : List (Byte × Bool)) (s : State) : State × Option Landed :=
  match k.1 with
  | .glob =>
    (pieces k.2 l.length).foldl (fun (a : State × Option Landed) q =>
      match a.2 with
      | none => a
      | some r =>
        let part := (l.drop (q.1 - k.2)).take q.2
        match opLocate p q.1 true a.1 with
        | (s, .error 255) => (s, none)
        | (s, .error _) => (s, some { r with err := true })
        | (s, .ok x) =>
          let pa := x.phys q.1
          let ar := physArea x.attr.host
          if s.badMerge x.attr.host pa q.2 then
            (logWho (opWho s p) (lineKind s x.attr.host pa) p.ctx (x.home s q.1) q.1 s, some { r with err := true })
          else
            let bad := part.any Prod.snd
            (s, some ⟨r.outs ++ (part.zip (upFrom pa q.2)).map (fun y => ((ar, y.2), y.1.1)),
              r.spoil ++ (if bad then (upFrom (pa / 128 * 128) 128).map (fun o => (ar, o)) else []), r.err⟩))
      (s, some ⟨[], [], false⟩)
  | sp =>
    let ar := s.areaOf p.team sp
    let cells := l.zip (upFrom k.2 l.length)
    (s, some ⟨cells.map (fun y => ((ar, y.2), y.1.1)), (cells.filter (fun y => y.1.2)).map (fun y => (ar, y.2)), false⟩)

/-- Move bytes from a source to a destination. -/
def engMove (p : AOp) (dst src : Space × Nat) (n : Nat) (s : State) : State × Option (Landed × Bool) :=
  match engRead p src n s with
  | (s, none) => (s, none)
  | (s, some l) =>
    match engWrite p dst l s with
    | (s, none) => (s, none)
    | (s, some r) => (s, some (r, r.err || l.any Prod.snd))

/-! ### Acceptance (R213) -/

/-- `COPY_COMMAND_ACCEPT`: commands pass from their queue in order while the copy engine holds fewer than 64; the Firkin takes its own. -/
def acceptStep (s : State) : State :=
  let id := s.ev.k
  match s.ops.get? id with
  | none => s
  | some p =>
    let fk := p.opc == 0x2802 || p.opc == 0x2803
    let n := (s.ops.filter (fun e => e.2.stage == 1 && (e.2.opc == 0x2800 || e.2.opc == 0x2801 || e.2.opc == 0) && e.2.cluster == p.cluster)).length
    if p.stage != 0 then s
    else if !atHead id s || (!fk && 64 ≤ n) then s.push .copyCommandAccept s.ev
    else
      (takeOp id s).push
        (if p.opc == 0x2802 then .firkinTableLoadComplete else if p.opc == 0x2803 then .firkinDecodeComplete else .copyCountStep)
        (.ofK id)

/-! ### Counting (R214) -/

/-- The bytes of a finished command that the program's writes have left undefined: of a copy those that come from them, of a decode all. -/
def cmdHits (p : AOp) : List (Area × Nat) :=
  if p.opc == 0x2803 then (if p.stirred then spanBytes p.writes else []) else spreadHits p

/-- A command's last count is applied: its destination holds its values, and until a wait observes the word the program's writes to its bytes leave undefined ones (R214 step 4). -/
def finishCmd (id : Nat) (s : State) : State :=
  match s.ops.get? id with
  | none => s
  | some p =>
    let s := landOp id (s.modOp id (fun q => { q with hits := q.hits ++ cmdHits q }))
    let (f, s) := s.newId
    afterOp p (if p.node.isSome || p.opc == 0x2802 then s
      else { s with doneOps := s.doneOps ++ [⟨p.team, p.word, p.reads, p.writes, p.opc != 0x2803, f⟩] })

/-- The event that goes on with a command after a count. -/
def nextCount (p : AOp) : Instr := if p.opc == 0x2803 then .firkinDecodeComplete else .copyCountStep

/-- Count bytes of a command into its word, in the allotment or in its image (R160, R209); without a word it goes on or ends at once. -/
def bumpWord (id n : Nat) (err last : Bool) (s : State) : State :=
  let p := s.op id
  match p.word with
  | some o => s.push .syncUpdate ⟨p.team, o, 2 * n + b2n err, leBytes 8 (2 * id + b2n last)⟩
  | none => if last then finishCmd id s else s.push (nextCount p) (.ofK id)

/-! ### A copy's steps (R214, R215) -/

/-- The bytes that a command writes in all. -/
def copyTotal (s : State) (p : AOp) : Nat :=
  if p.opc == 0x2801 then (tilePairs s p).length * tySize (Shape.ofNat (p.recs.getD 0 0)).ty else p.c.getD 0 0

/-- The places of a byte copy: pointers of a command, virtual addresses of a COPY node. -/
def copyEnds (s : State) (p : AOp) : (Space × Nat) × (Space × Nat) :=
  if p.opc == 0 then ((.glob, p.a.getD 0 0), (.glob, p.b.getD 0 0))
  else
    let f := fun (x : Nat) => match engLoc s p.team x with
      | .ok k => k
      | .error _ => (.glob, 0)
    (f (p.a.getD 0 0), f (p.b.getD 0 0))

/-- The next bytes of a copy, at most 4 KiB: what lands, whether a step failed, and how many bytes they are. -/
def copyChunk (p : AOp) (s : State) : State × Option (Landed × Bool × Nat) :=
  if p.opc == 0x2801 then
    let w := tySize (Shape.ofNat (p.recs.getD 0 0)).ty
    let l := ((tilePairs s p).drop (p.pos / w)).take (4096 / w)
    let r := l.foldl (fun (a : State × Option (Landed × Bool)) x =>
      match a.2 with
      | none => a
      | some (acc, e) =>
        let join := fun (y : Landed) (e2 : Bool) => some ((⟨acc.outs ++ y.outs, acc.spoil ++ y.spoil, acc.err || y.err⟩ : Landed), e || e2)
        match x.1, x.2 with
        | .at_ ds db _, .at_ ss sb _ =>
          (match engMove p (ds, db) (ss, sb) w a.1 with
          | (s, none) => (s, none)
          | (s, some (y, e2)) => (s, join y e2))
        | .at_ ds db _, .oob =>
          (match engWrite p (ds, db) (List.replicate w (0, false)) a.1 with
          | (s, none) => (s, none)
          | (s, some y) => (s, join y y.err))
        | .at_ ds db _, .bad _ =>
          (match engWrite p (ds, db) (List.replicate w (0, true)) a.1 with
          | (s, none) => (s, none)
          | (s, some y) => (s, join y true))
        | _, _ => (a.1, some (acc, true))) (s, some (⟨[], [], false⟩, false))
    (r.1, r.2.map (fun x => (x.1, x.2, l.length * w)))
  else
    let n := min 4096 (copyTotal s p - p.pos)
    let (d, f) := copyEnds s p
    match engMove p (d.1, d.2 + p.pos) (f.1, f.2 + p.pos) n s with
    | (s, none) => (s, none)
    | (s, some (y, e)) => (s, some (y, e, n))

/-- `COPY_COUNT_STEP`: the next bytes move, then they are counted; with the last count the destination holds its values (R214). -/
def copyStep (s : State) : State :=
  let id := s.ev.k
  match s.ops.get? id with
  | none => s
  | some p =>
    match copyChunk p s with
    | (s, none) => s.push .copyCountStep s.ev
    | (s, some (y, e, n)) =>
      let total := copyTotal s p
      let s := s.modOp id (fun q =>
        { q with outs := q.outs ++ y.outs, spoil := q.spoil ++ y.spoil, pos := q.pos + n, err := q.err || e })
      bumpWord id n e (decide (total ≤ p.pos + n)) s

/-! ### The Firkin (R216 to R218) -/

/-- No earlier command of the cluster's Firkin is still to end. -/
def firkinTurn (id : Nat) (p : AOp) (s : State) : Bool :=
  s.ops.all (fun e => e.1 == id || !e.2.before p || e.2.cluster != p.cluster || !(e.2.opc == 0x2802 || e.2.opc == 0x2803))

/-- A 16-bit number in a list of bytes. -/
def half (l : List Byte) (o : Nat) : Nat := leVal ((l.drop o).take 2)

/-- R217: codes of each length in ascending order, as length, code and symbol. -/
def assignCodes (l : List Byte) : List (Nat × Nat × Nat) :=
  ((upFrom 1 16).foldl (fun (a : Nat × Nat × List (Nat × Nat × Nat)) L =>
    let n := half l (32 + 2 * (L - 1))
    let cs := (upFrom 0 n).map (fun j => (L, a.1 + j, ((l.drop (64 + a.2.1 + j)).headD 0).toNat))
    ((a.1 + n) * 2, a.2.1 + n, a.2.2 ++ cs)) (0, 0, [])).2.2

/-- R216: Σ LCOUNT = NSYM, and the code lengths fit. -/
def tableValid (l : List Byte) : Bool :=
  let n := half l 0
  let sum := (upFrom 1 16).foldl (fun a L => a + half l (32 + 2 * (L - 1))) 0
  let kraft := (upFrom 1 16).foldl (fun a L => a + half l (32 + 2 * (L - 1)) * 2 ^ (16 - L)) 0
  decide (1 ≤ n) && decide (n ≤ 256) && sum == n && decide (kraft ≤ 2 ^ 16)

/-- `FIRKIN_TABLE_LOAD_COMPLETE` (R217). -/
def tableStep (s : State) : State :=
  let id := s.ev.k
  match s.ops.get? id with
  | none => s
  | some p =>
    if !firkinTurn id p s then s.push .firkinTableLoadComplete s.ev
    else
      match engLoc s p.team (p.a.getD 0 0) with
      | .error _ => s
      | .ok k =>
        match engRead p k 320 s with
        | (s, none) => s.push .firkinTableLoadComplete s.ev
        | (s, some l) =>
          let b := if p.stirred then (upFrom 0 320).map (Config.freeByte p.fresh) else l.map Prod.fst
          let ok := !l.any Prod.snd && tableValid b
          let slot : FkSlot := ⟨p.ctx, ok, if ok then assignCodes b else []⟩
          let s := { s with firkin := s.firkin.set (p.cluster, slotBit p.mode) slot }
          bumpWord id 320 (!ok) true s

/-- The bits of a stream, bit 7 of each byte first. -/
def streamBits (l : List Byte) : List Bool := l.flatMap (fun b => (upFrom 0 8).map (fun k => b.getLsbD (7 - k)))

/-- The value of bits, the first the most significant. -/
def msbVal (l : List Bool) : Nat := l.foldl (fun a b => 2 * a + b2n b) 0

/-- The shortest assigned code that the stream begins with. -/
def matchCode (codes : List (Nat × Nat × Nat)) (l : List Bool) : Option (Nat × List Bool) :=
  match codes.find? (fun c => decide (c.1 ≤ l.length) && msbVal (l.take c.1) == c.2.1) with
  | some c => some (c.2.2, l.drop c.1)
  | none => none

/-- Decode up to n symbols; the flag says that all n were found (R218). -/
def decodeStream (codes : List (Nat × Nat × Nat)) : Nat → List Bool → List Byte × Bool
  | 0, _ => ([], true)
  | n + 1, l =>
    match matchCode codes l with
    | none => ([], false)
    | some (x, r) =>
      let q := decodeStream codes n r
      (BitVec.ofNat 8 x :: q.1, q.2)

/-- The next count of a decode, at most 4 KiB; the last carries err (R214, R218). -/
def decodeCount (id : Nat) (s : State) : State :=
  let p := s.op id
  let n := bits (p.c.getD 0 0) 24 0
  let k := min 4096 (n - p.pos)
  let last := decide (n ≤ p.pos + k)
  let err := if p.stirred then Config.freeChoice s.tick id % 2 == 1 else p.err
  bumpWord id k (last && err) last (s.modOp id (fun q => { q with pos := q.pos + k }))

/-- `FIRKIN_DECODE_COMPLETE`: the stream is decoded, then its symbols are counted (R218). -/
def decodeStep (s : State) : State :=
  let id := s.ev.k
  match s.ops.get? id with
  | none => s
  | some p =>
    if p.pos != 0 then decodeCount id s
    else if !firkinTurn id p s then s.push .firkinDecodeComplete s.ev
    else
      let k := p.c.getD 0 0
      let n := bits k 24 0
      match engLoc s p.team (p.a.getD 0 0), engLoc s p.team (p.b.getD 0 0) with
      | .ok kd, .ok kf =>
        match engRead p kf (bits k 63 32) s with
        | (s, none) => s.push .firkinDecodeComplete s.ev
        | (s, some l) =>
          let slot := s.firkin.get? (p.cluster, slotBit p.mode)
          let codes := match slot with
            | some f => if f.valid && f.ctx == p.ctx then f.codes else []
            | none => []
          let src := (l.takeWhile (fun x => !x.2)).map Prod.fst
          let (out, ok) := decodeStream codes n (streamBits src)
          let ar := s.areaOf p.team kd.1
          decodeCount id (s.modOp id (fun q =>
            { q with outs := (out.zip (upFrom kd.2 out.length)).map (fun y => ((ar, y.2), y.1)), err := !ok }))
      | _, _ => s

/-! ### The instructions and events -/

/-- `copy` (R386). -/
def execCopy (h : Hdr) (o : OpE) (s : State) : Host.Outcome State Fault Refusal :=
  .next (issue (.copy h o) 4 (copyDesc o) s)

/-- `tcopy` (R387). -/
def execTcopy (h : Hdr) (o : OpE) (s : State) : Host.Outcome State Fault Refusal :=
  .next (issue (.tcopy h o) 4 (tcopyDesc o) s)

/-- `fktab` (R388). -/
def execFktab (h : Hdr) (o : OpE) (s : State) : Host.Outcome State Fault Refusal :=
  .next (issue (.fktab h o) 4 (fktabDesc o) s)

/-- `fkdec` (R388). -/
def execFkdec (h : Hdr) (o : OpE) (s : State) : Host.Outcome State Fault Refusal :=
  .next (issue (.fkdec h o) 4 (fkdecDesc o) s)

/-- `COPY_COMMAND_ACCEPT` (R213). -/
def execCopyCommandAccept (s : State) : Host.Outcome State Fault Refusal := .next (acceptStep s)

/-- `COPY_COUNT_STEP` (R214). -/
def execCopyCountStep (s : State) : Host.Outcome State Fault Refusal := .next (copyStep s)

/-- `FIRKIN_TABLE_LOAD_COMPLETE` (R217). -/
def execFirkinTableLoadComplete (s : State) : Host.Outcome State Fault Refusal := .next (tableStep s)

/-- `FIRKIN_DECODE_COMPLETE` (R218). -/
def execFirkinDecodeComplete (s : State) : Host.Outcome State Fault Refusal := .next (decodeStep s)

end Sys2Proof.Machine
end

