-- ==== Sys2Proof/Machine/MatrixCommon.lean ====
section
/-! DEFINITION. What the operations of majors 0x30 and 0x31 share: operand maps, tiles, reports, completion, and the rules of overlap (R223-R231, R234, R242-R245, R389-R392). -/

namespace Sys2Proof.Machine

/-! ### Formats (Table matrix-1) -/

/-- Formats of a matrix operand. -/
def matFmt (f : Nat) : Bool := isB8 f || [0x20, 0x21, 0x24, 0x25, 0x26].contains f
/-- Formats of an epilogue output. -/
def outFmt (f : Nat) : Bool := isB8 f || [0x20, 0x21, 0x24, 0x25, 0x28, 0x29].contains f
/-- Bits of an element; 0x29 is a pair. -/
def fmtBits (f : Nat) : Nat := if f == 0x29 then 64 else tyBits f

/-! ### Operand maps (R229 to R231) -/

/-- An operand map (Table matrix-3). -/
structure OMap where
  fmt : Nat
  rows : Nat
  cols : Nat
  base : Nat
  pitch : Nat
  rbase : Nat
  rsize : Nat
  swz : Nat
  rsv : Nat
  deriving DecidableEq, Repr

/-- Read a map's fields. -/
def OMap.ofNat (x : Nat) : OMap :=
  ⟨bits x 127 122, bits x 121 109, bits x 108 101, bits x 100 82, bits x 81 66, bits x 65 47, bits x 46 28, bits x 27 22, bits x 21 0⟩

/-- `map_offset(m, r, b)` of R230. -/
def OMap.offset (m : OMap) (r b : Nat) : Nat :=
  let o := m.base + r * m.pitch + b
  let o := if m.rsize = 0 then o else m.rbase + (o - m.rbase) % m.rsize
  setBits o 8 3 (bits o 8 3 ^^^ (r % 64 &&& m.swz))

/-- Offsets of a row's 8-byte chunks. -/
def OMap.chunks (m : OMap) (r : Nat) : List Nat := (upFrom 0 (m.cols * fmtBits m.fmt / 64)).map (fun q => m.offset r (8 * q))

/-- Every chunk of the walk. -/
def OMap.walk (m : OMap) : List Nat := (upFrom 0 m.rows).flatMap m.chunks

/-- A map is valid for a use of at most 128 rows (R231). -/
def OMap.valid (m : OMap) (ok : Nat → Bool) (spad : Nat) : Bool :=
  ok m.fmt && decide (m.rows ≤ 128) && decide (m.cols ≤ 128) && m.cols % 16 == 0
    && m.base % 8 == 0 && m.pitch % 8 == 0 && m.rbase % 8 == 0 && m.rsize % 8 == 0
    && (m.rsize == 0 || (decide (m.rbase ≤ m.base) && decide (m.base < m.rbase + m.rsize)
      && (m.swz == 0 || (m.rbase % 512 == 0 && m.rsize % 512 == 0))))
    && m.rsv == 0 && m.walk.all (fun o => decide (o + 8 ≤ spad))

/-- Scratchpad bytes of a team as a span. -/
def spadSpan (t off n : Nat) : Span := ⟨.spad t, off, n⟩

/-- The bytes of a map's walk. -/
def OMap.spans (m : OMap) (t : Nat) : List Span := m.walk.map (fun o => spadSpan t o 8)

/-- The offset of an element, and its nibble when the format has two to a byte. -/
def OMap.elem (m : OMap) (r j : Nat) : Nat × Option Nat :=
  let b := j * fmtBits m.fmt / 8
  (m.offset r (b / 8 * 8) + b % 8, if fmtBits m.fmt == 4 then some (j % 2) else none)

/-- The map that an offset names, as the allotment holds it. -/
def mapAt (s : State) (t off : Nat) : OMap := .ofNat ((s.team t).spad.num off 16)

/-- The checks of a map named by s[A] (R229, R231). -/
def mapChk (v : Nat) (ok : Nat → Bool) (c : Ctx) (s : State) : List Trap :=
  let spad := (s.launch c.team).spad
  if v / 2 ^ 19 != 0 then [c.trapAll 3 1]
  else if spad < v + 16 then cmdTrap c 3 0
  else if v % 16 != 0 then cmdTrap c 7 0
  else if (s.team c.team).spad.bad v 16 then [⟨12, 1, 0, c.act, c.lead⟩]
  else if (mapAt s c.team v).valid ok spad then [] else [c.trapAll 3 1]

/-! ### Places and the barrier object (R225, R390, R392) -/

/-- The array 8·y + x that a place names, in the team's rectangle. -/
def arrayPlace (o : OpE) (c : Ctx) (s : State) : Option Nat :=
  let L := s.launch c.team
  let T := s.team c.team
  if o.pdx < L.arrw && o.pdy < L.arrh then some (8 * (T.oy + o.pdy) + T.ox + o.pdx) else none

/-- The bay that a place names. -/
def bayPlace (o : OpE) (c : Ctx) (s : State) : Option Nat :=
  let b := bayOf (s.team c.team).cluster
  let x := ((b % 4 : Nat) : Int) + sext 4 o.pdx
  let y := ((b / 4 : Nat) : Int) + sext 4 o.pdy
  if 0 ≤ x && x < 4 && 0 ≤ y && y < 2 then some (4 * y.toNat + x.toNat) else none

/-- illegal_operand of a field, of the whole issue set (R291). -/
def opdTrap (f : Nat) (c : Ctx) : List Trap := [c.trapAll 3 f]

/-- The trap of a place outside the rectangle or the package. -/
def placeChk (p : Option Nat) (c : Ctx) : List Trap := if p.isSome then [] else opdTrap 5 c

/-- A barrier object beyond the allotment (R390). -/
def barChk (o : OpE) (c : Ctx) (s : State) : List Trap :=
  if (s.launch c.team).spad < barOff o.mode + 32 then cmdTrap c 3 0 else []

/-- A scratchpad range: misaligned, then beyond the allotment. -/
def rangeChk (off n al : Nat) (c : Ctx) (s : State) : List Trap :=
  if off % al != 0 then cmdTrap c 7 0
  else if (s.launch c.team).spad < off + n then cmdTrap c 3 0 else []

/-! ### Issue (R389, R391, R394) -/

/-- Bytes that the issuing groups have written since their last operand-ready fence. -/
def unfencedHits (c : Ctx) (s : State) (l : List Span) : List (Area × Nat) :=
  let ws := c.mem.flatMap (fun m => (s.grp c.team m.1).unfenced)
  (ws.flatMap (fun i => (upFrom i.lo i.len).map (fun o => (Area.spad c.team, o)))).filter (fun k => inSpans l k.1 k.2)

/-- Send an operation, noting the unfenced writes to its operands. -/
def mxSend (c : Ctx) (p : AOp) (s : State) : State :=
  sendOp .asyncOperationComplete { p with hits := unfencedHits c s p.reads } s

/-- An operation of these majors before its operands are known. -/
def mxOp (o : OpE) (opc place : Nat) (c : Ctx) (s : State) : AOp :=
  { opFrom opc o.mode (some (barOff o.mode)) c s with place := place }

/-- An instruction that names a barrier object. The check of its place stands with its other fields (R290). -/
def mxDesc (o : OpE) (opds : List Opd) (pre chk : Ctx → State → List Trap) (go : Ctx → State → State) : Desc where
  opds := opds
  full := true
  pre := pre
  hold := fun c s => engHolds o.msc c s || queueFull false c s
  chk := fun c s => chk c s ++ barChk o c s ++ engTraps o.msc c s
  eff := fun c s => if c.act.isEmpty then sigSoon c s else go c s

/-! ### Reports (R234, R243, R244) -/

/-- OVF, NAN, EMPTY, POISON and CORR of Table matrix-5. -/
def fOvf : Nat := 64
def fNan : Nat := 32
def fEmpty : Nat := 16
def fPoison : Nat := 8
def fCorr : Nat := 4

/-- What an operation reports. -/
structure Report where
  code : Nat := 0
  flags : Nat := 0
  flushes : Nat := 0
  aux : Nat := 0
  deriving DecidableEq, Repr

/-- The lowest code of several. -/
def lowCode (a b : Nat) : Nat := if a == 0 then b else if b == 0 then a else min a b

/-- A report joined with another code and flags. -/
def Report.with_ (r : Report) (code flags : Nat) : Report := { r with code := lowCode r.code code, flags := r.flags ||| flags }

/-- Merge a report into a status word (R243). -/
def mergeStatus (st : Nat) (r : Report) (array : Nat) : Nat :=
  let st := setBits st 127 112 (min (bits st 127 112 + r.flushes) 65535)
  let st := setBits st 111 96 ((bits st 111 96 + 1) % 65536)
  let st := if r.code != 0 && bits st 63 56 == 0 then setBits (setBits (setBits st 63 56 r.code) 55 48 r.aux) 47 42 array else st
  st ||| r.flags ||| (if r.code != 0 then 128 else 0)

/-- The array that a status word shows: that of the operation's place, or 0 for an operation of major 0x31, which names no array (log entry 74). -/
def AOp.array (p : AOp) : Nat := if p.opc / 256 == 0x30 then p.place else 0

/-- Poison the elements that a check named, in the tiles of the operation's array (R244). -/
def spoilEls (p : AOp) (s : State) : State :=
  if p.tileHits.isEmpty || p.opc == 0x3006 then s
  else
    let k := (bayOf p.cluster, p.place)
    let A := s.arrays.getD k ⟨[], []⟩
    let tiles := p.tileHits.foldl (fun (ts : Tbl Nat Tile) h =>
      let t := ts.getD h.1 ⟨[], none, none⟩
      let e := t.els.getD (h.2.1, h.2.2) ⟨Pair.zero, false⟩
      ts.set h.1 { t with els := t.els.set (h.2.1, h.2.2) { e with poison := true } }) A.tiles
    { s with arrays := s.arrays.set k { A with tiles := tiles } }

/-- An operation ends: its results land, then one merge and one update (R243). -/
def completeOp (id : Nat) (r : Report) (s : State) : State :=
  match s.ops.get? id with
  | none => s
  | some p =>
    let r := r.with_ p.code p.flags
    let s := spoilEls p (landOp id s)
    let s := match p.word with
      | some o =>
        let st := (s.team p.team).spad.num (o + 16) 16
        syncApply p.team o 1 (r.code != 0) (portWrite p.team .spad (o + 16) (leBytes 16 (mergeStatus st r p.array)) s)
      | none => s
    afterOp p s

/-- Results that an operation leaves at its end: bytes, poisoned bytes, and bytes left undefined. -/
def withOuts (id : Nat) (outs : List ((Area × Nat) × Byte)) (spoil undef : List (Area × Nat)) (s : State) : State :=
  s.modOp id (fun p => { p with outs := p.outs ++ outs, spoil := p.spoil ++ spoil, hits := p.hits ++ undef })

/-! ### Reading operands (R228) -/

/-- A scratchpad byte as the operation reads it; where it also writes the byte, the value before. -/
def opByte (p : AOp) (s : State) (o : Nat) : Byte :=
  match p.old.find? (fun x => x.1 == (Area.spad p.team, o)) with
  | some x => x.2
  | none => (s.team p.team).spad.byte o

/-- Bytes as a little-endian number. -/
def opNum (p : AOp) (s : State) (o n : Nat) : Nat := leVal ((upFrom o n).map (opByte p s))

/-- The rows that an operation streams over its operand queue (R46, R244). -/
def opRows (p : AOp) : Nat :=
  match p.opc with
  | 0x3001 | 0x3002 => (OMap.ofNat (p.recs.getD 0 0)).rows
  | 0x3004 => if bit (p.b.getD 0 0) 3 then bits (p.c.getD 0 0) 13 6 else (OMap.ofNat (p.recs.getD 0 0)).rows
  | 0x3100 => bits (p.a.getD 0 0) 23 19
  | 0x3101 => bits (p.a.getD 0 0) 53 38
  | _ => 0

/-- A poisoned word among bytes. -/
def opBad (p : AOp) (s : State) (o n : Nat) : Bool := (s.team p.team).spad.bad o n

/-- A byte that the program has written meanwhile. -/
def opStirred (p : AOp) (o n : Nat) : Bool := p.stirredAt (.spad p.team) o n

/-- An element that an operation reads. -/
structure OElem where
  code : Nat
  bad : Bool
  stirred : Bool
  deriving DecidableEq, Repr

/-- An element of `w` bits at an offset. -/
def opElem (p : AOp) (s : State) (w : Nat) (o : Nat × Option Nat) : OElem :=
  let n := if w < 8 then 1 else w / 8
  let x := opNum p s o.1 n
  let x := match o.2 with
    | some k => x / 2 ^ (4 * k) % 16
    | none => x
  ⟨x, opBad p s o.1 n, opStirred p o.1 n⟩

/-- A row of a map. -/
def mapRow (p : AOp) (s : State) (m : OMap) (r : Nat) : List OElem :=
  (upFrom 0 m.cols).map (fun j => opElem p s (fmtBits m.fmt) (m.elem r j))

/-! ### Tiles (R223, R225, R310) -/

/-- A bay's array. -/
def State.array (s : State) (b k : Nat) : MArray := s.arrays.getD (b, k) ⟨[], []⟩

/-- Change an operation's array. -/
def modArray (p : AOp) (f : MArray → MArray) (s : State) : State :=
  let k := (bayOf p.cluster, p.place)
  { s with arrays := s.arrays.set k (f (s.arrays.getD k ⟨[], []⟩)) }

/-- A tile that was never used. -/
def Tile.none_ : Tile := ⟨[], none, none⟩

/-- An element; an undefined one is a pair without poison (R6, R225). -/
def Tile.el (t : Tile) (r j : Nat) : Elt :=
  match t.els.get? (r, j) with
  | some e => e
  | none =>
    match t.fresh with
    | none => ⟨Pair.zero, false⟩
    | some f =>
      let i := 2 * (128 * r + j)
      ⟨⟨Config.freeWord f i % 2 ^ 32, Config.freeWord f (i + 1) % 2 ^ 32⟩, false⟩

/-- Write elements of a tile. -/
def Tile.put (t : Tile) (l : List ((Nat × Nat) × Elt)) : Tile := { t with els := l.foldl (fun m x => m.set x.1 x.2) t.els }

/-- A tile of an operation's array. -/
def State.tile (s : State) (p : AOp) (k : Nat) : Tile := (s.array (bayOf p.cluster) p.place).tiles.getD k .none_

/-- What a `pair_add` of `x` to `a` reports for its result (R234). -/
def addFlags (a x r : Pair) : Nat :=
  let new := pairNews a x r
  (if new.1 then fOvf else 0) ||| (if new.2 then fNan else 0)

/-- What a `column_sum` reports for its result (R234). -/
def sumFlags (ab : List (Exact × Exact)) (r : Nat) : Nat :=
  let all := ab.flatMap (fun x => [x.1, x.2])
  (if (f32 r).isInf && all.all (fun x => !x.isNan && !x.isInf) then fOvf else 0)
    ||| (if (f32 r).isNan && !all.any Exact.isNan then fNan else 0)

/-- A free pair for a result whose operands the program has written meanwhile. -/
def freePair (p : AOp) (n : Nat) : Pair := ⟨Config.freeWord p.fresh (2 * n) % 2 ^ 32, Config.freeWord p.fresh (2 * n + 1) % 2 ^ 32⟩

/-- OVF and NAN of a result whose operands the program has written meanwhile. -/
def freeFlags (p : AOp) (n : Nat) : Nat := Config.freeWord p.fresh (16777216 + n) / 32 % 4 * 32

/-- Elements written at an operation's end; a Rod send of an earlier issue that has not read its region finds them undefined (R239). -/
def putTile (id : Nat) (p : AOp) (k : Nat) (l : List ((Nat × Nat) × Elt)) (s : State) : State :=
  let s := modArray p (fun A => { A with tiles := A.tiles.set k ((A.tiles.getD k .none_).put l) }) s
  let hit := l.map (fun x => (k, x.1.1, x.1.2))
  { s with ops := s.ops.map (fun e =>
      if e.1 < id && e.2.opc == 0x3006 && e.2.place == p.place && bayOf e.2.cluster == bayOf p.cluster then
        (e.1, { e.2 with tileHits := e.2.tileHits ++ hit })
      else e) }

/-! ### The rules of overlap (R227) -/

/-- A rectangle of a tile: tile, first row and rows, first column and columns. -/
structure Rect where
  tile : Nat
  r0 : Nat
  m : Nat
  c0 : Nat
  n : Nat
  deriving DecidableEq, Repr

/-- Two rectangles share an element. -/
def Rect.meets (a b : Rect) : Bool := a.tile == b.tile && overlaps a.r0 a.m b.r0 b.m && overlaps a.c0 a.n b.c0 b.n

/-- The region of a Rod operation (Table mxi-6). -/
def rodRect (v : Nat) : Rect := ⟨bits v 32 30, bits v 22 16, bits v 7 0, bits v 29 23, bits v 15 8⟩

/-- Rows and columns of an accumulator read. -/
def areadSize (p : AOp) : Nat × Nat :=
  if bit (p.b.getD 0 0) 3 then (bits (p.c.getD 0 0) 13 6, bits (p.c.getD 0 0) 21 14)
  else ((OMap.ofNat (p.recs.getD 0 0)).rows, (OMap.ofNat (p.recs.getD 0 0)).cols)

/-- The tile elements that an operation reads or writes. -/
def opRects (p : AOp) : List Rect :=
  match p.opc with
  | 0x3002 =>
    let m := OMap.ofNat (p.recs.getD 0 0)
    let b := p.b.getD 0 0
    (upFrom (bits b 13 11) (bits b 16 14 + 1)).map (fun t => ⟨t, 0, m.rows, 0, bits b 7 0⟩)
  | 0x3003 =>
    let a := p.a.getD 0 0
    [⟨bits a 18 16, 0, bits a 7 0, 0, bits a 15 8⟩]
  | 0x3004 => [⟨bits (p.b.getD 0 0) 2 0, 0, (areadSize p).1, 0, (areadSize p).2⟩]
  | 0x3006 | 0x3007 => [rodRect (p.a.getD 0 0)]
  | _ => []

/-- The planes that an operation reads or reloads. -/
def opPlanes (p : AOp) : List Nat :=
  match p.opc with
  | 0x3001 => [bits p.mode 2 0]
  | 0x3002 => upFrom (bits (p.b.getD 0 0) 10 8) (bits (p.b.getD 0 0) 16 14 + 1)
  | _ => []

/-- Two operations of one array must keep their order. -/
def opsMeet (p q : AOp) : Bool :=
  p.opc / 256 == 0x30 && q.opc / 256 == 0x30 && p.place == q.place && bayOf p.cluster == bayOf q.cluster
    && ((opRects p).any (fun a => (opRects q).any a.meets)
      || ((p.opc == 0x3001 || q.opc == 0x3001) && (opPlanes p).any (opPlanes q).contains))

/-- An earlier operation that has arrived must end first. A Rod send holds back nothing, and a Rod receive does not hold back a send. -/
def opBlocked (id : Nat) (p : AOp) (s : State) : Bool :=
  s.ops.any (fun e => e.1 != id && e.2.before p && e.2.opc != 0x3006
    && !(e.2.opc == 0x3007 && p.opc == 0x3006) && opsMeet p e.2)

end Sys2Proof.Machine
end

