-- ==== Sys2Proof/Machine/Matrix.lean ====
section
/-! DEFINITION. Major 0x30: operand maps, the operand-ready fence, weight reloads, multiplies, clears and accumulator reads (R232-R236, R393-R398). -/

namespace Sys2Proof.Machine

/-! ### `mapset` and `ofence` (R393, R394) -/

/-- The conditions of `mapset`. -/
def mapsetChk (o : OpE) (c : Ctx) (s : State) : List Trap :=
  let m := OMap.ofNat (sReg c s o.a 0 + 2 ^ 64 * sReg c s o.a 1)
  let off := sReg c s o.b 0
  if (!matFmt m.fmt && !outFmt m.fmt) || m.rsv != 0 then opdTrap 1 c
  else if off / 2 ^ 19 != 0 then opdTrap 2 c
  else if (s.launch c.team).spad < off + 16 then cmdTrap c 3 0
  else if off % 16 != 0 then cmdTrap c 7 0 else []

/-- `mapset` (R393): one 16-byte store. -/
def mapsetDesc (o : OpE) : Desc where
  opds := [src 1 o.a 2 [22], src 2 o.b 1 [2]]
  unif := true
  recalled := true
  hold := acqHolds
  chk := mapsetChk o
  eff := fun c s =>
    if c.act.isEmpty then sigSoon c s
    else
      let off := sReg c s o.b 0
      let l := leBytes 16 (sReg c s o.a 0 + 2 ^ 64 * sReg c s o.a 1)
      let (tr, s) := openTrack c 1 0 s
      countLocal c.team c.group c.act tr (noteWrite c.team c.group off 16 (portWrite c.team .spad off l s))

/-- `ofence` (R394). -/
def ofenceDesc : Desc where
  opds := []
  full := true
  hold := fun c s => c.set.any (fun l => (s.thr (c.key l)).owl != 0)
  eff := fun c s => c.mem.foldl (fun s m => s.modGrp c.team m.1 (fun G => { G with unfenced := [] })) (sigSoon c s)

/-! ### `wload` (R232, R395) -/

/-- The place of an array (R392). -/
def arrayPre (o : OpE) (c : Ctx) (s : State) : List Trap := placeChk (arrayPlace o c s) c

/-- `wload` (R395). -/
def wloadDesc (o : OpE) : Desc :=
  mxDesc o [src 1 o.a 1 [2]] (arrayPre o) (fun c s => mapChk (sReg c s o.a 0) matFmt c s)
    (fun c s =>
      let v := sReg c s o.a 0
      mxSend c { mxOp o 0x3001 ((arrayPlace o c s).getD 0) c s with
        a := [v], recs := [(s.team c.team).spad.num v 16], reads := (mapAt s c.team v).spans c.team } s)

/-- The reload of R232. -/
def wloadRun (id : Nat) (p : AOp) (s : State) : State :=
  let m := OMap.ofNat (p.recs.getD 0 0)
  let rows := (upFrom 0 m.rows).map (mapRow p s m)
  let codes := (rows.zip (upFrom 0 m.rows)).flatMap (fun x => (x.1.zip (upFrom 0 m.cols)).map (fun y =>
    ((x.2, y.2), if y.1.stirred then Config.freeWord p.fresh (128 * x.2 + y.2) % 2 ^ fmtBits m.fmt else y.1.code)))
  let bad := rows.any (fun r => r.any (·.bad))
  let sick := bad || !p.badRows.isEmpty
  let pl : Plane := ⟨m.fmt, codes, sick⟩
  completeOp id { code := if bad then 4 else 0, flags := if sick then fPoison else 0 } (modArray p (fun A => { A with planes := A.planes.set (bits p.mode 2 0) pl }) s)

/-! ### `mmul` (R233, R234, R396) -/

/-- The parameters of Table mxi-2. -/
def mmulChk (v : Nat) (c : Ctx) : List Trap :=
  let np := bits v 16 14 + 1
  if v / 2 ^ 17 != 0 || 128 < bits v 7 0 || 8 < bits v 10 8 + np || 8 < bits v 13 11 + np then opdTrap 2 c else []

/-- `mmul` (R396). -/
def mmulDesc (o : OpE) : Desc :=
  mxDesc o [src 1 o.a 1 [2], src 2 o.b 1 [2]] (arrayPre o)
    (fun c s => mapChk (sReg c s o.a 0) matFmt c s ++ mmulChk (sReg c s o.b 0) c)
    (fun c s =>
      let v := sReg c s o.a 0
      mxSend c { mxOp o 0x3002 ((arrayPlace o c s).getD 0) c s with
        a := [v], b := [sReg c s o.b 0], recs := [(s.team c.team).spad.num v 16], reads := (mapAt s c.team v).spans c.team } s)

/-- One element of a multiply: the column sum, then `pair_add`. -/
def mulElem (p : AOp) (n mode : Nat) (ab : List (Exact × Exact)) (stirred bad clear : Bool) (e : Elt) : Elt × Nat :=
  let e := if clear then ⟨Pair.zero, false⟩ else e
  let q := e.poison || bad
  if stirred then
    let r := freePair p n
    (⟨r, q⟩, addFlags e.p .zero r)
  else
    let x := columnSum mode ab
    let r := pairAdd e.p x
    (⟨r, q⟩, sumFlags ab x ||| addFlags e.p ⟨x, 0⟩ r)

/-- A region of +0 pairs without poison. -/
def zeroEls (m n : Nat) : List ((Nat × Nat) × Elt) :=
  (upFrom 0 m).flatMap (fun i => (upFrom 0 n).map (fun j => ((i, j), ⟨Pair.zero, false⟩)))

/-- The multiply through one plane: the elements that it writes, and what it reports: code 4 for a poisoned word or plane, POISON for any element left with poison (R242, R244). -/
def mulPlane (p : AOp) (s : State) (m : OMap) (n mode : Nat) (clear : Bool) (pl : Plane) (t : Tile) (k : Nat) :
    List ((Nat × Nat) × Elt) × Report :=
  let rows := (upFrom 0 m.rows).map (fun i => (i, mapRow p s m i))
  let r := rows.flatMap (fun x =>
    let a := x.2.map (fun e => valueOf m.fmt e.code)
    let stirred := x.2.any (·.stirred)
    let bad := x.2.any (·.bad) || pl.poison || p.badRows.contains x.1
    (upFrom 0 n).map (fun j =>
      let b := (upFrom 0 m.cols).map (fun i => valueOf pl.fmt (pl.w.getD (i, j) 0))
      ((x.1, j), mulElem p (16384 * k + 128 * x.1 + j) mode (a.zip b) stirred bad clear (t.el x.1 j))))
  (r.map (fun x => (x.1, x.2.1)),
    { code := if rows.any (fun x => pl.poison || x.2.any (·.bad)) then 4 else 0
      flags := r.foldl (fun f x => f ||| x.2.2 ||| (if x.2.1.poison then fPoison else 0)) 0 })

/-- The multiply of R233. -/
def mmulRun (id : Nat) (p : AOp) (s : State) : State :=
  let m := OMap.ofNat (p.recs.getD 0 0)
  let v := p.b.getD 0 0
  let n := bits v 7 0
  let ks := upFrom 0 (bits v 16 14 + 1)
  let clear := bit p.mode 4
  if m.rows == 0 || n == 0 || m.cols == 0 then
    let s := if clear && m.cols == 0 then ks.foldl (fun s k => putTile id p (bits v 13 11 + k) (zeroEls m.rows n) s) s else s
    completeOp id { flags := fEmpty } s
  else
    let r := ks.foldl (fun (a : State × Report) k =>
      let t := bits v 13 11 + k
      match (s.array (bayOf p.cluster) p.place).planes.get? (bits v 10 8 + k) with
      | none => (a.1, a.2.with_ 5 0)
      | some pl =>
        let x := mulPlane p s m n (bits p.mode 3 2) clear pl (s.tile p t) k
        (putTile id p t x.1 a.1, a.2.with_ x.2.code x.2.flags)) (s, {})
    completeOp id r.2 r.1

/-! ### `aclr` (R397) -/

/-- `aclr` (R397). -/
def aclrDesc (o : OpE) : Desc :=
  mxDesc o [src 1 o.a 1 [2]] (arrayPre o)
    (fun c s =>
      let v := sReg c s o.a 0
      if v / 2 ^ 19 != 0 || 128 < bits v 7 0 || 128 < bits v 15 8 then opdTrap 1 c else [])
    (fun c s => mxSend c { mxOp o 0x3003 ((arrayPlace o c s).getD 0) c s with a := [sReg c s o.a 0] } s)

/-- The clear of R397. -/
def aclrRun (id : Nat) (p : AOp) (s : State) : State :=
  let v := p.a.getD 0 0
  if bits v 7 0 == 0 || bits v 15 8 == 0 then completeOp id { flags := fEmpty } s
  else completeOp id {} (putTile id p (bits v 18 16) (zeroEls (bits v 7 0) (bits v 15 8)) s)

/-! ### `aread` (R235, R236, R398) -/

/-- The output of an accumulator read: format, rows, columns. -/
def areadOut (a b c : Nat) (s : State) (t : Nat) : Nat × Nat × Nat :=
  if bit b 3 then (bits c 5 0, bits c 13 6, bits c 21 14)
  else
    let m := mapAt s t a
    (m.fmt, m.rows, m.cols)

/-- The checks of a global destination (Table mxi-5). -/
def areadGlob (a v : Nat) (c : Ctx) (s : State) : List Trap :=
  let f := bits v 5 0
  let m := bits v 13 6
  let n := bits v 21 14
  let pitch := bits v 53 22
  let sz := fmtBits f / 8
  if v / 2 ^ 54 != 0 || !outFmt f || 128 < m || 128 < n then opdTrap 3 c
  else
    match decodeGeneric s c.team a 1 with
    | .error e => cmdTrap c e a
    | .ok (.glob, va) =>
      if va % sz != 0 || pitch % sz != 0 then cmdTrap c 7 a
      else if m != 0 && n != 0 && 2 ^ 57 - 2 ^ 44 < va + (m - 1) * pitch + n * sz then cmdTrap c 2 a else []
    | .ok _ => cmdTrap c 8 a

/-- The conditions of `aread`. -/
def areadChk (o : OpE) (c : Ctx) (s : State) : List Trap :=
  let a := sReg c s o.a 0
  let b := sReg c s o.b 0
  let g := bit b 3
  let v := sReg c s o.c 0
  let x := areadOut a b v s c.team
  let mc := if g then areadGlob a v c s else mapChk a outFmt c s
  (if g then [] else mc)
    ++ (if b / 2 ^ 44 != 0 || ((g || mc.isEmpty) && x.1 == 0x29 && (bit b 4 || bit b 5)) then opdTrap 2 c else [])
    ++ (if g != (cls o.c == 2) then opdTrap 3 c else if g then mc else [])
    ++ (if bit b 4 then rangeChk (bits b 24 6) (4 * x.2.1) 4 c s else [])
    ++ (if bit b 5 then rangeChk (bits b 43 25) (4 * x.2.2) 4 c s else [])

/-- `aread` (R398). -/
def areadDesc (o : OpE) : Desc :=
  mxDesc o [src 1 o.a 1 [2], src 2 o.b 1 [2], src 3 o.c 1 [2, 60]] (arrayPre o) (areadChk o) (fun c s =>
    let a := sReg c s o.a 0
    let b := sReg c s o.b 0
    let v := sReg c s o.c 0
    let x := areadOut a b v s c.team
    let p := { mxOp o 0x3004 ((arrayPlace o c s).getD 0) c s with
      a := [a], b := [b], c := [v], recs := [(s.team c.team).spad.num a 16],
      reads := (if bit b 4 then [spadSpan c.team (bits b 24 6) (4 * x.2.1)] else [])
        ++ (if bit b 5 then [spadSpan c.team (bits b 43 25) (4 * x.2.2)] else []) }
    if x.2.1 == 0 || x.2.2 == 0 then mxSend c p s
    else if bit b 3 then
      let r := (upFrom 0 x.2.1).foldl (fun (y : State × List Span) i =>
        let q := globSpans (opWho s p) p.ctx (a + i * bits v 53 22) (x.2.2 * (fmtBits x.1 / 8)) true y.1
        (q.1, y.2 ++ q.2)) (s, [])
      mxSend c { p with writes := r.2 } r.1
    else mxSend c { p with writes := (mapAt s c.team a).spans c.team } s)

/-- An output element: its code, whether it is poisoned, and its report. -/
structure OutEl where
  code : Nat
  bad : Bool
  rep : Report
  deriving DecidableEq, Repr

/-- One element of the epilogue (R235, R236); an absent scale is 1.0, and integer outputs saturate (R308). -/
def areadElem (p : AOp) (f i j : Nat) (e : Elt) (rs cs : OElem) : OutEl :=
  let pol := if (intTy f).isSome then 1 else bits p.mode 1 0
  let bad := e.poison || rs.bad || cs.bad
  let code := if rs.bad || cs.bad then 4 else 0
  let fl := if bad then fPoison else 0
  if rs.stirred || cs.stirred then 
    let k := 128 * i + j
    ⟨Config.freeWord p.fresh k % 2 ^ fmtBits f, bad,
      { code := code, flags := fl ||| (freeFlags p k &&& fOvf), flushes := Config.freeWord p.fresh (33554432 + k) % 2 }⟩
  else if f == 0x29 then ⟨e.p.h + 2 ^ 32 * e.p.l, bad, { code := code, flags := fl }⟩
  else
    let mode := bits p.mode 3 2
    let v := ((e.p.value mode).mul (f32 rs.code)).mul (f32 cs.code)
    let x := convertTo f mode pol v
    let ovf := !v.isNan && !v.isInf && (intTy f).isNone && (valueOf f x).isInf
    ⟨x, bad, { code := code, flags := fl ||| (if ovf then fOvf else 0), flushes := b2n (flushes f v x) }⟩

/-- The scale at an index of a vector, or 1.0. -/
def scaleAt (p : AOp) (s : State) (on : Bool) (off k : Nat) : OElem :=
  if on then opElem p s 32 (off + 4 * k, none) else ⟨0x3F800000, false, false⟩

/-- The rows of an accumulator read. -/
def areadRows (p : AOp) (s : State) (f m n : Nat) : List (List OutEl) :=
  let b := p.b.getD 0 0
  let t := s.tile p (bits b 2 0)
  (upFrom 0 m).map (fun i => (upFrom 0 n).map (fun j =>
    let e := t.el i j
    areadElem p f i j { e with poison := e.poison || p.badRows.contains i } (scaleAt p s (bit b 4) (bits b 24 6) i) (scaleAt p s (bit b 5) (bits b 43 25) j)))

/-- Output rows at their places; none when a page must be waited for. -/
def areadPut (p : AOp) (f : Nat) (rows : List (List OutEl)) (s : State) : State × Option Landed :=
  let sz := fmtBits f / 8
  let l := rows.zip (upFrom 0 rows.length)
  if bit (p.b.getD 0 0) 3 then
    l.foldl (fun (a : State × Option Landed) x =>
      match a.2 with
      | none => a
      | some acc =>
        let bytes := x.1.flatMap (fun e => (leBytes sz e.code).map (fun y => (y, e.bad)))
        match engWrite p (.glob, p.a.getD 0 0 + x.2 * bits (p.c.getD 0 0) 53 22) bytes a.1 with
        | (s, none) => (s, none)
        | (s, some y) => (s, some ⟨acc.outs ++ y.outs, acc.spoil ++ y.spoil, acc.err || y.err⟩)) (s, some ⟨[], [], false⟩)
  else
    let m := OMap.ofNat (p.recs.getD 0 0)
    let cells := l.flatMap (fun x => (x.1.zip (upFrom 0 x.1.length)).flatMap (fun y =>
      let o := (m.elem x.2 y.2).1
      ((leBytes sz y.1.code).zip (upFrom o sz)).map (fun z => (((Area.spad p.team, z.2), z.1), y.1.bad))))
    (s, some ⟨cells.map Prod.fst, (cells.filter Prod.snd).map (fun z => z.1.1), false⟩)

/-- The epilogue of R235 and R236. -/
def areadRun (id : Nat) (p : AOp) (s : State) : State :=
  let b := p.b.getD 0 0
  let (m, n) := areadSize p
  let f := if bit b 3 then bits (p.c.getD 0 0) 5 0 else (OMap.ofNat (p.recs.getD 0 0)).fmt
  if m == 0 || n == 0 then completeOp id { flags := fEmpty } s
  else
    let rows := areadRows p s f m n
    match areadPut p f rows s with
    | (s, none) => s.push .asyncOperationComplete (.ofK id)
    | (s, some y) =>
      let r := (rows.flatten).foldl (fun (r : Report) e =>
        { r.with_ e.rep.code e.rep.flags with flushes := r.flushes + e.rep.flushes }) { code := if y.err then 9 else 0 }
      let s := if bit p.mode 4 then putTile id p (bits b 2 0) (zeroEls m n) s else s
      completeOp id r (withOuts id y.outs y.spoil [] s)

/-! ### The instructions -/

/-- `mapset` (R393). -/
def execMapset (h : Hdr) (o : OpE) (s : State) : Host.Outcome State Fault Refusal :=
  .next (issue (.mapset h o) 2 (mapsetDesc o) s)

/-- `wload` (R395). -/
def execWload (h : Hdr) (o : OpE) (s : State) : Host.Outcome State Fault Refusal :=
  .next (issue (.wload h o) 3 (wloadDesc o) s)

/-- `mmul` (R396). -/
def execMmul (h : Hdr) (o : OpE) (s : State) : Host.Outcome State Fault Refusal :=
  .next (issue (.mmul h o) 3 (mmulDesc o) s)

/-- `aclr` (R397). -/
def execAclr (h : Hdr) (o : OpE) (s : State) : Host.Outcome State Fault Refusal :=
  .next (issue (.aclr h o) 3 (aclrDesc o) s)

/-- `aread` (R398). -/
def execAread (h : Hdr) (o : OpE) (s : State) : Host.Outcome State Fault Refusal :=
  .next (issue (.aread h o) 3 (areadDesc o) s)

/-- `ofence` (R394). -/
def execOfence (h : Hdr) (o : OpE) (s : State) : Host.Outcome State Fault Refusal :=
  .next (issue (.ofence h o) 3 ofenceDesc s)

end Sys2Proof.Machine
end

