-- ==== Sys2Proof/Machine/RodStack.lean ====
section
/-! DEFINITION. Rod transfers, the stack multiply and the query rotation (R237-R241, R313, R399-R402). -/

namespace Sys2Proof.Machine

/-! ### Rod links (R237, R399) -/

/-- The array that faces an array of a bay in a direction: its bay and number. -/
def rodFacing (b k dir : Nat) : Option (Nat × Nat) :=
  let x := k % 8
  let y := k / 8
  match dir with
  | 0 => if x == 7 && b % 4 < 3 then some (b + 1, 8 * y) else none
  | 1 => if x == 0 && 0 < b % 4 then some (b - 1, 8 * y + 7) else none
  | 2 => if y == 7 && b < 4 then some (b + 4, x) else none
  | _ => if y == 0 && 4 ≤ b then some (b - 4, 56 + x) else none

/-- The opposite direction. -/
def rodBack (dir : Nat) : Nat := dir ^^^ 1

/-- DIR. -/
def rodDir (mode : Nat) : Nat := bits mode 4 3

/-- The place of a Rod instruction: an array of the rectangle that faces another bay in the direction that the word names (R399). -/
def rodPre (o : OpE) (c : Ctx) (s : State) : List Trap :=
  match arrayPlace o c s with
  | some k => if (rodFacing (bayOf (s.team c.team).cluster) k (rodDir o.mode)).isSome then [] else opdTrap 5 c
  | none => opdTrap 5 c

/-- The conditions of a Rod instruction. -/
def rodChk (o : OpE) (c : Ctx) (s : State) : List Trap :=
  let v := sReg c s o.a 0
  let r := rodRect v
  if v / 2 ^ 41 != 0 || 128 < r.r0 + r.m || 128 < r.c0 + r.n then opdTrap 1 c else []

/-- A Rod instruction; its timeout is the one in force at issue (R239). -/
def rodDesc (opc : Nat) (o : OpE) : Desc :=
  mxDesc o [src 1 o.a 1 [2]] (rodPre o) (rodChk o) (fun c s =>
    mxSend c { mxOp o opc ((arrayPlace o c s).getD 0) c s with a := [sReg c s o.a 0], pos := bits s.regs.matrix 63 40 } s)

/-- A Rod operation that has arrived and has no partner. -/
def rodWaits (p : AOp) : Bool := (p.opc == 0x3006 || p.opc == 0x3007) && p.c.isEmpty

/-- The oldest waiting operation of a kind, context, array and direction (R238, R400). -/
def rodHead (s : State) (opc ctx b k dir : Nat) : Option (Nat × AOp) :=
  s.ops.find? (fun e => rodWaits e.2 && e.2.stage == 1 && e.2.opc == opc && e.2.ctx == ctx && e.2.place == k
    && bayOf e.2.cluster == b && rodDir e.2.mode == dir)

/-- A send and a receive pair, or end together (R238). -/
def rodPair (i : Nat) (p : AOp) (j : Nat) (q : AOp) (s : State) : State :=
  let a := rodRect (p.a.getD 0 0)
  let b := rodRect (q.a.getD 0 0)
  if bits (p.a.getD 0 0) 40 33 != bits (q.a.getD 0 0) 40 33 || a.m != b.m || a.n != b.n then
    completeOp j { code := 7 } (completeOp i { code := 7 } s)
  else if a.m == 0 || a.n == 0 then completeOp j { flags := fEmpty } (completeOp i { flags := fEmpty } s)
  else
    let s := s.modOp i (fun p => { p with c := [j] })
    (s.modOp j (fun q => { q with c := [i] })).push .asyncOperationComplete (.ofK j)

/-- The heads of the queues on the link of an operation, the send first, when both sides have one. -/
def rodHeads (p : AOp) (s : State) : Option ((Nat × AOp) × (Nat × AOp)) :=
  let b := bayOf p.cluster
  let d := rodDir p.mode
  match rodFacing b p.place d with
  | none => none
  | some (b2, k2) =>
    match rodHead s p.opc p.ctx b p.place d, rodHead s (if p.opc == 0x3006 then 0x3007 else 0x3006) p.ctx b2 k2 (rodBack d) with
    | some x, some y => some (if p.opc == 0x3006 then (x, y) else (y, x))
    | _, _ => none

/-- The heads of the link of an operation pair, and those that then stand at the heads (R238). -/
def rodPairs : Nat → AOp → State → State
  | 0, _, s => s
  | f + 1, p, s =>
    match rodHeads p s with
    | none => s
    | some (x, y) => rodPairs f p (rodPair x.1 x.2 y.1 y.2 s)

/-- `ROD_PAIRING`: after an operation's arrival the heads of its link's queues pair (R238). -/
def rodPairStep (s : State) : State :=
  match s.ops.get? s.ev.k with
  | none => s
  | some p => rodPairs s.ops.length p s

/-- `ROD_TIMEOUT`: the operation leaves its queue, and the next one in it pairs (R239). -/
def rodTimeoutStep (s : State) : State :=
  match s.ops.get? s.ev.k with
  | none => s
  | some p =>
    if !rodWaits p then s
    else if p.start + p.pos ≤ s.now p.team then rodPairs s.ops.length p (completeOp s.ev.k { code := 6 } s)
    else s.push .rodTimeout s.ev

/-- The pair that a send moves for an element: undefined when another operation has reached it meanwhile (R239, R228). -/
def rodElem (i : Nat) (p : AOp) (s : State) (r j : Nat) : Elt :=
  let a := rodRect (p.a.getD 0 0)
  let x := a.r0 + r
  let y := a.c0 + j
  let open_ := p.tileHits.contains (a.tile, x, y) || s.ops.any (fun e => decide (e.1 < i) && e.2.opc == 0x3007 && e.2.stage != 0
    && e.2.place == p.place && bayOf e.2.cluster == bayOf p.cluster && (rodRect (e.2.a.getD 0 0)).meets ⟨a.tile, x, 1, y, 1⟩)
  if open_ then ⟨freePair p (128 * r + j), Config.freeWord p.fresh (40000 + 128 * r + j) % 2 == 1⟩ else (s.tile p a.tile).el x y

/-- A paired receive moves its region, then both operations end (R238). -/
def rodMove (j : Nat) (q : AOp) (s : State) : State :=
  match q.c with
  | i :: _ =>
    let p := s.op i
    if opBlocked j q s || opBlocked i p s then s.push .asyncOperationComplete (.ofK j)
    else
      let b := rodRect (q.a.getD 0 0)
      let t := s.tile q b.tile
      let l := (upFrom 0 b.m).flatMap (fun r => (upFrom 0 b.n).map (fun k =>
        let x := rodElem i p s r k
        let at_ := (b.r0 + r, b.c0 + k)
        if bit q.mode 2 then
          let e := t.el at_.1 at_.2
          let y := pairAddPair e.p x.p
          (at_, (⟨y, e.poison || x.poison⟩ : Elt), addFlags e.p x.p y ||| (if e.poison || x.poison then fPoison else 0))
        else (at_, x, if x.poison then fPoison else 0)))
      let s := putTile j q b.tile (l.map (fun z => (z.1, z.2.1))) s
      completeOp i {} (completeOp j { flags := l.foldl (fun f z => f ||| z.2.2) 0 } s)
  | [] => s

/-! ### The stack multiply (R240, R241, R401) -/

/-- The descriptors of Table mxi-7. -/
structure Smv where
  apitch : Nat
  fmtA : Nat
  m : Nat
  aoff : Nat
  bva : Nat
  bpitch : Nat
  fmtB : Nat
  n : Nat
  k : Nat
  ypitch : Nat
  scoff : Nat
  yoff : Nat
  deriving DecidableEq, Repr

/-- Read the descriptors. -/
def Smv.ofNat (a b c y : Nat) : Smv :=
  ⟨bits a 45 30 * 8, bits a 29 24, bits a 23 19, bits a 18 0, b, bits c 63 44 * 128, bits c 43 38, bits c 37 21, bits c 20 0,
    bits y 56 38, bits y 37 19, bits y 18 0⟩

/-- Elements of a 128-byte line of B. -/
def Smv.e (d : Smv) : Nat := 1024 / fmtBits d.fmtB

/-- Bytes of a row of A. -/
def Smv.rowA (d : Smv) : Nat := d.k * fmtBits d.fmtA / 8

/-- An empty product. -/
def Smv.empty (d : Smv) : Bool := d.m == 0 || d.n == 0 || d.k == 0

/-- Rows of a matrix in the scratchpad. -/
def rowSpans (t off pitch n len : Nat) : List Span := (upFrom 0 n).map (fun i => spadSpan t (off + i * pitch) len)

/-- Row ranges of the scratchpad: misaligned, then beyond the allotment. -/
def rowsChk (off pitch n len al : Nat) (c : Ctx) (s : State) : List Trap :=
  if off % al != 0 || pitch % al != 0 then cmdTrap c 7 0
  else if n != 0 && len != 0 && (s.launch c.team).spad < off + (n - 1) * pitch + len then cmdTrap c 3 0 else []

/-- The conditions of `smv` (R401). -/
def smvChk (o : OpE) (c : Ctx) (s : State) : List Trap :=
  let a := sReg c s o.a 0
  let b := sReg c s o.b 0
  let v := sReg c s o.c 0
  let y := sReg c s o.c 1
  let d := Smv.ofNat a b v y
  (if a / 2 ^ 46 != 0 || 16 < d.m || !matFmt d.fmtA then opdTrap 1 c else [])
    ++ (if 2 ^ 20 < d.k || 65536 < d.n || !matFmt d.fmtB || d.k % d.e != 0 || y / 2 ^ 57 != 0
          || (!bit o.mode 4 && d.scoff != 0) then opdTrap 3 c else [])
    ++ (match decodeGeneric s c.team b 1 with
        | .error e => cmdTrap c e b
        | .ok (.glob, va) => if va % 128 != 0 then cmdTrap c 7 b else []
        | .ok _ => cmdTrap c 8 b)
    ++ rowsChk d.aoff d.apitch d.m d.rowA 8 c s
    ++ rowsChk d.yoff d.ypitch d.m (4 * d.n) 4 c s
    ++ (if bit o.mode 4 then rangeChk d.scoff (4 * d.n) 4 c s else [])

/-- The lines of a row of B. -/
def Smv.lines (d : Smv) (n : Nat) : List Nat := (upFrom 0 (d.k / d.e)).map (fun q => d.bva + n * d.bpitch + 128 * q)

/-- The pages that B touches are device memory, never cached, of one home bay (R240); none when one of them must be waited for (R126). -/
def smvEligible (p : AOp) (d : Smv) (s : State) : State × Option Bool :=
  let vas := distinct ((upFrom 0 d.n).flatMap (fun n => (d.lines n).map (fun v => v / 2 ^ 16 * 2 ^ 16)))
  let r := vas.foldl (fun (a : State × Option (Bool × List Nat)) v =>
    match a.2 with
    | none => a
    | some (ok, bays) =>
      match heldXl p v a.1 with
      | some x => (a.1, some (ok && x.attr.home == 3 && !x.attr.host, x.pa / 2 ^ 37 :: bays))
      | none =>
        match touchXl (opWho s p) p.ctx v false a.1 with
        | (s, .wait _) => (s, none)
        | (s, .err _) => (s, some (false, bays))
        | (s, .ok x) => (s, some (ok && x.attr.home == 3 && !x.attr.host, x.pa / 2 ^ 37 :: bays))) (s, some (true, []))
  (r.1, r.2.map (fun x => x.1 && (distinct x.2).length ≤ 1))

/-- `smv` (R401). -/
def smvDesc (o : OpE) : Desc :=
  mxDesc o [src 1 o.a 1 [2], src 2 o.b 1 [2], src 3 o.c 2 [22]] (fun _ _ => []) (smvChk o) (fun c s =>
    let a := sReg c s o.a 0
    let b := sReg c s o.b 0
    let v := sReg c s o.c 0
    let y := sReg c s o.c 1
    let d := Smv.ofNat a b v y
    let p := { mxOp o 0x3100 0 c s with a := [a], b := [b], c := [v, y] }
    if d.empty then mxSend c p s
    else
      let r := (upFrom 0 d.n).foldl (fun (x : State × List Span) n =>
        let q := globSpans (opWho s p) p.ctx (d.bva + n * d.bpitch) (128 * (d.k / d.e)) false x.1
        (q.1, x.2 ++ q.2)) (s, [])
      mxSend c { p with
        reads := rowSpans c.team d.aoff d.apitch d.m d.rowA
          ++ (if bit o.mode 4 then [spadSpan c.team d.scoff (4 * d.n)] else []) ++ r.2
        writes := rowSpans c.team d.yoff d.ypitch d.m (4 * d.n) } r.1)

/-- A row of B as its 128-byte lines, whether a read failed, and whether the program has written it meanwhile; none when a page must be waited for. -/
structure BRow where
  lines : List (List Exact)
  err : Bool
  stirred : Bool
  deriving DecidableEq

/-- Read a row of B (R240, R241). A write of B that has landed before the issue counts as ordered before it, and its row is exact; R241 leaves undefined the row of one that no synchronisation orders (log entry 33). -/
def smvRow (p : AOp) (d : Smv) (n : Nat) (s : State) : State × Option BRow :=
  let w := opWho s p
  let r := (d.lines n).foldl (fun (a : State × Option BRow) va =>
    match a.2 with
    | none => a
    | some x =>
      match opRead p va 128 a.1 with
      | (s, .error 255) => (s, none)
      | (s, .error _) => (s, some { x with lines := x.lines ++ [[]], err := true })
      | (s, .ok l) =>
        let code := leVal l
        let fb := fmtBits d.fmtB
        (s, some { x with lines := x.lines ++ [(upFrom 0 d.e).map (fun i => valueOf d.fmtB (code / 2 ^ (fb * i) % 2 ^ fb))] }))
    (s, some ⟨[], false, false⟩)
  match r with
  | (s, none) => (s, none)
  | (s, some x) =>
    let q := globSpans w p.ctx (d.bva + n * d.bpitch) (128 * (d.k / d.e)) false s
    (q.1, some { x with stirred := p.hits.any (fun h => inSpans q.2 h.1 h.2) })

/-- One y element: the pair summed line by line, its value scaled and rounded, with its flags. -/
def smvElem (mode : Nat) (a : List (List Exact)) (b : BRow) (sc : OElem) : Nat × Nat :=
  let r := (a.zip b.lines).foldl (fun (x : Pair × Nat) q =>
    let ab := q.1.zip q.2
    let c := columnSum mode ab
    let y := pairAdd x.1 c
    (y, x.2 ||| sumFlags ab c ||| addFlags x.1 ⟨c, 0⟩ y)) (Pair.zero, 0)
  let v := (r.1.value mode).mul (f32 sc.code)
  let y := roundTo 0x28 mode v
  (y, r.2 ||| (if !v.isNan && !v.isInf && (f32 y).isInf then fOvf else 0))

/-- A line of a row of A, as values. -/
def smvA (p : AOp) (d : Smv) (m : Nat) (s : State) : List OElem :=
  let fb := fmtBits d.fmtA
  (upFrom 0 d.k).map (fun i => opElem p s fb (d.aoff + m * d.apitch + i * fb / 8, if fb == 4 then some (i % 2) else none))

/-- Cut a list into parts of `n`. -/
def cut {α : Type} (n : Nat) (l : List α) : List (List α) := (upFrom 0 (l.length / n)).map (fun q => (l.drop (q * n)).take n)

/-- Bytes that are written twice, or that are read as well (R401). -/
def smvClash (p : AOp) : List (Area × Nat) :=
  let w := spanCells p.writes
  distinct (w.filter (fun k => inSpans p.reads k.1 k.2 || decide (1 < (p.writes.filter (fun x => inSpans [x] k.1 k.2)).length)))

/-- The stack multiply of R240. -/
def smvRun (id : Nat) (p : AOp) (s : State) : State :=
  let d := Smv.ofNat (p.a.getD 0 0) (p.b.getD 0 0) (p.c.getD 0 0) (p.c.getD 1 0)
  if d.empty then completeOp id { flags := fEmpty } s
  else
    match smvEligible p d s with
    | (s, none) => s.push .asyncOperationComplete (.ofK id)
    | (s, some false) => completeOp id { code := 10 } s
    | (s, some true) =>
      let as_ := (upFrom 0 d.m).map (fun m => smvA p d m s)
      let r := (upFrom 0 d.n).foldl (fun (x : State × Option (List (Nat × BRow))) n =>
        match x.2 with
        | none => x
        | some l =>
          match smvRow p d n x.1 with
          | (s, none) => (s, none)
          | (s, some b) => (s, some (l ++ [(n, b)]))) (s, some [])
      match r with
      | (s, none) => s.push .asyncOperationComplete (.ofK id)
      | (s, some bs) =>
        let mode := bits p.mode 3 2
        let cells := (as_.zip (upFrom 0 d.m)).flatMap (fun a => bs.map (fun b =>
          let sc := scaleAt p s (bit p.mode 4) d.scoff b.1
          let vals := cut d.e (a.1.map (fun e => valueOf d.fmtA e.code))
          let x := if a.1.any (·.stirred) || b.2.stirred || sc.stirred then (Config.freeWord p.fresh (65536 * a.2 + b.1) % 2 ^ 32, freeFlags p (65536 * a.2 + b.1))
            else smvElem mode vals b.2 sc
          let abad := a.1.any (·.bad) || sc.bad
          (d.yoff + a.2 * d.ypitch + 4 * b.1, x, abad, b.2.err, p.badRows.contains a.2)))
        let outs := cells.flatMap (fun z => ((leBytes 4 z.2.1.1).zip (upFrom z.1 4)).map (fun y => ((Area.spad p.team, y.2), y.1)))
        let spoil := (cells.filter (fun z => z.2.2.1 || z.2.2.2.1 || z.2.2.2.2)).map (fun z => (Area.spad p.team, z.1))
        let rep := cells.foldl (fun (r : Report) z =>
          (r.with_ (if z.2.2.1 then 4 else 0) z.2.1.2).with_ (if z.2.2.2.1 then 9 else 0)
            (if z.2.2.1 || z.2.2.2.1 || z.2.2.2.2 then fPoison else 0)) {}
        completeOp id rep (withOuts id outs spoil (smvClash p) s)

/-! ### Query rotation (R402) -/

/-- The formats of Table mxi-8. -/
def qrotFmt (k : Nat) : Nat := if k == 0 then 0x20 else if k == 1 then 0x21 else 0x28

/-- The fields of Table mxi-8: output format, input format, vectors, destination, source. -/
structure Qrot where
  of : Nat
  if_ : Nat
  v : Nat
  dst : Nat
  src : Nat
  deriving DecidableEq, Repr

/-- Read the fields. -/
def Qrot.ofNat (x : Nat) : Qrot := ⟨bits x 57 56, bits x 55 54, bits x 53 38, bits x 37 19, bits x 18 0⟩

/-- Bytes of an input and an output vector. -/
def Qrot.inLen (q : Qrot) : Nat := 128 * tySize (qrotFmt q.if_)
def Qrot.outLen (q : Qrot) : Nat := 128 * tySize (qrotFmt q.of)

/-- `qrot` (R402). -/
def qrotDesc (o : OpE) : Desc :=
  mxDesc o [src 1 o.a 1 [2]] (fun _ _ => [])
    (fun c s =>
      let v := sReg c s o.a 0
      let q := Qrot.ofNat v
      (if v / 2 ^ 58 != 0 || q.of == 3 || q.if_ == 3 then opdTrap 1 c else [])
        ++ rangeChk q.src (q.v * q.inLen) 8 c s ++ rangeChk q.dst (q.v * q.outLen) 8 c s)
    (fun c s =>
      let v := sReg c s o.a 0
      let q := Qrot.ofNat v
      mxSend c { mxOp o 0x3101 0 c s with
        a := [v], reads := [spadSpan c.team q.src (q.v * q.inLen)], writes := [spadSpan c.team q.dst (q.v * q.outLen)] } s)

/-- A finite value beyond a format's greatest, once rounded (R307). -/
def outOfRange (f mode : Nat) : Exact → Bool
  | .fin neg m e st => decide ((fmtOf f).maxCode < (fmtOf f).roundCode mode neg m e st)
  | _ => false

/-- One vector rotated and converted: its codes, with its flags (R402). -/
def rotate (f mode : Nat) (e : Int) (x : List Exact) : List (Nat × Nat) :=
  let y := hadamard e x
  let fin := x.all (fun v => !v.isNan && !v.isInf)
  y.map (fun c => (convertTo f mode 1 (f32 c),
    (if (f32 c).isNan then fNan else 0) ||| (if (f32 c).isInf && fin || outOfRange f mode (f32 c) then fOvf else 0)))

/-- The rotation of R402. -/
def qrotRun (id : Nat) (p : AOp) (s : State) : State :=
  let q := Qrot.ofNat (p.a.getD 0 0)
  if q.v == 0 then completeOp id { flags := fEmpty } s
  else
    let fi := qrotFmt q.if_
    let fo := qrotFmt q.of
    let sz := tySize fo
    let vs := (upFrom 0 q.v).map (fun v =>
      let x := (upFrom 0 128).map (fun i => opElem p s (tyBits fi) (q.src + v * q.inLen + i * tySize fi, none))
      let y := if x.any (·.stirred) then (upFrom 0 128).map (fun i => (Config.freeWord p.fresh (128 * v + i) % 2 ^ tyBits fo, freeFlags p (128 * v + i)))
        else rotate fo (bits p.mode 3 2) (-4) (x.map (fun e => valueOf fi e.code))
      (v, y, x.any (·.bad), p.badRows.contains v))
    let outs := vs.flatMap (fun v => ((v.2.1.flatMap (fun z => leBytes sz z.1)).zip (upFrom (q.dst + v.1 * q.outLen) q.outLen)).map
      (fun y => ((Area.spad p.team, y.2), y.1)))
    let spoil := (vs.filter (fun v => v.2.2.1 || v.2.2.2)).flatMap (fun v => (upFrom (q.dst + v.1 * q.outLen) q.outLen).map (fun o => (Area.spad p.team, o)))
    let rep := vs.foldl (fun (r : Report) v =>
      r.with_ (if v.2.2.1 then 4 else 0) (v.2.1.foldl (fun f z => f ||| z.2) (if v.2.2.1 || v.2.2.2 then fPoison else 0))) {}
    let undef := if q.src == q.dst && q.of == q.if_ then []
      else (spanCells p.writes).filter (fun k => inSpans p.reads k.1 k.2)
    completeOp id rep (withOuts id outs spoil undef s)

/-! ### The instructions and events -/

/-- `rsend` (R399). -/
def execRsend (h : Hdr) (o : OpE) (s : State) : Host.Outcome State Fault Refusal :=
  .next (issue (.rsend h o) 3 (rodDesc 0x3006 o) s)

/-- `rrecv` (R399). -/
def execRrecv (h : Hdr) (o : OpE) (s : State) : Host.Outcome State Fault Refusal :=
  .next (issue (.rrecv h o) 3 (rodDesc 0x3007 o) s)

/-- `smv` (R401). -/
def execSmv (h : Hdr) (o : OpE) (s : State) : Host.Outcome State Fault Refusal :=
  .next (issue (.smv h o) 3 (smvDesc o) s)

/-- `qrot` (R402). -/
def execQrot (h : Hdr) (o : OpE) (s : State) : Host.Outcome State Fault Refusal :=
  .next (issue (.qrot h o) 3 (qrotDesc o) s)

/-- `ROD_PAIRING` (R238). -/
def execRodPairing (s : State) : Host.Outcome State Fault Refusal := .next (rodPairStep s)

/-- `ROD_TIMEOUT` (R239). -/
def execRodTimeout (s : State) : Host.Outcome State Fault Refusal := .next (rodTimeoutStep s)

end Sys2Proof.Machine
end

