-- ==== Sys2Proof/Machine/Bushel.lean ====
section
/-! DEFINITION. The Bushel: its pool, its sequences and the key-value instructions (R128-R136, R264, R403, R404); and the unit event of majors 0x30 and 0x31 (R243). -/

namespace Sys2Proof.Machine

/-! ### BUSHEL.CFG (Table xlate-10) -/

/-- The fields of BUSHEL.CFG; the bases are device addresses. -/
structure BCfg where
  en : Bool
  ctx : Nat
  hppl : Nat
  logpages : Nat
  maxord : Nat
  logseq : Nat
  pt : Nat
  seq : Nat
  code : Nat
  scale : Nat
  deriving DecidableEq, Repr

/-- Read the fields. -/
def BCfg.ofNat (x : Nat) : BCfg :=
  ⟨bit x 127, bits x 126 115, bits x 114 112, bits x 111 107, bits x 106 103, bits x 102 98,
    bits x 95 72 * 65536, bits x 71 48 * 65536, bits x 47 24 * 65536, bits x 23 0 * 65536⟩

/-- Heads per page. -/
def BCfg.heads (g : BCfg) : Nat := 2 ^ g.hppl
/-- Pages of the pool. -/
def BCfg.pages (g : BCfg) : Nat := 2 ^ g.logpages

/-- The pool of a bay. -/
def bcfg (s : State) (b : Nat) : BCfg := .ofNat (s.bay b).bushel

/-- A layout that fits bay b and its bounds (R128). -/
def BCfg.fits (g : BCfg) (b : Nat) : Bool :=
  let ok := fun (a n : Nat) => a / 2 ^ 37 == b && decide (a % 2 ^ 37 + n ≤ 2 ^ 37)
  decide (g.hppl ≤ 4) && decide (4 ≤ g.logpages) && decide (g.logpages ≤ 24) && decide (g.maxord ≤ g.logpages)
    && decide (g.logseq ≤ 16) && ok g.pt (4 * g.pages) && ok g.seq (128 * 2 ^ g.logseq)
    && ok g.code (2048 * g.heads * g.pages) && ok g.scale (64 * g.heads * g.pages)

/-! ### Page entries and the buddy allocator (R129, R132) -/

/-- A page entry. -/
def pageEnt (s : State) (g : BCfg) (p : Nat) : Nat := s.num false (g.pt + 4 * p) 4
/-- Write a page entry. -/
def setPage (g : BCfg) (p v : Nat) (s : State) : State := s.wr false (g.pt + 4 * p) (leBytes 4 v)
/-- FILL. -/
def pageFill (s : State) (g : BCfg) (p : Nat) : Nat := bits (pageEnt s g p) 20 16
/-- REFCNT. -/
def pageRef (s : State) (g : BCfg) (p : Nat) : Nat := bits (pageEnt s g p) 15 0
/-- The entry of a page in use. -/
def usedEnt (fill ref : Nat) : Nat := 65536 * fill + ref
/-- The entry of the first page of a free block; the block's other pages have order 0. -/
def freeEnt (o : Nat) : Nat := 2 ^ 31 + 2 ^ 26 * o

/-- The free blocks, ascending: first page and order. -/
def freeBlocks (s : State) (g : BCfg) : Nat → Nat → List (Nat × Nat)
  | 0, _ => []
  | n + 1, p =>
    if g.pages ≤ p then []
    else
      let e := pageEnt s g p
      if bit e 31 then (p, bits e 30 26) :: freeBlocks s g n (p + 2 ^ bits e 30 26) else freeBlocks s g n (p + 1)

/-- All free blocks. -/
def frees (s : State) (g : BCfg) : List (Nat × Nat) := freeBlocks s g g.pages 0

/-- The block that `alloc(o)` takes: its first page and order (R132). -/
def pickBlock (l : List (Nat × Nat)) (o : Nat) : Option (Nat × Nat) :=
  firstSome ((upFrom o (25 - o)).map (fun k => l.find? (fun b => b.2 == k)))

/-- `alloc(o)`: split down to order o, keeping the lower half; every page of the block gets REFCNT 1 and FILL 0. -/
def allocBlock (g : BCfg) (o : Nat) (s : State) : State × Option Nat :=
  match pickBlock (frees s g) o with
  | none => (s, none)
  | some (p, k) =>
    let s := (upFrom o (k - o)).foldl (fun s j => setPage g (p + 2 ^ j) (freeEnt j) s) s
    ((upFrom p (2 ^ o)).foldl (fun s q => setPage g q (usedEnt 0 1) s) s, some p)

/-- The order rule of R133 with its fall to lower orders. -/
def allocDown (g : BCfg) : Nat → State → State × Option (Nat × Nat)
  | 0, s =>
    match allocBlock g 0 s with
    | (s, some p) => (s, some (p, 0))
    | (s, none) => (s, none)
  | o + 1, s =>
    match allocBlock g (o + 1) s with
    | (s, some p) => (s, some (p, o + 1))
    | (s, none) => allocDown g o s

/-- Merge a free block with its buddy while that is one whole free block. -/
def mergeFree (g : BCfg) : Nat → Nat → Nat → State → State
  | 0, _, _, s => s
  | n + 1, p, o, s =>
    let b := p ^^^ 2 ^ o
    if g.logpages ≤ o || !(frees s g).contains (b, o) then s
    else
      let lo := min p b
      mergeFree g n lo (o + 1) (setPage g lo (freeEnt (o + 1)) (setPage g (max p b) (freeEnt 0) s))

/-- `free(p)`. -/
def freePage (g : BCfg) (p : Nat) (s : State) : State := mergeFree g 24 p 0 (setPage g p (freeEnt 0) s)

/-- Drop one reference (R133). -/
def dropRef (g : BCfg) (s : State) (p : Nat) : State :=
  let r := pageRef s g p - 1
  if r == 0 then freePage g p s else setPage g p (usedEnt (pageFill s g p) r) s

/-! ### Sequences (R130, R131) -/

/-- An extent. -/
structure BExt where
  base : Nat
  ord : Nat
  len : Nat
  stride : Nat
  deriving DecidableEq, Repr

/-- An extent's fields. -/
def BExt.ofNat (x : Nat) : BExt := ⟨bits x 63 40, bits x 39 36, bits x 35 20, bits x 19 12⟩
/-- An extent's 64 bits. -/
def BExt.toNat (e : BExt) : Nat := e.base % 2 ^ 24 * 2 ^ 40 + e.ord * 2 ^ 36 + e.len % 2 ^ 16 * 2 ^ 20 + e.stride * 2 ^ 12

/-- phys(x, i) of R131. -/
def BExt.phys (e : BExt) (i : Nat) : Nat := e.base + i * e.stride % 2 ^ e.ord

/-- A sequence descriptor: its raw bits and its extents in use. -/
structure BSeq where
  raw : Nat
  v : Bool
  next : Nat
  ord0 : Nat
  len : Nat
  ext : List BExt
  deriving DecidableEq, Repr

/-- A descriptor's address. -/
def seqAddr (g : BCfg) (n : Nat) : Nat := g.seq + 128 * n

/-- Read a descriptor. -/
def bseq (s : State) (g : BCfg) (n : Nat) : BSeq :=
  let x := s.num false (seqAddr g n) 128
  let k := bits x 574 571
  ⟨x, bit x 575, k, bits x 570 567, bits x 543 512, (upFrom 0 (min k 8)).map (fun i => .ofNat (bits x (64 * i + 63) (64 * i)))⟩

/-- Write a descriptor: V, LENTOK and the extents; its other bits stay. -/
def putSeq (g : BCfg) (n : Nat) (d : BSeq) (s : State) : State :=
  let x := setBits (setBits (setBits (setBits d.raw 575 575 (b2n d.v)) 574 571 d.ext.length) 570 567 d.ord0) 543 512 d.len
  let x := (d.ext.zip (upFrom 0 8)).foldl (fun x e => setBits x (64 * e.2 + 63) (64 * e.2) e.1.toNat) x
  s.wr false (seqAddr g n) (leBytes 128 x)

/-- Capacity in pages. -/
def BSeq.cap (d : BSeq) : Nat := d.ext.foldl (fun a e => a + e.len) 0

/-- A valid descriptor (R131): V is not among its conditions. -/
def BSeq.valid (d : BSeq) (g : BCfg) : Bool :=
  decide (d.next ≤ 8) && d.ext.all (fun e =>
    e.base % 2 ^ e.ord == 0 && decide (e.base + 2 ^ e.ord ≤ g.pages) && decide (e.ord ≤ g.maxord)
      && decide (1 ≤ e.len) && decide (e.len ≤ 2 ^ e.ord) && e.stride % 2 == 1)
    && decide (d.len ≤ 16 * d.cap)

/-- Extent and index of a logical page. -/
def logical : List BExt → Nat → Nat → Option (Nat × Nat)
  | [], _, _ => none
  | e :: l, k, j => if j < e.len then some (k, j) else logical l (k + 1) (j - e.len)

/-- An extent of a sequence. -/
def BSeq.x (d : BSeq) (e : Nat) : BExt := d.ext.getD e ⟨0, 0, 0, 0⟩

/-- The order rule for an extent slot (R133). -/
def BSeq.rule (d : BSeq) (g : BCfg) (slot : Nat) : Nat :=
  if slot == 0 then min d.ord0 g.maxord else min ((d.x (slot - 1)).ord + 1) g.maxord

/-- Pages of extents, each with its logical index. -/
def extPages (l : List BExt) : List Nat := l.flatMap (fun e => (upFrom 0 e.len).map e.phys)

/-- Addresses of a token slot's codes and scale: page, head, 0 keys or 1 values, slot (R129). -/
def slotAddr (g : BCfg) (p h kv k : Nat) : Nat × Nat :=
  (g.code + 2048 * g.heads * p + 2048 * h + 1024 * kv + 64 * k, g.scale + 64 * g.heads * p + 64 * h + 32 * kv + 2 * k)

/-! ### The operations -/

/-- A quantised token: head, 0 keys or 1 values, code bytes, scale. -/
abbrev Token := List (Nat × Nat × List Byte × Nat)

/-- Copy the first slots of a page to another. -/
def copySlots (g : BCfg) (p q n : Nat) (s : State) : State :=
  (upFrom 0 g.heads).foldl (fun s h => (upFrom 0 2).foldl (fun s kv =>
    let a := slotAddr g p h kv 0
    let b := slotAddr g q h kv 0
    (s.wr false b.1 (s.rd false a.1 (64 * n))).wr false b.2 (s.rd false a.2 (2 * n))) s) s

/-- Write the token into its slot; FILL and LENTOK rise. -/
def writeToken (g : BCfg) (n : Nat) (d : BSeq) (p : Nat) (tok : Token) (s : State) : State :=
  let k := d.len % 16
  let s := tok.foldl (fun s x =>
    let a := slotAddr g p x.1 x.2.1 k
    (s.wr false a.1 x.2.2.1).wr false a.2 (leBytes 2 x.2.2.2)) s
  putSeq g n { d with len := d.len + 1 } (setPage g p (usedEnt (k + 1) (pageRef s g p)) s)

/-- An append (R133): the state, and the code of Table xlate-13. -/
def appendToken (g : BCfg) (n : Nat) (d : BSeq) (tok : Token) (s0 : State) : State × Nat :=
  let j := d.len / 16
  if j == d.cap then
    if d.ext.length == 8 then (s0, 2)
    else
      match allocDown g (d.rule g d.ext.length) s0 with
      | (_, none) => (s0, 3)
      | (s, some (p, o)) => (writeToken g n { d with ext := d.ext ++ [⟨p, o, 2 ^ o, 1⟩] } p tok s, 0)
  else
    match logical d.ext 0 j with
    | none => (s0, 1)
    | some (e, i) =>
      let p := (d.x e).phys i
      if pageRef s0 g p ≤ 1 then (writeToken g n d p tok s0, 0)
      else if 0 < i && e == 7 then (s0, 2)
      else
        match allocDown g (d.rule g (if i == 0 then e else e + 1)) s0 with
        | (_, none) => (s0, 3)
        | (s, some (q, o)) =>
          let fill := pageFill s g p
          let s := copySlots g p q fill s
          let s := ((extPages d.ext).drop j).foldl (dropRef g) s
          let kept := d.ext.take e ++ (if i == 0 then [] else [{ d.x e with len := i }])
          (writeToken g n { d with ext := kept ++ [⟨q, o, 2 ^ o, 1⟩] } q tok (setPage g q (usedEnt fill 1) s), 0)

/-- Extents cut to a number of pages. -/
def cutExts : List BExt → Nat → List BExt
  | [], _ => []
  | e :: l, n => if n == 0 then [] else { e with len := min e.len n } :: cutExts l (n - e.len)

/-- A fork (R134). -/
def forkSeq (g : BCfg) (d : BSeq) (c : Nat) (s : State) : State × Nat :=
  if 2 ^ g.logseq ≤ c || (bseq s g c).v then (s, 1)
  else
    let ext := cutExts d.ext ((d.len + 15) / 16)
    let ps := extPages ext
    if ps.any (fun p => decide (65535 ≤ pageRef s g p)) then (s, 4)
    else
      let s1 := ps.foldl (fun s p => setPage g p (usedEnt (pageFill s g p) (pageRef s g p + 1)) s) s
      (putSeq g c { bseq s g c with v := true, ord0 := d.ord0, len := d.len, ext := ext } s1, 0)

/-- A drop (R134). -/
def dropSeq (g : BCfg) (n : Nat) (d : BSeq) (s : State) : State × Nat :=
  (putSeq g n { d with v := false, len := 0, ext := [] } ((extPages d.ext).foldl (dropRef g) s), 0)

/-! ### Enabling (R128) -/

/-- The whole pool is free, as one block, and no sequence is in use. -/
def poolInit (g : BCfg) (s : State) : State :=
  let s := (upFrom 0 g.pages).foldl (fun s p => setPage g p (freeEnt (if p == 0 then g.logpages else 0)) s) s
  (upFrom 0 (2 ^ g.logseq)).foldl (fun s n => putSeq g n { bseq s g n with v := false, len := 0, ext := [] } s) s

/-- A write of BUSHEL.CFG[b] (R128). Clearing EN ends the operations that wait at the Bushel: they are marked, and end with status 5 whatever is written later. -/
def bushelWrite (b v : Nat) (s : State) : State :=
  let v := setBits v 97 96 0 % 2 ^ 128
  let old := (s.bay b).bushel
  let put := fun (x : Nat) (s : State) => s.modBay b (fun B => { B with bushel := x })
  let ends := fun (p : AOp) => p.stage != 0 && decide (0x3102 ≤ p.opc) && p.place == b
  if bit old 127 then
    if v % 2 ^ 127 != old % 2 ^ 127 then s
    else if bit v 127 then s
    else { put v s with ops := s.ops.map (fun e => if ends e.2 then (e.1, { e.2 with err := true }) else e) }
  else if bit v 127 then
    (if (BCfg.ofNat v).fits b then poolInit (.ofNat v) (put v s) else put (v % 2 ^ 127) s)
  else put v s

/-! ### Issue (R403, R404) -/

/-- The fields that each instruction leaves unused are 0, and a format is not 3 (R403). -/
def bushelA (opc v : Nat) : Bool :=
  match opc with
  | 0x3102 => v / 2 ^ 56 == 0 && bits v 55 54 != 3
  | 0x3103 => v / 2 ^ 32 == 0
  | 0x3104 => v / 2 ^ 16 == 0
  | _ => v / 2 ^ 24 == 0 && (if bit v 21 then bits v 23 22 != 3 else bits v 23 22 == 0)

/-- Bytes of an input vector of `bput`. -/
def putLen (v : Nat) : Nat := 128 * tySize (qrotFmt (bits v 55 54))

/-- Output ranges of `attn`: offset, bytes, alignment. -/
def attnRanges (a b : Nat) : List (Nat × Nat × Nat) :=
  let t := bits b 50 38
  if bit a 21 then [(bits b 18 0, 128 * t * tySize (qrotFmt (bits a 23 22)), 8)]
  else [(bits b 18 0, 64 * t, 8), (bits b 37 19, 4 * t, 4)]

/-- Input ranges of `bput`. -/
def putRanges (s : State) (b v : Nat) : List (Nat × Nat × Nat) :=
  let n := (bcfg s b).heads * putLen v
  [(bits v 34 16, n, 8), (bits v 53 35, n, 8)]

/-- The conditions of a Bushel instruction. -/
def bushelChk (opc : Nat) (o : OpE) (c : Ctx) (s : State) : List Trap :=
  let a := sReg c s o.a 0
  let b := sReg c s o.b 0
  let t0 := sReg c s o.a 1
  let ranges := fun (l : List (Nat × Nat × Nat)) => l.flatMap (fun r => rangeChk r.1 r.2.1 r.2.2 c s)
  (if !bushelA opc a || (opc == 0x3105 && t0 / 2 ^ 24 != 0) then opdTrap 1 c else [])
    ++ (if opc == 0x3105 && (b / 2 ^ 51 != 0 || 4096 < bits b 50 38 || 2 ^ 24 < t0 + bits b 50 38
          || (bit a 21 && bits b 37 19 != 0)) then opdTrap 2 c else [])
    ++ (if opc == 0x3102 then ranges (putRanges s ((bayPlace o c s).getD 0) a) else if opc == 0x3105 then ranges (attnRanges a b) else [])

/-- A Bushel instruction (R403, R404). -/
def bushelDesc (opc : Nat) (o : OpE) : Desc :=
  mxDesc o (if opc == 0x3105 then [src 1 o.a 2 [22], src 2 o.b 1 [2]] else [src 1 o.a 1 [2]])
    (fun c s => placeChk (bayPlace o c s) c) (bushelChk opc o) (fun c s =>
    let a := sReg c s o.a 0
    let b := sReg c s o.b 0
    let k := (bayPlace o c s).getD 0
    let spans := fun (l : List (Nat × Nat × Nat)) => l.map (fun r => spadSpan c.team r.1 r.2.1)
    let p := { mxOp o opc k c s with a := [a, sReg c s o.a 1], b := [b] }
    let p := if opc == 0x3102 then { p with reads := spans (putRanges s k a) }
      else if opc == 0x3105 then { p with writes := spans (attnRanges a b) } else p
    sendOp .asyncOperationComplete p s)

/-! ### Running (R135, R136) -/

/-- Sequences that an operation concerns. -/
def bushelSeqs (p : AOp) : List Nat :=
  let a := p.a.getD 0 0
  if p.opc == 0x3103 then [bits a 15 0, bits a 31 16] else [bits a 15 0]

/-- An earlier operation on the sequence at this Bushel has still to run (R135). -/
def bushelBlocked (id : Nat) (p : AOp) (s : State) : Bool :=
  s.ops.any (fun e => e.1 != id && e.2.before p && decide (0x3102 ≤ e.2.opc) && e.2.place == p.place
    && (bushelSeqs e.2).any (bushelSeqs p).contains)

/-- The bytes of a quantised vector: element 2j in the low nibble of byte j (R315). -/
def packCodes (q : List Nat) : List Byte :=
  (upFrom 0 (q.length / 2)).map (fun j => BitVec.ofNat 8 (q.getD (2 * j) 0 + 16 * q.getD (2 * j + 1) 0))

/-- A head's vector, rotated with e = −3 and quantised, with its flags. -/
def putVector (p : AOp) (s : State) (off n : Nat) : (List Byte × Nat) × Nat :=
  let f := qrotFmt (bits (p.a.getD 0 0) 55 54)
  let x := (upFrom 0 128).map (fun i => opElem p s (tyBits f) (off + i * tySize f, none))
  if x.any (·.stirred) then
    (((upFrom 0 64).map (fun j => BitVec.ofNat 8 (Config.freeWord p.fresh (65 * n + j))), Config.freeWord p.fresh (65 * n + 64) % 65536),
      freeFlags p n)
  else
    let q := quant4 (hadamard (-3) (x.map (fun e => valueOf f e.code)))
    ((packCodes q.q, q.scale), (if q.sawNan then fNan else 0) ||| (if q.sawOvf then fOvf else 0))

/-- The rows of `attn`: place and bytes, with the places of poisoned rows (R404). -/
def attnRow (p : AOp) (g : BCfg) (d : BSeq) (s : State) (r : Nat) : List (Nat × List Byte) × Bool :=
  let a := p.a.getD 0 0
  let b := p.b.getD 0 0
  let t := p.a.getD 1 0 + r
  let at_ := match logical d.ext 0 (t / 16) with
    | some (e, i) => slotAddr g ((d.x e).phys i) (bits a 19 16) (bits a 20 20) (t % 16)
    | none => (0, 0)
  let live := decide (t < d.len)
  let q := if live then s.rd false at_.1 64 else List.replicate 64 0
  let sc := if live then s.num false at_.2 2 else 0
  let bad := live && (s.badLine false at_.1 64 || s.badLine false at_.2 2)
  if !bit a 21 then
    ([(bits b 18 0 + 64 * r, q), (bits b 37 19 + 4 * r, leBytes 4 (convert 0x20 0x28 0 0 sc))], bad)
  else
    let f := qrotFmt (bits a 23 22)
    let code := leVal q
    let l := (upFrom 0 128).flatMap (fun i =>
      leBytes (tySize f) (convertTo f (bits p.mode 3 2) 1 (dequant4 (code / 2 ^ (4 * i) % 16) sc)))
    ([(bits b 18 0 + 128 * r * tySize f, l)], bad)

/-- A Bushel operation runs (R133, R134, R403, R404); poisoned inputs have the lower code and are looked at first (R244). -/
def bushelRun (id : Nat) (p : AOp) (s : State) : State :=
  let g := bcfg s p.place
  let a := p.a.getD 0 0
  let n := bits a 15 0
  let d := bseq s g n
  let done := fun (r : State × Nat) (flags : Nat) =>
    if r.2 == 0 then completeOp id { flags := flags } r.1 else completeOp id { code := 11, aux := r.2 } s
  if p.reads.any (fun x => opBad p s x.lo x.len) then completeOp id { code := 4 } s
  else if p.err || !g.en || g.ctx != p.ctx then done (s, 5) 0
  else if 2 ^ g.logseq ≤ n || !d.valid g then done (s, 1) 0
  else if p.opc == 0x3102 then
    let vs := (upFrom 0 g.heads).flatMap (fun h => (upFrom 0 2).map (fun kv =>
      let off := if kv == 0 then bits a 34 16 else bits a 53 35
      (h, kv, putVector p s (off + h * putLen a) (2 * h + kv))))
    done (appendToken g n d (vs.map (fun x => (x.1, x.2.1, x.2.2.1))) s) (vs.foldl (fun f x => f ||| x.2.2.2) 0)
  else if p.opc == 0x3103 then done (forkSeq g d (bits a 31 16) s) 0
  else if p.opc == 0x3104 then done (dropSeq g n d s) 0
  else if g.heads ≤ bits a 19 16 then done (s, 1) 0
  else
    let t := bits (p.b.getD 0 0) 50 38
    let rows := (upFrom 0 t).map (attnRow p g d s)
    let cells := rows.flatMap (fun r => r.1.flatMap (fun x =>
      (x.2.zip (upFrom x.1 x.2.length)).map (fun y => (((Area.spad p.team, y.2), y.1), r.2))))
    let bad := rows.any Prod.snd
    let s := withOuts id (cells.map Prod.fst) ((cells.filter Prod.snd).map (fun z => z.1.1)) [] s
    completeOp id { code := if bad then 9 else 0, flags := (if t == 0 then fEmpty else 0) ||| (if bad then fPoison else 0) } s

/-! ### The unit event (R243) -/

/-- `ASYNC_OPERATION_COMPLETE`: an operation passes from its core's queue to its unit; then it runs when its turn has come, and completes. -/
def asyncStep (s : State) : State :=
  let id := s.ev.k
  match s.ops.get? id with
  | none => s
  | some p =>
    let again := fun (s : State) => s.push .asyncOperationComplete (.ofK id)
    if p.stage == 0 then
      if !atHead id s then again s
      else if rodWaits p then
        let s := (takeOp id s).modOp id (fun p => { p with start := s.now p.team })
        (s.push .rodPairing (.ofK id)).push .rodTimeout (.ofK id)
      else again (takeOp id s)
    else if p.opc == 0x3007 then rodMove id p s
    else if opBlocked id p s || (0x3102 ≤ p.opc && bushelBlocked id p s) then again s
    else
      match p.opc with
      | 0x3001 => wloadRun id p s
      | 0x3002 => mmulRun id p s
      | 0x3003 => aclrRun id p s
      | 0x3004 => areadRun id p s
      | 0x3100 => smvRun id p s
      | 0x3101 => qrotRun id p s
      | _ => bushelRun id p s

/-! ### The instructions and the event -/

/-- `bput` (R403). -/
def execBput (h : Hdr) (o : OpE) (s : State) : Host.Outcome State Fault Refusal :=
  .next (issue (.bput h o) 3 (bushelDesc 0x3102 o) s)

/-- `bfork` (R403). -/
def execBfork (h : Hdr) (o : OpE) (s : State) : Host.Outcome State Fault Refusal :=
  .next (issue (.bfork h o) 3 (bushelDesc 0x3103 o) s)

/-- `bdrop` (R403). -/
def execBdrop (h : Hdr) (o : OpE) (s : State) : Host.Outcome State Fault Refusal :=
  .next (issue (.bdrop h o) 3 (bushelDesc 0x3104 o) s)

/-- `attn` (R404). -/
def execAttn (h : Hdr) (o : OpE) (s : State) : Host.Outcome State Fault Refusal :=
  .next (issue (.attn h o) 3 (bushelDesc 0x3105 o) s)

/-- `ASYNC_OPERATION_COMPLETE` (R243). -/
def execAsyncOperationComplete (s : State) : Host.Outcome State Fault Refusal := .next (asyncStep s)

end Sys2Proof.Machine
end

