-- ==== Sys2Proof/Machine/Messages.lean ====
section
/-! DEFINITION. The meanings of the fabric's, the host link's and the links' messages (R33-R76, R100, R113-R122, R222, R254, R416). -/

namespace Sys2Proof.Machine

/-- `RDS` (R61). -/
def execRds (s : State) : Host.Outcome State Fault Refusal := .next (rdsStep s)

/-- `RDX` (R63). -/
def execRdx (s : State) : Host.Outcome State Fault Refusal := .next (ownStep .rdx s)

/-- `UPG` (R63). -/
def execUpg (s : State) : Host.Outcome State Fault Refusal := .next (ownStep .upg s)

/-- `RDU` (R113). -/
def execRdu (s : State) : Host.Outcome State Fault Refusal := .next (rduStep s)

/-- `WRU` (R64, R113). -/
def execWru (s : State) : Host.Outcome State Fault Refusal := .next (wruStep s)

/-- `ATOM` (R64). -/
def execAtom (s : State) : Host.Outcome State Fault Refusal := .next (atomStep s)

/-- `FWD` (R61). -/
def execFwd (s : State) : Host.Outcome State Fault Refusal := .next (fwdStep s)

/-- `INV` (R63). -/
def execInv (s : State) : Host.Outcome State Fault Refusal := .next (invStep s)

/-- `GRAFT` (R61). -/
def execGraft (s : State) : Host.Outcome State Fault Refusal := .next (graftStep s)

/-- `PRUNEACK` (R66). -/
def execPruneack (s : State) : Host.Outcome State Fault Refusal := .next (departAck .pruneack s)

/-- `WBACK` (R66). -/
def execWback (s : State) : Host.Outcome State Fault Refusal := .next (departAck .wback s)

/-- `PATH_RELEASE` (R115). -/
def execPathRelease (s : State) : Host.Outcome State Fault Refusal := .next (releaseStep s)

/-- `INVACK` (R63). -/
def execInvack (s : State) : Host.Outcome State Fault Refusal := .next (invackStep s)

/-- `PRUNE` (R66). -/
def execPrune (s : State) : Host.Outcome State Fault Refusal := .next (departStep false s)

/-- `WBD` (R66). -/
def execWbd (s : State) : Host.Outcome State Fault Refusal := .next (departStep true s)

/-- `DATA` (R61, R57). -/
def execData (s : State) : Host.Outcome State Fault Refusal := .next (dataStep s)

/-- `GRANT` (R63). -/
def execGrant (s : State) : Host.Outcome State Fault Refusal := .next (dataStep s)

/-- `ERR` (R76). -/
def execErr (s : State) : Host.Outcome State Fault Refusal := .next (errStep s)

/-- `WRACK` (R258). -/
def execWrack (s : State) : Host.Outcome State Fault Refusal := .next (wrackStep s)

/-- `ATOMACK` (R64). -/
def execAtomack (s : State) : Host.Outcome State Fault Refusal := .next (atomackStep s)

/-- `REDACK` (R73). -/
def execRedack (s : State) : Host.Outcome State Fault Refusal := .next (redackStep s)

/-- `SYNC_COUNT_UPDATE` (R73). -/
def execSyncCountUpdate (s : State) : Host.Outcome State Fault Refusal := .next (syncCount s)

/-- `RED` (R72). -/
def execRed (s : State) : Host.Outcome State Fault Refusal := .next (redStep s)

/-- `REDP` (R72). -/
def execRedp (s : State) : Host.Outcome State Fault Refusal := .next (redpStep s)

/-- `COMBINE_WINDOW_EXPIRY` (R72). -/
def execCombineWindowExpiry (s : State) : Host.Outcome State Fault Refusal := .next (combExpire s)

/-- `ORD_CONTRIBUTION_RESEND` (R222). -/
def execOrdContributionResend (s : State) : Host.Outcome State Fault Refusal := .next (ordResend s)

/-- `ATTRIBUTE_QUERY` (R416). -/
def execAttributeQuery (s : State) : Host.Outcome State Fault Refusal := .next (attributeStep s)

/-- `PLACEMENT_LOOKUP` (R108). -/
def execPlacementLookup (s : State) : Host.Outcome State Fault Refusal := .next (placementStep s)

/-- `TRANSLATION_WALK` (R110). -/
def execTranslationWalk (s : State) : Host.Outcome State Fault Refusal := .next (walkStep s)

/-- `FRAME_ZEROING_COMPLETE` (R120). -/
def execFrameZeroingComplete (s : State) : Host.Outcome State Fault Refusal := .next (zeroingStep s)

/-- `WCS_EVICTION` (R254). -/
def execWcsEviction (s : State) : Host.Outcome State Fault Refusal := .next (wcsEvictStep s)

/-- `ITOMWR_COMPLETION` (R258). -/
def execItomwrCompletion (s : State) : Host.Outcome State Fault Refusal := .next (itomwrStep s)

/-- `SNPDATA` (R70). -/
def execSnpdata (s : State) : Host.Outcome State Fault Refusal := .next (snoopStep .data .snpdata s)

/-- `SNPINV` (R70). -/
def execSnpinv (s : State) : Host.Outcome State Fault Refusal := .next (snoopStep .inv .snpinv s)

/-- `SNPCUR` (R70). -/
def execSnpcur (s : State) : Host.Outcome State Fault Refusal := .next (snoopStep .cur .snpcur s)

/-- `HOST_SECTOR_FETCH` (R114). -/
def execHostSectorFetch (s : State) : Host.Outcome State Fault Refusal := .next (hostFetchStep s)

/-- `BAR_MEMORY_WRITE` (R100). -/
def execBarMemoryWrite (s : State) : Host.Outcome State Fault Refusal := .next (barWrite s)

/-- `FLIT_RECEIVED` (R33). -/
def execFlitReceived (s : State) : Host.Outcome State Fault Refusal := .next (flitStep s)

/-- `REPLAY_REQUEST` (R33). -/
def execReplayRequest (s : State) : Host.Outcome State Fault Refusal := .next (replayStep s)

/-- `EQUALISATION_STEP` (R35). -/
def execEqualisationStep (s : State) : Host.Outcome State Fault Refusal := .next (equaliseStep s)

end Sys2Proof.Machine
end

