-- ==== Sys2Proof/Machine/Records.lean ====
section
/-! DEFINITION. What the command processor reads and writes: memory at device, host and virtual addresses, completion records, fault records, interrupts, and the queues' heads (R85, R88, R89, R95, R97, R98). -/

namespace Sys2Proof.Machine

/-! ### Addresses of the command processor (R80, R85, R88, R105) -/

/-- An address that may be a device or a host address names device memory below 2^40, the size of that space, and host memory from there on. -/
def isHostAddr (a : Nat) : Bool := decide (2 ^ 40 ≤ a)

/-- Read at a device or host address; the error kind that answers it, if any, and 255 while the KHL's training holds it. A host address needs no crossing of the mesh: the log names router (0, 0) (log entry 57). -/
def cpRead (a n : Nat) (s : State) : State × Except Nat (List Byte) :=
  if !isHostAddr a then rdRange Who.cp 0 a n s
  else if s.khlLost then (logErr 0 7 0 (edgeRouter 0 0) ⟨6, 0⟩ a s, .error 7)
  else if s.regs.khl.state < 2 then (s, .error 255)
  else if s.badLine true a n then (logErr 0 (lineKind s true a) 0 (edgeRouter 0 0) ⟨6, 0⟩ a s, .error 0)
  else (s, .ok (s.rd true a n))

/-- Write at a device or host address; the error kind that answers it, if any. A write that the KHL's training holds reaches the host after it (R33). -/
def cpWrite (a : Nat) (l : List Byte) (s : State) : State × Option Nat :=
  if !isHostAddr a then wrRange Who.cp 0 a l s
  else if s.khlLost then (logErr 0 7 0 (edgeRouter 0 0) ⟨6, 0⟩ a s, some 7)
  else if s.regs.khl.state < 2 then ({ s with posted := s.posted ++ [(a, l)] }, none)
  else if s.badMerge true a l.length then (logErr 0 (lineKind s true a) 0 (edgeRouter 0 0) ⟨6, 0⟩ a s, some 0)
  else (s.ctlWr true a l, none)

/-- The writes that the KHL's training held back reach the host, in order, or are lost with the link. -/
def sendPosted (s : State) : State := s.posted.foldl (fun s x => (cpWrite x.1 x.2 s).1) { s with posted := [] }

/-- A number in device memory, or an error. -/
def cpNum (a n : Nat) (s : State) : State × Except Nat Nat :=
  match cpRead a n s with
  | (s, .ok l) => (s, .ok (leVal l))
  | (s, .error k) => (s, .error k)

/-- A number at a virtual address of a context; 255 when the page's eviction holds the access. -/
def vaNum (ctx va n : Nat) (s : State) : State × Except Nat Nat :=
  match rdRange Who.cp ctx va n s with
  | (s, .ok l) => (s, .ok (leVal l))
  | (s, .error k) => (s, .error k)

/-- A MSI-X interrupt. -/
def State.msix (s : State) (v : Nat) : State := s.tell (.msix v)

/-- Change a context's record. -/
def State.modCtx (s : State) (ctx : Nat) (f : CtxRec → CtxRec) : State :=
  match s.ctxs.get? ctx with
  | none => s
  | some r => { s with ctxs := s.ctxs.set ctx (f r) }

/-- A queue of a context. -/
def Queue.zero : Queue := ⟨0, 0, 0, 0, 0, 0, false, false, 0, 0⟩
def State.queue (s : State) (ctx q : Nat) : Queue :=
  match s.ctxs.get? ctx with
  | some r => r.queues.getD q .zero
  | none => .zero

/-- Change a queue of a context. -/
def State.modQueue (s : State) (ctx q : Nat) (f : Queue → Queue) : State :=
  s.modCtx ctx (fun r =>
    match r.queues.get? q with
    | none => r
    | some x => { r with queues := r.queues.set q (f x) })

/-- The commands that a queue's ring holds. -/
def Queue.len (q : Queue) : Nat := 2 ^ (q.size + 4)

/-! ### Fault records (R98, Table host-14) -/

/-- The fields of a fault record. -/
structure FaultRec where
  code : Nat
  trap : Nat
  queue : Nat
  node : Nat
  depth : Nat
  tag : Nat
  team : Nat
  group : Nat
  lane : Nat
  va : Nat
  pc : Nat
  deriving DecidableEq, Repr

/-- A record without a trap: TEAM is all ones. -/
def FaultRec.plain (code queue node depth tag : Nat) : FaultRec := ⟨code, 0, queue, node, depth, tag, 2 ^ 32 - 1, 0, 0, 0, 0⟩

/-- The 512-bit pattern of a record, with its stamp. -/
def FaultRec.toNat (r : FaultRec) (stamp : Nat) : Nat :=
  r.code % 2 ^ 8 * 2 ^ 504 + r.trap % 2 ^ 8 * 2 ^ 496 + r.queue % 2 ^ 5 * 2 ^ 491 + r.node % 2 ^ 16 * 2 ^ 475
    + r.depth % 2 ^ 3 * 2 ^ 472 + r.tag % 2 ^ 32 * 2 ^ 440 + r.team % 2 ^ 32 * 2 ^ 408 + r.group % 2 ^ 4 * 2 ^ 404
    + r.lane % 2 ^ 7 * 2 ^ 397 + r.va % 2 ^ 57 * 2 ^ 340 + r.pc % 2 ^ 64 * 2 ^ 276 + stamp % 2 ^ 24 * 2 ^ 252

/-- FAULTVEC is to be raised: at once, or 10 µs after it was raised last. -/
def armFaultVec (ctx : Nat) (s : State) : State :=
  match s.ctxs.get? ctx with
  | none => s
  | some r =>
    if r.toRaise then s
    else
      let at_ := match r.raised with
        | some t => max s.ncyc (t + 20000)
        | none => s.ncyc
      let s := s.modCtx ctx (fun r => { r with toRaise := true })
      { s with agenda := s.agenda ++ [⟨.faultVectorRaise, .ofK ctx, at_, 0⟩] }

/-- Append a record to a context's fault ring; a full ring drops it and counts it (R98). Nothing is written once CTX_DESTROY has begun (R87). -/
def appendFault (ctx : Nat) (f : FaultRec) (s : State) : State :=
  match s.ctxs.get? ctx with
  | none => s
  | some r =>
    if r.dying then s
    else
      match cpRead r.faultring 12 s with
      | (s, .error _) => s
      | (s, .ok l) =>
        let x := leVal l
        let head := bits x 31 0
        let tail := bits x 63 32
        let drop := bits x 95 64
        if wrapN 32 ((tail : Int) - head) == r.faultcnt then
          (cpWrite (r.faultring + 8) (leBytes 4 (min (drop + 1) (2 ^ 32 - 1))) s).1
        else
          let s := (cpWrite (r.faultring + 64 + 64 * (tail % r.faultcnt)) (leBytes 64 (f.toNat (s.ncyc / 1024))) s).1
          armFaultVec ctx (cpWrite (r.faultring + 4) (leBytes 4 ((tail + 1) % 2 ^ 32)) s).1

/-- `FAULT_VECTOR_RAISE` (R98). -/
def faultVecStep (s : State) : State :=
  match s.ctxs.get? s.ev.k with
  | none => s
  | some r =>
    if !r.toRaise || r.dying then s
    else (s.modCtx s.ev.k (fun r => { r with toRaise := false, raised := some s.ncyc })).msix r.faultvec

/-- `FAULT_VECTOR_RAISE` (R98). -/
def execFaultVectorRaise (s : State) : Host.Outcome State Fault Refusal := .next (faultVecStep s)

/-! ### Completion records (R95) -/

/-- The status word of a completion record. -/
def statusWord (code node depth : Nat) : Nat := code % 2 ^ 32 * 2 ^ 32 + node % 2 ^ 16 * 2 ^ 16 + depth % 2 ^ 16

/-- A user command's completion record: the status word, then VALUE; false while an eviction, a flip, a granule or the link holds the page, for which the write has asked. -/
def writeDone (ctx done value code node depth : Nat) (s : State) : State × Bool :=
  let w : Who := Who.cp
  match wrRange w ctx (done + 8) (leBytes 8 (statusWord code node depth)) s with
  | (s, some 255) => (s, false)
  | (s, _) =>
    match wrRange w ctx done (leBytes 8 value) s with
    | (s, some 255) => (s, false)
    | (s, _) => (s, true)

/-! ### User queues (R88, R89, R97) -/

/-- The part accepts commands: it has been brought up, and no fabric-fatal error has struck. -/
def State.accepts (s : State) : Bool := s.regs.run && !s.regs.fatal

/-- The event of a user command by its OP. -/
def userEvent (op : Nat) : Instr :=
  match op with
  | 0 => .userNop
  | 1 => .graphLaunch
  | _ => .userUnknownOp

/-- Start the next command of a queue, when none runs and the queue has not halted (R89). While the KHL's training holds the ring's read, nothing starts; the queue is looked at again when the link carries traffic (R33). -/
def queuePump (ctx q : Nat) (s : State) : State :=
  match s.ctxs.get? ctx with
  | none => s
  | some r =>
    let Q := s.queue ctx q
    if Q.busy || Q.halted || r.dying || !s.accepts || Q.head == Q.tail then s
    else
      let s := s.modQueue ctx q (fun x => { x with busy := true })
      match cpNum (Q.base + 64 * Q.head) 64 s with
      | (s, .error 255) => s.modQueue ctx q (fun x => { x with busy := false })
      | (s, .error _) => s.push .userCommandReadError ⟨ctx, q, 0, []⟩
      | (s, .ok c) =>
        (s.modQueue ctx q (fun x => { x with cmd := c })).push (userEvent (bits c 511 504)) ⟨ctx, q, 0, []⟩

/-- The head moves past a command: HEADWB is written, the interrupt raised, and the queue halts after a failure (R95, R97). -/
def queueNext (ctx q : Nat) (irq halt : Bool) (s : State) : State :=
  let Q := s.queue ctx q
  let h := (Q.head + 1) % Q.len
  let s := (cpWrite Q.headwb (leBytes 2 h) s).1
  let s := if irq then s.msix Q.vec else s
  let s := s.modQueue ctx q (fun x => { x with head := h, busy := false, halted := x.halted || halt })
  queuePump ctx q s

/-- A user command completes; false while its record's page is held (R95). -/
def userDone (ctx q code node depth : Nat) (s : State) : State × Bool :=
  match s.ctxs.get? ctx with
  | none => (s, true)
  | some r =>
    if r.dying then (s, true)
    else
      let c := (s.queue ctx q).cmd
      match writeDone ctx (bits c 383 320) (bits c 319 256) code node depth s with
      | (s, false) => (s, false)
      | (s, true) => (queueNext ctx q (bit c 503) (code != 0) s, true)

/-- A user command that completes at once, tried again while its record's page is held. -/
def userQuick (ev : Instr) (code : Nat) (s : State) : State :=
  match userDone s.ev.k s.ev.a code 0 0 s with
  | (s, true) => s
  | (s, false) => s.push ev s.ev

/-- `USER_COMMAND_READ_ERROR`: no completion record; a fault record of code 9, the head past the command, and the queue halts (R89). -/
def userReadError (s : State) : State :=
  match s.ctxs.get? s.ev.k with
  | none => s
  | some r =>
    if r.dying then s
    else queueNext s.ev.k s.ev.a false true (appendFault s.ev.k (.plain 9 s.ev.a 0 0 0) s)

/-- `USER_NOP` (R89). -/
def execUserNop (s : State) : Host.Outcome State Fault Refusal := .next (userQuick .userNop 0 s)

/-- `USER_UNKNOWN_OP` (R89). -/
def execUserUnknownOp (s : State) : Host.Outcome State Fault Refusal := .next (userQuick .userUnknownOp 10 s)

/-- `USER_COMMAND_READ_ERROR` (R89). -/
def execUserCommandReadError (s : State) : Host.Outcome State Fault Refusal := .next (userReadError s)

end Sys2Proof.Machine
end

