-- ==== Sys2Proof/Machine/Events.lean ====
section
/-! DEFINITION. What happens to resident teams between instructions: acknowledgements, ejection and recall, rejoin timeouts, the adaptive threshold, synchronisation updates and timers, and errors of memories and checks (R14, R46, R69, R180-R186, R198, R202, R209-R211, R245). -/

namespace Sys2Proof.Machine

/-! ### Acknowledgements of local writes (Table cons-3) -/

/-- The port acknowledges a local write: OWL of its lanes falls, and its instruction has a part less outstanding (R175). A local part of loads or atomics, which has no lanes here, is done once its registers are written. -/
def portAckStep (s : State) : State :=
  let t := s.ev.k
  let g := s.ev.a
  if s.now t < leVal ((s.ev.data.drop 8).take 8) then s.keep .portWriteAcknowledgement
  else
  trackDone (leVal (s.ev.data.take 8)) (s.modThrs t g (laneList 128 (BitVec.ofNat 128 s.ev.v)) (fun th => { th with owl := th.owl - 1 }))

/-- `PORT_WRITE_ACKNOWLEDGEMENT` (R372, Table cons-3). -/
def execPortWriteAcknowledgement (s : State) : Host.Outcome State Fault Refusal := .next (portAckStep s)

/-! ### Ejection and recall (R181, R183) -/

/-- A thread's stores have reached the coherent level and their ports. -/
def threadDrained (th : Thread) : Bool := th.owl == 0 && th.owc == 0

/-- Start draining the write-combining entries that hold a thread's stores. -/
def drainThread (t g i : Nat) (s : State) : State :=
  s.wcs.foldl (fun s e =>
    if e.2.owners.any (fun o => o.team == t && o.group == g && o.lane == i) then drainLine e.1.1 e.1.2.1 e.1.2.2 s else s) s

/-- Start draining what a unit's write-combining store holds. -/
def drainUnit (u : Nat) (s : State) : State :=
  s.wcs.foldl (fun s e => if e.1.1 == u then drainLine e.1.1 e.1.2.1 e.1.2.2 s else s) s

/-- A thread's reads of memory that have not returned, those of its group's s registers among them. -/
def readsOut (s : State) (owed : List Pending) (th : Thread) : Bool :=
  (th.pend ++ owed).any (fun p =>
    match s.accs.get? p.access with
    | some a => a.kind == AKind.load || a.kind == AKind.atom
    | none => false)

/-- `EJECTION_HANDOVER_COMPLETE`: the thread begins on its Span core. The ejection is a release at `.clus`: its own writes have drained, its reads have returned, and so have the stores of the core's threads that it may have seen (R184, R250, R257). A halted context's hand-over has been cancelled (R156). -/
def handoverStep (s : State) : State :=
  let t := s.ev.k
  let g := s.ev.a
  let i := s.ev.v
  let th := s.thr (t, g, i)
  let u := 16 * (s.team t).cluster + (s.team t).core
  match th.span with
  | none => s
  | some sp =>
    if !th.live || th.wait != .moving then s
    else if !threadDrained th || readsOut s sp.owed th || coreStores u s then
      (drainUnit u (drainThread t g i s)).push .ejectionHandoverComplete s.ev
    else s.modThr (t, g, i) (fun th => { th with wait := .none })

/-- `EJECTION_HANDOVER_COMPLETE` (R181). -/
def execEjectionHandoverComplete (s : State) : Host.Outcome State Fault Refusal := .next (handoverStep s)

/-- The issue set of a thread: those that share its pc and CD, not ejected and not waiting; a running handler's threads stand apart (R176, R194). -/
def issueSetOf (s : State) (t g i : Nat) : List Nat :=
  let th := s.thr (t, g, i)
  let G := s.grp t g
  let inH := fun (k : Nat) => G.trap.active && G.handler.contains k
  (s.liveThr t g).filter (fun k =>
    let o := s.thr (t, g, k)
    o.pc == th.pc && o.cd == th.cd && o.wait == .none && o.span.isNone && inH k == inH i)

/-- `THREAD_RECALL`: the thread's accesses have completed, its stores and those of its Span core that it may have seen have drained; it returns to its group, and a failed store of its stay is taken as store_error there (R183, R184). That LO, as a spill or fill on the Span core left it, comes back too is the model's choice: the list of R183 does not name it (log entry 70). -/
def recallStep (s : State) : State :=
  let t := s.ev.k
  let g := s.ev.a
  let i := s.ev.v
  let th := s.thr (t, g, i)
  let failed := th.storeErr.any (errCovered 3)
  if !th.live || th.span.isNone || (s.team t).halted then s
  else if !(threadDrained th && th.pend.isEmpty && th.acq.isEmpty) || coreStores (unitOf s (t, g, i)) s || (failed && (s.grp t g).trap.active) then
    (drainUnit (unitOf s (t, g, i)) (drainThread t g i s)).push .threadRecall s.ev
  else
    let s := s.modThr (t, g, i) (fun th => { th with span := none, wait := .none, latPipe := none })
    let s := evalMasks t g s
    if failed then
      enterTrap t g (issueSetOf s t g i) 0 th.pc th.cd ⟨14, 3, 0, [i], g⟩ s
    else s

/-- `THREAD_RECALL` (R183). -/
def execThreadRecall (s : State) : Host.Outcome State Fault Refusal := .next (recallStep s)

/-- `REJOIN_TIMEOUT`: the timer of a mask reaches RJTO; the issue set of the lowest waiting thread leaves its wait and takes rejoin_timeout, whose LANES are the ejected threads of the mask (R185). That a timer which runs out while the group's handler is active traps once ACTIVE is 0 is the model's choice (log entry 71). -/
def rejoinStep (s : State) : State :=
  let t := s.ev.k
  let g := s.ev.a
  let m := s.ev.v
  let G := s.grp t g
  match G.timers.find? (fun r => r.mask == m) with
  | none => s
  | some r =>
    if (s.team t).halted || s.timerCount t r < s.rjto || G.trap.active then s.push .rejoinTimeout s.ev
    else
      let ws := maskWaiters t g m s
      match ws with
      | [] => s
      | w :: _ =>
        let th := s.thr (t, g, w)
        let set := ws.filter (fun i => (s.thr (t, g, i)).pc == th.pc && (s.thr (t, g, i)).cd == th.cd)
        let missing := (maskThreads t g m s).filter (fun i => s.ejected (t, g, i))
        let s := s.modGrp t g (fun G => { G with timers := G.timers.filter (fun r => r.mask != m) })
        let s := s.modThrs t g set (fun th => { th with wait := .none })
        enterTrap t g set 1 th.pc th.cd ⟨15, m, 0, missing, g⟩ s

/-- `REJOIN_TIMEOUT` (R185). -/
def execRejoinTimeout (s : State) : Host.Outcome State Fault Refusal := .next (rejoinStep s)

/-- `EJECTION_WINDOW_END`: the end of a team's window of 4,096 a-cycles (R186). -/
def windowStep (s : State) : State :=
  let t := s.ev.k
  match s.teams.get? t with
  | none => s
  | some _ => (closeWindow t s).push .ejectionWindowEnd s.ev

/-- `EJECTION_WINDOW_END` (R186). -/
def execEjectionWindowEnd (s : State) : Host.Outcome State Fault Refusal := .next (windowStep s)

/-! ### Synchronisation words (R209 to R211) -/

/-- `SYNC_UPDATE`: an engine's count reaches a word, in the allotment or in its image (R160). With a command's last count its destination takes its values in the same step; after another one the command goes on (R214). The event's data are twice the command's number, plus 1 for the last. -/
def syncUpdateStep (s : State) : State :=
  let e := s.ev
  let x := leVal e.data
  let apply := fun (s : State) => if (s.teams.get? e.k).isSome then syncApply e.k e.a (e.v / 2) (e.v % 2 == 1) s else s
  if x == 0 then apply s
  else if x % 2 == 1 then apply (finishCmd (x / 2) s)
  else (apply s).push (nextCount (s.op (x / 2))) (.ofK (x / 2))

/-- `SYNC_UPDATE` (R209). -/
def execSyncUpdate (s : State) : Host.Outcome State Fault Refusal := .next (syncUpdateStep s)

/-- The record of a timed-out word: it names the grid's node and the team (R211, R98). -/
def wordRecord (t : Nat) (s : State) : State :=
  let T := s.team t
  let G := s.grid t
  match s.runs.get? G.run with
  | none => appendFault T.ctx { FaultRec.plain 7 0 G.node 1 0 with team := T.lin } s
  | some R =>
    appendFault T.ctx { FaultRec.plain 7 R.queue G.node R.depth (bits (s.queue R.ctx R.queue).cmd 479 448) with team := T.lin } s

/-- `SYNC_TIMER_TICK`: each 1,024 a-cycles of a timed word; at LIMIT it sets TIMEOUT (R211). -/
def timerStep (s : State) : State :=
  let t := s.ev.k
  let off := s.ev.a
  match s.timed.find? (fun x => x.team == t && x.off == off) with
  | none => s
  | some x =>
    if (s.team t).halted || x.count + (s.now t - x.start) < 1024 then s.push .syncTimerTick s.ev
    else
      let w := syncAt s t off
      let e := (w.elapsed + 1) % 2 ^ 16
      let hit := w.limit ≤ e
      let s' := portWrite t .spad off (leBytes 16 ({ w with elapsed := e, timeout := hit } : SyncWord).toNat)
        (restartWord t off (x.start + (1024 - x.count)) s)
      (if hit then wordRecord t s' else s').push .syncTimerTick s.ev

/-- `SYNC_TIMER_TICK` (R211). -/
def execSyncTimerTick (s : State) : Host.Outcome State Fault Refusal := .next (timerStep s)

/-! ### Fabric-fatal errors (R69, R99) -/

/-- The runs of a context that no other run started. -/
def rootRuns (s : State) (ctx : Nat) : List (Nat × Run) := s.runs.filter (fun e => e.2.ctx == ctx && e.2.parent.isNone)

/-- Complete every running graph of a context with a code and end its grids. Each root run keeps only its failure, and the event that ends it completes the command as R95 gives, however long its record's page is held. -/
def endGraphs (ctx code : Nat) (s : State) : State :=
  let roots := rootRuns s ctx
  let grids := (s.grids.filter (fun e => e.2.ctx == ctx)).map Prod.fst
  let s := grids.foldl (fun s g => s.killGrid g) s
  let ts := (s.teams.filter (fun e => e.2.ctx == ctx)).map Prod.fst
  let s : State := ts.foldl (fun s t => s.push .teamExit (.ofK t)) { s with
    runs := s.runs.filter (fun e => e.2.ctx != ctx) ++ roots.map (fun e => (e.1, { e.2 with nodes := [], fail := some (code, 0, e.2.depth) }))
    grids := s.grids.filter (fun e => e.2.ctx != ctx || s.teams.any (fun x => x.2.grid == e.1))
    tasks := s.tasks.filter (fun x => x.ctx != ctx) }
  roots.foldl (fun s e => s.push .nodeComplete ⟨e.1, 4096, 0, []⟩) s

/-- `TREE_CACHE_ECC_FATAL`: an uncorrectable tree-cache error at a router (the event's number), for a line's context and address: logged, every context's graphs complete with code 12 and one fault record each, and nothing new is accepted until reset. -/
def fatalStep (s : State) : State :=
  let r := s.ev.k
  let s := logErr (bayOfRouter r) 3 s.ev.a r ⟨7, 0⟩ s.ev.v s
  let s : State := { s with regs := { s.regs with fatal := true } }
  s.ctxs.foldl (fun s e => appendFault e.1 (.plain 12 0 0 0 0) (endGraphs e.1 12 s)) s

/-- `TREE_CACHE_ECC_FATAL` (R69, R99). -/
def execTreeCacheEccFatal (s : State) : Host.Outcome State Fault Refusal := .next (fatalStep s)

/-! ### Errors of memories, registers and checks (R14, R46, R198, R202, R245) -/

/-- Count a corrected error of a bay's memories. -/
def countCorr (b : Nat) (s : State) : State := s.modBay b (fun B => { B with corr := (B.corr + 1) % 256 })

/-- Global number of a team's core, and its index in its bay. -/
def coreNo (s : State) (t : Nat) : Nat := 3 * (s.team t).cluster + (s.team t).core

/-- Count a register-file error in SIMT.RFERR (Table core-5). -/
def countReg (core : Nat) (fixed : Bool) (s : State) : State :=
  s.modBay (core / 48) (fun B =>
    let x := B.rferr.getD (core % 48) 0
    let x := if fixed then setBits x 15 8 (bits x 15 8 + 1) else setBits x 31 16 (bits x 31 16 + 1)
    { B with rferr := B.rferr.set (core % 48) x })

/-- The place that a KIND 8 entry shows, with its cluster and context (R202). The manual does not place a segment in cluster-shared memory: its 4 KiB unit is a free value. -/
def localPlace (s : State) (a : Area) (off : Nat) : Option (Nat × Nat × Nat) :=
  match a with
  | .spad t =>
    (s.teams.get? t).map (fun T => (T.cluster, T.ctx, T.units.getD (off / 4096) 0 * 4096 + off % 4096 + T.core * 2 ^ 21))
  | .clsh g c =>
    let u := Config.freeWord s.tick 0 % 256
    (s.clsh.get? (g, c)).map (fun _ => (c, (s.grids.getD g .blank).ctx, u * 4096 + off % 4096 + 2 ^ 20))
  | _ => none

/-- An uncorrectable word of local memory: poison, and an entry of KIND 8 with the agent whose access found it, if any (R202). -/
def localUpset (a : Area) (off : Nat) (ag : Agent) (s : State) : State :=
  match localPlace s a off with
  | none => s
  | some (cl, ctx, va) =>
    let s := logErr (bayOf cl) 8 ctx (routerNo cl) ag va s
    match a with
    | .spad t => s.modTeam t (fun T => { T with spad := T.spad.spoil off 1 })
    | .clsh g c => { s with clsh := s.clsh.set (g, c) ((s.clsh.getD (g, c) .empty).spoil off 1) }
    | _ => s

/-- The same in a word that no team and no grid holds: the entry has CTX 0, and what a team that has exited left there is poisoned (R202). -/
def sramUpset (cl : Nat) (core : Option Nat) (off : Nat) (ag : Agent) (s : State) : State :=
  let held := match core with
    | some k => s.teams.any (fun e => !e.2.saved && e.2.cluster == cl && e.2.core == k && e.2.units.contains (off / 4096))
    | none => false
  if held then s
  else
    let va := match core with
      | some k => off % 2 ^ 20 + k * 2 ^ 21
      | none => off % 2 ^ 20 + 2 ^ 20
    let s := logErr (bayOf cl) 8 0 (routerNo cl) ag va s
    { s with left := s.left.map (fun e =>
        let at_ := e.2.units.findIdx (· == off / 4096)
        if core == some e.2.core && e.2.cluster == cl && e.2.units.contains (off / 4096) then
          (e.1, { e.2 with spad := e.2.spad.spoil (4096 * at_ + off % 4096) 1 })
        else e) }

/-- R198: an error in a control value ends the grid as an unresolved poison_use with INFO 0xFFFF_FFFF. -/
def controlUpset (t g : Nat) (s : State) : State :=
  if (s.teams.get? t).isNone then s
  else
    let l := s.liveThr t g
    let th := s.thr (t, g, l.headD 0)
    unresolved t ⟨true, 12, 0, g, th.cd, 2 ^ 32 - 1, th.pc, 0, lanesOf l⟩ s

/-- Count a matrix check in MATRIX.ERRCNT (Table matrix-7), in the byte that ends at a bit. -/
def countMat (b hi : Nat) (s : State) : State :=
  s.modBay b (fun B => { B with matErr := setBits B.matErr hi (hi - 7) (bits B.matErr hi (hi - 7) + 1) })

/-- The operation works at the array (R245). -/
def atArray (s : State) (b arr op : Nat) : Bool :=
  match s.ops.get? op with
  | some p => p.opc / 256 == 0x30 && p.stage != 0 && bayOf p.cluster == b && p.place == arr
  | none => false

/-- A check at an array reports to the operation whose pass or word it concerns: a code, flags and the elements that it poisons (R244 to R246). -/
def markOp (b arr op code flags : Nat) (els : List (Nat × Nat × Nat)) (s : State) : State :=
  if atArray s b arr op then
    s.modOp op (fun p => { p with code := lowCode p.code code, flags := p.flags ||| flags, tileHits := p.tileHits ++ els })
  else s

/-- A double-bit error on the operand queue, in a row that an operation streams: the row arrives as poison, the operation takes code 3, and the error is logged with KIND 1 (R46, R244, R246). Which context, router and address such an entry shows is the model's choice (log entry 59): the operation's context, the router of its cluster, and address 0. -/
def operandUpset (op row : Nat) (s : State) : State :=
  match s.ops.get? op with
  | none => s
  | some p =>
    if row < opRows p then
      logErr (bayOf p.cluster) 1 p.ctx (routerNo p.cluster) (opWho s p).ag 0
        (s.modOp op (fun p => { p with code := lowCode p.code 3, badRows := p.badRows ++ [row] }))
    else s

/-- Change an array of a bay. -/
def modMArray (b arr : Nat) (f : MArray → MArray) (s : State) : State :=
  { s with arrays := s.arrays.set (b, arr) (f (s.array b arr)) }

/-- Poison a tile element at once. -/
def poisonElt (b arr tile row col : Nat) (s : State) : State :=
  modMArray b arr (fun A =>
    let T := A.tiles.getD tile .none_
    { A with tiles := A.tiles.set tile { T with els := T.els.set (row, col) ⟨(T.el row col).p, true⟩ } }) s

/-- An error strikes. -/
def applyUpset (u : Upset) (s : State) : State :=
  match u with
  | .corrected b => countCorr b s
  | .stack a => { s with bad := distinct (s.bad ++ [hbKey false a]) }
  | .slice host a => if s.inSlice host (a / 128 * 128) then { s with sbad := distinct (s.sbad ++ [hbKey host a]) } else s
  | .crossing k h =>
    match s.accs.get? k with
    | none => s
    | some a =>
      modAcc k (fun a => { a with bad := distinct (a.bad ++ [h % 4]) })
        (logErr (bayOf (a.unit / 16)) 1 a.ctx (unitRouter a.unit) (agentOf a.unit) (a.line * 128 + h % 4 * 32) s)
  | .crossData host a write =>
    if write then (s.poisonMem host a 1 |> fun s => if host then logErr 0 1 0 0 Agent.none a s else logOwn a 1 s) else { s with crossed := distinct (s.crossed ++ [hbKey host a]) }
  | .local_ a o kind id => localUpset a o ⟨kind, id⟩ s
  | .sram cl core o kind id => sramUpset cl core o ⟨kind, id⟩ s
  | .reg fixed t g i r =>
    let s := countReg (coreNo s t) fixed s
    if fixed then s else s.modThr (t, g, i) (fun th => th.setAbs r (th.abs r).v true)
  | .xreg fixed t n i e =>
    let s := countReg (coreNo s t) fixed s
    if fixed then s else s.modSet t n (fun S => { S with xregs := S.xregs.set (i, e) { S.xregs.getD (i, e) ⟨0, false⟩ with p := true } })
  | .sreg fixed t g r =>
    let s := countReg (coreNo s t) fixed s
    if fixed then s else s.modGrp t g (fun G => { G with sregs := G.sregs.set r { G.s r with p := true } })
  | .control t g => controlUpset t g s
  | .residue fixed b arr op els =>
    if fixed then markOp b arr op 0 fCorr [] (countMat b 31 s) else markOp b arr op 1 fPoison els (countMat b 23 s)
  | .tileEcc fixed b arr op tile row col =>
    if fixed then markOp b arr op 0 fCorr [] (countMat b 15 s)
    else markOp b arr op 2 fPoison [] (poisonElt b arr tile row col (countMat b 7 s))
  | .planeEcc fixed b arr op pl =>
    if fixed then markOp b arr op 0 fCorr [] (countMat b 15 s)
    else
      markOp b arr op 2 fPoison [] (modMArray b arr (fun A =>
        { A with planes := A.planes.map (fun e => if e.1 == pl then (e.1, { e.2 with poison := true }) else e) }) (countMat b 7 s))
  | .operand op row => operandUpset op row s

end Sys2Proof.Machine
end

