-- ==== Sys2Proof/Machine/Launches.lean ====
section
/-! DEFINITION. The launch description and the grid that a KERNEL node makes of it (R138, R143, R293, Table enc-8). -/

namespace Sys2Proof.Machine

/-- The groups of a 16-bit set field. -/
def setGroups (m : Nat) : List Nat := (upFrom 0 16).filter (bit m)

/-- The fields of a launch description (Table enc-8), from its 1,024-bit pattern. -/
def launchOf (x : Nat) : Launch :=
  { privBase := bits x 1023 960
    entry := bits x 959 928
    handler := bits x 927 896
    sets := ((upFrom 0 8).map (fun k => (k, setGroups (bits x (768 + 16 * k + 15) (768 + 16 * k))))).filter (fun e => !e.2.isEmpty)
    privSize := 256 * bits x 767 751
    width := 16 * 2 ^ bits x 750 749
    groups := bits x 748 744
    nprod := bits x 743 739
    depthP := 64 + 32 * bits x 738 736
    depthC := 64 + 32 * bits x 735 733
    spad := 4096 * bits x 732 726
    split := 65536 * (bits x 725 723 + 1)
    cshared := 4096 * bits x 722 714
    arrw := bits x 713 710
    arrh := bits x 709 706
    token := if bits x 705 701 == 31 then none else some (bits x 705 701)
    ejmin := bits x 700 696
    ejmax := bits x 695 691 }

/-- Bytes of register file that a team needs (Table sched-2). -/
def regNeed (L : Launch) : Nat :=
  4 * L.width * (L.nprod * L.depthP + (L.groups - L.nprod) * L.depthC) + 8192 * L.sets.length

/-- Every field lies inside its limits, and a single team fits on an empty core (R138, R139, R293). -/
def launchOk (x : Nat) : Bool :=
  let L := launchOf x
  let all := L.sets.flatMap Prod.snd
  bits x 690 683 == 1 && bits x 682 0 == 0
    && L.privBase % 256 == 0 && L.entry % 4 == 0 && L.handler % 4 == 0
    && L.sets.all (fun e => decide (e.2.length ≤ 8)) && all.all (fun g => decide (g < L.groups)) && (distinct all).length == all.length
    && decide (L.privSize ≤ 256 * 65536)
    && decide (1 ≤ L.groups) && decide (L.groups ≤ 16) && decide (L.nprod ≤ L.groups)
    && decide (bits x 738 736 ≤ 6) && decide (bits x 735 733 ≤ 6)
    && decide (bits x 732 726 ≤ 112) && decide (bits x 725 723 ≤ 6) && decide (L.spad ≤ L.split)
    && decide (bits x 722 714 ≤ 256) && decide (L.arrw ≤ 8) && decide (L.arrh ≤ 8) && ((L.arrw == 0) == (L.arrh == 0))
    && (match L.token with
        | none => true
        | some t => decide (t < L.groups))
    && decide (L.ejmin ≤ L.ejmax) && decide (L.ejmax ≤ 16)
    && decide (regNeed L ≤ 2 ^ 20)

/-- The teams of a grid. -/
def Grid.total (g : Grid) : Nat := g.x * g.y * g.z

/-- The waiting grids call their dispatcher: one poll stands for each dispatcher (R147). -/
def callDispatcher (d : Nat) (s : State) : State :=
  if s.agenda.any (fun e => e.ev == .teamPlacement && e.arg.k == d) then s else s.push .teamPlacement (.ofK d)

/-- A thread of a new team (R143). -/
def newThread (pc depth : Nat) : Thread :=
  { Thread.blank with live := true, pc := pc, lo := 0, wb := 0, depth := depth }

/-- The lowest group slots of a core that no group holds (Table sched-2). -/
def freeSlots (s : State) (cl core n : Nat) : List Nat :=
  let ts := (s.teams.filter (fun e => e.2.cluster == cl && e.2.core == core && !e.2.saved)).map Prod.fst
  let used := (s.groups.filter (fun e => ts.contains e.1.1)).map (fun e => e.2.slot)
  ((upFrom 0 64).filter (fun k => !used.contains k)).take n

/-- A group of a new team (R143). -/
def newGroup (L : Launch) (g args coords slot now : Nat) : Group :=
  { Group.blank with
    slot := slot
    ageAt := now
    width := L.width
    sregs := [(0, ⟨BitVec.ofNat 64 args, false⟩), (1, ⟨BitVec.ofNat 64 coords, false⟩), (2, ⟨BitVec.ofNat 64 g, false⟩)]
    masks := [(0, ⟨lanesOf (upFrom 0 L.width), 0⟩)]
    setNo := (L.sets.find? (fun e => e.2.contains g)).map Prod.fst
    prod := decide (g < L.nprod) }

/-- The start state of a team on its core (R143), with its allotment as the placement found it. -/
def startTeam (t : Nat) (T : Team) (G : Grid) (s : State) : State :=
  let L := G.launch
  let i := T.lin
  let coords := i % G.x + 2 ^ 16 * (i / G.x % G.y) + 2 ^ 32 * (i / (G.x * G.y))
  let pc := (G.code + L.entry) % 2 ^ 64
  let gs := upFrom 0 L.groups
  let slots := freeSlots s T.cluster T.core L.groups
  let s : State := { s with
    teams := s.teams.set t T
    groups := s.groups ++ gs.map (fun g => ((t, g), newGroup L g G.args coords (slots.getD g 0) T.winStart))
    threads := s.threads ++ gs.flatMap (fun g => (upFrom 0 L.width).map (fun l =>
      ((t, g, l), newThread pc (if g < L.nprod then L.depthP else L.depthC))))
    sets := s.sets ++ L.sets.map (fun e => ((t, e.1), (⟨e.2, [], [], none, []⟩ : GSet))) }
  s.push .ejectionWindowEnd (.ofK t)

end Sys2Proof.Machine
end

