-- ==== Sys2Proof/Machine/Graph.lean ====
section
/-! DEFINITION. The graph walkers and the region-match units (R90-R94, R96-R98). -/

namespace Sys2Proof.Machine

/-! ### Runs and their nodes -/

/-- A node that nothing has begun. -/
def NodeSt.zero : NodeSt := ⟨0, [], 0, 0, 0, 0, 0, false⟩

/-- A node of a run. -/
def State.node (s : State) (r n : Nat) : NodeSt :=
  match s.runs.get? r with
  | some R => R.nodes.getD n .zero
  | none => .zero

/-- Change a run. -/
def State.modRun (s : State) (r : Nat) (f : Run → Run) : State :=
  match s.runs.get? r with
  | some R => { s with runs := s.runs.set r (f R) }
  | none => s

/-- Change a node. -/
def State.modNode (s : State) (r n : Nat) (f : NodeSt → NodeSt) : State :=
  s.modRun r (fun R => { R with nodes := R.nodes.set n (f (R.nodes.getD n .zero)) })

/-- The view device that launched a run. -/
def Run.vd (R : Run) : Nat := R.queue / 4

/-- TAG of the launch that a run belongs to. -/
def tagOf (s : State) (R : Run) : Nat := bits (s.queue R.ctx R.queue).cmd 479 448

/-- A node has started, or its completion is on the way. -/
def NodeSt.begun (N : NodeSt) : Bool := N.phase == 2 || N.phase == 4

/-- A node that a failure elsewhere does not stop: it has started, or has become ready, since the walker only makes no further node ready (R97). -/
def NodeSt.runs (N : NodeSt) : Bool := N.begun || N.phase == 5

/-- The event that starts a node of a type. -/
def nodeEvent (ty : Nat) : Instr :=
  match ty with
  | 0 => .nodeNop
  | 1 => .nodeKernel
  | 2 => .nodeCopy
  | 3 => .nodeSignal
  | 4 => .nodeWait
  | 5 => .nodeCond
  | _ => .nodeWhile

/-- Whether a context has region matching (Table host-1). -/
def matched (s : State) (ctx : Nat) : Bool :=
  match s.ctxs.get? ctx with
  | some r => r.rmatch
  | none => false

/-- The order key of a node's start: tasks of one region-match unit and context are read in the order in which they became ready (R94). -/
def nodeKey (s : State) (R : Run) (ty : Nat) : Nat := if matched s R.ctx && (ty == 1 || ty == 2) then 7 + 8 * (R.vd + 8 * R.ctx) else 0

/-- A node has become ready. -/
def readyNode (r n : Nat) (s : State) : State :=
  match s.runs.get? r with
  | none => s
  | some R =>
    let N := s.node r n
    { s.modNode r n (fun N => { N with phase := 5 }) with
      agenda := s.agenda ++ [⟨nodeEvent N.ty, ⟨r, n, 0, []⟩, s.ncyc, nodeKey s R N.ty⟩] }

/-- Nodes that become ready together enter in ascending order of index (R94). -/
def readyNodes (r : Nat) (l : List Nat) (s : State) : State :=
  let n := ((s.runs.get? r).map (fun R => R.nodes.length)).getD 0
  ((upFrom 0 n).filter l.contains).foldl (fun s k => readyNode r k s) s

/-- A node ends with a code: its completion follows. -/
def endNode (r n code : Nat) (s : State) : State :=
  (s.modNode r n (fun N => { N with phase := 4 })).push .nodeComplete ⟨r, n, code, []⟩

/-- A node whose subgraph failed ends with that graph's failure: code, node and depth. -/
def endInner (r n : Nat) (f : Nat × Nat × Nat) (s : State) : State :=
  (s.modNode r n (fun N => { N with phase := 4 })).push .nodeComplete ⟨r, n, f.1 + 2 ^ 16 * f.2.1 + 2 ^ 32 * f.2.2, [1]⟩

/-! ### Validation (R90, R91) -/

/-- The fields of a node's common part, from its upper 16 bytes. -/
def nodeOf (x : Nat) : NodeSt :=
  { NodeSt.zero with
    ty := bits x 127 124
    succ := (upFrom 0 (min (bits x 123 121) 6)).map (fun k => bits x (16 * k + 15) (16 * k))
    pred := bits x 120 105
    count := bits x 123 121 }

/-- Taking away the nodes that no remaining node names leaves nothing: the links form no cycle. -/
def acyclic (succ : Nat → List Nat) : Nat → List Nat → Bool
  | 0, l => l.isEmpty
  | f + 1, l =>
    let named := l.flatMap succ
    let rest := l.filter (fun i => named.contains i)
    if rest.length == l.length then l.isEmpty else acyclic succ f rest

/-- A graph is valid (R91); `count` holds NSUCC as the node gives it. -/
def graphOk (l : List NodeSt) : Bool :=
  let n := l.length
  l.all (fun N => decide (N.ty ≤ 6) && decide (N.count ≤ 6) && N.succ.all (fun k => decide (k < n)))
    && ((upFrom 0 n).zip l).all (fun e => (l.flatMap (·.succ)).count e.1 == e.2.pred)
    && acyclic (fun i => (l.getD i .zero).succ) n (upFrom 0 n)

/-- The common parts of `n` nodes, or an error kind. -/
def readNodes (ctx va : Nat) : Nat → Nat → List NodeSt → State → State × Except Nat (List NodeSt)
  | 0, _, acc, s => (s, .ok acc)
  | f + 1, i, acc, s =>
    match vaNum ctx (va + 64 + 64 * i + 48) 16 s with
    | (s, .error k) => (s, .error k)
    | (s, .ok x) => readNodes ctx va f (i + 1) (acc ++ [nodeOf x]) s

/-- Read and check a graph at a depth: its nodes, or the code that rejects it, 255 while a page is held (R91). That a header address which is not 64-byte aligned rejects the graph with code 1 is the model's choice: R89 gives the alignment but not what follows (log entry 74). -/
def readGraph (ctx va depth : Nat) (s : State) : State × Except Nat (List NodeSt) :=
  if va % 64 != 0 then (s, .error 1)
  else
    match vaNum ctx va 64 s with
    | (s, .error k) => (s, .error (if k == 255 then 255 else 9))
    | (s, .ok h) =>
      let n := bits h 511 496
      if bits h 495 488 != 1 || n == 0 || 4096 < n then (s, .error 1)
      else
        match readNodes ctx va n 0 [] s with
        | (s, .error k) => (s, .error (if k == 255 then 255 else 9))
        | (s, .ok l) =>
          if !graphOk l then (s, .error 1)
          else if depth == 4 && l.any (fun N => N.ty == 5 || N.ty == 6) then (s, .error 6)
          else (s, .ok l)

/-- Begin a run of a graph: every node without predecessors is ready; or the code that rejects it. -/
def startRun (ctx q va depth : Nat) (parent : Option (Nat × Nat)) (s : State) : State × Nat :=
  match readGraph ctx va depth s with
  | (s, .error k) => (s, k)
  | (s, .ok l) =>
    let (r, s) := s.newId
    let ns := (upFrom 0 l.length).zip (l.map (fun N => { N with count := 0 }))
    let s : State := { s with runs := s.runs ++ [(r, ⟨ctx, q, va, depth, parent, ns, none⟩)] }
    ((ns.filter (fun e => e.2.pred == 0)).foldl (fun s e => readyNode r e.1 s) s, 0)

/-! ### The end of a run (R92, R95, R97) -/

/-- A run has ended: the command completes, once its record can be written, or the node that started it goes on. -/
def finishRun (r : Nat) (s : State) : State :=
  match s.runs.get? r with
  | none => s
  | some R =>
    let f := R.fail.getD (0, 0, R.depth)
    match R.parent with
    | none =>
      (match userDone R.ctx R.queue f.1 f.2.1 f.2.2 s with
       | (s, true) => { s with runs := s.runs.del r }
       | (s, false) => s.push .nodeComplete ⟨r, 4096, 0, []⟩)
    | some (r', n') =>
      let s : State := { s with runs := s.runs.del r }
      if R.fail.isSome then endInner r' n' f s
      else if (s.node r' n').ty == 6 then s.push .nodeWhile ⟨r', n', 0, []⟩
      else endNode r' n' 0 s

/-- Look whether a run has ended; after a failure nothing that has not started will (R97). -/
def checkEnd (r : Nat) (s : State) : State :=
  match s.runs.get? r with
  | none => s
  | some R =>
    if R.fail.isSome then
      if R.nodes.any (fun e => e.2.runs) then s
      else
        finishRun r { s with
          tasks := s.tasks.filter (fun x => x.run != r)
          grids := s.grids.filter (fun e => e.2.run != r || (s.node r e.2.node).phase != 1) }
    else if R.nodes.all (fun e => e.2.phase == 3) then finishRun r s else s

/-! ### Accesses of the walker to words (R92, R93) -/

/-- Read a 64-bit word. -/
def readWord (R : Run) (va : Nat) (s : State) : State × Except Nat Nat := vaNum R.ctx va 8 s

/-- The atomic write or add of a SIGNAL at the word's home slice, once no other transaction of the line runs and its tree is torn down (R52, R64, R92); the error kind that answers it, if any, and 255 while it waits. Never-cached host memory refuses an atomic (R64). -/
def signalWord (R : Run) (va op val : Nat) (s : State) : State × Option Nat :=
  let w : Who := Who.cp
  match findLine w R.ctx va true false s with
  | (s, .error k) => (s, some k)
  | (s, .ok (home, x)) =>
    if x.attr.host && x.attr.home == 3 then (logWho w 5 R.ctx home va s, some 5)
    else
      match locateGate w R.ctx home va true x s with
      | (s, .error k) => (s, some k)
      | (s, .ok x) =>
        let pa := x.phys va
        if s.badLine x.attr.host pa 8 then
          let kind := lineKind s x.attr.host pa
          (logWho w kind R.ctx home va s, some kind)
        else
          let old := s.num x.attr.host pa 8
          (s.cwr x.attr.host pa (leBytes 8 (if op == 0 then val else (old + val) % 2 ^ 64)), none)

/-- Whether a WAIT's comparison holds. -/
def waitHolds (cmp word val : Nat) : Bool :=
  match cmp with
  | 0 => decide (val ≤ word)
  | 1 => word == val
  | _ => word != val

/-! ### The start of a node (R92) -/

/-- A ready node starts: not while its context is suspended, nor after a failure; its type part is read once. A start that must wait keeps its place in its order. -/
def startNode (ev : Instr) (f : Run → NodeSt → State → State) (s : State) : State :=
  let r := s.ev.k
  let n := s.ev.a
  match s.runs.get? r with
  | none => s
  | some R =>
    let N := s.node r n
    let again := fun (x : State) => x.keep ev
    match s.ctxs.get? R.ctx with
    | none => s
    | some c =>
      if c.dying then s
      else if R.fail.isSome && !N.runs then checkEnd r s
      else if c.suspended then again s
      else if N.begun then f R N s
      else
        match vaNum R.ctx (R.base + 64 + 64 * n) 48 s with
        | (s, .error k) => if k == 255 then again s else endNode r n 9 s
        | (s, .ok x) =>
          let N := { N with part := x, phase := 2, start := s.ncyc }
          f R N (s.modNode r n (fun _ => N))

/-- `NODE_NOP`. -/
def nopStep (s : State) : State := startNode .nodeNop (fun _ _ s => endNode s.ev.k s.ev.a 0 s) s

/-- `NODE_SIGNAL`. That a misaligned ADDR and a reserved OP fail the node with code 1 is the model's choice: R90 gives the alignment and the codes but not what follows (log entry 74). -/
def signalStep (s : State) : State :=
  startNode .nodeSignal (fun R N s =>
    let va := bits N.part 383 320
    let op := bits N.part 255 254
    if va % 8 != 0 || 2 ≤ op then endNode s.ev.k s.ev.a 1 s
    else
      match signalWord R va op (bits N.part 319 256) s with
      | (s, some 255) => s.keep .nodeSignal
      | (s, some _) => endNode s.ev.k s.ev.a 3 s
      | (s, none) => endNode s.ev.k s.ev.a 0 s) s

/-! #### WAIT -/

/-- A context's timeouts stand still: it is suspended, or has halted (R87, R157). -/
def CtxRec.paused (c : CtxRec) : Bool := c.suspended || decide (2 ≤ c.phase)

/-- One look at a WAIT node's word. -/
def lookWord (R : Run) (N : NodeSt) (s : State) : State :=
  let r := s.ev.k
  let n := s.ev.a
  let again := fun (x : State) => x.push .waitReread ⟨r, n, 0, []⟩
  match readWord R (bits N.part 383 320) s with
  | (s, .error k) => if k == 255 then again s else endNode r n 3 s
  | (s, .ok w) => if waitHolds (bits N.part 255 254) w (bits N.part 319 256) then endNode r n 0 s else again s

/-- `NODE_WAIT`. That a misaligned ADDR and the reserved CMP fail the node with code 1 is the model's choice: R90 gives the alignment and the codes but not what follows (log entry 74). -/
def waitStep (s : State) : State :=
  startNode .nodeWait (fun R N s =>
    if bits N.part 383 320 % 8 != 0 || bits N.part 255 254 == 3 then endNode s.ev.k s.ev.a 1 s
    else
      let t := bits N.part 253 222
      lookWord R N (if t == 0 then s else s.push .waitTimeout ⟨s.ev.k, s.ev.a, 0, []⟩)) s

/-- `WAIT_REREAD`: at a write of the line, and at least every 1 µs; the model reads again at any time. -/
def rereadStep (s : State) : State :=
  match s.runs.get? s.ev.k with
  | none => s
  | some R =>
    let N := s.node s.ev.k s.ev.a
    if N.phase == 2 && N.ty == 4 then lookWord R N s else s

/-- `WAIT_TIMEOUT`: TIMEOUT µs after the start, without the time for which the context stood still. -/
def timeoutStep (s : State) : State :=
  match s.runs.get? s.ev.k with
  | none => s
  | some R =>
    let N := s.node s.ev.k s.ev.a
    if N.phase != 2 || N.ty != 4 then s
    else
      let paused := match s.ctxs.get? R.ctx with
        | some c => c.paused
        | none => true
      if paused || s.ncyc < N.start + 2000 * bits N.part 253 222 then s.push .waitTimeout s.ev
      else endNode s.ev.k s.ev.a 4 s

/-! #### COND and WHILE -/

/-- Run a subgraph for a node: a rejected one fails the node and has its own fault record. -/
def runSub (ev : Instr) (R : Run) (va : Nat) (ok : State → State) (s : State) : State :=
  let r := s.ev.k
  let n := s.ev.a
  match startRun R.ctx R.queue va (R.depth + 1) (some (r, n)) s with
  | (s, 0) => ok s
  | (s, 255) => s.keep ev
  | (s, code) =>
    endInner r n (code, 0, R.depth + 1) (appendFault R.ctx (.plain code R.queue 0 (R.depth + 1) (tagOf s R)) s)

/-- `NODE_COND`. -/
def condStep (s : State) : State :=
  startNode .nodeCond (fun R N s =>
    match readWord R (bits N.part 383 320) s with
    | (s, .error k) => if k == 255 then s.keep .nodeCond else endNode s.ev.k s.ev.a 3 s
    | (s, .ok w) =>
      let va := if w != 0 then bits N.part 319 256 else bits N.part 255 192
      if va == 0 then endNode s.ev.k s.ev.a 0 s else runSub .nodeCond R va (fun s => s) s) s

/-- `NODE_WHILE`: before each iteration. -/
def whileStep (s : State) : State :=
  startNode .nodeWhile (fun R N s =>
    match readWord R (bits N.part 383 320) s with
    | (s, .error k) => if k == 255 then s.keep .nodeWhile else endNode s.ev.k s.ev.a 3 s
    | (s, .ok w) =>
      let lim := bits N.part 255 224
      if w == 0 then endNode s.ev.k s.ev.a 0 s
      else if lim != 0 && lim ≤ N.count then endNode s.ev.k s.ev.a 5 s
      else
        let r := s.ev.k
        let n := s.ev.a
        runSub .nodeWhile R (bits N.part 319 256) (fun s => s.modNode r n (fun N => { N with count := N.count + 1 })) s) s

/-! ### KERNEL and COPY (R92, R94, R138) -/

/-- The bounding range of a region record (Table host-12): first byte, end and whether it is written. -/
def regionOf (x : Nat) : Option (Nat × Nat × Bool) :=
  let rows := bits x 95 64
  let len := bits x 127 96
  let base := bits x 255 192
  if rows == 0 || len == 0 then none else some (base, base + bits x 191 128 * (rows - 1) + len, bits x 1 0 != 0)

/-- Read a region list; the code that fails the node, 255 while a page is held. -/
def readRegions (R : Run) (va : Nat) : Nat → Nat → List (Nat × Nat × Bool) → State → State × Except Nat (List (Nat × Nat × Bool))
  | 0, _, acc, s => (s, .ok acc)
  | f + 1, i, acc, s =>
    match vaNum R.ctx (va + 32 * i) 32 s with
    | (s, .error k) => (s, .error (if k == 255 then 255 else 9))
    | (s, .ok x) =>
      if bits x 1 0 == 3 then (s, .error 1)
      else readRegions R va f (i + 1) (acc ++ (regionOf x).toList) s

/-- Two tasks conflict: regions of each overlap and one is written. -/
def conflicts (a b : List (Nat × Nat × Bool)) : Bool :=
  a.any (fun x => b.any (fun y => (x.2.2 || y.2.2) && decide (x.1 < y.2.1) && decide (y.1 < x.2.1)))

/-- The pieces of a COPY node over the copy engines of its view device (R92): offset and length. -/
def copyPieces (n : Nat) : List (Nat × Nat) :=
  (upFrom 0 ((n + 2 ^ 21 - 1) / 2 ^ 21)).map (fun k => (k * 2 ^ 21, min (2 ^ 21) (n - k * 2 ^ 21)))

/-- The clusters of a view device, ascending. -/
def viewClusters (s : State) (ctx vd : Nat) : List Nat :=
  (viewBays (s.viewOf ctx) vd).flatMap (fun b => upFrom (16 * b) 16)

/-- A COPY node starts: its pieces go to the engines in turn. Bytes that come from bytes which the same node writes are undefined. -/
def launchCopy (r n : Nat) (s : State) : State :=
  match s.runs.get? r with
  | none => s
  | some R =>
    let N := s.node r n
    let fr := bits N.part 383 320
    let dst_ := bits N.part 319 256
    let len := bits N.part 255 192
    let ps := copyPieces len
    let cl := viewClusters s R.ctx R.vd
    let over_ := decide (fr < dst_ + len) && decide (dst_ < fr + len)
    let s := s.modNode r n (fun N => { N with phase := 2, count := ps.length })
    ((upFrom 0 ps.length).zip ps).foldl (fun s x =>
      let p : AOp := { AOp.zero with
        a := [dst_ + x.2.1], b := [fr + x.2.1], c := [x.2.2], ctx := R.ctx, cluster := cl.getD (x.1 % cl.length) 0, core := 3,
        node := some (r, n) }
      let (s, p) := withSpans p (some ((.glob, dst_ + x.2.1), x.2.2)) (some ((.glob, fr + x.2.1), x.2.2)) s
      let p := if over_ then { p with hits := spanBytes p.writes } else p
      let (id, s) := startOp p s
      s.push .copyCommandAccept (.ofK id)) s

/-- A task starts: its grid waits for placement, or its copy begins. -/
def launchTask (r n : Nat) (s : State) : State :=
  match s.runs.get? r with
  | none => s
  | some R =>
    if (s.node r n).ty == 2 then launchCopy r n s
    else
      let s := s.modNode r n (fun N => { N with phase := 2 })
      let s : State := { s with grids := s.grids.map (fun e => if e.2.run == r && e.2.node == n then (e.1, { e.2 with since := s.ncyc }) else e) }
      match s.grids.find? (fun e => e.2.run == r && e.2.node == n && !e.2.ended) with
      | some (_, G) => if G.total == 0 then endNode r n 0 s else callDispatcher R.vd s
      | none => endNode r n 0 s

/-- A task may start: no earlier task of its unit and context conflicts with it. -/
def taskFree : List Task → Task → Bool
  | [], _ => true
  | x :: l, y => if x == y then true else !(x.unit == y.unit && x.ctx == y.ctx && conflicts x.regions y.regions) && taskFree l y

/-- Tasks enter a unit while it holds fewer than 256, in order. -/
def enterTasks (unit : Nat) : List Task → Nat → List Task
  | [], _ => []
  | x :: l, k =>
    if x.unit != unit then x :: enterTasks unit l k
    else { x with entered := decide (k < 256) } :: enterTasks unit l (k + 1)

/-- The walkers of a context start nothing (R87). -/
def ctxSuspended (s : State) (ctx : Nat) : Bool :=
  match s.ctxs.get? ctx with
  | some c => c.suspended
  | none => false

/-- Start every task of a unit that has entered and waits for nothing; none of a suspended context. -/
def taskPump (unit : Nat) (s : State) : State :=
  let s : State := { s with tasks := enterTasks unit s.tasks 0 }
  let go := s.tasks.filter (fun x => x.unit == unit && x.entered && !x.running && !ctxSuspended s x.ctx && taskFree s.tasks x)
  go.foldl (fun s x =>
    launchTask x.run x.node { s with tasks := s.tasks.map (fun y => if y == x then { y with running := true } else y) }) s

/-- A task enters its unit, or starts at once without one. -/
def submitTask (R : Run) (r n : Nat) (regions : List (Nat × Nat × Bool)) (unit : Bool) (s : State) : State :=
  if unit then
    taskPump R.vd { s.modNode r n (fun N => { N with phase := 1 }) with
      tasks := s.tasks ++ [⟨R.vd, R.ctx, r, n, regions, false, false⟩] }
  else launchTask r n s

/-- `NODE_COPY`. -/
def nodeCopyStep (s : State) : State :=
  startNode .nodeCopy (fun R N s =>
    let fr := bits N.part 383 320
    let dst_ := bits N.part 319 256
    let len := bits N.part 255 192
    if len == 0 then endNode s.ev.k s.ev.a 0 s
    else submitTask R s.ev.k s.ev.a [(fr, fr + len, false), (dst_, dst_ + len, true)] (matched s R.ctx) s) s

/-- `NODE_KERNEL`: the launch description and the region list are read and checked, then the grid is queued (R138, R293). -/
def kernelStep (s : State) : State :=
  startNode .nodeKernel (fun R N s =>
    let r := s.ev.k
    let n := s.ev.a
    let nreg := bits N.part 79 76
    let la := bits N.part 319 256
    let fail := fun (k : Nat) (s : State) => if k == 255 then s.keep .nodeKernel else endNode r n k s
    if 8 < nreg || la % 64 != 0 then endNode r n 1 s
    else
      match vaNum R.ctx la 128 s with
      | (s, .error k) => fail (if k == 255 then 255 else 9) s
      | (s, .ok x) =>
        match readRegions R (bits N.part 143 80) nreg 0 [] s with
        | (s, .error k) => fail k s
        | (s, .ok regions) =>
          if !launchOk x then endNode r n 1 s
          else
            let (g, s) := s.newId
            let G : Grid :=
              ⟨R.ctx, R.vd, launchOf x, bits N.part 383 320, bits N.part 255 192, bits N.part 159 144, bits N.part 175 160,
                bits N.part 191 176, 0, 0, r, n, false, s.ncyc⟩
            submitTask R r n regions (matched s R.ctx && nreg != 0) { s with grids := s.grids ++ [(g, G)] }) s

/-! ### Completion (R92, R96 to R98) -/

/-- The lowest lane of a trap frame. -/
def lowLane (l : Lanes) : Nat := (laneList 128 l).headD 0

/-- The fault record of a failed node: an unresolved trap's fields when it has one (R96). -/
def nodeRecord (R : Run) (r n code : Nat) (s : State) : State :=
  let grids := (s.grids.filter (fun e => e.2.run == r && e.2.node == n)).map Prod.fst
  let base := FaultRec.plain code R.queue n R.depth (tagOf s R)
  match s.failed.find? (fun f => grids.contains f.grid) with
  | some f =>
    appendFault R.ctx { base with trap := f.frame.kind, team := f.team, group := f.frame.group, lane := lowLane f.frame.lanes, va := f.frame.va, pc := f.frame.pc }
      { s with failed := s.failed.filter (fun x => !grids.contains x.grid) }
  | none => appendFault R.ctx base s

/-- `NODE_COMPLETE`. -/
def nodeCompleteStep (s : State) : State :=
  let r := s.ev.k
  let n := s.ev.a
  match s.runs.get? r with
  | none => s
  | some R =>
    if 4096 ≤ n then finishRun r s
    else
      let v := s.ev.v
      let inner := !s.ev.data.isEmpty
      let code := v % 2 ^ 16
      let s := s.modNode r n (fun N => { N with phase := 3 })
      let s := if code == 0 then s
        else
          let f := if inner then (code, v / 2 ^ 16 % 2 ^ 16, v / 2 ^ 32) else (code, n, R.depth)
          let s := if inner then s else nodeRecord R r n code s
          s.modRun r (fun R => { R with fail := some (R.fail.getD f) })
      let s : State := { s with
        grids := s.grids.filter (fun e => e.2.run != r || e.2.node != n)
        tasks := s.tasks.filter (fun x => x.run != r || x.node != n) }
      let s := if code != 0 || R.fail.isSome then s
        else
          let next := (s.node r n).succ
          let s := next.foldl (fun s k => s.modNode r k (fun N => { N with pred := N.pred - 1 })) s
          readyNodes r (next.filter (fun k => (s.node r k).pred == 0)) s
      checkEnd r (taskPump R.vd s)

/-- `GRAPH_LAUNCH` (R91): the queue's command starts its graph, or is rejected with one fault record; none starts after a fabric-fatal error (R99). -/
def launchStep (s : State) : State :=
  let ctx := s.ev.k
  let q := s.ev.a
  match s.ctxs.get? ctx with
  | none => s
  | some c =>
    if c.dying || s.regs.fatal then s
    else if c.suspended then s.keep .graphLaunch
    else
      let cmd := (s.queue ctx q).cmd
      let va := bits cmd 447 384
      match startRun ctx q va 1 none s with
      | (t, 0) => t
      | (t, 255) => t.keep .graphLaunch
      | (t, code) =>
        let (r, t) := (appendFault ctx (.plain code q 0 1 (bits cmd 479 448)) t).newId
        finishRun r { t with runs := t.runs ++ [(r, ⟨ctx, q, va, 1, none, [], some (code, 0, 1)⟩)] }

/-- `GRAPH_LAUNCH` (R91). -/
def execGraphLaunch (s : State) : Host.Outcome State Fault Refusal := .next (launchStep s)
/-- `NODE_NOP` (R92). -/
def execNodeNop (s : State) : Host.Outcome State Fault Refusal := .next (nopStep s)
/-- `NODE_KERNEL` (R138). -/
def execNodeKernel (s : State) : Host.Outcome State Fault Refusal := .next (kernelStep s)
/-- `NODE_COPY` (R92). -/
def execNodeCopy (s : State) : Host.Outcome State Fault Refusal := .next (nodeCopyStep s)
/-- `NODE_SIGNAL` (R92). -/
def execNodeSignal (s : State) : Host.Outcome State Fault Refusal := .next (signalStep s)
/-- `NODE_WAIT` (R92). -/
def execNodeWait (s : State) : Host.Outcome State Fault Refusal := .next (waitStep s)
/-- `WAIT_REREAD` (R92). -/
def execWaitReread (s : State) : Host.Outcome State Fault Refusal := .next (rereadStep s)
/-- `WAIT_TIMEOUT` (R92). -/
def execWaitTimeout (s : State) : Host.Outcome State Fault Refusal := .next (timeoutStep s)
/-- `NODE_COND` (R93). -/
def execNodeCond (s : State) : Host.Outcome State Fault Refusal := .next (condStep s)
/-- `NODE_WHILE` (R93). -/
def execNodeWhile (s : State) : Host.Outcome State Fault Refusal := .next (whileStep s)
/-- `NODE_COMPLETE` (R92). -/
def execNodeComplete (s : State) : Host.Outcome State Fault Refusal := .next (nodeCompleteStep s)

end Sys2Proof.Machine
end

