-- ==== Sys2Proof/Machine/Sched.lean ====
section
/-! DEFINITION. The dispatchers: placement, the exit of a team, and pre-emption from its trigger to the resume (R137-R147, R154-R163, R247, R260, R325, R417). -/

namespace Sys2Proof.Machine

/-! ### SCHED.CFG (Table sched-3) -/

/-- The fields of SCHED.CFG that placement uses. -/
def State.dev (s : State) : Nat := bits s.regs.sched 2 0
def State.wtemp (s : State) : Nat := bits s.regs.sched 47 40
def State.wdroop (s : State) : Nat := bits s.regs.sched 39 32

/-! ### What a core holds and what a team needs (R139 to R142) -/

/-- The teams that a core holds. -/
def coreTeams (s : State) (core : Nat) : List (Nat × Team) :=
  s.teams.filter (fun e => e.2.cluster == core / 3 && e.2.core == core % 3 && !e.2.saved)

/-- Add up a number over a list. -/
def sumBy {α : Type} (f : α → Nat) (l : List α) : Nat := l.foldl (fun a x => a + f x) 0

/-- The launch description of a team. -/
def launchFor (s : State) (T : Team) : Launch := (s.grids.getD T.grid .blank).launch

/-- The 4 KiB units of a core's scratchpad part that no team holds. -/
def freeUnits (s : State) (core split : Nat) : List Nat :=
  let used := (coreTeams s core).flatMap (fun e => e.2.units)
  (upFrom 0 (split / 4096)).filter (fun u => !used.contains u)

/-- Origin of the rectangle of a team on a cluster (R141). -/
def originOfCluster (cl : Nat) : Nat × Nat := (4 * (cl % 16 % 2), cl % 16 / 2)

/-- The arrays of a rectangle. -/
def rectArrays (ox oy w h : Nat) : List Nat := (upFrom 0 h).flatMap (fun j => (upFrom 0 w).map (fun i => 8 * (oy + j) + (ox + i)))

/-- The arrays that a team holds. -/
def teamArrays (s : State) (T : Team) : List Nat :=
  let L := launchFor s T
  rectArrays T.ox T.oy L.arrw L.arrh

/-- The arrays of a bay that teams hold. -/
def heldArrays (s : State) (b : Nat) : List Nat :=
  (s.teams.filter (fun e => bayOf e.2.cluster == b && !e.2.saved)).flatMap (fun e => teamArrays s e.2)

/-- Bytes of cluster-shared memory that segments take. -/
def segBytes (s : State) (cl : Nat) : Nat :=
  sumBy (fun e => (s.grids.getD e.1.1 .blank).launch.cshared) (s.clsh.filter (fun e => e.1.2 == cl))

/-- A team of a grid fits on a core, under a split that the core takes when it is empty (Table sched-2, R140, R141). -/
def fits (s : State) (core grid : Nat) (L : Launch) (split : Nat) : Bool :=
  let cl := core / 3
  let ts := coreTeams s core
  let sp := match ts with
    | [] => split
    | (_, T) :: _ => T.split
  let o := originOfCluster cl
  let held := heldArrays s (bayOf cl)
  decide (sumBy (fun e => regNeed (launchFor s e.2)) ts + regNeed L ≤ 2 ^ 20)
    && decide (ts.length < 16)
    && decide (sumBy (fun e => (launchFor s e.2).groups) ts + L.groups ≤ 64)
    && decide (L.spad / 4096 ≤ (freeUnits s core sp).length)
    && (L.arrw == 0 || (decide (o.1 + L.arrw ≤ 8) && decide (o.2 + L.arrh ≤ 8)
        && (rectArrays o.1 o.2 L.arrw L.arrh).all (fun k => !held.contains k)))
    && (L.cshared == 0 || (s.clsh.get? (grid, cl)).isSome || decide (segBytes s cl + L.cshared ≤ 2 ^ 20))

/-! ### Reservation -/

/-- The last user of a scratchpad unit, 0 for none. -/
def unitUser (s : State) (core u : Nat) : Nat := (s.spadUsers.getD (core / 3, core % 3) []).getD u 0

/-- The units' last user becomes a context. -/
def markUnits (core ctx : Nat) (us : List Nat) (s : State) : State :=
  let k := (core / 3, core % 3)
  let old := s.spadUsers.getD k []
  { s with spadUsers := s.spadUsers.set k ((upFrom 0 112).map (fun u => if us.contains u then ctx else old.getD u 0)) }

/-- A team takes a core's resources in one step: the lowest free slot, the lowest free scratchpad units, and its rectangle. What an earlier team left in the units is gone. -/
def reserve (t : Nat) (T : Team) (core split : Nat) (s : State) : State :=
  let L := launchFor s T
  let ts := coreTeams s core
  let sp := match ts with
    | [] => split
    | (_, X) :: _ => X.split
  let us := (freeUnits s core sp).take (L.spad / 4096)
  let slot := ((upFrom 0 16).filter (fun k => ts.all (fun e => e.2.slot != k))).headD 0
  let o := originOfCluster (core / 3)
  let T := { T with cluster := core / 3, core := core % 3, slot := slot, units := us, split := sp, ox := o.1, oy := o.2, saved := false }
  markUnits core T.ctx us { s with
    teams := s.teams.set t T
    left := s.left.filter (fun e => e.2.cluster != core / 3 || e.2.core != core % 3 || !e.2.units.any us.contains) }

/-- The tile that a new user finds: (+0, +0) when the last user was another context, else undefined values (R225). -/
def newTile (s : State) (b k t ctx : Nat) : Tile :=
  match ((s.array b k).tiles.getD t .none_).user with
  | some c => if c == ctx then ⟨[], some (s.tick + 2 ^ 40 * (1 + 8 * (64 * b + k) + t)), some ctx⟩ else ⟨[], none, some ctx⟩
  | none => ⟨[], some (s.tick + 2 ^ 40 * (1 + 8 * (64 * b + k) + t)), some ctx⟩

/-- The arrays of a placed team: empty planes, and tiles for the new user. -/
def clearArrays (b ctx : Nat) (ks : List Nat) (s : State) : State :=
  ks.foldl (fun s k =>
    { s with arrays := s.arrays.set (b, k) ⟨[], (upFrom 0 8).map (fun t => (t, newTile s b k t ctx))⟩ }) s

/-- The grid's segment on a cluster, zeroed when the first team comes (R142). -/
def openSegment (grid cl : Nat) (L : Launch) (s : State) : State :=
  if L.cshared == 0 || (s.clsh.get? (grid, cl)).isSome then s else { s with clsh := s.clsh.set (grid, cl) .empty }

/-- Place a grid's next team on a core (R143, R145). -/
def placeTeam (g : Nat) (G : Grid) (core : Nat) (s : State) : State :=
  let L := G.launch
  let (t, s) := s.newId
  let cl := core / 3
  let T0 : Team := { Team.blank with
    ctx := G.ctx, grid := g, lin := G.next, token := L.token, ej := L.ejmin, winStart := s.acyc.getD (bayOf cl) 0 }
  let before := fun (u : Nat) => unitUser s core u
  let first := !(s.teams.any (fun e => e.2.ctx == G.ctx))
  let s1 := reserve t T0 core L.split s
  let T := s1.team t
  let zero := T.units.any (fun u => before u != G.ctx && before u != 0)
  let T := { T with spad := ⟨[], [], if zero then none else some s.tick⟩ }
  let s1 := clearArrays (bayOf cl) G.ctx (rectArrays T.ox T.oy L.arrw L.arrh) s1
  let s1 := openSegment g cl L s1
  let s1 : State := { s1 with grids := s1.grids.set g { G with next := G.next + 1, since := s.ncyc } }
  let s1 := if first then s1.modCtx G.ctx (fun c => { c with since := s.ncyc }) else s1
  startTeam t T G s1

/-! ### The choice of a core (R145) -/

/-- The cores of a view device, ascending. -/
def viewCores (s : State) (ctx vd : Nat) : List Nat := (viewClusters s ctx vd).flatMap (fun c => upFrom (3 * c) 3)

/-- The places in scan order from a pointer. -/
def scanFrom (p : Nat) (l : List Nat) : List Nat := l.filter (fun c => decide (p ≤ c)) ++ l.filter (fun c => decide (c < p))

/-- Droop events of a core in the last 64 µs, at most 255. -/
def droops (s : State) (core : Nat) : Nat := min 255 ((s.coreDroop.getD core []).filter (fun t => decide (s.ncyc < t + 128000))).length

/-- The score of a core. -/
def coreScore (s : State) (core : Nat) : Nat := s.wtemp * s.coreTemp.getD core 0 + s.wdroop * droops s core

/-- The candidate with the lowest score, the first of equals. -/
def lowestScore (score : Nat → Nat) : List Nat → Option Nat
  | [] => none
  | c :: l =>
    match lowestScore score l with
    | none => some c
    | some d => if score d < score c then some d else some c

/-- The pointer of a dispatcher for a shape of view device. -/
def State.ptr (s : State) (d view : Nat) : Nat := s.ptrs.getD (d, view) 0

/-- Place the next team of a grid, when it fits somewhere. -/
def tryGrid (d g : Nat) (G : Grid) (s : State) : Option State :=
  let view := s.viewOf G.ctx
  let cands := ((scanFrom (s.ptr d view) (viewCores s G.ctx d)).filter (fun c => fits s c g G.launch G.launch.split)).take (s.dev + 1)
  match cands, lowestScore (coreScore s) cands with
  | f :: _, some c => some (placeTeam g G c { s with ptrs := s.ptrs.set (d, view) (f + 1) })
  | _, _ => none

/-! ### The order of the waiting kernels (R144) -/

/-- A context's teams may be placed: it exists, is not suspended, and no pre-emption of it is under way. -/
def placeable (s : State) (ctx : Nat) : Bool :=
  match s.ctxs.get? ctx with
  | none => false
  | some c => !c.dying && !c.suspended && c.phase == 0 && !s.regs.fatal && s.teams.all (fun e => e.2.ctx != ctx || !e.2.saved)

/-- The queue of a grid's launch. -/
def gridQueue (s : State) (G : Grid) : Nat :=
  match s.runs.get? G.run with
  | some R => R.queue
  | none => 0

/-- The kernels that wait at a dispatcher. -/
def waitingGrids (s : State) (d : Nat) : List (Nat × Grid) :=
  s.grids.filter (fun e => e.2.vdev == d && !e.2.ended && decide (e.2.next < e.2.total) && (s.node e.2.run e.2.node).phase == 2)

/-- PRIO of a context. -/
def prioOf (s : State) (ctx : Nat) : Nat :=
  match s.ctxs.get? ctx with
  | some c => c.prio
  | none => 0

/-- The dispatcher serves the first kernel before the second. -/
def servedBefore (s : State) (cur : Nat) (a b : Nat × Grid) : Bool :=
  let pa := prioOf s a.2.ctx
  let pb := prioOf s b.2.ctx
  let qa := (s.queue a.2.ctx (gridQueue s a.2)).served
  let qb := (s.queue b.2.ctx (gridQueue s b.2)).served
  let la := [8 - pa, b2n (a.1 != cur), qa, a.2.since, a.2.ctx, gridQueue s a.2]
  let lb := [8 - pb, b2n (b.1 != cur), qb, b.2.since, b.2.ctx, gridQueue s b.2]
  decide (la < lb)

/-- Insert a kernel in the order of service. -/
def insertGrid (s : State) (cur : Nat) (x : Nat × Grid) : List (Nat × Grid) → List (Nat × Grid)
  | [] => [x]
  | y :: l => if servedBefore s cur x y then x :: y :: l else y :: insertGrid s cur x l

/-- The waiting kernels in the order of service. -/
def serviceOrder (s : State) (d cur : Nat) : List (Nat × Grid) :=
  ((waitingGrids s d).filter (fun e => placeable s e.2.ctx)).foldl (fun l x => insertGrid s cur x l) []

/-- Place the first kernel of a list that fits. -/
def tryGrids (d : Nat) (s : State) : List (Nat × Grid) → Option (Nat × Grid × State)
  | [] => none
  | (g, G) :: l =>
    match tryGrid d g G s with
    | some t => some (g, G, t)
    | none => tryGrids d s l

/-- Mark a queue as the one served last. -/
def serve (ctx q : Nat) (s : State) : State :=
  let top := s.ctxs.foldl (fun m c => c.2.queues.foldl (fun m x => max m x.2.served) m) 0
  s.modQueue ctx q (fun x => { x with served := top + 1 })

/-- The next team of a waiting kernel asks for a pre-emption 20 µs after it began to wait (R154). -/
def armTrigger (g : Nat) (G : Grid) (s : State) : State :=
  if s.agenda.any (fun e => e.ev == .preemptionTrigger && e.arg.k == g && e.arg.a == G.next) then s
  else { s with agenda := s.agenda ++ [⟨.preemptionTrigger, ⟨g, G.next, 0, []⟩, G.since + 40000, 0⟩] }

/-- `TEAM_PLACEMENT`: the dispatcher (the event's number) places one team of the first kernel in its order that fits somewhere; it goes on with that kernel while its queue is served. -/
def placementTurn (s : State) : State :=
  let d := s.ev.k
  match tryGrids d s (serviceOrder s d s.ev.a) with
  | some (g, G, t) =>
    let t := if g == s.ev.a then t else serve G.ctx (gridQueue s G) t
    if (waitingGrids t d).isEmpty then t else t.push .teamPlacement ⟨d, g, 0, []⟩
  | none =>
    let ws := waitingGrids s d
    let s := ws.foldl (fun s e => if placeable s e.2.ctx then armTrigger e.1 e.2 s else s) s
    if ws.isEmpty then s else s.push .teamPlacement ⟨d, 0, 0, []⟩

/-- `TEAM_PLACEMENT` (R145). -/
def execTeamPlacement (s : State) : Host.Outcome State Fault Refusal := .next (placementTurn s)

/-! ### The save area (R158, R159) -/

/-- Base of a bay's accumulator images. -/
def bayImage (c : CtxRec) (b : Nat) : Nat := c.savearea + 4096 + 2 ^ 28 * b

/-- Base of a cluster's images. -/
def clusterImage (c : CtxRec) (cl : Nat) : Nat := bayImage c (bayOf cl) + 2 ^ 26 + 12 * 2 ^ 20 * (cl % 16)

/-- Base of a core's team images. -/
def coreImage (c : CtxRec) (core : Nat) : Nat := clusterImage c (core / 3) + 2 ^ 20 + 4096 + 3584 * 1024 * (core % 3)

/-- The length of a team's image. -/
def teamImage (L : Launch) : Nat := 1024 + 16384 * L.groups + regNeed L + L.spad

/-- Write into the save area; an Err is kept for the end of the save. -/
def saveWrite (ctx a : Nat) (l : List Byte) (s : State) : State :=
  match cpWrite a l s with
  | (s, none) => s
  | (s, some _) => s.modCtx ctx (fun c => { c with saveErr := true })

/-- The segments that a context has on a cluster, in ascending grid order, with their offsets in the packed image. -/
def packSegs (s : State) : List Nat → Nat → List (Nat × Nat)
  | [], _ => []
  | g :: l, o => (g, o) :: packSegs s l (o + (s.grids.getD g .blank).launch.cshared)

/-- The grids of a context that have a segment on a cluster. -/
def segGrids (s : State) (ctx cl : Nat) : List Nat :=
  (s.grids.filter (fun e => e.2.ctx == ctx && (s.clsh.get? (e.1, cl)).isSome)).map Prod.fst

/-- The save-time cluster under which a team's image lies, and where its tiles lie in the bay's image: those that it runs on, but for a team of a context that has come back only in part, which keeps its earlier place there (log entry 73). -/
def Team.homeOf (T : Team) : Nat × Nat × Nat × Nat × Nat := T.home.getD (T.cluster, T.core, T.slot, T.ox, T.oy)

/-- The save-time cluster of the teams of a context on a cluster. -/
def imageCluster (s : State) (ctx cl : Nat) : Nat :=
  match s.teams.find? (fun e => e.2.ctx == ctx && e.2.cluster == cl && !e.2.saved && e.2.home.isSome) with
  | some (_, T) => T.homeOf.1
  | none => cl

/-- Write and free a cluster's segments, under a save-time cluster. A poisoned word leaves its half-burst poisoned. -/
def saveSegs (ctx : Nat) (c : CtxRec) (cl sc : Nat) (s : State) : State :=
  (packSegs s (segGrids s ctx cl) 0).foldl (fun s x =>
    match s.clsh.get? (x.1, cl) with
    | none => s
    | some m =>
      let a := clusterImage c sc + 4096 + x.2
      let n := (s.grids.getD x.1 .blank).launch.cshared
      let s := saveWrite ctx a ((upFrom 0 n).map m.byte) s
      let s := m.poison.foldl (fun s w => s.poisonMem false (a + 4 * w) 4) s
      let s := s.modCtx ctx (fun c => { c with segs := c.segs.filter (fun y => y.1 != sc || y.2.1 != x.1) ++ [(sc, x.1, x.2)] })
      { s with clsh := s.clsh.del (x.1, cl) }) s

/-! ### The exit of a team (R325) -/

/-- The teams of a context. -/
def ctxTeams (s : State) (ctx : Nat) : List (Nat × Team) := s.teams.filter (fun e => e.2.ctx == ctx)

/-- The teams of a context that cores hold. -/
def resident (s : State) (ctx : Nat) : List (Nat × Team) := (ctxTeams s ctx).filter (fun e => !e.2.saved)

/-- A pre-emption's images are complete: every team of the context has been saved or has exited (R161). -/
def saveCheck (ctx : Nat) (s : State) : State :=
  match s.ctxs.get? ctx with
  | none => s
  | some c =>
    if c.phase != 3 || !(resident s ctx).isEmpty then s
    else if c.saveErr then
      let s := endGraphs ctx 1 s
      let s := s.modCtx ctx (fun c => { c with phase := 0, saveErr := false, preempted := false, cause := none, causeTeam := none })
      (ctxTeams s ctx).foldl (fun s e => s.push .teamExit (.ofK e.1)) s
    else
      let s := s.modCtx ctx (fun c => { c with phase := 4 })
      if c.suspended then s else s.push .contextResumeAuto ⟨ctx, 0, b2n (c.cause.isNone && c.causeTeam.isNone), []⟩

/-- Every thread's writes have completed. -/
def teamQuiet (s : State) (t : Nat) : Bool :=
  s.threads.all (fun e => e.1.1 != t || (e.2.owl == 0 && e.2.owc == 0 && e.2.owd == 0 && e.2.ows == 0 && e.2.touched.isEmpty))

/-- Start draining every write-combining entry of a team's threads (R260). -/
def drainTeam (t : Nat) (s : State) : State :=
  s.wcs.foldl (fun s e =>
    if e.2.owners.any (fun o => o.team == t) then drainLine e.1.1 e.1.2.1 e.1.2.2 s else s) s

/-- An engine's count for a word of the team is on its way. -/
def countsPending (s : State) (t : Nat) : Bool :=
  s.agenda.any (fun e => (e.ev == .syncUpdate || e.ev == .syncCountUpdate) && e.arg.k == t)

/-- A team has exited. -/
def teamDone (s : State) (t : Nat) : Bool :=
  (s.liveGroups t).isEmpty && teamQuiet s t && (opsOf s t).isEmpty && !countsPending s t

/-- A saved team's context is being saved still: its segment has not been written (R159). -/
def stillSaving (s : State) (ctx : Nat) : Bool := ((s.ctxs.get? ctx).map (·.phase)) == some 3

/-- Take a team away: its threads, groups and sets, the places of loads that no thread awaits, and the segment when it was the grid's last on the cluster; one that has been saved has not exited (R142). What it held in its allotment and barriers stays there. -/
def dropTeam (t : Nat) (T : Team) (s : State) : State :=
  let s : State := { s with
    teams := s.teams.del t
    left := if T.saved then s.left else s.left.set t T
    threads := s.threads.filter (fun e => e.1.1 != t)
    groups := s.groups.filter (fun e => e.1.1 != t)
    sets := s.sets.filter (fun e => e.1.1 != t)
    tracks := s.tracks.filter (fun e => e.2.team != t)
    doneOps := s.doneOps.filter (fun d => d.team != t)
    timed := s.timed.filter (fun x => x.team != t)
    accs := s.accs.map (fun e => if e.2.team == t && e.2.kind == AKind.load then (e.1, { e.2 with parts := [] }) else e) }
  let last := s.teams.all (fun e => e.2.grid != T.grid || e.2.cluster != T.cluster || (e.2.saved && !stillSaving s T.ctx))
  if last && !T.saved then { s with clsh := s.clsh.del (T.grid, T.cluster) } else s

/-- What a team's exit means for its grid and node (R92, R96). -/
def countExit (g : Nat) (s : State) : State :=
  match s.grids.get? g with
  | none => s
  | some G =>
    let G := { G with exited := G.exited + 1 }
    let s : State := { s with grids := s.grids.set g G }
    if G.ended then
      (if s.teams.any (fun e => e.2.grid == g) then s
       else if (s.runs.get? G.run).isSome then endNode G.run G.node 2 s
       else { s with grids := s.grids.del g })
    else if G.exited == G.total then endNode G.run G.node 0 s
    else s

/-- In a save, the last team that a cluster still holds has gone: the segments of the teams saved there are written, under the save-time cluster `sc` (R142, R159). -/
def segsAfter (ctx cl sc : Nat) (s : State) : State :=
  match s.ctxs.get? ctx with
  | none => s
  | some c =>
    if c.phase == 3 && s.teams.all (fun e => e.2.ctx != ctx || e.2.cluster != cl || e.2.saved) then saveSegs ctx c cl sc s else s

/-- `TEAM_EXIT`: a team without live threads ends when its writes and operations have; its resources go, and waiting teams may be placed. A saved team of an ended grid goes at once. -/
def teamExitStep (s : State) : State :=
  let t := s.ev.k
  match s.teams.get? t with
  | none => s
  | some T =>
    let ended := match s.grids.get? T.grid with
      | some G => G.ended
      | none => true
    if T.saved && !ended then s
    else if !(s.liveGroups t).isEmpty then s
    else if !T.saved && !teamDone s t then
      (if (opsOf s t).isEmpty then (drainTeam t s).push .teamExit s.ev else s)
    else saveCheck T.ctx (segsAfter T.ctx T.cluster T.homeOf.1 (countExit T.grid (dropTeam t T s)))

/-- `TEAM_EXIT` (R325). -/
def execTeamExit (s : State) : Host.Outcome State Fault Refusal := .next (teamExitStep s)

/-! ### Pre-emption: the trigger and the halt (R147, R154 to R157) -/

/-- The bays in which a context has teams. -/
def ctxBays (s : State) (ctx : Nat) : List Nat := distinct ((ctxTeams s ctx).map (fun e => bayOf e.2.cluster))

/-- The dispatchers of a context's teams. -/
def ctxDispatchers (s : State) (ctx : Nat) : List Nat := distinct ((ctxTeams s ctx).map (fun e => (s.grids.getD e.2.grid .blank).vdev))

/-- A pre-emption of a context is in progress. -/
def CtxRec.inHalt (c : CtxRec) : Bool := decide (1 ≤ c.phase) && decide (c.phase ≤ 3)

/-- A pre-emption may start: no other is in progress on its bays or with its dispatchers. -/
def mayPreempt (s : State) (ctx unit : Nat) : Bool :=
  let bs := ctxBays s ctx
  let ds := unit :: ctxDispatchers s ctx
  s.ctxs.all (fun e => !e.2.inHalt || e.1 == ctx ||
    ((ctxBays s e.1).all (fun b => !bs.contains b) && (e.2.unit :: ctxDispatchers s e.1).all (fun d => d == 8 || !ds.contains d)))

/-- The halt of a context is requested, for a grid's next team or a saved team that waits, or by command; a resume that has not ended stops there. -/
def requestHalt (ctx unit : Nat) (cause : Option (Nat × Nat)) (team : Option Nat) (s : State) : State :=
  let s : State := { s with agenda := s.agenda.filter (fun e => e.ev != .contextResumeAuto || e.arg.k != ctx) }
  (s.modCtx ctx (fun c =>
    { c with phase := 1, unit := unit, cause := cause, causeTeam := team, preempted := cause.isSome || team.isSome, waitFrom := none })).push .haltComplete (.ofK ctx)

/-- A context that may give way to a waiting team of another: it occupies some of the bays, be it only in part after a resume that has not ended (R154). -/
def victimOk (s : State) (waiting : Nat) (b : List Nat) (ctx : Nat) (c : CtxRec) : Bool :=
  let p := prioOf s waiting
  ctx != waiting && (c.phase == 0 || c.phase == 4) && !c.dying
    && (resident s ctx).any (fun e => b.contains (bayOf e.2.cluster))
    && (decide (c.prio < p) || (c.prio == p && c.slice != 0 && decide (c.since + 2000 * c.slice ≤ s.ncyc)))

/-- The victim among candidates: the lowest PRIO, then the longest run, then the lower number. -/
def pickVictim : List (Nat × CtxRec) → Option (Nat × CtxRec)
  | [] => none
  | x :: l =>
    match pickVictim l with
    | none => some x
    | some y => if ([y.2.prio, y.2.since, y.1] : List Nat) < [x.2.prio, x.2.since, x.1] then some y else some x

/-- The victim for a team of a context that waits on a view device, when its pre-emption may start. -/
def victimFor (waiting vd : Nat) (s : State) : Option Nat :=
  match pickVictim (s.ctxs.filter (fun e => victimOk s waiting (viewBays (s.viewOf waiting) vd) e.1 e.2)) with
  | none => none
  | some v => if mayPreempt s v.1 vd then some v.1 else none

/-- The waiting teams, each with its view device and its number as a grid's next team or as a saved one, ask for a victim in turn; while there is none they ask again. -/
def askVictim (waiting : Nat) (l : List (Nat × Option (Nat × Nat) × Option Nat)) (s : State) : State :=
  match firstSome (l.map (fun x => (victimFor waiting x.1 s).map (fun v => (v, x)))) with
  | some (v, vd, cause, team) => requestHalt v vd cause team s
  | none => s.push .preemptionTrigger s.ev

/-- The saved teams of a context, the first of each view device. -/
def savedWaits (s : State) (ctx : Nat) : List (Nat × Option (Nat × Nat) × Option Nat) :=
  let l := (s.teams.filter (fun e => e.2.ctx == ctx && e.2.saved)).map (fun e => ((s.grids.getD e.2.grid .blank).vdev, e.1))
  (distinct (l.map Prod.fst)).map (fun d => (d, none, (l.find? (fun x => x.1 == d)).map Prod.snd))

/-- `PREEMPTION_TRIGGER`: the next team of a grid (the event's numbers), or with value 1 the saved teams of a context, have waited 20 µs. -/
def triggerStep (s : State) : State :=
  if s.ev.v == 1 then
    match s.ctxs.get? s.ev.k with
    | some c =>
      (match c.waitFrom, savedWaits s s.ev.k with
       | none, _ => s
       | _, [] => s
       | some w, x :: l =>
         if c.phase != 4 || c.dying then s
         else if s.ncyc < w + 40000 then s.push .preemptionTrigger s.ev
         else askVictim s.ev.k (x :: l) s)
    | none => s
  else
    match s.grids.get? s.ev.k with
    | none => s
    | some G =>
      if G.ended || G.next != s.ev.a || !placeable s G.ctx then s
      else if s.ncyc < G.since + 40000 then s.push .preemptionTrigger s.ev
      else askVictim G.ctx [(G.vdev, some (s.ev.k, s.ev.a), none)] s

/-- The saved teams of a context may resume and have no room: they wait from now on, and ask for a pre-emption after 20 µs (R154). -/
def armResume (ctx : Nat) (s : State) : State :=
  match s.ctxs.get? ctx with
  | none => s
  | some c =>
    let w := c.waitFrom.getD s.ncyc
    let s := s.modCtx ctx (fun c => { c with waitFrom := some w })
    if s.agenda.any (fun e => e.ev == .preemptionTrigger && e.arg.k == ctx && e.arg.v == 1) then s
    else { s with agenda := s.agenda ++ [⟨.preemptionTrigger, ⟨ctx, 0, 1, []⟩, w + 40000, 0⟩] }

/-- `PREEMPTION_TRIGGER` (R154). -/
def execPreemptionTrigger (s : State) : Host.Outcome State Fault Refusal := .next (triggerStep s)

/-- An event of a thread waits in the agenda. -/
def threadEvent (ev : Instr) (s : State) (k : TKey) : Bool :=
  s.agenda.any (fun e => e.ev == ev && e.arg.k == k.1 && e.arg.a == k.2.1 && e.arg.v == k.2.2)

/-- A thread at the halt: a hand-over that has not completed is cancelled, a recall will happen again, every result has landed, and a latch whose pipe has served another group is undefined (R156, R173). -/
def haltThread (s : State) (k : TKey) (th : Thread) : Thread :=
  let th := if th.span.isSome && threadEvent .ejectionHandoverComplete s k then { th with span := none, wait := .none } else th
  let th := if th.wait == .moving then { th with wait := .none } else th
  let ok := match th.latPipe with
    | some (p, run) => th.span.isSome || (s.pipe k.1 p).groups.get? (k.1, k.2.1) == some run
    | none => false
  { th with inflight := [], flyP := [], latPipe := if ok then th.latPipe else none }

/-- A group at the halt: every result has landed, every fixed completion has come, and its timers stop (R156, R157). -/
def haltGroup (s : State) (t : Nat) (G : Group) : Group :=
  { G with
    inflightS := []
    inflightM := []
    sigDue := []
    timers := G.timers.map (fun r => { r with count := s.timerCount t r }) }

/-- A team halts. -/
def haltTeam (t : Nat) (s : State) : State :=
  let now := s.now t
  { s with
    threads := s.threads.map (fun e => if e.1.1 == t && e.2.live then (e.1, haltThread s e.1 e.2) else e)
    groups := s.groups.map (fun e => if e.1.1 == t then (e.1, haltGroup s t e.2) else e)
    sets := s.sets.map (fun e => if e.1.1 == t then (e.1, { e.2 with flyX := [] }) else e)
    timed := s.timed.map (fun x => if x.team == t then { x with count := x.count + (now - x.start) } else x)
    teams := s.teams.map (fun e => if e.1 == t then (e.1, { e.2 with halted := true, haltAt := now, winCount := winElapsed s t, tokenAt := 0 }) else e)
    agenda := s.agenda.filter (fun e => !((e.ev == .ejectionHandoverComplete || e.ev == .threadRecall) && e.arg.k == t)) }

/-- `HALT_COMPLETE`: every core and Span core of a context (the event's number) has halted. Rod operations still unpaired end with code 8 (R247). -/
def haltStep (s : State) : State :=
  let ctx := s.ev.k
  match s.ctxs.get? ctx with
  | none => s
  | some c =>
    if c.phase != 1 then s
    else
      let s := (resident s ctx).foldl (fun s e => haltTeam e.1 s) s
      let rods := s.ops.filter (fun e => e.2.ctx == ctx && e.2.node.isNone && rodWaits e.2)
      let s := rods.foldl (fun s e => completeOp e.1 { code := 8 } s) s
      (s.modCtx ctx (fun c => { c with phase := 2, haltAt := if c.suspended then c.haltAt else s.ncyc })).push .contextSave (.ofK ctx)

/-- `HALT_COMPLETE` (R155, R156). -/
def execHaltComplete (s : State) : Host.Outcome State Fault Refusal := .next (haltStep s)

/-! ### The save (R158 to R161, R247, R260, R417) -/

/-- Bytes whose layout is internal to the part: free values. -/
def internalBytes (s : State) (a n : Nat) : List Byte := (upFrom a n).map (fun o => Config.freeByte s.tick o)

/-- The team images of a core, in slot order: number, offset from the core's base and length. -/
def packTeams (s : State) : List (Nat × Team) → Nat → List (Nat × Nat × Nat)
  | [], _ => []
  | (t, T) :: l, o =>
    let n := teamImage (launchFor s T)
    (t, o, n) :: packTeams s l (o + n)

/-- A core's teams in slot order. -/
def bySlot (l : List (Nat × Team)) : List (Nat × Team) := (upFrom 0 16).flatMap (fun k => l.filter (fun e => e.2.slot == k))

/-- Write an image whose layout is internal to the part, and note its place: only what the part wrote itself is resumed (R158). -/
def saveImage (ctx a n : Nat) (s : State) : State :=
  saveWrite ctx a (internalBytes s a n) (s.modCtx ctx (fun c =>
    { c with images := c.images.filter (fun x => decide (x.1 + x.2.1 ≤ a) || decide (a + n ≤ x.1)) ++ [(a, n, s.tick)] }))

/-- The images of a core's teams of a context, under their save-time core. -/
def saveCore (ctx : Nat) (c : CtxRec) (core : Nat) (s : State) : State :=
  let ts := bySlot ((coreTeams s core).filter (fun e => e.2.ctx == ctx))
  let at_ := match ts with
    | (_, T) :: _ => 3 * T.homeOf.1 + T.homeOf.2.1
    | [] => core
  (packTeams s ts 0).foldl (fun s x => saveImage ctx (coreImage c at_ + x.2.1) x.2.2 s) s

/-- Every access of a context's teams has completed. -/
def contextQuiet (s : State) (ctx : Nat) : Bool :=
  (resident s ctx).all (fun e => teamQuiet s e.1 && s.accs.all (fun a => a.2.team != e.1))

/-- The header of a save area: the bays and the number of the save. -/
def saveHeader (ctx : Nat) (c : CtxRec) (s : State) : State :=
  let s := s.modCtx ctx (fun c => { c with saves := c.saves + 1, images := if (ctxTeams s ctx).any (fun e => e.2.saved) then c.images else [] })
  let bays := (ctxBays s ctx).foldl (fun m b => setBit m b true) 0
  saveWrite ctx (c.savearea + 8) (leBytes 8 (c.saves + 1)) (saveWrite ctx c.savearea [BitVec.ofNat 8 bays] s)

/-- The cluster headers and team images of a context. -/
def saveImages (ctx : Nat) (c : CtxRec) (s : State) : State :=
  (distinct ((resident s ctx).map (fun e => e.2.cluster))).foldl (fun s cl =>
    let s := saveImage ctx (clusterImage c (imageCluster s ctx cl)) 4096 s
    (upFrom 0 3).foldl (fun s k => saveCore ctx c (3 * cl + k) s) s) s

/-- Teams without an operation in flight go on to the save of their accumulators. -/
def askAccumulators (ctx : Nat) (s : State) : State :=
  (resident s ctx).foldl (fun s e => if (opsOf s e.1).isEmpty then s.push .accumulatorSave (.ofK e.1) else s) s

/-- `CONTEXT_SAVE`: once every thread's accesses have completed, the headers and the team images are written. -/
def saveStep (s : State) : State :=
  let ctx := s.ev.k
  match s.ctxs.get? ctx with
  | none => s
  | some c =>
    if c.phase != 2 then s
    else if !contextQuiet s ctx then
      ((resident s ctx).foldl (fun s e => drainTeam e.1 s) s).push .contextSave s.ev
    else
      saveCheck ctx (askAccumulators ctx ((saveImages ctx c (saveHeader ctx c s)).modCtx ctx (fun c => { c with phase := 3 })))

/-- `CONTEXT_SAVE` (R159). -/
def execContextSave (s : State) : Host.Outcome State Fault Refusal := .next (saveStep s)

/-- The 16 bytes of a tile element in an image; a poisoned one has h = 0x7FC0_0000 and l = 0xFFFF_FFFF (R417). -/
def eltBytes (e : Elt) : List Byte :=
  if e.poison then leBytes 4 0x7FC00000 ++ leBytes 4 0xFFFFFFFF else leBytes 4 e.p.h ++ leBytes 4 e.p.l

/-- A tile's image. -/
def tileBytes (T : Tile) : List Byte := (upFrom 0 128).flatMap (fun i => (upFrom 0 128).flatMap (fun j => eltBytes (T.el i j)))

/-- Write the images of a team's arrays, at the places of its save-time rectangle. -/
def saveArrays (ctx : Nat) (c : CtxRec) (T : Team) (s : State) : State :=
  let L := launchFor s T
  let (cl, _, _, ox, oy) := T.homeOf
  ((teamArrays s T).zip (rectArrays ox oy L.arrw L.arrh)).foldl (fun s k =>
    (upFrom 0 8).foldl (fun s t =>
      saveWrite ctx (bayImage c (bayOf cl) + 2 ^ 20 * k.2 + 2 ^ 17 * t) (tileBytes ((s.array (bayOf T.cluster) k.1).tiles.getD t .none_)) s) s) s

/-- A team has been saved: from now on its place is the one of its image. -/
def Team.putAway (T : Team) : Team :=
  let (cl, core, slot, ox, oy) := T.homeOf
  { T with saved := true, cluster := cl, core := core, slot := slot, ox := ox, oy := oy, home := none }

/-- `ACCUMULATOR_SAVE`: OPS of a team (the event's number) is 0; its tiles are written and its resources released, then its cluster's segments when it was the last there. -/
def accSaveStep (s : State) : State :=
  let t := s.ev.k
  match s.teams.get? t with
  | none => s
  | some T =>
    match s.ctxs.get? T.ctx with
    | none => s
    | some c =>
      if !T.halted || T.saved || c.phase != 3 || !(opsOf s t).isEmpty then s
      else if countsPending s t then s.push .accumulatorSave s.ev
      else if (s.liveGroups t).isEmpty then s.push .teamExit s.ev
      else
        let s := saveArrays T.ctx c T s
        let s := s.modTeam t Team.putAway
        saveCheck T.ctx (segsAfter T.ctx T.cluster T.homeOf.1 s)

/-- `ACCUMULATOR_SAVE` (R161). -/
def execAccumulatorSave (s : State) : Host.Outcome State Fault Refusal := .next (accSaveStep s)

/-! ### The resume (R162, R163, R417) -/

/-- The team whose wait caused a pre-emption has been placed, or its kernel or context is gone. -/
def settled (s : State) (c : CtxRec) : Bool :=
  (match c.cause with
    | none => true
    | some (g, k) =>
      match s.grids.get? g with
      | none => true
      | some G => G.ended || decide (k < G.next))
  && (match c.causeTeam with
    | none => true
    | some t =>
      match s.teams.get? t with
      | none => true
      | some T => !T.saved)

/-- The saved teams of a save-time core. -/
def savedOf (s : State) (ctx core : Nat) : List (Nat × Team) :=
  bySlot (s.teams.filter (fun e => e.2.ctx == ctx && e.2.saved && e.2.cluster == core / 3 && e.2.core == core % 3))

/-- Put the saved teams of a save-time core on a core: it is empty, or runs under their split. -/
def takeCore (l : List (Nat × Team)) (core split : Nat) (s : State) : Option State :=
  match coreTeams s core with
  | [] => go l s
  | (_, X) :: _ => if X.split == split then go l s else none
where
  go : List (Nat × Team) → State → Option State
    | [], s => some s
    | (t, T) :: l, s =>
      if fits s core T.grid (launchFor s T) split then
        go l (openSegment T.grid (core / 3) (launchFor s T) (reserve t T core split s))
      else none

/-- Each save-time core's teams go together to one core of the cluster: the first assignment that fits, which tries cores that took none of them before those that did. -/
def takeCluster (ctx cl : Nat) : List Nat → List Nat → State → Option State
  | [], _, s => some s
  | k :: ks, used, s =>
    let l := savedOf s ctx k
    match l with
    | [] => takeCluster ctx cl ks used s
    | (_, T) :: _ =>
      let order := (upFrom 0 3).filter (fun f => !used.contains f) ++ (upFrom 0 3).filter (fun f => used.contains f)
      firstSome (order.map (fun f =>
        match takeCore l (3 * cl + f) T.split s with
        | some s => takeCluster ctx cl ks (f :: used) s
        | none => none))

/-- A save-time cluster fits on a cluster: not one that holds a segment of one of its grids. -/
def clusterFits (ctx sc cl : Nat) (s : State) : Option State :=
  if s.teams.any (fun e => e.2.ctx == ctx && e.2.saved && e.2.cluster == sc && (s.clsh.get? (e.2.grid, cl)).isSome) then none
  else takeCluster ctx cl (upFrom (3 * sc) 3) [] s

/-- The largest of a cluster's cores' readings in a score. -/
def clusterScore (s : State) (cl : Nat) : Nat :=
  let ks := upFrom (3 * cl) 3
  s.wtemp * (ks.foldl (fun m k => max m (s.coreTemp.getD k 0)) 0) + s.wdroop * (ks.foldl (fun m k => max m (droops s k)) 0)

/-- Choose a cluster for a save-time cluster and take its resources; the pointer moves past the first candidate's cores. -/
def chooseCluster (ctx sc : Nat) (s : State) : Option (Nat × State) :=
  match s.teams.find? (fun e => e.2.ctx == ctx && e.2.saved && e.2.cluster == sc) with
  | none => none
  | some (_, T) =>
    let d := (s.grids.getD T.grid .blank).vdev
    let view := s.viewOf ctx
    let cands := ((scanFrom (s.ptr d view / 3) (viewClusters s ctx d)).filter (fun cl => (clusterFits ctx sc cl s).isSome)).take (s.dev + 1)
    match cands, lowestScore (clusterScore s) cands with
    | f :: _, some cl => (clusterFits ctx sc cl { s with ptrs := s.ptrs.set (d, view) (3 * (f + 1)) }).map (fun s => (cl, s))
    | _, _ => none

/-- A tile read back: the poison pattern, and each element of a line that is read with Err or from a poisoned half-burst, come back poisoned with an undefined value. -/
def readTile (a ctx : Nat) (s : State) : State × Tile :=
  let r := (upFrom 0 1024).foldl (fun (acc : State × Tbl (Nat × Nat) Elt) i =>
    let free := fun (k : Nat) => (⟨⟨Config.freeWord acc.1.tick (a + 8 * k) % 2 ^ 32, Config.freeWord acc.1.tick (a + 8 * k + 1) % 2 ^ 32⟩, true⟩ : Elt)
    match cpNum (a + 128 * i) 128 acc.1 with
    | (s, .ok x) =>
      (s, acc.2 ++ (upFrom 0 16).map (fun j =>
        let k := 16 * i + j
        let h := bits x (64 * j + 31) (64 * j)
        let l := bits x (64 * j + 63) (64 * j + 32)
        ((k / 128, k % 128), if h == 0x7FC00000 && l == 0xFFFFFFFF then free k else ⟨⟨h, l⟩, false⟩)))
    | (s, .error _) => (s, acc.2 ++ (upFrom 0 16).map (fun j => (((16 * i + j) / 128, (16 * i + j) % 128), free (16 * i + j))))) (s, [])
  (r.1, ⟨r.2, none, some ctx⟩)

/-- Read a team's tiles back, each array's image onto the array at the same offset from the new origin; every plane is empty (R247). -/
def readArrays (c : CtxRec) (old : Team) (t : Nat) (s : State) : State :=
  let T := s.team t
  let L := launchFor s T
  ((rectArrays old.ox old.oy L.arrw L.arrh).zip (rectArrays T.ox T.oy L.arrw L.arrh)).foldl (fun s x =>
    let r := (upFrom 0 8).foldl (fun (acc : State × Tbl Nat Tile) k =>
      let y := readTile (bayImage c (bayOf old.cluster) + 2 ^ 20 * x.1 + 2 ^ 17 * k) T.ctx acc.1
      (y.1, acc.2 ++ [(k, y.2)])) (s, [])
    { r.1 with arrays := r.1.arrays.set (bayOf T.cluster, x.2) ⟨[], r.2⟩ }) s

/-- Read a cluster's segments back; words of a poisoned half-burst, or of a line read with Err, come back poisoned. -/
def readSegs (c : CtxRec) (sc cl : Nat) (segs : List (Nat × Nat)) (s : State) : State :=
  segs.foldl (fun s x =>
    let n := (s.grids.getD x.1 .blank).launch.cshared
    let a := clusterImage c sc + 4096 + x.2
    let r := (upFrom 0 (n / 128)).foldl (fun (acc : State × LMem) i =>
      match cpRead (a + 128 * i) 128 acc.1 with
      | (s, .ok l) => (s, acc.2.write (128 * i) l)
      | (s, .error _) => (s, acc.2.spoil (128 * i) 128)) (s, LMem.empty)
    { r.1 with clsh := r.1.clsh.set (x.1, cl) r.2 }) s

/-- A group's latches of one pipe are valid there on the new core, as saved (R163, R173). -/
def restLatch (t g p : Nat) (s : State) : State :=
  let x := s.pipe t p
  let s : State := { s with pipes := s.pipes.set (s.pipeKey t p) { x with groups := x.groups.set (t, g) (x.run + 1), run := x.run + 1 } }
  s.modThrs t g (s.liveThr t g) (fun th => { th with latPipe := th.latPipe.map (fun y => if y.1 == p then (p, x.run + 1) else y) })

/-- Restore a group's latches. -/
def restLatches (t g : Nat) (s : State) : State :=
  ((distinct ((s.liveThr t g).filterMap (fun i => (s.thr (t, g, i)).latPipe.map Prod.fst))).filter (· != 9)).foldl (fun s p => restLatch t g p s) s

/-! ### A save area that software has changed (R158) -/

/-- A cluster header or team image of a context's save does not hold what the part wrote. -/
def imagesChanged (s : State) (c : CtxRec) : Bool :=
  c.images.any (fun x => s.rd false x.1 x.2.1 != (upFrom x.1 x.2.1).map (fun o => Config.freeByte x.2.2 o))

/-- A thread whose program counter, window, call depth, predicates and registers hold undefined values. -/
def Thread.unknown (th : Thread) (n : Nat) : Thread :=
  let f := Config.freeWord n
  let lo := 8 * (f 3000 % 2 ^ 13)
  { th with
    pc := 4 * (f 3001 % 2 ^ 62)
    lo := lo
    wb := lo + 8 * (f 3002 % ((th.depth - 64) / 8 + 1))
    cd := f 3003 % 1024
    regs := (upFrom 0 th.depth).map (fun k => (k, ⟨BitVec.ofNat 32 (f k), f (1000 + k) % 2 == 1⟩))
    preds := BitVec.ofNat 8 (setBit (f 2000) 7 true)
    latPipe := none }

/-- A group whose uniform registers, shape slots and dependency counters hold undefined values, and masks undefined members and tags. -/
def Group.unknown (G : Group) (n : Nat) : Group :=
  let f := Config.freeWord n
  { G with
    sregs := (upFrom 0 24).map (fun k => (k, ⟨BitVec.ofNat 64 (f k), f (100 + k) % 2 == 1⟩))
    masks := (upFrom 0 12).map (fun k => (k, ⟨lanesOf ((upFrom 0 G.width).filter (fun i => f (200 + 128 * k + i) % 2 == 1)), f (2000 + k) % 1024⟩))
    shapes := ((upFrom 0 16).filter (fun k => f (2100 + k) % 2 == 1)).map (fun k =>
      (k, (upFrom 0 8).foldl (fun a j => a + 2 ^ (64 * j) * (f (2200 + 8 * k + j) % 2 ^ 64)) 0))
    cnt := (upFrom 0 6).map (fun k => (k, f (2400 + k) % 64)) }

/-- Eight barriers in undefined states. -/
def unknownBars (n : Nat) (gs : List Nat) : Tbl Nat HwBar :=
  let f := Config.freeWord n
  (upFrom 0 8).map (fun k => (k, ⟨f k % 2 ^ 16, if f (8 + k) % 4 == 3 then none else some (f (8 + k) % 4),
    gs.filter (fun g => f (16 + 16 * k + g) % 2 == 1)⟩))

/-- A team whose registers, allotment, token, threshold, barriers and arrivals hold undefined values. -/
def unknownTeam (t : Nat) (s : State) : State :=
  let n := fun (g i : Nat) => s.tick + 2 ^ 40 * (1 + i + 128 * g)
  let L := s.launch t
  let gs := upFrom 0 L.groups
  let f := Config.freeWord (n 49 0)
  { s with
    threads := s.threads.map (fun e => if e.1.1 == t then (e.1, e.2.unknown (n e.1.2.1 e.1.2.2)) else e)
    groups := s.groups.map (fun e => if e.1.1 == t then (e.1, e.2.unknown (n (16 + e.1.2) 0)) else e)
    sets := s.sets.map (fun e => if e.1.1 == t then
      (e.1, { e.2 with
        xregs := (upFrom 0 16).flatMap (fun r => (upFrom 0 128).map (fun j =>
          ((r, j), ⟨BitVec.ofNat 32 (Config.freeWord (n (32 + e.1.2) 0) (128 * r + j)), Config.freeWord (n (32 + e.1.2) 1) (128 * r + j) % 2 == 1⟩)))
        bars := unknownBars (n (32 + e.1.2) 2) gs
        rdv := if f (100 + e.1.2) % 2 == 1 then none else e.2.rdv }) else e)
    teams := s.teams.map (fun e => if e.1 == t then
      (e.1, { e.2 with
        spad := ⟨[], (upFrom 0 (L.spad / 4)).filter (fun w => Config.freeWord (n 50 0) w % 2 == 1), some (n 48 0)⟩
        token := if f 0 % 2 == 1 then none else some (f 1 % L.groups)
        ej := L.ejmin + f 2 % (L.ejmax - L.ejmin + 1)
        bars := unknownBars (n 51 0) gs
        rdv := if f 3 % 2 == 1 then none else e.2.rdv }) else e) }

/-- Any trap may end a grid. -/
def unknownEnd (g t : Nat) (s : State) : State :=
  let w := fun (k : Nat) => Config.freeWord s.tick (4096 * g + k)
  if w 0 % 2 == 0 then s
  else unresolved t ⟨true, w 1 % 16, w 2 % 4, w 3 % 16, w 4 % 256, w 5 % 2 ^ 32, w 6 % 2 ^ 64, w 7 % 2 ^ 57, BitVec.ofNat 128 (w 8)⟩ s

/-- After a change of a header or image, the context's registers, allotments and results are undefined, and any trap may end its grids (R158). -/
def resumeUnknown (c : CtxRec) (ts : List (Nat × Team)) (s : State) : State :=
  if imagesChanged s c then
    let s := ts.foldl (fun s e => unknownTeam e.1 s) s
    ts.foldl (fun s e => unknownEnd e.2.grid e.1 s) s
  else s

/-- An ejected thread is ejected again when a Span context is free within SPANMAX, else it goes on in its group under masks. -/
def restSpan (t g i : Nat) (s : State) : State :=
  let th := s.thr (t, g, i)
  match th.span with
  | none => s
  | some sp =>
    let T := s.team t
    let s0 := s.setThr (t, g, i) { th with span := none }
    let used := s0.spanUsed T.cluster
    if used.length < 32 && s0.spanHeld T.cluster T.ctx < s0.spanMax T.ctx then
      s.setThr (t, g, i) { th with span := some { sp with slot := freeSpan used }, wait := .none }
    else s.setThr (t, g, i) { th with span := none, wait := .none, latPipe := none }

/-- The waits of a team's issue sets are looked at again; where the core now has more of them than R211 allows, their instructions issue again (R156). -/
def restWaits (t : Nat) (s : State) : State :=
  let gs := upFrom 0 (s.launch t).groups
  if coreWaits s t ≤ 128 then evalPort t (gs.foldl (fun s g => evalBarWaits t g s) s)
  else
    gs.foldl (fun s g =>
      let ws := (s.grp t g).waits
      let s := s.modGrp t g (fun G => { G with waits := [] })
      ws.foldl (fun s w => (lowerW t g w.sig s).modThrs t g w.set (fun th => if th.wait == .word then { th with wait := .none } else th)) s) s

/-- A team goes on: its group slots, clocks, latches, Span threads and waits (R157, R163). -/
def restTeam (t : Nat) (old : Team) (s : State) : State :=
  let now := s.now t
  let n := (s.launch t).groups
  let gs := upFrom 0 n
  let T := s.team t
  let slots := freeSlots { s with groups := s.groups.filter (fun e => e.1.1 != t) } T.cluster T.core n
  let s := s.modTeam t (fun T => { T with halted := false, winStart := now, home := some old.homeOf })
  let s := gs.foldl (fun s g =>
    s.modGrp t g (fun G => { G with
      slot := slots.getD g 0
      stallUntil := now + (G.stallUntil - old.haltAt)
      ageAt := now
      timers := G.timers.map (fun r => { r with start := now }) })) s
  let s : State := { s with timed := s.timed.map (fun x => if x.team == t then { x with start := now } else x) }
  let s := gs.foldl (fun s g => (s.liveThr t g).foldl (fun s i => restSpan t g i s) s) s
  let s := gs.foldl (fun s g => restLatches t g s) s
  restWaits t (gs.foldl (fun s g => evalMasks t g s) s)

/-- Resume the teams of one save-time cluster; none when nothing has room. -/
def resumeCluster (ctx : Nat) (c : CtxRec) (sc : Nat) (s : State) : Option State :=
  let olds := s.teams.filter (fun e => e.2.ctx == ctx && e.2.saved && e.2.cluster == sc)
  let segs := (c.segs.filter (fun x => x.1 == sc && olds.any (fun e => e.2.grid == x.2.1))).map (fun x => (x.2.1, x.2.2))
  match chooseCluster ctx sc s with
  | none => none
  | some (cl, s) =>
    let s := readSegs c sc cl segs s
    let s := olds.foldl (fun s e => readArrays c e.2 e.1 s) s
    some (resumeUnknown c olds (olds.foldl (fun s e => restTeam e.1 e.2 s) s))

/-- Resume save-time clusters in ascending order as far as there is room: whether all went. -/
def resumeAll (ctx : Nat) (c : CtxRec) : List Nat → State → State × Bool
  | [], s => (s, true)
  | sc :: l, s =>
    match resumeCluster ctx c sc s with
    | some s => resumeAll ctx c l s
    | none => (s, false)

/-- Room for every saved team, as a trial of the choices. -/
def roomFor_ (ctx : Nat) : List Nat → State → Bool
  | [], _ => true
  | sc :: l, s =>
    match chooseCluster ctx sc s with
    | some (_, s) => roomFor_ ctx l s
    | none => false

/-- The save-time clusters of a context's saved teams, ascending. -/
def savedClusters (s : State) (ctx : Nat) : List Nat :=
  (upFrom 0 128).filter (fun cl => s.teams.any (fun e => e.2.ctx == ctx && e.2.saved && e.2.cluster == cl))

/-- The context runs again: its WAIT nodes' timeouts count on from where they stood (R157). -/
def runAgain (ctx : Nat) (s : State) : State :=
  match s.ctxs.get? ctx with
  | none => s
  | some c =>
    let gone := s.ncyc - c.haltAt
    let s : State := { s with runs := s.runs.map (fun e =>
      if e.2.ctx != ctx then e
      else (e.1, { e.2 with nodes := e.2.nodes.map (fun n =>
        if n.2.ty == 4 && n.2.phase == 2 then (n.1, { n.2 with start := if n.2.start ≤ c.haltAt then n.2.start + gone else s.ncyc }) else n) })) }
    let s : State := { s with teams := s.teams.map (fun e => if e.2.ctx == ctx then (e.1, { e.2 with home := none }) else e) }
    s.modCtx ctx (fun c =>
      { c with segs := [], phase := 0, preempted := false, cause := none, causeTeam := none, waitFrom := none, images := [], since := s.ncyc, haltAt := s.ncyc })

/-- `CONTEXT_RESUME_AUTO`: a context (the event's number) resumes, on its own once the team it gave way to is settled and there is room for all, or after CTX_RESUME (value 1) as room comes. A resume that has begun goes on to its end. -/
def resumeStep (s : State) : State :=
  let ctx := s.ev.k
  match s.ctxs.get? ctx with
  | none => s
  | some c =>
    if c.phase != 4 || c.dying || (c.suspended && (resident s ctx).isEmpty) then s
    else
      let cls := savedClusters s ctx
      if s.ev.v == 0 && !settled s c then s.push .contextResumeAuto s.ev
      else if s.ev.v == 0 && !roomFor_ ctx cls s then (armResume ctx s).push .contextResumeAuto s.ev
      else
        match resumeAll ctx c cls s with
        | (s, true) => runAgain ctx s
        | (s, false) => (armResume ctx s).push .contextResumeAuto { s.ev with v := 1 }

/-- `CONTEXT_RESUME_AUTO` (R162). -/
def execContextResumeAuto (s : State) : Host.Outcome State Fault Refusal := .next (resumeStep s)

end Sys2Proof.Machine
end

