-- ==== Sys2Proof/Machine/Command.lean ====
section
/-! DEFINITION. The admin ring and its commands, and the doorbells (R41-R43, R79, R80, R85-R88, R97, R108, R117, R222, R288). -/

namespace Sys2Proof.Machine

/-! ### The ring (R85, R86) -/

/-- Commands that the admin ring holds. -/
def Regs.adminLen (r : Regs) : Nat := 2 ^ (r.adminsize + 4)

/-- The event of an admin command by its OP; a type that Table host-5 does not list has its own. -/
def adminEvent (op : Nat) : Instr :=
  match op with
  | 1 => .ctxCreate
  | 2 => .ctxDestroy
  | 3 => .ctxSuspend
  | 4 => .ctxResume
  | 5 => .objDeclare
  | 6 => .objClear
  | 7 => .biasFlip
  | 8 => .queueResume
  | 9 => .xlateInval
  | _ => .adminUnknownOpcode

/-- Change the package's registers. -/
def State.modRegs (s : State) (f : Regs → Regs) : State := { s with regs := f s.regs }

/-- Start the command at HEAD, when none runs; not while the KHL's training holds the ring's read (R33). -/
def adminPump (s : State) : State :=
  let r := s.regs
  if r.abusy || !s.accepts || r.adminhead == r.admintail then s
  else
    match cpNum (r.adminbase + 64 * r.adminhead) 64 (s.modRegs (fun r => { r with abusy := true })) with
    | (s, .error 255) => s.modRegs (fun r => { r with abusy := false })
    | (s, .error _) => s.push .adminCommandReadError (.ofK 0)
    | (s, .ok c) => (s.modRegs (fun r => { r with acmd := c })).push (adminEvent (bits c 511 504)) (.ofK 0)

/-- HEAD moves on and vector 0 is raised. -/
def adminNext (s : State) : State :=
  adminPump ((s.modRegs (fun r => { r with abusy := false, adminhead := (r.adminhead + 1) % r.adminLen })).msix 0)

/-- A command completes: its record, then HEAD, then the interrupt (R85, R95). -/
def adminDone (code : Nat) (s : State) : State :=
  let d := bits s.regs.acmd 319 256
  let s := (cpWrite (d + 8) (leBytes 8 (statusWord code 0 0)) s).1
  adminNext (cpWrite d (leBytes 8 0) s).1

/-- The operands of the running command (Table host-5). -/
def State.aCtx (s : State) : Nat := bits s.regs.acmd 503 492
def State.aArg (s : State) : Nat := bits s.regs.acmd 491 484
def State.aAddr (s : State) : Nat := bits s.regs.acmd 447 384
def State.aLen (s : State) : Nat := bits s.regs.acmd 383 320

/-- Run a command on an existing context, or complete it with status 1 (R87). -/
def onCtx (f : Nat → CtxRec → State → State) (s : State) : State :=
  match s.ctxs.get? s.aCtx with
  | none => adminDone 1 s
  | some c => f s.aCtx c s

/-- `ADMIN_UNKNOWN_OPCODE`. -/
def adminUnknownStep (s : State) : State := adminDone 10 s

/-- `ADMIN_UNKNOWN_OPCODE` (R86). -/
def execAdminUnknownOpcode (s : State) : Host.Outcome State Fault Refusal := .next (adminUnknownStep s)

/-- `ADMIN_COMMAND_READ_ERROR` (R85): no completion record. -/
def execAdminCommandReadError (s : State) : Host.Outcome State Fault Refusal := .next (adminNext s)

/-- An access of the register window: the host's, which the KHL carries, or, with data in the event, the KHA-2 sideband's (R26, R33, R101). -/
def byWindow (ev : Instr) (f : State → State) (s : State) : State := if s.ev.data.isEmpty then overKhl ev f s else f s

/-- A written TAIL counts modulo the ring size. -/
def putAdminTail (v : Nat) (s : State) : State := adminPump (s.modRegs (fun r => { r with admintail := bits v 15 0 % r.adminLen }))

/-- `ADMINPTR_TAIL_WRITE`: the written value is the event's value. -/
def adminTailStep (s : State) : State := byWindow .adminptrTailWrite (putAdminTail s.ev.v) s

/-- `ADMINPTR_TAIL_WRITE` (R85). -/
def execAdminptrTailWrite (s : State) : Host.Outcome State Fault Refusal := .next (adminTailStep s)

/-! ### Doorbells (R88) -/

/-- A doorbell's write: a context, a queue index and the written value, as the event names them. -/
def doorbell (s : State) : State :=
  let ctx := s.ev.k
  let q := s.ev.a
  let known := match s.ctxs.get? ctx with
    | some c => c.queues.get? q
    | none => none
  match known with
  | none => s.modRegs (fun r => { r with badbell := (r.badbell + 1) % 2 ^ 16 })
  | some _ => queuePump ctx q (s.modQueue ctx q (fun x => { x with tail := bits s.ev.v 15 0 % x.len }))

/-- `DOORBELL_WRITE`: it comes over the KHL. -/
def doorbellStep (s : State) : State := overKhl .doorbellWrite doorbell s

/-- `DOORBELL_WRITE` (R88). -/
def execDoorbellWrite (s : State) : Host.Outcome State Fault Refusal := .next (doorbellStep s)

/-! ### CTX_CREATE (R79, R80, Tables host-1 and host-7) -/

/-- The view devices of a view (Table host-2). -/
def viewDevices (view : Nat) : Nat := if view == 0 then 1 else if view == 1 then 2 else 8

/-- A queue from its descriptor. -/
def queueOf (x : Nat) : Queue :=
  { Queue.zero with base := bits x 255 192, headwb := bits x 191 128, vec := bits x 127 112, size := bits x 111 108 }

/-- A descriptor's fields lie inside their limits. -/
def queueOk (x : Nat) : Bool :=
  let q := queueOf x
  decide (1 ≤ q.vec) && decide (q.vec ≤ 2047) && decide (q.size ≤ 12) && q.base % 4096 == 0 && q.headwb % 2 == 0

/-- A power of two from 16 to 32,768. -/
def faultCntOk (n : Nat) : Bool := ((upFrom 4 12).map (fun k => 2 ^ k)).contains n

/-- A context record's fields lie inside their limits: those of R80, the alignments of the page table (Table xlate-2) and of the placement record (R107), and device addresses of 40 bits (R105). -/
def recordOk_ (x : Nat) : Bool :=
  bits x 511 500 != 0 && bits x 499 498 != 3 && faultCntOk (bits x 191 176)
    && decide (1 ≤ bits x 175 160) && decide (bits x 175 160 ≤ 2047) && bits x 255 192 % 64 == 0
    && bits x 447 384 % 4096 == 0 && bits x 383 320 % 65536 == 0
    && [bits x 447 384, bits x 383 320, bits x 319 256, bits x 255 192, bits x 127 64].all (fun a => decide (a < 2 ^ 40))

/-- The context of a record and its queues. -/
def ctxOfRec (x : Nat) (qs : Tbl Nat Queue) (now : Nat) : CtxRec :=
  { view := bits x 499 498, prio := bits x 497 495, place := bits x 494 494, rmatch := bit x 493,
    spanmax := min (bits x 487 480) 32, slice := bits x 479 448, ptroot := bits x 447 384, placerec := bits x 383 320,
    faultring := bits x 255 192, faultcnt := bits x 191 176, faultvec := bits x 175 160, savearea := bits x 127 64,
    queues := qs, suspended := false, preempted := false, phase := 0, cause := none, causeTeam := none, waitFrom := none, images := [], segs := [], unit := 8, saves := 0, saveErr := false,
    dying := false, raised := none, toRaise := false, since := now, haltAt := now }

/-- Read descriptors of 32 bytes. -/
def readDescs (a : Nat) : Nat → Nat → List Nat → State → State × Except Nat (List Nat)
  | 0, _, l, s => (s, .ok l)
  | f + 1, k, l, s =>
    match cpNum (a + 32 * k) 32 s with
    | (s, .ok x) => readDescs a f (k + 1) (l ++ [x]) s
    | (s, .error e) => (s, .error e)

/-- An admin command whose operand could not be read ends with status 9; one whose read the KHL's training holds is carried out after it. -/
def adminUnread (ev : Instr) (k : Nat) (s : State) : State := if k == 255 then s.keep ev else adminDone 9 s

/-- `CTX_CREATE`: every field is checked first, then the number and the count of contexts. -/
def createStep (s : State) : State :=
  let a := s.aAddr
  if a % 64 != 0 then adminDone 1 s
  else
    match cpNum a 64 s with
    | (s, .error k) => adminUnread .ctxCreate k s
    | (s, .ok x) =>
      if !recordOk_ x then adminDone 1 s
      else
        match readDescs (bits x 319 256) (4 * viewDevices (bits x 499 498)) 0 [] s with
        | (s, .error k) => adminUnread .ctxCreate k s
        | (s, .ok ds) =>
          let ctx := bits x 511 500
          if !ds.all queueOk then adminDone 1 s
          else if (s.ctxs.get? ctx).isSome || decide (256 ≤ s.ctxs.length) then adminDone 11 s
          else
            let qs := (upFrom 0 ds.length).zip (ds.map queueOf)
            adminDone 0 { s with ctxs := s.ctxs ++ [(ctx, ctxOfRec x qs s.ncyc)] }

/-- `CTX_CREATE` (R80). -/
def execCtxCreate (s : State) : Host.Outcome State Fault Refusal := .next (createStep s)

/-! ### CTX_DESTROY (R87, R108, R117, R222) -/

/-- The destruction begins: queues stop, grids end, and nothing of the context waits any more. -/
def killContext (ctx : Nat) (s : State) : State :=
  let s := s.modCtx ctx (fun c => { c with dying := true, phase := 0, cause := none, causeTeam := none })
  let gs := (s.grids.filter (fun e => e.2.ctx == ctx)).map Prod.fst
  let s := gs.foldl (fun s g => s.killGrid g) s
  let mine := fun (d : Due) =>
    (d.ev == .graphLaunch || d.ev == .userNop || d.ev == .userUnknownOp || d.ev == .userCommandReadError || d.ev == .faultVectorRaise) && d.arg.k == ctx
  { s with
    agenda := s.agenda.filter (fun d => !mine d)
    runs := s.runs.filter (fun e => e.2.ctx != ctx)
    tasks := s.tasks.filter (fun x => x.ctx != ctx)
    grids := s.grids.filter (fun e => e.2.ctx != ctx || s.teams.any (fun x => x.2.grid == e.1)) }

/-- Something of the context is still in flight. -/
def ctxBusy (s : State) (ctx : Nat) : Bool :=
  s.teams.any (fun e => e.2.ctx == ctx) || s.ops.any (fun e => e.2.ctx == ctx) || s.accs.any (fun e => e.2.ctx == ctx)
    || s.msgs.any (fun e => e.2.ctx == ctx) || s.combs.any (fun c => c.ctx == ctx) || s.wcs.any (fun e => e.1.2.1 == ctx)

/-- Ask every team of the context to exit. -/
def askExits (ctx : Nat) (s : State) : State :=
  (s.teams.filter (fun e => e.2.ctx == ctx)).foldl (fun s e =>
    if s.agenda.any (fun d => d.ev == .teamExit && d.arg.k == e.1) then s else s.push .teamExit (.ofK e.1)) s

/-- A user's number as one that no context has: the context that used a memory last exists no more. -/
def formerUser (ctx u : Nat) : Nat := if u == ctx then 4096 else u

/-- Forget a context: its lines, entries, translations, mappings and ordered series. -/
def purgeContext (ctx : Nat) (s : State) : State :=
  let lines := distinct ((s.hsect.filter (fun h => h.ctx == ctx)).map (fun h => h.vs / 2)
    ++ (s.slices.filter (fun e => e.1.1 == ctx)).map (fun e => e.1.2) ++ (s.l1.filter (fun e => e.1.2.1 == ctx)).map (fun e => e.1.2.2))
  let s := purgeLines ctx lines s
  { s with
    ctxs := s.ctxs.del ctx
    l1 := s.l1.filter (fun e => e.1.2.1 != ctx)
    trees := s.trees.filter (fun e => e.1.2.1 != ctx)
    slices := s.slices.filter (fun e => e.1.1 != ctx)
    tlb := s.tlb.filter (fun e => e.2.ctx != ctx)
    maps := s.maps.filter (fun m => m.ctx != ctx)
    walks := s.walks.filter (fun w => w.ctx != ctx)
    zeroing := s.zeroing.filter (fun z => z.1 != ctx)
    plc := s.plc.filter (fun e => e.1.2.1 != ctx)
    atc := s.atc.filter (fun e => e.1.2.1 != ctx)
    ords := s.ords.filter (fun e => e.1.1 != ctx)
    ordHeld := s.ordHeld.filter (fun o => o.ctx != ctx)
    spadUsers := s.spadUsers.map (fun e => (e.1, e.2.map (formerUser ctx)))
    arrays := s.arrays.map (fun e => (e.1, { e.2 with tiles := e.2.tiles.map (fun t => (t.1, { t.2 with user := t.2.user.map (formerUser ctx) })) })) }

/-- `CTX_DESTROY`: begun once, then looked at again until nothing of the context is left. -/
def destroyStep (s : State) : State :=
  onCtx (fun ctx c s =>
    let s := if c.dying then s else killContext ctx s
    if ctxBusy s ctx then (askExits ctx s).push .ctxDestroy s.ev
    else adminDone 0 (purgeContext ctx s)) s

/-- `CTX_DESTROY` (R87). -/
def execCtxDestroy (s : State) : Host.Outcome State Fault Refusal := .next (destroyStep s)

/-! ### CTX_SUSPEND and CTX_RESUME (R87, R154, R161, R162) -/

/-- A context's walkers stop, and its timeouts stand still from now on unless they do already. -/
def markSuspended (ctx : Nat) (s : State) : State :=
  s.modCtx ctx (fun c => { c with suspended := true, haltAt := if c.paused then c.haltAt else s.ncyc })

/-- `CTX_SUSPEND`: the halt is requested once no other pre-emption stands in its way; of a context that has come back in part, the teams that run halt (R154). -/
def suspendStep (s : State) : State :=
  onCtx (fun ctx c s =>
    let s := markSuspended ctx s
    if (resident s ctx).isEmpty || c.inHalt then s.push .ctxSuspendComplete s.ev
    else if (c.phase == 0 || c.phase == 4) && mayPreempt s ctx 8 then (requestHalt ctx 8 none none s).push .ctxSuspendComplete s.ev
    else s.push .ctxSuspend s.ev) s

/-- `CTX_SUSPEND` (R87). -/
def execCtxSuspend (s : State) : Host.Outcome State Fault Refusal := .next (suspendStep s)

/-- `CTX_SUSPEND_COMPLETE`: every image is written, or no team is left to save. -/
def suspendDoneStep (s : State) : State :=
  onCtx (fun ctx c s =>
    if (resident s ctx).isEmpty && !c.inHalt then adminDone 0 s else s.push .ctxSuspendComplete s.ev) s

/-- `CTX_SUSPEND_COMPLETE` (R161). -/
def execCtxSuspendComplete (s : State) : Host.Outcome State Fault Refusal := .next (suspendDoneStep s)

/-- `CTX_RESUME`: at once; saved teams come back as there is room. -/
def resumeCmdStep (s : State) : State :=
  onCtx (fun ctx c s =>
    let s := s.modCtx ctx (fun c => { c with suspended := false, cause := none, causeTeam := none })
    let s := if c.phase == 4 then s.push .contextResumeAuto ⟨ctx, 0, 1, []⟩
      else if c.phase == 0 && c.suspended then runAgain ctx s
      else s
    adminDone 0 (callDispatchers ctx s)) s
where
  /-- Waiting grids of the context call their dispatchers again. -/
  callDispatchers (ctx : Nat) (s : State) : State :=
    let s := (upFrom 0 8).foldl (fun s u => taskPump u s) s
    (s.grids.filter (fun e => e.2.ctx == ctx && !e.2.ended)).foldl (fun s e => callDispatcher e.2.vdev s) s

/-- `CTX_RESUME` (R162). -/
def execCtxResume (s : State) : Host.Outcome State Fault Refusal := .next (resumeCmdStep s)

/-! ### Objects (R43, R87, R288, Table links-6) -/

/-- An entry from its 32-byte image. -/
def objOfImage (x : Nat) : ObjEnt :=
  ⟨bits x 254 252, bits x 251 240, bits x 223 192, bits x 191 128, bits x 127 64, bits x 63 0⟩

/-- The lines of every granule are many enough and few enough, and no two granules share one (R288). -/
def granulesOk (s : State) (o : ObjEnt) : Bool :=
  let gs := (upFrom 0 o.ngran).map (granLines s o)
  let all := gs.flatMap (fun l => l)
  tileCount (objShape s o) == o.ngran && gs.all (fun l => decide (32 ≤ l.length) && decide (l.length ≤ 16384))
    && (distinct all).length == all.length

/-- A declaration's fields lie inside their limits. -/
def objOk (s : State) (o : ObjEnt) : Bool :=
  (decide (o.home ≤ 3) || o.home == 7) && decide (1 ≤ o.ngran) && decide (o.ngran ≤ 1048576) && o.base % 128 == 0 && granulesOk s o

/-- `OBJ_DECLARE`. -/
def declareStep (s : State) : State :=
  onCtx (fun _ _ s =>
    let i := s.aLen
    if 4096 ≤ i then adminDone 1 s
    else
      match cpNum s.aAddr 32 s with
      | (s, .error k) => adminUnread .objDeclare k s
      | (s, .ok x) =>
        let o := objOfImage x
        match cpNum o.shape 64 s with
        | (s, .error k) => adminUnread .objDeclare k s
        | (s, .ok _) =>
          if !objOk s o then adminDone 1 s
          else adminDone 0 { s with objs := if bit x 255 then s.objs.set i o else s.objs.del i }) s

/-- `OBJ_DECLARE` (R43, R288). -/
def execObjDeclare (s : State) : Host.Outcome State Fault Refusal := .next (declareStep s)

/-- `OBJ_CLEAR`: once the object's transfers have ended. -/
def clearStep (s : State) : State :=
  onCtx (fun _ _ s =>
    let i := s.aLen
    if 4096 ≤ i then adminDone 1 s
    else if s.xfers.any (fun x => x.obj == i) then s.push .objClear s.ev
    else adminDone 0 { s with objs := s.objs.del i }) s

/-- `OBJ_CLEAR` (R87). -/
def execObjClear (s : State) : Host.Outcome State Fault Refusal := .next (clearStep s)

/-! ### BIAS_FLIP (R41, R42) -/

/-- The page of a flip: a valid host leaf of 64 KiB or 2 MiB at its first address. -/
def flipPage (s : State) (ctx va size : Nat) : Bool :=
  match walkLeaf s ctx va with
  | .error _ => false
  | .ok (pte, e, sz) =>
    let x := leafXl ctx va pte e sz false
    x.attr.host && x.va == va && 2 ^ x.attr.size == size && decide (x.attr.size ≤ 21)

/-- `BIAS_FLIP`. -/
def biasStep (s : State) : State :=
  onCtx (fun ctx _ s =>
    let va := s.aAddr
    if 2 ≤ s.aArg || !flipPage s ctx va s.aLen then adminDone 1 s
    else
      let f : Flip := ⟨ctx, va, s.aLen, s.aArg == 1, 0⟩
      ({ s with flips := s.flips ++ [f] } : State).push .biasFlipComplete s.ev) s

/-- `BIAS_FLIP` (R41). -/
def execBiasFlip (s : State) : Host.Outcome State Fault Refusal := .next (biasStep s)

/-- Drain the write-combining entries of a page. -/
def drainPage (f : Flip) (s : State) : State :=
  s.wcs.foldl (fun s e =>
    if e.1.2.1 == f.ctx && f.va ≤ e.1.2.2 * 128 && e.1.2.2 * 128 < f.va + f.size then drainLine e.1.1 e.1.2.1 e.1.2.2 s else s) s

/-- `BIAS_FLIP_COMPLETE`: the sectors are fetched or returned and the PTE's BIAS follows; without the link the flip fails and the page stays in host bias. -/
def biasDoneStep (s : State) : State :=
  match s.flips with
  | [] => s
  | f :: rest =>
    if s.khlLost then adminDone 8 (settle (setBias { f with toDev := false } { s with flips := rest }))
    else if s.regs.khl.state < 2 || flipHolds f s then (drainPage f s).push .biasFlipComplete s.ev
    else adminDone 0 (settle (setBias f (flipWork f { s with flips := rest })))

/-- `BIAS_FLIP_COMPLETE` (R42). -/
def execBiasFlipComplete (s : State) : Host.Outcome State Fault Refusal := .next (biasDoneStep s)

/-! ### QUEUE_RESUME and XLATE_INVAL (R87, R97, R108, R416) -/

/-- `QUEUE_RESUME`: an index beyond the context's queue sets completes with status 1. -/
def queueResumeStep (s : State) : State :=
  onCtx (fun ctx c s =>
    let q := s.aArg
    match c.queues.get? q with
    | none => adminDone 1 s
    | some _ => adminDone 0 (queuePump ctx q (s.modQueue ctx q (fun x => { x with halted := false })))) s

/-- `QUEUE_RESUME` (R97). -/
def execQueueResume (s : State) : Host.Outcome State Fault Refusal := .next (queueResumeStep s)

/-- Discard the cached translations, placements and attributes of a range. -/
def discardRange (ctx a n : Nat) (s : State) : State :=
  let hit := fun (c pg : Nat) => c == ctx && overlaps (pg * 2 ^ 16) (2 ^ 16) a n
  { s with
    tlb := s.tlb.filter (fun e => !(e.2.ctx == ctx && overlaps e.2.va (2 ^ e.2.attr.size) a n))
    plc := s.plc.filter (fun e => !hit e.1.2.1 e.1.2.2)
    atc := s.atc.filter (fun e => !(e.1.2.1 == ctx && overlaps (e.1.2.2 * 2 ^ 16) (2 ^ e.2.size) a n)) }

/-- `XLATE_INVAL`. -/
def invalStep (s : State) : State := onCtx (fun ctx _ s => adminDone 0 (discardRange ctx s.aAddr s.aLen s)) s

/-- `XLATE_INVAL` (R87). -/
def execXlateInval (s : State) : Host.Outcome State Fault Refusal := .next (invalStep s)

/-! ### The KHL trains again (R33, R34) -/

/-- The KHL carries traffic again, or is lost: the writes that it held back go first, then the rings are looked at again. -/
def khlReturns (s : State) : State :=
  if s.regs.khl.training then s
  else adminPump ((sendPosted s).ctxs.foldl (fun s e => e.2.queues.foldl (fun s q => queuePump e.1 q.1 s) s) (sendPosted s))

/-- `LINK_RETRAIN_DONE`. -/
def linkDoneStep (s : State) : State := if s.ev.k == 0 then khlReturns (retrainStep s) else retrainStep s

/-- `LINK_RETRAIN_DONE` (R33). -/
def execLinkRetrainDone (s : State) : Host.Outcome State Fault Refusal := .next (linkDoneStep s)

end Sys2Proof.Machine
end

