-- ==== Sys2Proof/Machine/Convert.lean ====
section
/-! DEFINITION. Major 0x16: conversion and quantisation (R357-R360). -/

namespace Sys2Proof.Machine

/-- OTY of Table comp-8. -/
def oty (o : OpG) : Nat := bits o.flags 5 0

/-- A trap of field `f` when a selector is outside its limit (R357-R359). -/
def selTrap (bad : Bool) (f : Nat) (c : Ctx) : List Trap := if bad then [c.trapAll 3 f] else []

/-- The bits of an element selected in a 32-bit register: the low ones of a wide type. -/
def elemOf (ty sel v : Nat) : Nat :=
  if tyBits ty < 32 then v / 2 ^ (tyBits ty * sel) % 2 ^ tyBits ty else v % 2 ^ tyBits ty

/-- The element of A that a selector names. A short immediate is element 0; what another selector finds beside it is not stated: a fixed function of the word (R277, R344; log entry 19). -/
def pickElem (o : OpG) (ty sel v : Nat) : Nat :=
  if cls o.a == 7 && sel != 0 then Config.freeApprox (16 + sel) (64 * ty + idx o.a) % 2 ^ tyBits ty else elemOf ty sel v

/-- Whether ASEL or DSEL is a place of the type in a register (R357). -/
def cvtSelOk (ty sel : Nat) : Bool :=
  if tyBits ty == 8 then true else if tyBits ty == 16 then decide (sel < 2) else sel == 0

/-- Where a narrow result goes (R357). -/
def selFill (ty sel : Nat) : Fill :=
  if tyBits ty < 32 then .part (tyBits ty * sel) (tyBits ty) else fillOf ty

/-- `cvt` (R357). -/
def cvtDesc (h : Hdr) (o : OpG) : Desc where
  opds := [dstSwb o.d (regsOf o.ty), src 1 o.a (regsOf (oty o)) aluCls]
  unif := h.scope == 1
  chk := fun c _ => selTrap (!cvtSelOk o.ty (bits o.flags 7 6)) 0 c ++ selTrap (!cvtSelOk (oty o) (bits o.flags 9 8)) 1 c
  eff := laneEff o.d (selFill o.ty (bits o.flags 7 6)) (fun c s g l =>
    convert (oty o) o.ty o.rnd o.pol (pickElem o (oty o) (bits o.flags 9 8) (readSel c s g l o.a (regsOf (oty o)) (oty o)).v))

/-- Whether DSEL of `pack` is a place for two results (R358). -/
def packSelOk (ty sel : Nat) : Bool :=
  if tyBits ty == 16 then sel == 0 else if tyBits ty == 8 then decide (sel < 2) else true

/-- `pack` (R358). -/
def packDesc (h : Hdr) (o : OpG) : Desc where
  opds := [dstSwb o.d 1, src 1 o.a (regsOf (oty o)) aluCls, src 2 o.b (regsOf (oty o)) aluCls]
  unif := h.scope == 1
  chk := fun c _ => selTrap (!packSelOk o.ty (bits o.flags 7 6)) 0 c
  eff := laneEff o.d (if tyBits o.ty == 16 then .regs 1 else .part (2 * tyBits o.ty * bits o.flags 7 6) (2 * tyBits o.ty))
    (fun c s g l =>
      convert (oty o) o.ty o.rnd o.pol (srcV c s g l o.a (oty o))
        + 2 ^ tyBits o.ty * convert (oty o) o.ty o.rnd o.pol (srcV c s g l o.b (oty o)))

/-- `unpack` (R359). -/
def unpackDesc (h : Hdr) (o : OpG) : Desc where
  opds := [dstSwb o.d (regsOf (oty o)), src 1 o.a 1 aluCls]
  unif := h.scope == 1
  chk := fun c _ => selTrap (decide (32 ≤ tyBits o.ty * bits o.flags 8 6)) 1 c
  eff := laneEff o.d (fillOf (oty o)) (fun c s g l =>
    convert o.ty (oty o) o.rnd o.pol (pickElem o o.ty (bits o.flags 8 6) (readSel c s g l o.a 1 o.ty).v))

/-- The code of `qnt4` (R360). -/
def qnt4Code (rnd a b : Nat) : Nat :=
  let x := f32 a
  let y := f32 b
  if x.isNan || x.isInf || y.isNan || y.isInf || y.isZero || y.isNeg then 0 else quantCode rnd x y

/-- `qnt4` (R360). -/
def qnt4Desc (h : Hdr) (o : OpG) : Desc where
  opds := [dstSwb o.d 1, src 1 o.a 1 aluCls, src 2 o.b 1 aluCls]
  unif := h.scope == 1
  eff := laneEff o.d (.part (4 * bits o.flags 8 6) 4) (fun c s g l =>
    qnt4Code o.rnd (srcV c s g l o.a 0x28) (srcV c s g l o.b 0x28))

/-- `dq4` (R360). -/
def dq4Desc (h : Hdr) (o : OpG) : Desc where
  opds := [dstSwb o.d 1, src 1 o.a 1 aluCls, src 2 o.b 1 aluCls]
  unif := h.scope == 1
  eff := laneEff o.d (.regs 1) (fun c s g l =>
    roundTo 0x28 o.rnd ((valueOf 0x26 (pickElem o 0x26 (bits o.flags 8 6) (readSel c s g l o.a 1 0x26).v)).mul
      (f32 (srcV c s g l o.b 0x28))))

/-- `cvt` (R357). -/
def execCvt (h : Hdr) (o : OpG) (s : State) : Host.Outcome State Fault Refusal :=
  .next (issue (.cvt h o) 0 (cvtDesc h o) s)

/-- `pack` (R358). -/
def execPack (h : Hdr) (o : OpG) (s : State) : Host.Outcome State Fault Refusal :=
  .next (issue (.pack h o) 0 (packDesc h o) s)

/-- `unpack` (R359). -/
def execUnpack (h : Hdr) (o : OpG) (s : State) : Host.Outcome State Fault Refusal :=
  .next (issue (.unpack h o) 0 (unpackDesc h o) s)

/-- `qnt4` (R360). -/
def execQnt4 (h : Hdr) (o : OpG) (s : State) : Host.Outcome State Fault Refusal :=
  .next (issue (.qnt4 h o) 0 (qnt4Desc h o) s)

/-- `dq4` (R360). -/
def execDq4 (h : Hdr) (o : OpG) (s : State) : Host.Outcome State Fault Refusal :=
  .next (issue (.dq4 h o) 0 (dq4Desc h o) s)

end Sys2Proof.Machine
end

