-- ==== Sys2Proof/Machine/Evict.lean ====
section
/-! DEFINITION. The eviction engine (R121, R124 to R127, Tables xlate-8 and xlate-9). -/

namespace Sys2Proof.Machine

/-! ### The pages of a context -/

/-- The valid 64 KiB leaves below a table at a level, in ascending order: address, address of the PTE, and the PTE. -/
def leavesBelow (s : State) : Nat → Nat → Nat → List (Nat × Nat × Nat)
  | 0, base, va =>
    (upFrom 0 32).filterMap (fun i =>
      let a := base + 8 * i
      let e := s.num false a 8
      if bit e 63 && bit e 62 && !s.badLine false a 8 then some (va + i * 2 ^ 16, a, e) else none)
  | l + 1, base, va =>
    (upFrom 0 512).flatMap (fun i =>
      let a := base + 8 * i
      let e := s.num false a 8
      if bit e 63 && !bit e 62 && !s.badLine false a 8 && pteAddr e % (if l == 0 then 256 else 4096) == 0 && bits e 47 40 == 0 then
        leavesBelow s l (pteAddr e) (va + i * 2 ^ (21 + 9 * l))
      else [])

/-- A page that the engine of a bay may evict: a device page whose home, by the placement record, is the bay (R124). -/
def evictable (s : State) (b ctx va e : Nat) : Bool :=
  !bit e 57 && !bit e 51 && placedAt s ctx va == .bay b && pteAddr e % 2 ^ 16 == 0

/-- The evictable pages of a context in a bay. -/
def evictPages (s : State) (b ctx : Nat) : List (Nat × Nat × Nat) :=
  match s.ctxs.get? ctx with
  | none => []
  | some c => (leavesBelow s 4 c.ptroot 0).filter (fun x => evictable s b ctx x.1 x.2.2)

/-! ### Select, and the end of a request (R125, R126) -/

/-- The operands of a request, from its EVCTL pattern. -/
def evMode (v : Nat) : Nat := bits v 126 125
def evCtx (v : Nat) : Nat := bits v 124 113
def evTarget (v : Nat) : Nat := bits v 112 99
def evPage (v : Nat) : Nat := bits v 98 58

/-- The event of a request's mode. -/
def evEvent (v : Nat) : Instr := if evMode v == 0 then .evictReclaim else if evMode v == 1 then .evictDirectedBacking else .evictDirectedDiscard

/-- A request goes on in a later step, with the scan at a page. -/
def evMore (b v pos : Nat) (s : State) : State := s.push (evEvent v) ⟨b, 1 + pos, v, []⟩

/-- A request ends; after a reclaim the next scan starts where this one stands. -/
def evEnd (b v err pos : Nat) (s : State) : State :=
  s.modBay b (fun B => { B with busy := false, everr := if err == 0 then B.everr else err, hand := if evMode v == 0 then pos % 2 ^ 41 else B.hand })

/-- A page that has no frame yet takes one, as its first translation would (R119): R124 makes it eligible, and what its eviction saves and frees is the model's choice (log entry 48). None when there is no frame to take. -/
def evFrame (b : Nat) (x : Nat × Nat × Nat) (s : State) : State × Option Nat :=
  if bit x.2.2 54 then
    match allocFrame b x.2.1 x.2.2 16 s with
    | (s, some _) => (s, none)
    | (s, none) => (s, some (s.num false x.2.1 8))
  else (s, some x.2.2)

/-- Step 1: a frame that is still to be zeroed is zeroed first, since no access to it comes before that (R120); EVP is set, the epoch of the bay's ports advances, and the page leaves their translation caches. -/
def evSelect (b v pos : Nat) (x : Nat × Nat × Nat) (lose : State → State) (s : State) : State :=
  match evFrame b x s with
  | (s, none) => lose s
  | (s, some e) =>
    let s := if bit e 53 then zeroFrame (evCtx v) x.1 s else s
    let e := setBit e 53 false ||| 2 ^ 51
    let s := partRmw x.2.1 (fun _ => e) s
    let s : State := { s with tlb := s.tlb.filter (fun t => !(t.2.ctx == evCtx v && t.2.va == x.1)) }
    evMore b v pos (s.modBay b (fun B => { B with epoch := B.epoch + 1, evict := some ⟨evCtx v, x.1, 16, x.2.1, e, pteAddr e⟩ }))

/-- Reclaim: consider the next evictable page at or above the scan, wrapping once (R125). -/
def evScan (b v pos : Nat) (s : State) : State :=
  let B := s.bay b
  if evTarget v ≤ B.evicted then evEnd b v 0 pos s
  else
    let ps := evictPages s b (evCtx v)
    match ps.find? (fun x => decide (pos ≤ x.1 / 2 ^ 16) && (!B.evWrap || decide (x.1 / 2 ^ 16 < B.evFrom))) with
    | none => if B.evWrap then evEnd b v 0 B.evFrom s else evMore b v 0 (s.modBay b (fun B => { B with evWrap := true }))
    | some x =>
      let next := x.1 / 2 ^ 16 + 1
      if bit x.2.2 52 then evMore b v next s
      else if bit x.2.2 50 then evMore b v next (pteClear x.2.1 (2 ^ 50) s)
      else evSelect b v next x (evMore b v next) s

/-- Directed: the named page, ignoring A. -/
def evDirected (b v : Nat) (s : State) : State :=
  match walkLeaf s (evCtx v) (evPage v * 2 ^ 16) with
  | .error _ => evEnd b v 2 0 s
  | .ok (pte, e, size) =>
    if size != 16 || !evictable s b (evCtx v) (evPage v * 2 ^ 16) e || bit e 52 then evEnd b v 2 0 s
    else evSelect b v 0 (evPage v * 2 ^ 16, pte, e) (evEnd b v 2 0) s

/-! ### Drain, teardown, copy and commit (R126, R127) -/

/-- A message lies in the page. -/
def msgInPage (s : State) (x : Evict) (id : Nat) : Bool :=
  match s.msgs.get? id with
  | some m => m.ctx == x.ctx && m.line / 512 == x.va / 2 ^ 16
  | none => false

/-- Every access translated earlier has completed: no engine operation that has found the frame is unfinished, no answer and no tree message of the page is on its way, and no entry of it is being torn down. -/
def evDrained (s : State) (x : Evict) : Bool :=
  let inPage := fun (c l : Nat) => c == x.ctx && l / 512 == x.va / 2 ^ 16
  s.agenda.all (fun e => vnOf e.ev == 0 || isRequest e.ev || !msgInPage s x e.arg.k)
    && s.accs.all (fun a => !inPage a.2.ctx a.2.line || a.2.stage != Stage.sent || a.2.kind == AKind.red
        || s.agenda.any (fun e => isRequest e.ev && (match s.msgs.get? e.arg.k with
            | some m => m.acc == a.1
            | none => false)))
    && s.trees.all (fun t => !inPage t.1.2.1 t.1.2.2 || t.2.st == TSt.stable || t.2.st == TSt.building)
    && s.ops.all (fun o => (o.2.reads ++ o.2.writes).all (fun sp => sp.area != Area.dev || !overlaps sp.lo sp.len x.frame (2 ^ 16)))

/-- Every line of the page is torn down, and its slice copies are written to the frame; entries of requests that wait stay. -/
def evTear (x : Evict) (s : State) : State :=
  let inPage := fun (c l : Nat) => c == x.ctx && l / 512 == x.va / 2 ^ 16
  let lines := distinct ((s.l1.filter (fun e => inPage e.1.2.1 e.1.2.2)).map (fun e => e.1.2.2)
    ++ (s.slices.filter (fun e => inPage e.1.1 e.1.2)).map (fun e => e.1.2)
    ++ (s.trees.filter (fun e => inPage e.1.2.1 e.1.2.2)).map (fun e => e.1.2.2))
  lines.foldl (fun s l => dropSlice x.ctx l (tornLine x.ctx l s)) s

/-- EVP is cleared by an atomic AND, and the eviction is over. -/
def evRestore (b : Nat) (x : Evict) (s : State) : State := (pteClear x.pte (2 ^ 51) s).modBay b (fun B => { B with evict := none })

/-- The backing frame: one kept from an aborted eviction, else the next of ring 2. -/
def takeBacking (b : Nat) (s : State) : State × Option Nat :=
  match (s.bay b).spare with
  | some f => (s, some f)
  | none =>
    match takeFrame b 2 s with
    | (s, .ok (some f)) => (s.modBay b (fun B => { B with spare := some f }), some f)
    | (s, _) => (s, none)

/-- Copy the page in VA order; a poisoned half-burst stays poisoned. -/
def copyPage (x : Evict) (back : Nat) (s : State) : State :=
  let l := s.rd false x.frame (2 ^ 16)
  let sick := s.bad.filter (fun k => k % 2 == 0 && decide (x.frame ≤ k / 2 * 32) && decide (k / 2 * 32 < x.frame + 2 ^ 16))
  let s := s.ctlWr true back l
  sick.foldl (fun s k => s.poisonMem true (back + (k / 2 * 32 - x.frame)) 1) s

/-- Ring 3 has no room. -/
def ring3Full (s : State) (b : Nat) : Bool :=
  let r := (s.bay b).rings.getD 3 .zero
  (r.tail + 1) % r.len == r.head % r.len

/-- The freed frame goes to ring 3. -/
def freeFrame (b f : Nat) (s : State) : State :=
  let r := (s.bay b).rings.getD 3 .zero
  let s := partWr (r.base + 8 * (r.tail % r.len)) (leBytes 8 f) s
  s.modBay b (fun B => { B with rings := B.rings.set 3 { r with tail := (r.tail + 1) % r.len } })

/-- After an eviction: a reclaim scans on, a directed request ends. -/
def evNext (b v pos : Nat) (s : State) : State := if evMode v == 0 then evMore b v pos s else evEnd b v 0 0 s

/-- Step 5: the compare-and-write of the PTE. -/
def evCommit (b v pos : Nat) (x : Evict) (back : Option Nat) (s : State) : State :=
  if s.num false x.pte 8 != x.e then
    evNext b v pos ((evRestore b x s).modBay b (fun B => { B with aborts := (B.aborts + 1) % 64 }))
  else
    let e := setBit (setBit x.e 63 false) 51 false
    let e := match back with
      | some f => setBits (setBit e 48 true) 47 8 (f / 256)
      | none => setBit e 48 false
    let s := partRmw x.pte (fun _ => e) s
    let s : State := { s with maps := s.maps.filter (fun m => !(m.ctx == x.ctx && m.va == x.va)) }
    let s := (freeFrame b x.frame s).modBay b (fun B =>
      { B with evict := none, evicted := (B.evicted + 1) % 2 ^ 14, spare := if back.isSome then none else B.spare })
    evNext b v pos s

/-- The selected page's eviction, once the page has drained. -/
def evWork (b v pos : Nat) (x : Evict) (s : State) : State :=
  if !evDrained s x || (evMode v != 2 && s.regs.khl.state < 2) then evMore b v pos s
  else
    let s := evTear x s
    if ring3Full s b then evEnd b v 3 pos (evRestore b x s)
    else if evMode v == 2 then evCommit b v pos x none s
    else
      match takeBacking b s with
      | (s, none) => evEnd b v 1 pos (evRestore b x s)
      | (s, some f) => evCommit b v pos x (some f) (copyPage x f s)

/-- One step of a running request. -/
def evStep (b v pos : Nat) (s : State) : State :=
  match (s.bay b).evict with
  | some x => evWork b v pos x s
  | none => if evMode v == 0 then evScan b v pos s else evDirected b v s

/-! ### BAY.EVCTL (Table xlate-8) -/

/-- The lower half that a write of an upper half takes with it: the held one, else the register's own (R103). -/
def takeLow (off cur : Nat) (s : State) : State × Nat :=
  (s.modRegs (fun r => { r with lowHeld := r.lowHeld.del off }), s.regs.lowHeld.getD off (cur % 2 ^ 64))

/-- Offset of a bay's block in the register window. -/
def bayOff (b : Nat) : Nat := 0x100000 + 0x10000 * b

/-- A write of the upper half of EVCTL: GO starts a request unless one runs or MODE is 3. -/
def evctlWrite (b up : Nat) (s : State) : State :=
  let B := s.bay b
  if bit up 63 && B.busy then (takeLow (bayOff b + 0x80) B.evctl s).1
  else
    let (s, low) := takeLow (bayOff b + 0x80) B.evctl s
    let v := setBit ((up % 2 ^ 64 * 2 ^ 64 + low) / 2 ^ 58 * 2 ^ 58) 127 false
    let s := s.modBay b (fun B => { B with evctl := v })
    if bit up 63 && evMode v != 3 then
      evMore b v B.hand (s.modBay b (fun B => { B with busy := true, everr := 0, evicted := 0, evFrom := B.hand, evWrap := false }))
    else s

/-- A step of an eviction event of bay k: the host's write when the second number is 0, else the running request. -/
def evEventStep (ev : Instr) (s : State) : State :=
  if s.ev.a == 0 then byWindow ev (evctlWrite s.ev.k s.ev.v) s
  else if (s.bay s.ev.k).busy then evStep s.ev.k s.ev.v (s.ev.a - 1) s
  else s

/-- `EVICT_RECLAIM` (R125). -/
def execEvictReclaim (s : State) : Host.Outcome State Fault Refusal := .next (evEventStep .evictReclaim s)
/-- `EVICT_DIRECTED_BACKING` (R126). -/
def execEvictDirectedBacking (s : State) : Host.Outcome State Fault Refusal := .next (evEventStep .evictDirectedBacking s)
/-- `EVICT_DIRECTED_DISCARD` (R126). -/
def execEvictDirectedDiscard (s : State) : Host.Outcome State Fault Refusal := .next (evEventStep .evictDirectedDiscard s)

end Sys2Proof.Machine
end

