-- ==== Sys2Proof/Machine/FloatArith.lean ====
section
/-! DEFINITION. Major 0x12: floating-point arithmetic (R351, R352). -/

namespace Sys2Proof.Machine

/-- Floating-point `add`, rounded once (R351). -/
def execAddFloat (h : Hdr) (o : OpG) (s : State) : Host.Outcome State Fault Refusal :=
  .next (issue (.addFloat h o) 0 (lane2 h o o.ty o.ty (fun a b => floatOp .add o.ty o.rnd o.pol a b 0)) s)

/-- Floating-point `sub`, rounded once (R351). -/
def execSubFloat (h : Hdr) (o : OpG) (s : State) : Host.Outcome State Fault Refusal :=
  .next (issue (.subFloat h o) 0 (lane2 h o o.ty o.ty (fun a b => floatOp .sub o.ty o.rnd o.pol a b 0)) s)

/-- Floating-point `mul`, rounded once (R351). -/
def execMulFloat (h : Hdr) (o : OpG) (s : State) : Host.Outcome State Fault Refusal :=
  .next (issue (.mulFloat h o) 0 (lane2 h o o.ty o.ty (fun a b => floatOp .mul o.ty o.rnd o.pol a b 0)) s)

/-- Floating-point `div`, rounded once (R351). -/
def execDivFloat (h : Hdr) (o : OpG) (s : State) : Host.Outcome State Fault Refusal :=
  .next (issue (.divFloat h o) 0 (lane2 h o o.ty o.ty (fun a b => floatOp .div o.ty o.rnd o.pol a b 0)) s)

/-- `fma`, rounded once (R351). -/
def execFma (h : Hdr) (o : OpG) (s : State) : Host.Outcome State Fault Refusal :=
  .next (issue (.fma h o) 0 (lane3 h o o.ty o.ty (fun a b c => floatOp .fma o.ty o.rnd o.pol a b c)) s)

/-- `min`, avoiding NaN (R352). -/
def execMinFloat (h : Hdr) (o : OpG) (s : State) : Host.Outcome State Fault Refusal :=
  .next (issue (.minFloat h o) 0 (lane2 h o o.ty o.ty (floatMinMax false o.ty)) s)

/-- `max`, avoiding NaN (R352). -/
def execMaxFloat (h : Hdr) (o : OpG) (s : State) : Host.Outcome State Fault Refusal :=
  .next (issue (.maxFloat h o) 0 (lane2 h o o.ty o.ty (floatMinMax true o.ty)) s)

/-- `abs`: clears the sign bit (R352). -/
def execAbsFloat (h : Hdr) (o : OpG) (s : State) : Host.Outcome State Fault Refusal :=
  .next (issue (.absFloat h o) 0 (lane1 h o o.ty o.ty (floatSign false o.ty)) s)

/-- `neg`: flips the sign bit (R352). -/
def execNegFloat (h : Hdr) (o : OpG) (s : State) : Host.Outcome State Fault Refusal :=
  .next (issue (.negFloat h o) 0 (lane1 h o o.ty o.ty (floatSign true o.ty)) s)

/-- `sqrt`, rounded once (R351). -/
def execSqrt (h : Hdr) (o : OpG) (s : State) : Host.Outcome State Fault Refusal :=
  .next (issue (.sqrt h o) 0 (lane1 h o o.ty o.ty (fun a => floatOp .sqrt o.ty o.rnd o.pol a 0 0)) s)

/-- Immediate form of floating-point `add`, with POL 0 (R281, R351). -/
def execAddFloatImm (h : Hdr) (o : OpI) (s : State) : Host.Outcome State Fault Refusal :=
  .next (issue (.addFloatImm h o) 0 (lane2Imm h o (fun a b => floatOp .add (modTy o) (modRnd o) 0 a b 0)) s)

/-- Immediate form of floating-point `sub`, with POL 0 (R281, R351). -/
def execSubFloatImm (h : Hdr) (o : OpI) (s : State) : Host.Outcome State Fault Refusal :=
  .next (issue (.subFloatImm h o) 0 (lane2Imm h o (fun a b => floatOp .sub (modTy o) (modRnd o) 0 a b 0)) s)

/-- Immediate form of floating-point `mul`, with POL 0 (R281, R351). -/
def execMulFloatImm (h : Hdr) (o : OpI) (s : State) : Host.Outcome State Fault Refusal :=
  .next (issue (.mulFloatImm h o) 0 (lane2Imm h o (fun a b => floatOp .mul (modTy o) (modRnd o) 0 a b 0)) s)

/-- Immediate form of floating-point `div`, with POL 0 (R281, R351). -/
def execDivFloatImm (h : Hdr) (o : OpI) (s : State) : Host.Outcome State Fault Refusal :=
  .next (issue (.divFloatImm h o) 0 (lane2Imm h o (fun a b => floatOp .div (modTy o) (modRnd o) 0 a b 0)) s)

/-- Immediate form of floating-point `min` (R281, R352). -/
def execMinFloatImm (h : Hdr) (o : OpI) (s : State) : Host.Outcome State Fault Refusal :=
  .next (issue (.minFloatImm h o) 0 (lane2Imm h o (floatMinMax false (modTy o))) s)

/-- Immediate form of floating-point `max` (R281, R352). -/
def execMaxFloatImm (h : Hdr) (o : OpI) (s : State) : Host.Outcome State Fault Refusal :=
  .next (issue (.maxFloatImm h o) 0 (lane2Imm h o (floatMinMax true (modTy o))) s)

end Sys2Proof.Machine
end

