-- ==== Sys2Proof/Machine/GroupOps.lean ====
section
/-! DEFINITION. Major 0x17: group-wide operations (R361, R362). -/

namespace Sys2Proof.Machine

/-- The number of a participant: its thread at group scope, WIDTH·g + i above (R361). -/
def partNum (c : Ctx) (s : State) (m : Nat × Nat) : Nat :=
  if c.h.scope == 1 then m.2 else (s.grp c.team m.1).width * m.1 + m.2

/-- The participant with a number, if it takes part. -/
def atNum (c : Ctx) (s : State) (n : Int) : Option (Nat × Nat) :=
  c.lanes.find? (fun m => decide (((partNum c s m : Nat) : Int) = n))

/-- The values of the participants in ascending number (R361). -/
def partVals (c : Ctx) (s : State) (sel ty : Nat) : List Nat := c.lanes.map (fun m => srcV c s m.1 m.2 sel ty)

/-- `shfl` (Table comp-9). -/
def shflDesc (o : OpG) : Desc where
  opds := [dstSwb o.d (regsOf o.ty), src 1 o.a (regsOf o.ty) aluCls, src 2 o.b 1 [0, 2, 7]]
  eff := laneEff o.d (fillOf o.ty) (fun c s g l =>
    let n : Nat := partNum c s (g, l)
    let b := srcV c s g l o.b 0x2E
    let from_ : Int := match bits o.flags 4 3 with
      | 0 => sext 32 b
      | 1 => (n : Int) - sext 32 b
      | 2 => (n : Int) + sext 32 b
      | _ => (((n ^^^ b : Nat)) : Int)
    match atNum c s from_ with
    | some m => srcV c s m.1 m.2 o.a o.ty
    | none => srcV c s g l o.a o.ty)

/-- The vote of MODE 0 to 2 over the participants' predicates (Table comp-9). -/
def voteOf (mode : Nat) (ps : List Bool) : Bool :=
  match mode with
  | 0 => ps.all id
  | 1 => ps.any id
  | _ => ps.all id || !ps.any id

/-- The predicates of the participants. -/
def partPreds (c : Ctx) (s : State) (sel : Nat) : List Bool :=
  c.lanes.map (fun m => s.pred (c.team, m.1, m.2) (idx sel) c.nosb)

/-- `vote` (Table comp-9). -/
def voteDesc (o : OpG) : Desc where
  opds := [dst 0 o.d 1 (if bits o.flags 4 3 == 3 then [22] else [3]), src 1 o.a 1 [3]]
  part := bit o.flags 9
  eff := fun c s =>
    if bits o.flags 4 3 == 3 then
      let m := (lanesOf ((c.act).filter (fun l => s.pred (c.key l) (idx o.a) c.nosb))).toNat
      putS c c.group (idx o.d + 1) (m / 2 ^ 64) (putS c c.group (idx o.d) (m % 2 ^ 64) s)
    else predEff o.d (fun c s _ _ => voteOf (bits o.flags 4 3) (partPreds c s o.a)) c s
  out := fun c s _ _ => b2n (voteOf (bits o.flags 4 3) (partPreds c s o.a))
  take := fun c l v s => putP c c.group l (idx o.d) (v != 0) s

/-- OP of a fold. -/
def foldOp (o : OpG) : Nat := bits o.flags 2 0

/-- The fold of all participants (R362). -/
def foldAll (c : Ctx) (s : State) (o : OpG) : Nat :=
  foldVals (foldOp o) o.ty o.rnd o.pol (partVals c s o.a o.ty)

/-- A uniform result of a type in an s register: sign- or zero-extended (R363). -/
def sExtend (ty v : Nat) : Nat :=
  match intTy ty with
  | some (sg, n) => wrapN 64 (intVal sg n v)
  | none => v % 2 ^ 64

/-- A uniform result in an s register: of a 16-bit type it fills bits [15:0] and the rest stays (R346). -/
def sResult (ty old v : Nat) : Nat := if tyBits ty == 16 then setBits old 15 0 v else sExtend ty v

/-- Write a result that every participant shares: per lane, once for each member's s register, or once to x (R361). -/
def putShared (o : OpG) (v : Nat) (c : Ctx) (s : State) : State :=
  if c.lanes.isEmpty then s
  else if !isSwb o.d && cls o.d == 2 then
    c.mem.foldl (fun s m => putS c m.1 (idx o.d) (sResult o.ty ((s.grp c.team m.1).s (idx o.d)).v.toNat v) s) s
  else if !isSwb o.d && cls o.d == 1 then putX c (idx o.d) (regsOf o.ty) (fun e =>
      if tyBits o.ty == 16 then setBits (s.x c.team ((s.setOf c.team c.lead).getD 0) (idx o.d) e).v.toNat 15 0 v else v) s
  else c.lanes.foldl (fun s m => putLane c m.1 m.2 o.d (fillOf o.ty) v s) s

/-- A lane that was absent takes a stored value (R191). -/
def takeLane (o : OpG) (c : Ctx) (l v : Nat) (s : State) : State :=
  if isSwb o.d || cls o.d == 0 then putLane c c.group l o.d (fillOf o.ty) v s else s

/-- `rdx` (R362). -/
def rdxDesc (o : OpG) : Desc where
  opds := [⟨0, o.d, [0, 1, 2], regsOf o.ty, true, true⟩, src 1 o.a (regsOf o.ty) aluCls]
  part := bit o.flags 9
  eff := fun c s => putShared o (foldAll c s o) c s
  out := fun c s _ _ => foldAll c s o
  take := takeLane o

/-- The participants before a number, or up to and including it. -/
def prefixVals (c : Ctx) (s : State) (o : OpG) (incl : Bool) (n : Nat) : List Nat :=
  (c.lanes.filter (fun m => decide (partNum c s m < n) || (incl && partNum c s m == n))).map
    (fun m => srcV c s m.1 m.2 o.a o.ty)

/-- `scan` (R362). -/
def scanDesc (o : OpG) : Desc where
  opds := [dstSwb o.d (regsOf o.ty), src 1 o.a (regsOf o.ty) aluCls]
  part := bit o.flags 9
  eff := laneEff o.d (fillOf o.ty) (fun c s g l =>
    foldVals (foldOp o) o.ty o.rnd o.pol (prefixVals c s o (!bit o.flags 5) (partNum c s (g, l))))
  out := fun c s g l => foldVals (foldOp o) o.ty o.rnd o.pol (prefixVals c s o false (partNum c s (g, l)))
  take := takeLane o

/-- `bcast` (Table comp-9): participant B's value, or 0. -/
def bcastDesc (o : OpG) : Desc where
  opds := [⟨0, o.d, [0, 2], regsOf o.ty, true, true⟩, src 1 o.a (regsOf o.ty) aluCls, src 2 o.b 1 [2, 7]]
  eff := fun c s =>
    let v := match atNum c s (sext 32 (readU c s o.b 0x2E).v) with
      | some m => srcV c s m.1 m.2 o.a o.ty
      | none => 0
    putShared o v c s

/-- `match`: the threads of the lane's own group with an equal value (Table comp-9). -/
def matchDesc (o : OpG) : Desc where
  opds := [dst 0 o.d 4 [0], src 1 o.a (regsOf o.ty) aluCls]
  eff := laneEff o.d (.regs 4) (fun c s g l =>
    let v := srcV c s g l o.a o.ty
    (lanesOf ((c.lanes.filter (fun m => m.1 == g && srcV c s g m.2 o.a o.ty == v)).map Prod.snd)).toNat)

/-- `shfl` (R361, R362). -/
def execShfl (h : Hdr) (o : OpG) (s : State) : Host.Outcome State Fault Refusal :=
  .next (issue (.shfl h o) 0 (shflDesc o) s)

/-- `vote` (R361, R362). -/
def execVote (h : Hdr) (o : OpG) (s : State) : Host.Outcome State Fault Refusal :=
  .next (issue (.vote h o) 0 (voteDesc o) s)

/-- `rdx` (R361, R362). -/
def execRdxOp (h : Hdr) (o : OpG) (s : State) : Host.Outcome State Fault Refusal :=
  .next (issue (.rdxOp h o) 0 (rdxDesc o) s)

/-- `scan` (R361, R362). -/
def execScan (h : Hdr) (o : OpG) (s : State) : Host.Outcome State Fault Refusal :=
  .next (issue (.scan h o) 0 (scanDesc o) s)

/-- `bcast` (R361, R362). -/
def execBcast (h : Hdr) (o : OpG) (s : State) : Host.Outcome State Fault Refusal :=
  .next (issue (.bcast h o) 0 (bcastDesc o) s)

/-- `match` (R361, R362). -/
def execMatchV (h : Hdr) (o : OpG) (s : State) : Host.Outcome State Fault Refusal :=
  .next (issue (.matchV h o) 0 (matchDesc o) s)

end Sys2Proof.Machine
end

