-- ==== Sys2Proof/Machine/IntArith.lean ====
section
/-! DEFINITION. Major 0x10: integer and address arithmetic (R348, R349). -/

namespace Sys2Proof.Machine

/-- `add`: the exact integer result under the policy (R348). -/
def execAddInt (h : Hdr) (o : OpG) (s : State) : Host.Outcome State Fault Refusal :=
  .next (issue (.addInt h o) 0 (lane2 h o o.ty o.ty (fun a b => intOp .add o.ty o.pol a b 0)) s)

/-- `sub`: the exact integer result under the policy (R348). -/
def execSubInt (h : Hdr) (o : OpG) (s : State) : Host.Outcome State Fault Refusal :=
  .next (issue (.subInt h o) 0 (lane2 h o o.ty o.ty (fun a b => intOp .sub o.ty o.pol a b 0)) s)

/-- `mul`: the exact integer result under the policy (R348). -/
def execMulInt (h : Hdr) (o : OpG) (s : State) : Host.Outcome State Fault Refusal :=
  .next (issue (.mulInt h o) 0 (lane2 h o o.ty o.ty (fun a b => intOp .mul o.ty o.pol a b 0)) s)

/-- `div`: the exact integer result under the policy (R348). -/
def execDivInt (h : Hdr) (o : OpG) (s : State) : Host.Outcome State Fault Refusal :=
  .next (issue (.divInt h o) 0 (lane2 h o o.ty o.ty (fun a b => intOp .div o.ty o.pol a b 0)) s)

/-- `mulhi`: exact, without a policy (R348). -/
def execMulhi (h : Hdr) (o : OpG) (s : State) : Host.Outcome State Fault Refusal :=
  .next (issue (.mulhi h o) 0 (lane2 h o o.ty o.ty (fun a b => intOp .mulhi o.ty 0 a b 0)) s)

/-- `rem`: exact, without a policy (R348). -/
def execRem (h : Hdr) (o : OpG) (s : State) : Host.Outcome State Fault Refusal :=
  .next (issue (.rem h o) 0 (lane2 h o o.ty o.ty (fun a b => intOp .rem o.ty 0 a b 0)) s)

/-- `min`: exact, without a policy (R348). -/
def execMinInt (h : Hdr) (o : OpG) (s : State) : Host.Outcome State Fault Refusal :=
  .next (issue (.minInt h o) 0 (lane2 h o o.ty o.ty (fun a b => intOp .min o.ty 0 a b 0)) s)

/-- `max`: exact, without a policy (R348). -/
def execMaxInt (h : Hdr) (o : OpG) (s : State) : Host.Outcome State Fault Refusal :=
  .next (issue (.maxInt h o) 0 (lane2 h o o.ty o.ty (fun a b => intOp .max o.ty 0 a b 0)) s)

/-- `mad`: a·b + c under the policy (R348). -/
def execMad (h : Hdr) (o : OpG) (s : State) : Host.Outcome State Fault Refusal :=
  .next (issue (.mad h o) 0 (lane3 h o o.ty o.ty (fun a b c => intOp .mad o.ty o.pol a b c)) s)

/-- `abs` of a signed integer under the policy (R348). -/
def execAbsInt (h : Hdr) (o : OpG) (s : State) : Host.Outcome State Fault Refusal :=
  .next (issue (.absInt h o) 0 (lane1 h o o.ty o.ty (fun a => intOp .abs o.ty o.pol a 0 0)) s)

/-- `neg` of a signed integer under the policy (R348). -/
def execNegInt (h : Hdr) (o : OpG) (s : State) : Host.Outcome State Fault Refusal :=
  .next (issue (.negInt h o) 0 (lane1 h o o.ty o.ty (fun a => intOp .neg o.ty o.pol a 0 0)) s)

/-- `ext(B, T)` of R349, to 64 bits. -/
def extTo64 (ty b : Nat) : Nat :=
  match intTy ty with
  | some (sg, n) => wrapN 64 (intVal sg n b)
  | none => 0

/-- `lea`: a 64-bit base plus an extended, shifted index (R349). -/
def leaDesc (h : Hdr) (o : OpG) : Desc where
  opds := [dstSwb o.d 2, src 1 o.a 2 aluCls, src 2 o.b (regsOf o.ty) aluCls]
  unif := h.scope == 1
  eff := laneEff o.d (.regs 2) (fun c s g l =>
    (srcV c s g l o.a 0x31 + extTo64 o.ty (srcV c s g l o.b o.ty) * 2 ^ o.flags) % 2 ^ 64)

/-- The immediate form of `lea`, with SH 0 (R349). -/
def leaImmDesc (h : Hdr) (o : OpI) : Desc where
  opds := [dstSwb o.d 2, src 1 o.a 2 aluCls]
  unif := h.scope == 1
  eff := laneEff o.d (.regs 2) (fun c s g l =>
    (srcV c s g l o.a 0x31 + extTo64 (modTy o) (immVal (modTy o) 0 o.imm)) % 2 ^ 64)

/-- `lea` (R349). -/
def execLea (h : Hdr) (o : OpG) (s : State) : Host.Outcome State Fault Refusal :=
  .next (issue (.lea h o) 0 (leaDesc h o) s)

/-- Immediate form of `add`, with POL 0 (R281, R348). -/
def execAddIntImm (h : Hdr) (o : OpI) (s : State) : Host.Outcome State Fault Refusal :=
  .next (issue (.addIntImm h o) 0 (lane2Imm h o (fun a b => intOp .add (modTy o) 0 a b 0)) s)

/-- Immediate form of `sub`, with POL 0 (R281, R348). -/
def execSubIntImm (h : Hdr) (o : OpI) (s : State) : Host.Outcome State Fault Refusal :=
  .next (issue (.subIntImm h o) 0 (lane2Imm h o (fun a b => intOp .sub (modTy o) 0 a b 0)) s)

/-- Immediate form of `mul`, with POL 0 (R281, R348). -/
def execMulIntImm (h : Hdr) (o : OpI) (s : State) : Host.Outcome State Fault Refusal :=
  .next (issue (.mulIntImm h o) 0 (lane2Imm h o (fun a b => intOp .mul (modTy o) 0 a b 0)) s)

/-- Immediate form of `mulhi`, with POL 0 (R281, R348). -/
def execMulhiImm (h : Hdr) (o : OpI) (s : State) : Host.Outcome State Fault Refusal :=
  .next (issue (.mulhiImm h o) 0 (lane2Imm h o (fun a b => intOp .mulhi (modTy o) 0 a b 0)) s)

/-- Immediate form of `div`, with POL 0 (R281, R348). -/
def execDivIntImm (h : Hdr) (o : OpI) (s : State) : Host.Outcome State Fault Refusal :=
  .next (issue (.divIntImm h o) 0 (lane2Imm h o (fun a b => intOp .div (modTy o) 0 a b 0)) s)

/-- Immediate form of `rem`, with POL 0 (R281, R348). -/
def execRemImm (h : Hdr) (o : OpI) (s : State) : Host.Outcome State Fault Refusal :=
  .next (issue (.remImm h o) 0 (lane2Imm h o (fun a b => intOp .rem (modTy o) 0 a b 0)) s)

/-- Immediate form of `min`, with POL 0 (R281, R348). -/
def execMinIntImm (h : Hdr) (o : OpI) (s : State) : Host.Outcome State Fault Refusal :=
  .next (issue (.minIntImm h o) 0 (lane2Imm h o (fun a b => intOp .min (modTy o) 0 a b 0)) s)

/-- Immediate form of `max`, with POL 0 (R281, R348). -/
def execMaxIntImm (h : Hdr) (o : OpI) (s : State) : Host.Outcome State Fault Refusal :=
  .next (issue (.maxIntImm h o) 0 (lane2Imm h o (fun a b => intOp .max (modTy o) 0 a b 0)) s)

/-- Immediate form of `lea` (R281, R349). -/
def execLeaImm (h : Hdr) (o : OpI) (s : State) : Host.Outcome State Fault Refusal :=
  .next (issue (.leaImm h o) 0 (leaImmDesc h o) s)

end Sys2Proof.Machine
end

