-- ==== Sys2Proof/Machine/Logic.lean ====
section
/-! DEFINITION. Major 0x11: logic and bit operations (Table comp-3, R350). -/

namespace Sys2Proof.Machine

/-- Shift left by a count of 8 bits; 0 from the width on (Table comp-3). -/
def shlOp (ty a b : Nat) : Nat :=
  let n := tyBits ty
  let c := b % 256
  if n ≤ c then 0 else a * 2 ^ c % 2 ^ n

/-- Shift right by a count of 8 bits, filling with the sign for i types (Table comp-3). -/
def shrOp (ty a b : Nat) : Nat :=
  let n := tyBits ty
  let c := b % 256
  if tySigned ty then wrapN n (Int.fdiv (sext n a) ((2 ^ c : Nat) : Int)) else a / 2 ^ c

/-- Rotate left by a count modulo the width (Table comp-3). -/
def rotlOp (ty a b : Nat) : Nat :=
  let n := tyBits ty
  let c := b % 256 % n
  a * 2 ^ c % 2 ^ n + a / 2 ^ (n - c)

/-- `bfe` of R350: the field is read from the sign- or zero-extended source. -/
def bfeOp (ty a pos len : Nat) : Nat :=
  let n := tyBits ty
  let len := if len < n then len else n
  if len == 0 then 0
  else
    let f := (Int.fdiv (intVal (tySigned ty) n a) ((2 ^ pos : Nat) : Int)) % ((2 ^ len : Nat) : Int)
    if tySigned ty then wrapN n (sext len f.toNat) else f.toNat

/-- `bfi` of R350, bit by bit. -/
def bfiOp (ty a b pos len : Nat) : Nat :=
  let n := tyBits ty
  let len := if len < n then len else n
  (upFrom 0 len).foldl (fun r k => if pos + k < n then setBit r (pos + k) (bit b k) else r) a

/-- `lop3`: bit k is LUT[cat(A[k], B[k], C[k])] (Table comp-3). -/
def lop3Op (ty lut a b c : Nat) : Nat :=
  (upFrom 0 (tyBits ty)).foldl (fun r k => r + b2n (bit lut (4 * b2n (bit a k) + 2 * b2n (bit b k) + b2n (bit c k))) * 2 ^ k) 0

/-- `sel`: (A and C) or (B and not C) (Table comp-3). -/
def selOp (ty a b c : Nat) : Nat := (a &&& c) ||| (b &&& notN (tyBits ty) c)

/-- Bitwise `and` (Table comp-3). -/
def execAndL (h : Hdr) (o : OpG) (s : State) : Host.Outcome State Fault Refusal :=
  .next (issue (.andL h o) 0 (lane2 h o o.ty o.ty (fun a b => a &&& b)) s)

/-- Bitwise `or` (Table comp-3). -/
def execOrL (h : Hdr) (o : OpG) (s : State) : Host.Outcome State Fault Refusal :=
  .next (issue (.orL h o) 0 (lane2 h o o.ty o.ty (fun a b => a ||| b)) s)

/-- Bitwise `xor` (Table comp-3). -/
def execXorL (h : Hdr) (o : OpG) (s : State) : Host.Outcome State Fault Refusal :=
  .next (issue (.xorL h o) 0 (lane2 h o o.ty o.ty (fun a b => a ^^^ b)) s)

/-- Bitwise complement (Table comp-3). -/
def execNotL (h : Hdr) (o : OpG) (s : State) : Host.Outcome State Fault Refusal :=
  .next (issue (.notL h o) 0 (lane1 h o o.ty o.ty (fun a => notN (tyBits o.ty) a)) s)

/-- `shl` (Table comp-3). -/
def execShl (h : Hdr) (o : OpG) (s : State) : Host.Outcome State Fault Refusal :=
  .next (issue (.shl h o) 0 (lane2 h o o.ty o.ty (shlOp o.ty)) s)

/-- `shr` (Table comp-3). -/
def execShr (h : Hdr) (o : OpG) (s : State) : Host.Outcome State Fault Refusal :=
  .next (issue (.shr h o) 0 (lane2 h o o.ty o.ty (shrOp o.ty)) s)

/-- `rotl` (Table comp-3). -/
def execRotl (h : Hdr) (o : OpG) (s : State) : Host.Outcome State Fault Refusal :=
  .next (issue (.rotl h o) 0 (lane2 h o o.ty o.ty (rotlOp o.ty)) s)

/-- `popc`, written as n32 (Table comp-3). -/
def execPopc (h : Hdr) (o : OpG) (s : State) : Host.Outcome State Fault Refusal :=
  .next (issue (.popc h o) 0 (lane1 h o o.ty 0x2F (fun a => popcount (tyBits o.ty) a)) s)

/-- `clz`, written as n32 (Table comp-3). -/
def execClz (h : Hdr) (o : OpG) (s : State) : Host.Outcome State Fault Refusal :=
  .next (issue (.clz h o) 0 (lane1 h o o.ty 0x2F (fun a => clzN (tyBits o.ty) a)) s)

/-- `ctz`, written as n32 (Table comp-3). -/
def execCtz (h : Hdr) (o : OpG) (s : State) : Host.Outcome State Fault Refusal :=
  .next (issue (.ctz h o) 0 (lane1 h o o.ty 0x2F (fun a => ctzN (tyBits o.ty) a)) s)

/-- `brev` (Table comp-3). -/
def execBrev (h : Hdr) (o : OpG) (s : State) : Host.Outcome State Fault Refusal :=
  .next (issue (.brev h o) 0 (lane1 h o o.ty o.ty (fun a => brevN (tyBits o.ty) a)) s)

/-- `bfe` (R350). -/
def execBfe (h : Hdr) (o : OpG) (s : State) : Host.Outcome State Fault Refusal :=
  .next (issue (.bfe h o) 0 (lane2 h o o.ty o.ty (fun a b => bfeOp o.ty a (bits b 7 0) (bits b 15 8))) s)

/-- `bfi` (R350). -/
def execBfi (h : Hdr) (o : OpG) (s : State) : Host.Outcome State Fault Refusal :=
  .next (issue (.bfi h o) 0 (lane3 h o o.ty o.ty (fun a b c => bfiOp o.ty a b (bits c 7 0) (bits c 15 8))) s)

/-- `lop3` (Table comp-3). -/
def execLop3 (h : Hdr) (o : OpG) (s : State) : Host.Outcome State Fault Refusal :=
  .next (issue (.lop3 h o) 0 (lane3 h o o.ty o.ty (lop3Op o.ty (bits o.flags 7 0))) s)

/-- `sel` (Table comp-3). -/
def execSel (h : Hdr) (o : OpG) (s : State) : Host.Outcome State Fault Refusal :=
  .next (issue (.sel h o) 0 (lane3 h o o.ty o.ty (selOp o.ty)) s)

/-- Immediate form of `and` (R281). -/
def execAndImm (h : Hdr) (o : OpI) (s : State) : Host.Outcome State Fault Refusal :=
  .next (issue (.andImm h o) 0 (lane2Imm h o (fun a b => a &&& b)) s)

/-- Immediate form of `or` (R281). -/
def execOrImm (h : Hdr) (o : OpI) (s : State) : Host.Outcome State Fault Refusal :=
  .next (issue (.orImm h o) 0 (lane2Imm h o (fun a b => a ||| b)) s)

/-- Immediate form of `xor` (R281). -/
def execXorImm (h : Hdr) (o : OpI) (s : State) : Host.Outcome State Fault Refusal :=
  .next (issue (.xorImm h o) 0 (lane2Imm h o (fun a b => a ^^^ b)) s)

/-- Immediate form of `shl` (R281). -/
def execShlImm (h : Hdr) (o : OpI) (s : State) : Host.Outcome State Fault Refusal :=
  .next (issue (.shlImm h o) 0 (lane2Imm h o (shlOp (modTy o))) s)

/-- Immediate form of `shr` (R281). -/
def execShrImm (h : Hdr) (o : OpI) (s : State) : Host.Outcome State Fault Refusal :=
  .next (issue (.shrImm h o) 0 (lane2Imm h o (shrOp (modTy o))) s)

/-- Immediate form of `rotl` (R281). -/
def execRotlImm (h : Hdr) (o : OpI) (s : State) : Host.Outcome State Fault Refusal :=
  .next (issue (.rotlImm h o) 0 (lane2Imm h o (rotlOp (modTy o))) s)

/-- Immediate form of `bfe`, with pos and len in IMM32 (R350). -/
def execBfeImm (h : Hdr) (o : OpI) (s : State) : Host.Outcome State Fault Refusal :=
  .next (issue (.bfeImm h o) 0 (lane2Imm h o (fun a _ => bfeOp (modTy o) a (bits o.imm 7 0) (bits o.imm 15 8))) s)

end Sys2Proof.Machine
end

