-- ==== Sys2Proof/Machine/Sha3.lean ====
section
/-! DEFINITION. SHA3-256, which R27 and R29 name. The spec gives no more than the name: the function is that of FIPS 202, its tables computed from the rules that produce them. -/

namespace Sys2Proof.Machine

/-- A sponge's state: five planes of five 64-bit lanes. -/
abbrev Planes := List (List Nat)

/-- A lane turned left by `n` places. -/
def turnLane (n v : Nat) : Nat := let w := v * 2 ^ (n % 64); w % 2 ^ 64 + w / 2 ^ 64

/-- A plane whose lane x holds what lane x + `n` held. -/
def slide (n : Nat) (p : List Nat) : List Nat := p.drop n ++ p.take n

/-- Two planes, lane by lane. -/
def addPlane (p q : List Nat) : List Nat := List.zipWith (· ^^^ ·) p q

/-- Every lane takes the parities of the columns on both its sides. -/
def mixColumns (s : Planes) : Planes :=
  let par := s.foldl addPlane [0, 0, 0, 0, 0]
  let side := addPlane (slide 4 par) ((slide 1 par).map (turnLane 1))
  s.map (addPlane side)

/-- The lanes other than (0, 0) in the order of the walk from (1, 0) that sends (x, y) to (y, 2x + 3y). -/
def laneWalk : Nat → Nat × Nat → List (Nat × Nat)
  | 0, _ => []
  | n + 1, p => p :: laneWalk n (p.2, (2 * p.1 + 3 * p.2) % 5)

/-- Each lane of the walk moves to the next place, turned by a triangular number: the step `k` turns by 1 + 2 + … + k. -/
def moveLanes (s : Planes) : Planes :=
  ((laneWalk 24 (1, 0)).zipIdx 1).foldl (fun r e =>
    let v := turnLane (e.2 * (e.2 + 1) / 2) ((s.getD e.1.2 []).getD e.1.1 0)
    let row := (2 * e.1.1 + 3 * e.1.2) % 5
    r.set row ((r.getD row []).set e.1.2 v)) s

/-- Every lane takes the next one but one where the next is 0. -/
def bendPlane (p : List Nat) : List Nat :=
  addPlane p (List.zipWith (fun a b => b ^^^ (a &&& b)) (slide 1 p) (slide 2 p))

/-- The feedback register after one step: multiplication by x modulo x⁸ + x⁶ + x⁵ + x⁴ + 1. -/
def feedBack (r : Nat) : Nat := if r < 128 then 2 * r else (2 * r) ^^^ 0x171

/-- A round's constant and the register after it: seven bits, at places 0, 1, 3, 7, 15, 31 and 63. -/
def roundWord : Nat → Nat → Nat → Nat × Nat
  | 0, _, r => (0, r)
  | n + 1, place, r =>
    let e := roundWord n (2 * place + 1) (feedBack r)
    (r % 2 * 2 ^ place + e.1, e.2)

/-- Rounds of the permutation, with the register. -/
def stir : Nat → Nat → Planes → Planes
  | 0, _, s => s
  | n + 1, r, s =>
    let e := roundWord 7 0 r
    let s := (moveLanes (mixColumns s)).map bendPlane
    stir n e.2 (match s with
      | (v :: p) :: l => ((v ^^^ e.1) :: p) :: l
      | l => l)

/-- The bytes of the message and of its padding, as one number of whole 136-byte blocks; the padding sets bits 1 and 2 after the message and the last bit. -/
def padded (m : List Byte) : Nat :=
  leVal m + 6 * 2 ^ (8 * m.length) + 2 ^ (1088 * (m.length / 136 + 1) - 1)

/-- Blocks of 1,088 bits enter the state, low block first. -/
def soak : Nat → Nat → Planes → Planes
  | 0, _, s => s
  | n + 1, v, s =>
    let block := (upFrom 0 5).map (fun y => (upFrom 0 5).map (fun x =>
      if x + 5 * y < 17 then v / 2 ^ (64 * (x + 5 * y)) % 2 ^ 64 else 0))
    soak n (v / 2 ^ 1088) (stir 24 1 (List.zipWith addPlane s block))

/-- SHA3-256 of a byte string. -/
def sha3 (m : List Byte) : List Byte :=
  let s := soak (m.length / 136 + 1) (padded m) (List.replicate 5 (List.replicate 5 0))
  ((s.headD []).take 4).flatMap (leBytes 8)

end Sys2Proof.Machine
end

