-- ==== Sys2Proof/Machine/Window.lean ====
section
/-! DEFINITION. The register window: what each register shows, and what a write of it does (R5, R20, R23, R24, R30, R75, R77, R85, R100 to R103, R121, R128, R146, R187, R239). -/

namespace Sys2Proof.Machine

/-! ### Offsets (Tables host-16 and host-17) -/

/-- A register of the window. -/
inductive WReg where
  | bootStatus | pwrcap | adminBase | adminPtr | cmdStatus | combwin | schedCfg | simtCfg | matrixCfg
  | khl
  | kfl (p : Nat)
  | vfstat (b : Nat) | vflim (b : Nat) | errlog (b : Nat) | xlstat (b : Nat) | errcnt (b : Nat)
  | frbase (b i : Nat) | frptr (b i : Nat)
  | evctl (b : Nat) | evstat (b : Nat) | bushelCfg (b : Nat)
  | rferr (b k : Nat) | errent (b i : Nat) | remap (b j : Nat)
  | treeEntry (r set way : Nat)
  deriving DecidableEq, Repr

/-- The register at an offset of the package's own part. -/
def packageReg (o : Nat) : Option WReg :=
  match o with
  | 0x0 => some .bootStatus
  | 0x8 => some .pwrcap
  | 0x100 => some .adminBase
  | 0x108 => some .adminPtr
  | 0x110 => some .cmdStatus
  | 0x200 => some .combwin
  | 0x208 => some .schedCfg
  | 0x210 => some .simtCfg
  | 0x218 => some .matrixCfg
  | 0x300 => some .khl
  | _ => if 0x308 ≤ o && o < 0x328 && o % 8 == 0 then some (.kfl ((o - 0x308) / 8)) else none

/-- The register at an offset of a bay's block; the upper half of a 128-bit register has the register's own offset plus 8. -/
def bayReg (b r : Nat) : Option WReg :=
  if r == 0 then some (.vfstat b)
  else if r == 8 then some (.vflim b)
  else if r == 0x10 then some (.errlog b)
  else if r == 0x18 then some (.xlstat b)
  else if r == 0x20 then some (.errcnt b)
  else if 0x40 ≤ r && r < 0x60 && r % 8 == 0 then some (.frbase b ((r - 0x40) / 8))
  else if 0x60 ≤ r && r < 0x80 && r % 8 == 0 then some (.frptr b ((r - 0x60) / 8))
  else if r == 0x80 || r == 0x88 then some (.evctl b)
  else if r == 0x90 then some (.evstat b)
  else if r == 0xA0 || r == 0xA8 then some (.bushelCfg b)
  else if 0x100 ≤ r && r < 0x1C0 && r % 4 == 0 then some (.rferr b ((r - 0x100) / 4))
  else if 0x400 ≤ r && r < 0x800 && r % 8 == 0 then some (.errent b ((r - 0x400) / 16))
  else if 0x800 ≤ r && r < 0x9C0 && r % 4 == 0 then some (.remap b ((r - 0x800) / 4))
  else none

/-- The register at an offset of the window; none where the tables name none. -/
def regAt (o : Nat) : Option WReg :=
  if o < 0x100000 then packageReg o
  else if o < 0x180000 then bayReg ((o - 0x100000) / 0x10000) (o % 0x10000)
  else if 0x2000000 ≤ o && o < 0x2000000 + 0x10000 * 128 && o % 8 == 0 then
    some (.treeEntry ((o - 0x2000000) / 0x10000) (o % 0x10000 / 128) (o % 128 / 16))
  else none

/-- Bytes of an access to a register: 4, or 8 for a 64-bit register and for each half of a 128-bit one (R103). -/
def WReg.bytes : WReg → Nat
  | .adminBase | .schedCfg | .simtCfg | .matrixCfg | .frbase _ _ | .evctl _ | .evstat _ | .bushelCfg _ | .errent _ _ | .treeEntry _ _ _ => 8
  | _ => 4

/-- A register of 128 bits. -/
def WReg.wide : WReg → Bool
  | .evctl _ | .bushelCfg _ | .errent _ _ | .treeEntry _ _ _ => true
  | _ => false

/-! ### The base address registers (R100, Table host-15) -/

/-- The base address registers of the function: index, size, and whether the window is prefetchable; each is of 64 bits. -/
def barTable : List (Nat × Nat × Bool) := [(0, 2 ^ 26, false), (2, 2 ^ 24, false), (4, 2 ^ 40, true)]

/-- The window that a host address falls into: the BAR's index and the offset. -/
def hostAddr (s : State) (a : Nat) : Option (Nat × Nat) :=
  firstSome (barTable.map (fun b =>
    let base := s.regs.bars.getD b.1 0
    if base ≤ a && a < base + b.2.1 then some (b.1, a - base) else none))

/-! ### What a register shows -/

/-- A link's state register (Table links-3). -/
def LinkStat.word (l : LinkStat) : Nat := l.state * 2 ^ 30 + l.width * 2 ^ 24 + l.retrain % 256 * 2 ^ 16 + l.replay % 256 * 2 ^ 8 + l.feccorr % 256

/-- A tree-cache entry (Table fabric-5). -/
def treeWord (k : TreeKey) (t : Tree) : Nat :=
  let st := match t.st with
    | .stable => 0
    | .building => 1
    | .tearing => 2
    | .pruning => 3
  let child := t.links.foldl (fun a p => if p < 4 then a + 2 ^ (3 - p) else a) 0
  let loc := t.links.foldl (fun a p => if 4 ≤ p then a + 2 ^ (p - 4) else a) 0
  let keep := match t.keep with
    | none => 0
    | some p => p + 1
  2 ^ 127 + st * 2 ^ 125 + k.2.1 * 2 ^ 113 + k.2.2 * 2 ^ 63 + child * 2 ^ 59 + loc * 2 ^ 48 + b2n t.root * 2 ^ 47
    + b2n (t.root && t.owned) * 2 ^ 46 + t.nearport * 2 ^ 43 + t.near * 2 ^ 38 + t.pend * 2 ^ 34 + keep * 2 ^ 30 + b2n t.host * 2 ^ 29

/-- The value of a register; reserved bits read 0 (R5). -/
def regGet (s : State) : WReg → Nat
  | .bootStatus => s.regs.stage * 2 ^ 28 + s.regs.booterr * 2 ^ 20 + s.regs.svn * 2 ^ 4
  | .pwrcap => s.regs.pwrcap
  | .adminBase => s.regs.adminbase + s.regs.adminsize
  | .adminPtr => s.regs.adminhead * 2 ^ 16 + s.regs.admintail
  | .cmdStatus => b2n s.regs.run * 2 ^ 31 + s.ctxs.length * 2 ^ 16 + s.regs.badbell
  | .combwin => s.regs.combwin
  | .schedCfg => s.regs.sched
  | .simtCfg => s.rjto * 2 ^ 40 + s.lathi * 2 ^ 24 + s.latlo * 2 ^ 8
  | .matrixCfg => s.regs.matrix
  | .khl => s.regs.khl.word
  | .kfl p => (s.regs.kfl.getD p .zero).word
  | .vfstat b =>
    let B := s.bay b
    B.temp * 2 ^ 24 + B.droopcnt * 2 ^ 16 + B.therm * 2 ^ 14 + B.freq * 2 ^ 7
  | .vflim b => (s.bay b).fmax * 2 ^ 7 + (s.bay b).fmin
  | .errlog b =>
    let B := s.bay b
    B.corr * 2 ^ 24 + B.uncorr * 2 ^ 16 + B.errhead * 2 ^ 10 + b2n B.ovf * 2 ^ 9
  | .xlstat b =>
    let B := s.bay b
    B.suppress * 2 ^ 16 + B.noframe * 2 ^ 8 + B.synonym
  | .errcnt b => (s.bay b).matErr
  | .frbase b i =>
    let r := (s.bay b).rings.getD i .zero
    r.base + r.size
  | .frptr b i =>
    let r := (s.bay b).rings.getD i .zero
    r.head * 2 ^ 16 + r.tail
  | .evctl b => (s.bay b).evctl + b2n (s.bay b).busy * 2 ^ 127
  | .evstat b =>
    let B := s.bay b
    B.hand * 2 ^ 23 + b2n B.busy * 2 ^ 22 + B.everr * 2 ^ 20 + B.aborts * 2 ^ 14 + B.evicted
  | .bushelCfg b => (s.bay b).bushel
  | .rferr b k => (s.bay b).rferr.getD k 0
  | .errent b i => (s.bay b).errent.getD i 0
  | .remap b j => (s.bay b).remap.getD j 0
  | .treeEntry r set way =>
    match (treeSetOf s r 0 set).find? (fun e => e.2.way == way) with
    | some e => treeWord e.1 e.2
    | none => 0

/-- What an aligned read of a width shows: 0 at an offset without a register, or at another width or alignment (R101, R103). An upper half comes from the snapshot when there is one. -/
def windowRead (s : State) (o n : Nat) : Nat :=
  match regAt o with
  | none => 0
  | some r =>
    if n != r.bytes then 0
    else if !r.wide then regGet s r
    else if o % 16 == 0 then regGet s r % 2 ^ 64
    else (s.regs.snap.getD (o - 8) (regGet s r)) / 2 ^ 64

/-- A read of the register window that reaches it: the value; the upper half of a 128-bit register uses its snapshot up (R103). -/
def windowTake (o n : Nat) (s : State) : State × Nat :=
  let v := windowRead s o n
  match regAt o with
  | none => (s, v)
  | some r =>
    if n != r.bytes || !r.wide then (s, v)
    else if o % 16 == 0 then (s.modRegs (fun R => { R with snap := R.snap.set o (regGet s r) }), v)
    else (s.modRegs (fun R => { R with snap := R.snap.del (o - 8) }), v)

/-- The answer to a read of the register window: to the host over the KHL, or by the sideband. -/
def windowAnswer (l : List Byte) (s : State) : State :=
  (s.modRegs (fun R => { R with readback := l })).tell (if s.ev.data.isEmpty then .barData l else .sideData l)

/-- A read of the register window: offset and width. -/
def windowReadStep (s : State) : State :=
  let r := windowTake s.ev.k s.ev.v s
  windowAnswer (leBytes s.ev.v r.2) r.1

/-- A host read of the doorbell window: CMD.DOORBELL is write-only and reads as 0 (R4, R88). -/
def doorbellReadStep (s : State) : State :=
  let l := List.replicate s.ev.v (0 : Byte)
  (s.modRegs (fun R => { R with readback := l })).tell (.barData l)

/-- `BAR_MEMORY_READ`: a host read through a window: the device-memory window, or with second number 1 the register window, which the sideband reads too, and with 2 the doorbell window. -/
def barReadStep (s : State) : State :=
  match s.ev.a with
  | 1 => byWindow .barMemoryRead windowReadStep s
  | 2 => overKhl .barMemoryRead doorbellReadStep s
  | _ => barRead s

/-- `BAR_MEMORY_READ` (R100). -/
def execBarMemoryRead (s : State) : Host.Outcome State Fault Refusal := .next (barReadStep s)

/-- The lower half of a 128-bit register at an offset is answered, and a snapshot of the whole is kept. -/
def lowRead (s : State) : State :=
  let o := s.ev.k
  match regAt o with
  | none => s
  | some r =>
    if !r.wide || o % 16 != 0 then s
    else
      let x := regGet s r
      windowAnswer (leBytes 8 x) (s.modRegs (fun R => { R with snap := R.snap.set o x }))

/-- `REG128_LOW_READ` (R103). -/
def lowReadStep (s : State) : State := byWindow .reg128LowRead lowRead s

/-- `REG128_LOW_READ` (R103). -/
def execReg128LowRead (s : State) : Host.Outcome State Fault Refusal := .next (lowReadStep s)

/-- The written lower half of a 128-bit register is held until the upper half is written. -/
def lowWrite (s : State) : State :=
  let o := s.ev.k
  match regAt o with
  | none => s
  | some r => if !r.wide || o % 16 != 0 then s else s.modRegs (fun R => { R with lowHeld := R.lowHeld.set o (s.ev.v % 2 ^ 64) })

/-- `REG128_LOW_WRITE` (R103). -/
def lowWriteStep (s : State) : State := byWindow .reg128LowWrite lowWrite s

/-- `REG128_LOW_WRITE` (R103). -/
def execReg128LowWrite (s : State) : Host.Outcome State Fault Refusal := .next (lowWriteStep s)

/-! ### What a write does -/

/-- BAY.VFLIM[b]: each code is clamped; an empty range is ignored (R24). -/
def putVflim (b v : Nat) (s : State) : State :=
  let lo := satN (bits v 6 0) 80 120
  let hi := satN (bits v 13 7) 80 120
  if hi < lo then s else s.modBay b (fun B => { B with fmin := lo, fmax := hi })

/-- PKG.PWRCAP (Table package-7). -/
def putPwrcap (v : Nat) (s : State) : State := s.modRegs (fun r => { r with pwrcap := satN (bits v 11 0) 1500 3000 })

/-- MESH.COMBWIN (Table fabric-8). -/
def putCombwin (v : Nat) (s : State) : State :=
  let w := bits v 15 0
  s.modRegs (fun r => { r with combwin := bits v 31 31 * 2 ^ 31 + (if w == 0 then 1 else w) })

/-- SCHED.CFG (Table sched-3). -/
def putSched (v : Nat) (s : State) : State :=
  s.modRegs (fun r => { r with sched := satN (bits v 63 48) 16 4096 * 2 ^ 48 + bits v 47 32 * 2 ^ 32 + bits v 2 0 })

/-- SIMT.CFG (Table core-2). -/
def putSimt (v : Nat) (s : State) : State :=
  { s with rjto := satN (bits v 63 40) 1024 16777215, lathi := bits v 39 24, latlo := bits v 23 8 }

/-- MATRIX.CFG (Table matrix-4). -/
def putMatrix (v : Nat) (s : State) : State := s.modRegs (fun r => { r with matrix := satN (bits v 63 40) 1024 16777215 * 2 ^ 40 })

/-- CMD.ADMINBASE (Table host-3). -/
def putAdminBase (v : Nat) (s : State) : State :=
  s.modRegs (fun r => { r with adminbase := bits v 63 12 * 2 ^ 12, adminsize := min (bits v 3 0) 12 })

/-- BAY.ERRLOG[b]: OVF is cleared by writing 1 (Table fabric-9). -/
def putErrlog (b v : Nat) (s : State) : State := s.modBay b (fun B => { B with ovf := B.ovf && !bit v 9 })

/-- BAY.ERRENT: VALID is cleared by writing 1 in the upper half (Table fabric-10). -/
def putErrent (b i up : Nat) (s : State) : State :=
  let (s, _) := takeLow (bayOff b + 0x400 + 16 * i) 0 s
  if bit up 63 then s.modBay b (fun B => { B with errent := B.errent.set i (setBit (B.errent.getD i 0) 127 false) }) else s

/-- BAY.FRBASE (Table xlate-5). -/
def putFrbase (b i v : Nat) (s : State) : State :=
  s.modBay b (fun B => { B with rings := B.rings.set i { B.rings.getD i .zero with base := bits v 63 12 * 2 ^ 12, size := min (bits v 3 0) 12 } })

/-- TAIL of rings 0 to 2, HEAD of ring 3 (Table xlate-6). -/
def putFrptr (b i v : Nat) (s : State) : State :=
  s.modBay b (fun B =>
    let r := B.rings.getD i .zero
    { B with rings := B.rings.set i (if i == 3 then { r with head := bits v 31 16 } else { r with tail := bits v 15 0 }) })

/-- HAND of BAY.EVSTAT (Table xlate-9). -/
def putEvstat (b v : Nat) (s : State) : State := s.modBay b (fun B => { B with hand := bits v 63 23 })

/-- The upper half of BUSHEL.CFG (R103, R128). -/
def putBushel (b up : Nat) (s : State) : State :=
  let (s, low) := takeLow (bayOff b + 0xA0) (s.bay b).bushel s
  bushelWrite b (up % 2 ^ 64 * 2 ^ 64 + low) s

/-- A write of a register or of the upper half of a wide one; read-only registers keep their value. -/
def regPut (r : WReg) (v : Nat) (s : State) : State :=
  match r with
  | .pwrcap => putPwrcap v s
  | .adminBase => putAdminBase v s
  | .adminPtr => putAdminTail v s
  | .combwin => putCombwin v s
  | .schedCfg => putSched v s
  | .simtCfg => putSimt v s
  | .matrixCfg => putMatrix v s
  | .vflim b => putVflim b v s
  | .errlog b => putErrlog b v s
  | .frbase b i => putFrbase b i v s
  | .frptr b i => putFrptr b i v s
  | .evctl b => evctlWrite b v s
  | .evstat b => putEvstat b v s
  | .bushelCfg b => putBushel b v s
  | .errent b i => putErrent b i v s
  | .bootStatus | .cmdStatus | .khl | .kfl _ | .vfstat _ | .xlstat _ | .errcnt _ | .rferr _ _ | .remap _ _ | .treeEntry _ _ _ => s

/-- A write of a width (the event's second number) and a value at an offset. -/
def regWrite (s : State) : State :=
  let o := s.ev.k
  match regAt o with
  | none => s
  | some r =>
    if s.ev.a != r.bytes then s
    else if r.wide && o % 16 == 0 then s.modRegs (fun R => { R with lowHeld := R.lowHeld.set o (s.ev.v % 2 ^ 64) })
    else regPut r (s.ev.v % 2 ^ (8 * r.bytes)) s

/-- `REGISTER_WRITE` (R101, R103). -/
def regWriteStep (s : State) : State := byWindow .registerWrite regWrite s

/-- `REGISTER_WRITE` (R101). -/
def execRegisterWrite (s : State) : Host.Outcome State Fault Refusal := .next (regWriteStep s)

/-! ### The writes that have rows of their own -/

/-- `VFLIM_WRITE` (R24). -/
def execVflimWrite (s : State) : Host.Outcome State Fault Refusal := .next (byWindow .vflimWrite (putVflim s.ev.k s.ev.v) s)
/-- `PWRCAP_WRITE` (R20). -/
def execPwrcapWrite (s : State) : Host.Outcome State Fault Refusal := .next (byWindow .pwrcapWrite (putPwrcap s.ev.v) s)
/-- `COMBWIN_WRITE` (R75). -/
def execCombwinWrite (s : State) : Host.Outcome State Fault Refusal := .next (byWindow .combwinWrite (putCombwin s.ev.v) s)
/-- `SCHED_CFG_WRITE` (R146). -/
def execSchedCfgWrite (s : State) : Host.Outcome State Fault Refusal := .next (byWindow .schedCfgWrite (putSched s.ev.v) s)
/-- `SIMT_CFG_WRITE` (R187). -/
def execSimtCfgWrite (s : State) : Host.Outcome State Fault Refusal := .next (byWindow .simtCfgWrite (putSimt s.ev.v) s)
/-- `MATRIX_CFG_WRITE` (R239). -/
def execMatrixCfgWrite (s : State) : Host.Outcome State Fault Refusal := .next (byWindow .matrixCfgWrite (putMatrix s.ev.v) s)
/-- `ERRLOG_OVF_CLEAR` (R77). -/
def execErrlogOvfClear (s : State) : Host.Outcome State Fault Refusal := .next (byWindow .errlogOvfClear (putErrlog s.ev.k s.ev.v) s)
/-- `ERRENT_VALID_CLEAR` (R77): bay, entry and the written upper half. -/
def execErrentValidClear (s : State) : Host.Outcome State Fault Refusal := .next (byWindow .errentValidClear (putErrent s.ev.k s.ev.a s.ev.v) s)
/-- `FRAME_RING_TAIL_WRITE` (R121): bay, ring 0 to 2 and the written value; an address of no such ring is not written. -/
def frameTailStep (s : State) : State := byWindow .frameRingTailWrite (fun s => if s.ev.a < 3 then putFrptr s.ev.k s.ev.a s.ev.v s else s) s
/-- `FRAME_RING_TAIL_WRITE` (R121). -/
def execFrameRingTailWrite (s : State) : Host.Outcome State Fault Refusal := .next (frameTailStep s)
/-- `FRAME_RING3_HEAD_WRITE` (R121). -/
def execFrameRing3HeadWrite (s : State) : Host.Outcome State Fault Refusal := .next (byWindow .frameRing3HeadWrite (putFrptr s.ev.k 3 s.ev.v) s)
/-- `BUSHEL_ENABLE` (R128): bay and the written upper half. -/
def execBushelEnable (s : State) : Host.Outcome State Fault Refusal := .next (byWindow .bushelEnable (putBushel s.ev.k s.ev.v) s)
/-- `BUSHEL_DISABLE` (R128). -/
def execBushelDisable (s : State) : Host.Outcome State Fault Refusal := .next (byWindow .bushelDisable (putBushel s.ev.k s.ev.v) s)

end Sys2Proof.Machine
end

