-- ==== Sys2Proof/Machine/Package.lean ====
section
/-! DEFINITION. Bring-up and reset, identity and attestation, the remap tables, and the power and thermal loops (R16 to R31). -/

namespace Sys2Proof.Machine

/-! ### Images (R27) -/

/-- The check of an image, given as key, signature, security version and body: 0, or the error code of Table package-10. -/
def imageCheck (s : State) (im : List Byte × List Byte × Nat × List Byte) : Nat :=
  if sha3 im.1 != s.ident.rootDigest then 2
  else if !Config.mlDsaVerify im.1 (sha3 im.2.2.2) im.2.1 then 3
  else if im.2.2.1 < s.regs.svn then 4
  else 0

/-- A flash without the image: its empty key, signature and body. -/
def noImage : List Byte × List Byte × Nat × List Byte := ([], [], 0, [])

/-- The KHA-2 flash image of a stage: 0 stage 1, 1 bay firmware. -/
def imageOf (s : State) (i : Nat) : List Byte × List Byte × Nat × List Byte := s.ident.images.getD i noImage

/-- Change the identity. -/
def State.modIdent (s : State) (f : Identity → Identity) : State := { s with ident := f s.ident }

/-- Extend a measurement register (R29). -/
def extend (i : Nat) (d : List Byte) (s : State) : State :=
  s.modIdent (fun x => { x with meas := (upFrom 0 8).map (fun k =>
    let old := x.meas.getD k (List.replicate 32 0)
    if k == i then sha3 (old ++ d) else old) })

/-! ### Remap tables (R30) -/

/-- Defects of a bay in the fused map: bay · 256 + physical array, or bay · 256 + 128 + physical core. -/
def defective (s : State) (b u : Nat) : Bool := s.ident.defects.contains (256 * b + u)

/-- Give each logical unit its own physical unit, or, where that is defective, the next good spare; none when that is not allowed or no spare is left. -/
def assign (bad : Nat → Bool) (may : Nat → Bool) : List Nat → List Nat → Option (List (Nat × Bool))
  | [], _ => some []
  | k :: ks, spares =>
    if !bad k then (assign bad may ks spares).map (fun l => (k, false) :: l)
    else
      match spares with
      | [] => none
      | p :: ps => if may k then (assign bad may ks ps).map (fun l => (p, true) :: l) else none

/-- An interior array: x and y both 1 to 6. -/
def interior (k : Nat) : Bool := decide (1 ≤ k % 8) && decide (k % 8 ≤ 6) && decide (1 ≤ k / 8) && decide (k / 8 ≤ 6)

/-- The words of a bay's table (Table package-11). -/
def remapWords (s : State) (b : Nat) : Option (List Nat) :=
  let arr := assign (defective s b) interior (upFrom 0 64) ([64, 65].filter (fun p => !defective s b p))
  let core := assign (fun k => defective s b (128 + k)) (fun _ => true) (upFrom 0 48) ([48, 49].filter (fun p => !defective s b (128 + p)))
  match arr, core with
  | some a, some c => some ((a ++ c).map (fun x => b2n x.2 * 2 ^ 31 + x.1))
  | _, _ => none

/-- The tables of every bay, or none when one is not feasible. -/
def remapAll (s : State) : Option (List (List Nat)) :=
  (upFrom 0 8).foldr (fun b acc =>
    match remapWords s b, acc with
    | some w, some l => some (w :: l)
    | _, _ => none) (some [])

/-- Write and lock the tables. -/
def putRemap (ts : List (List Nat)) (s : State) : State :=
  ((upFrom 0 8).zip ts).foldl (fun s x => s.modBay x.1 (fun B => { B with remap := (upFrom 0 112).zip x.2 })) s

/-! ### Bring-up (R26) -/

/-- The sequence stops: the last completed step and the code. -/
def bootStop (stage err : Nat) (s : State) : State := s.modRegs (fun r => { r with stage := stage, booterr := err })

/-- The boot ROM runs stage 1: register 0 is extended, the identity key derived, the seed locked. -/
def stageOne (s : State) : State :=
  (extend 0 (sha3 (imageOf s 0).2.2.2) s).modIdent (fun x => { x with seedLocked := true, publicKey := Config.mlDsaPublic x.seed })

/-- Every stack is written with zeros and valid check symbols. -/
def clearStacks (s : State) : State := { s with mem := [], bad := s.bad.filter (fun k => k % 2 == 1) }

/-- The next step of a bay's voltage and frequency loop is due at a network time, unless one is due already: the loop runs by itself (R17). -/
def vfDue (b at_ : Nat) (s : State) : State :=
  if s.agenda.any (fun d => d.ev == .vfLoopStep && d.arg.k == b) then s
  else { s with agenda := s.agenda ++ [⟨.vfLoopStep, .ofK b, at_, 0⟩] }

/-- The bays are released at 640 MHz: their arithmetic clocks start, and their loops. -/
def releaseBays (s : State) : State :=
  (upFrom 0 8).foldl (fun s b => vfDue b (s.ncyc + 2000) s) { s with
    bays := (upFrom 0 8).map (fun b => (b, { s.bay b with freq := 80 }))
    acyc := (upFrom 0 8).map (fun b => (b, 0)) }

/-- The KHL has trained, at full or degraded width, with the settings and limits of its lanes that the event's data bring (R35), and the command processor runs. -/
def linkUp (degraded : Bool) (s : State) : State :=
  s.modRegs (fun r => { r with
    stage := 8, booterr := 0, run := true
    khl := { r.khl with state := if degraded then 3 else 2, width := if degraded then 8 else 16, eq := eqOf s.ev.data } })

/-- `BRING_UP`: the ordered steps. When step 8 fails, the bays are in reset again, as if step 7 had not released them (R26). The event's number is the error code of a check of the hardware that fails (1 rails, 5 crossings and mesh, 6 stacks, 8 KHL), or 0; its second number is 1 when the KHL trains at degraded width. -/
def bringUpStep (s : State) : State :=
  let hw := s.ev.k
  if s.regs.stage != 0 || s.regs.booterr != 0 then s
  else if hw == 1 then bootStop 0 1 s
  else
    let e0 := imageCheck s (imageOf s 0)
    if e0 != 0 then bootStop 3 e0 s
    else
      let s := stageOne s
      if hw == 5 then bootStop 4 5 s
      else if hw == 6 then bootStop 5 6 s
      else
        let s := clearStacks s
        match remapAll s with
        | none => bootStop 6 7 s
        | some ts =>
          let s := putRemap ts s
          let e1 := imageCheck s (imageOf s 1)
          if e1 != 0 then bootStop 6 e1 s
          else
            let s := extend 1 (sha3 (imageOf s 1).2.2.2) s
            if hw == 8 then bootStop 7 8 s else linkUp (s.ev.a == 1) (releaseBays s)

/-- `BRING_UP` (R26). -/
def execBringUp (s : State) : Host.Outcome State Fault Refusal := .next (bringUpStep s)

/-- `PART_RESET`: the state on the part is lost; fuses, the flash of the KHA-2, host memory, and what is to happen next at the KHA-2 stay. -/
def resetStep (s : State) : State :=
  { State.reset with
    tick := s.tick
    hmem := s.hmem
    notices := s.notices
    agenda := s.agenda.filter (fun e => e.ev == .bringUp)
    regs := { Regs.zero with svn := s.regs.svn }
    ident := { s.ident with seedLocked := false, publicKey := [], meas := Identity.zero.meas, reply := [] } }

/-- `PART_RESET` (R26). -/
def execPartReset (s : State) : Host.Outcome State Fault Refusal := .next (resetStep s)

/-! ### Identity and attestation (R27 to R29) -/

/-- Stage-1 firmware runs. -/
def stageRuns (s : State) : Bool := s.ident.seedLocked

/-- A command is signed: its data is an ML-DSA-44 public key of 1,312 bytes whose digest is the fused root-key digest, then a signature of its subject under that key (the manual gives the command no format, log entry 56). -/
def signedBy (s : State) (subject : List Byte) : Bool :=
  sha3 (s.ev.data.take 1312) == s.ident.rootDigest && Config.mlDsaVerify (s.ev.data.take 1312) (sha3 subject) (s.ev.data.drop 1312)

/-- `SECURITY_VERSION_RAISE`: a signed command that stage-1 firmware accepts carries the version; it never falls. -/
def svnStep (s : State) : State :=
  if stageRuns s && s.ev.v < 2 ^ 16 && signedBy s (leBytes 2 s.ev.v) then s.modRegs (fun r => { r with svn := max r.svn s.ev.v }) else s

/-- `SECURITY_VERSION_RAISE` (R27). -/
def execSecurityVersionRaise (s : State) : Host.Outcome State Fault Refusal := .next (svnStep s)

/-- `MEASUREMENT_EXTEND`: signed firmware extends register 2 to 7 by a digest. -/
def measureStep (s : State) : State := if stageRuns s && 2 ≤ s.ev.k && s.ev.k < 8 then extend s.ev.k s.ev.data s else s

/-- `MEASUREMENT_EXTEND` (R29). -/
def execMeasurementExtend (s : State) : Host.Outcome State Fault Refusal := .next (measureStep s)

/-- The answer to a quote: nonce, registers and security version, then the signature over their digest. -/
def quoteOf (s : State) (nonce : List Byte) : List Byte :=
  let m := nonce ++ s.ident.meas.flatMap (fun l => l) ++ leBytes 2 s.regs.svn
  m ++ Config.mlDsaSign s.ident.seed (sha3 m)

/-- `QUOTE_REQUEST` with its nonce of 32 bytes. -/
def quoteStep (s : State) : State :=
  if stageRuns s && s.ev.data.length == 32 then s.modIdent (fun x => { x with reply := quoteOf s s.ev.data }) else s

/-- `QUOTE_REQUEST` (R29). -/
def execQuoteRequest (s : State) : Host.Outcome State Fault Refusal := .next (quoteStep s)

/-- `CERTIFICATE_REQUEST`: the public key and the certificate. The manual gives the answer no layout; the model answers the key and then the certificate (log entry 56). -/
def certStep (s : State) : State :=
  if stageRuns s then s.modIdent (fun x => { x with reply := x.publicKey ++ x.certificate }) else s

/-- `CERTIFICATE_REQUEST` (R28). -/
def execCertificateRequest (s : State) : Host.Outcome State Fault Refusal := .next (certStep s)

/-! ### Clocks, droops, temperature and power (R16 to R24) -/

/-- The frequency after one step of a bay's loop. Hold, throttling, the power limit and FMAX lower it; below FMIN it rises; else the loop is free within its limits. -/
def nextFreq (B : Bay) (choice : Nat) : Nat :=
  let down := max 80 (B.freq - 1)
  if 1 ≤ B.therm || B.overCap || B.fmax < B.freq then down
  else if B.freq < B.fmin then B.freq + 1
  else
    match choice % 3 with
    | 0 => B.freq
    | 1 => if B.freq < B.fmax then B.freq + 1 else B.freq
    | _ => if B.fmin < B.freq then B.freq - 1 else B.freq

/-- `VF_LOOP_STEP` of bay k: one step, at most once per 1 µs; the next is due 1 µs later. -/
def vfStep (s : State) : State :=
  let b := s.ev.k
  if s.ncyc < (s.bay b).vfAt then vfDue b (s.bay b).vfAt s
  else vfDue b (s.ncyc + 2000) (s.modBay b (fun B => { B with freq := nextFreq B (Config.freeChoice s.tick b), vfAt := s.ncyc + 2000 }))

/-- `VF_LOOP_STEP` (R17). -/
def execVfLoopStep (s : State) : Host.Outcome State Fault Refusal := .next (vfStep s)

/-- `DROOP_EVENT` of bay k at the detector of its core a: the clock is stretched and DROOPCNT rises; the core keeps the time for its score (R145). -/
def droopStep (s : State) : State :=
  let core := 48 * s.ev.k + s.ev.a
  let s := s.modBay s.ev.k (fun B => { B with stretched := true, droopcnt := (B.droopcnt + 1) % 256 })
  { s with coreDroop := s.coreDroop.set core ((s.coreDroop.getD core []).filter (fun t => decide (s.ncyc < t + 128000)) ++ [s.ncyc]) }

/-- `DROOP_EVENT` (R18). -/
def execDroopEvent (s : State) : Host.Outcome State Fault Refusal := .next (droopStep s)

/-- `DROOP_RECOVERY` of bay k. -/
def recoverStep (s : State) : State := s.modBay s.ev.k (fun B => { B with stretched := false })

/-- `DROOP_RECOVERY` (R18). -/
def execDroopRecovery (s : State) : Host.Outcome State Fault Refusal := .next (recoverStep s)

/-- The thermal state at a temperature (Table package-3); one is left only 3 °C below the threshold that entered it. Trip stays until the reset: the power goes within 10 ms, and the manual does not say whether a fall of the temperature before that leaves it (log entry 56). -/
def thermOf (old t : Nat) : Nat :=
  if old == 3 || 110 ≤ t then 3
  else if 100 ≤ t || (old == 2 && 97 < t) then 2
  else if 95 ≤ t || (1 ≤ old && 92 < t) then 1
  else 0

/-- A bay enters Trip: it reports the trip, and the KHA-2 removes power. -/
def tripBay (b : Nat) (s : State) : State := (s.tell (.trip b)).push .partReset (.ofK 0)

/-- `THERMAL_STATE_CHANGE` of bay k: the hottest sensor (the value) and, as bytes, the sensors of its cores. -/
def thermStep (s : State) : State :=
  let b := s.ev.k
  let old := (s.bay b).therm
  let s' := s.modBay b (fun B => { B with temp := s.ev.v % 256, therm := thermOf B.therm s.ev.v })
  let s' := { s' with coreTemp := ((upFrom (48 * b) 48).zip s.ev.data).foldl (fun t x => t.set x.1 x.2.toNat) s'.coreTemp }
  if (s'.bay b).therm == 3 && old != 3 then tripBay b s' else s'

/-- `THERMAL_STATE_CHANGE` (R19). -/
def execThermalStateChange (s : State) : Host.Outcome State Fault Refusal := .next (thermStep s)

/-- `THERMAL_TRIP` of bay k: the trip is reported, and the KHA-2 removes power. The event brings no reading of its own, so TEMP shows at least the threshold of 110 °C (log entry 56). -/
def tripStep (s : State) : State := tripBay s.ev.k (s.modBay s.ev.k (fun B => { B with temp := max B.temp 110, therm := 3 }))

/-- `THERMAL_TRIP` (R19). -/
def execThermalTrip (s : State) : Host.Outcome State Fault Refusal := .next (tripStep s)

/-- `POWER_LIMIT_EXCEEDED`: the measured module power (the value) against PKG.PWRCAP: above it the loops lower the frequency until the power falls below it; an overrun with every bay at 640 MHz is reported. -/
def powerStep (s : State) : State :=
  let over_ := decide (s.regs.pwrcap < s.ev.v)
  let below := decide (s.ev.v < s.regs.pwrcap)
  let s' := (upFrom 0 8).foldl (fun s b => s.modBay b (fun B => { B with overCap := over_ || (B.overCap && !below) })) s
  if over_ && (upFrom 0 8).all (fun b => (s.bay b).freq == 80) then s'.tell .overrun else s'

/-- `POWER_LIMIT_EXCEEDED` (R20). -/
def execPowerLimitExceeded (s : State) : Host.Outcome State Fault Refusal := .next (powerStep s)

end Sys2Proof.Machine
end

