-- ==== Sys2Proof/Machine/Packed.lean ====
section
/-! DEFINITION. Major 0x14: packed 16-bit operations (R354). -/

namespace Sys2Proof.Machine

/-- A packed source: a short immediate supplies its value to both elements (R354). -/
def packedSrc (c : Ctx) (s : State) (g l sel ty : Nat) : Nat :=
  if cls sel == 7 then shortImm ty (idx sel) * (2 ^ 16 + 1) else (readSel c s g l sel 1 0x2F).v % 2 ^ 32

/-- Each half by itself (R354). -/
def halves (f : Nat → Nat → Nat → Nat) (a b c : Nat) : Nat :=
  f (bits a 15 0) (bits b 15 0) (bits c 15 0) + 2 ^ 16 * f (bits a 31 16) (bits b 31 16) (bits c 31 16)

/-- One element of a packed operation: the scalar rules with n = 16 (R354). -/
def packedElem (iop : IOp) (fop : FOp) (ty rnd pol a b c : Nat) : Nat :=
  if (intTy ty).isSome then intOp iop ty pol a b c else floatOp fop ty rnd pol a b c

/-- One element of a packed `min` or `max` (R354). -/
def packedMinMax (isMax : Bool) (ty a b : Nat) : Nat :=
  if (intTy ty).isSome then intOp (if isMax then .max else .min) ty 0 a b 0 else floatMinMax isMax ty a b

/-- A packed operation; C is used by `fma2` only (R354). -/
def packed (h : Hdr) (o : OpG) (useC : Bool) (f : Nat → Nat → Nat → Nat) : Desc where
  opds := [dstSwb o.d 1, src 1 o.a 1 aluCls, src 2 o.b 1 aluCls] ++ (if useC then [src 3 o.c 1 aluCls] else [])
  unif := h.scope == 1
  eff := laneEff o.d (.regs 1) (fun c s g l =>
    halves f (packedSrc c s g l o.a o.ty) (packedSrc c s g l o.b o.ty) (if useC then packedSrc c s g l o.c o.ty else 0))

/-- Packed `add` (R354). -/
def execAdd2 (h : Hdr) (o : OpG) (s : State) : Host.Outcome State Fault Refusal :=
  .next (issue (.add2 h o) 0 (packed h o false (packedElem .add .add o.ty o.rnd o.pol)) s)

/-- Packed `sub` (R354). -/
def execSub2 (h : Hdr) (o : OpG) (s : State) : Host.Outcome State Fault Refusal :=
  .next (issue (.sub2 h o) 0 (packed h o false (packedElem .sub .sub o.ty o.rnd o.pol)) s)

/-- Packed `mul` (R354). -/
def execMul2 (h : Hdr) (o : OpG) (s : State) : Host.Outcome State Fault Refusal :=
  .next (issue (.mul2 h o) 0 (packed h o false (packedElem .mul .mul o.ty o.rnd o.pol)) s)

/-- Packed `fma`, or `mad` for integers (R354). -/
def execFma2 (h : Hdr) (o : OpG) (s : State) : Host.Outcome State Fault Refusal :=
  .next (issue (.fma2 h o) 0 (packed h o true (packedElem .mad .fma o.ty o.rnd o.pol)) s)

/-- Packed `min` (R354). -/
def execMin2 (h : Hdr) (o : OpG) (s : State) : Host.Outcome State Fault Refusal :=
  .next (issue (.min2 h o) 0 (packed h o false (fun a b _ => packedMinMax false o.ty a b)) s)

/-- Packed `max` (R354). -/
def execMax2 (h : Hdr) (o : OpG) (s : State) : Host.Outcome State Fault Refusal :=
  .next (issue (.max2 h o) 0 (packed h o false (fun a b _ => packedMinMax true o.ty a b)) s)

end Sys2Proof.Machine
end

