-- ==== Sys2Proof/Machine/Predicates.lean ====
section
/-! DEFINITION. Major 0x15: comparisons and predicates (R355, R356). -/

namespace Sys2Proof.Machine

/-- `setp`: a comparison, combined with pC (R355). -/
def setpDesc (h : Hdr) (o : OpG) : Desc where
  opds := [dst 0 o.d 1 [3], src 1 o.a (regsOf o.ty) aluCls, src 2 o.b (regsOf o.ty) aluCls]
    ++ (if bits o.flags 5 4 != 0 then [src 3 o.c 1 [3]] else [])
  unif := h.scope == 1
  eff := predEff o.d (fun c s g l =>
    combine (bits o.flags 5 4) (cmpTy (bits o.flags 3 0) o.ty (srcV c s g l o.a o.ty) (srcV c s g l o.b o.ty))
      (s.pred (c.team, g, l) (idx o.c) c.nosb))

/-- `selp`: A when pC holds, else B (Table comp-6). -/
def selpDesc (h : Hdr) (o : OpG) : Desc where
  opds := [dstSwb o.d (regsOf o.ty), src 1 o.a (regsOf o.ty) aluCls, src 2 o.b (regsOf o.ty) aluCls, src 3 o.c 1 [3]]
  unif := h.scope == 1
  eff := laneEff o.d (fillOf o.ty) (fun c s g l =>
    if s.pred (c.team, g, l) (idx o.c) c.nosb then srcV c s g l o.a o.ty else srcV c s g l o.b o.ty)

/-- Predicate logic; NB inverts B (Table comp-6). -/
def plogic (h : Hdr) (o : OpG) (useB : Bool) (f : Bool → Bool → Bool) : Desc where
  opds := [dst 0 o.d 1 [3], src 1 o.a 1 [3]] ++ (if useB then [src 2 o.b 1 [3]] else [])
  unif := h.scope == 1
  eff := predEff o.d (fun c s g l =>
    f (s.pred (c.team, g, l) (idx o.a) c.nosb) (s.pred (c.team, g, l) (idx o.b) c.nosb != bit o.flags 0))

/-- `pmov`: a predicate from bit 0 of a value, or a predicate as n32; another pair of classes is illegal_operand with INFO 0 (R356). -/
def pmovDesc (h : Hdr) (o : OpG) : Desc where
  opds :=
    if !isSwb o.d && cls o.d == 3 && cls o.a != 3 then
      [⟨0, o.d, if [0, 2, 7].contains (cls o.a) then [3] else [], 1, true, false⟩, src 1 o.a 1 [0, 2, 7]]
    else [⟨0, o.d, if cls o.a == 3 then [0] else [], 1, true, cls o.a == 3⟩, src 1 o.a 1 [3]]
  unif := h.scope == 1
  eff := fun c s =>
    if cls o.a == 3 then laneEff o.d (.regs 1) (fun c s g l => b2n (s.pred (c.team, g, l) (idx o.a) c.nosb)) c s
    else predEff o.d (fun c s g l => bit (srcV c s g l o.a 0x2F) 0) c s

/-- `setp` (R355). -/
def execSetp (h : Hdr) (o : OpG) (s : State) : Host.Outcome State Fault Refusal :=
  .next (issue (.setp h o) 0 (setpDesc h o) s)

/-- `selp` (Table comp-6). -/
def execSelp (h : Hdr) (o : OpG) (s : State) : Host.Outcome State Fault Refusal :=
  .next (issue (.selp h o) 0 (selpDesc h o) s)

/-- Predicate and (Table comp-6). -/
def execPand (h : Hdr) (o : OpG) (s : State) : Host.Outcome State Fault Refusal :=
  .next (issue (.pand h o) 0 (plogic h o true (fun a b => a && b)) s)

/-- Predicate or (Table comp-6). -/
def execPor (h : Hdr) (o : OpG) (s : State) : Host.Outcome State Fault Refusal :=
  .next (issue (.por h o) 0 (plogic h o true (fun a b => a || b)) s)

/-- Predicate exclusive or (Table comp-6). -/
def execPxor (h : Hdr) (o : OpG) (s : State) : Host.Outcome State Fault Refusal :=
  .next (issue (.pxor h o) 0 (plogic h o true (fun a b => a != b)) s)

/-- Predicate not (Table comp-6). -/
def execPnot (h : Hdr) (o : OpG) (s : State) : Host.Outcome State Fault Refusal :=
  .next (issue (.pnot h o) 0 (plogic h o false (fun a _ => !a)) s)

/-- `pmov` (R356). -/
def execPmov (h : Hdr) (o : OpG) (s : State) : Host.Outcome State Fault Refusal :=
  .next (issue (.pmov h o) 0 (pmovDesc h o) s)

end Sys2Proof.Machine
end

