-- ==== Sys2Proof/Machine/Scalar.lean ====
section
/-! DEFINITION. Majors 0x18 and 0x19: the uniform scalar pipe and moves (R363, R364). -/

namespace Sys2Proof.Machine

/-- Write one s register of the executing group, when some lane is active (R363). -/
def sEff (dsel : Nat) (f : Ctx → State → Nat) (c : Ctx) (s : State) : State :=
  if c.act.isEmpty then s else putS c c.group (idx dsel) (f c s) s

/-- A uniform source as a pattern of its type. -/
def uVal (c : Ctx) (s : State) (sel ty : Nat) : Nat := (readU c s sel ty).v % 2 ^ tyBits ty

/-- The source classes of the scalar pipe (R363). -/
def sCls : List Nat := [2, 60, 7]

/-- A scalar operation of layout G (R363). -/
def scal2 (o : OpG) (f : Nat → Nat → Nat) : Desc where
  opds := [dst 0 o.d 1 [2], src 1 o.a 1 sCls, src 2 o.b 1 sCls]
  unif := true
  eff := sEff o.d (fun c s => sExtend o.ty (f (uVal c s o.a o.ty) (uVal c s o.b o.ty)))

/-- A scalar operation in its immediate form (R281, R363). -/
def scal2Imm (o : OpI) (f : Nat → Nat → Nat) : Desc where
  opds := [dst 0 o.d 1 [2], src 1 o.a 1 sCls]
  unif := true
  eff := sEff o.d (fun c s => sExtend (modTy o) (f (uVal c s o.a (modTy o)) (immVal (modTy o) 0 o.imm)))

/-- `smov` (Table comp-11). -/
def smovDesc (o : OpG) : Desc where
  opds := [dst 0 o.d 1 [2], src 2 o.b 1 sCls]
  unif := true
  eff := sEff o.d (fun c s => sExtend o.ty (uVal c s o.b o.ty))

/-- The immediate form of `smov`. -/
def smovImmDesc (o : OpI) : Desc where
  opds := [dst 0 o.d 1 [2]]
  unif := true
  eff := sEff o.d (fun _ _ => sExtend (modTy o) (immVal (modTy o) 0 o.imm))

/-- `ssetp` (Table comp-11). -/
def ssetpDesc (o : OpG) : Desc where
  opds := [dst 0 o.d 1 [3], src 1 o.a 1 sCls, src 2 o.b 1 sCls]
  unif := true
  eff := predEff o.d (fun c s _ _ => cmpTy (bits o.flags 3 0) o.ty (uVal c s o.a o.ty) (uVal c s o.b o.ty))

/-- Uniform `add` (Table comp-11). -/
def execSadd (h : Hdr) (o : OpG) (s : State) : Host.Outcome State Fault Refusal :=
  .next (issue (.sadd h o) 0 (scal2 o (fun a b => intOp .add o.ty o.pol a b 0)) s)

/-- Uniform `sub` (Table comp-11). -/
def execSsub (h : Hdr) (o : OpG) (s : State) : Host.Outcome State Fault Refusal :=
  .next (issue (.ssub h o) 0 (scal2 o (fun a b => intOp .sub o.ty o.pol a b 0)) s)

/-- Uniform `mul` (Table comp-11). -/
def execSmul (h : Hdr) (o : OpG) (s : State) : Host.Outcome State Fault Refusal :=
  .next (issue (.smul h o) 0 (scal2 o (fun a b => intOp .mul o.ty o.pol a b 0)) s)

/-- Uniform `min` (Table comp-11). -/
def execSmin (h : Hdr) (o : OpG) (s : State) : Host.Outcome State Fault Refusal :=
  .next (issue (.smin h o) 0 (scal2 o (fun a b => intOp .min o.ty 0 a b 0)) s)

/-- Uniform `max` (Table comp-11). -/
def execSmax (h : Hdr) (o : OpG) (s : State) : Host.Outcome State Fault Refusal :=
  .next (issue (.smax h o) 0 (scal2 o (fun a b => intOp .max o.ty 0 a b 0)) s)

/-- Uniform `and` (Table comp-11). -/
def execSand (h : Hdr) (o : OpG) (s : State) : Host.Outcome State Fault Refusal :=
  .next (issue (.sand h o) 0 (scal2 o (fun a b => a &&& b)) s)

/-- Uniform `or` (Table comp-11). -/
def execSor (h : Hdr) (o : OpG) (s : State) : Host.Outcome State Fault Refusal :=
  .next (issue (.sor h o) 0 (scal2 o (fun a b => a ||| b)) s)

/-- Uniform `xor` (Table comp-11). -/
def execSxor (h : Hdr) (o : OpG) (s : State) : Host.Outcome State Fault Refusal :=
  .next (issue (.sxor h o) 0 (scal2 o (fun a b => a ^^^ b)) s)

/-- Uniform left shift (Table comp-11). -/
def execSshl (h : Hdr) (o : OpG) (s : State) : Host.Outcome State Fault Refusal :=
  .next (issue (.sshl h o) 0 (scal2 o (shlOp o.ty)) s)

/-- Uniform right shift (Table comp-11). -/
def execSshr (h : Hdr) (o : OpG) (s : State) : Host.Outcome State Fault Refusal :=
  .next (issue (.sshr h o) 0 (scal2 o (shrOp o.ty)) s)

/-- Uniform move (Table comp-11). -/
def execSmov (h : Hdr) (o : OpG) (s : State) : Host.Outcome State Fault Refusal :=
  .next (issue (.smov h o) 0 (smovDesc o) s)

/-- Uniform compare (Table comp-11). -/
def execSsetp (h : Hdr) (o : OpG) (s : State) : Host.Outcome State Fault Refusal :=
  .next (issue (.ssetp h o) 0 (ssetpDesc o) s)

/-- Immediate form of uniform `add` (R281). -/
def execSaddImm (h : Hdr) (o : OpI) (s : State) : Host.Outcome State Fault Refusal :=
  .next (issue (.saddImm h o) 0 (scal2Imm o (fun a b => intOp .add (modTy o) 0 a b 0)) s)

/-- Immediate form of uniform `sub` (R281). -/
def execSsubImm (h : Hdr) (o : OpI) (s : State) : Host.Outcome State Fault Refusal :=
  .next (issue (.ssubImm h o) 0 (scal2Imm o (fun a b => intOp .sub (modTy o) 0 a b 0)) s)

/-- Immediate form of uniform `mul` (R281). -/
def execSmulImm (h : Hdr) (o : OpI) (s : State) : Host.Outcome State Fault Refusal :=
  .next (issue (.smulImm h o) 0 (scal2Imm o (fun a b => intOp .mul (modTy o) 0 a b 0)) s)

/-- Immediate form of uniform `min` (R281). -/
def execSminImm (h : Hdr) (o : OpI) (s : State) : Host.Outcome State Fault Refusal :=
  .next (issue (.sminImm h o) 0 (scal2Imm o (fun a b => intOp .min (modTy o) 0 a b 0)) s)

/-- Immediate form of uniform `max` (R281). -/
def execSmaxImm (h : Hdr) (o : OpI) (s : State) : Host.Outcome State Fault Refusal :=
  .next (issue (.smaxImm h o) 0 (scal2Imm o (fun a b => intOp .max (modTy o) 0 a b 0)) s)

/-- Immediate form of uniform `and` (R281). -/
def execSandImm (h : Hdr) (o : OpI) (s : State) : Host.Outcome State Fault Refusal :=
  .next (issue (.sandImm h o) 0 (scal2Imm o (fun a b => a &&& b)) s)

/-- Immediate form of uniform `or` (R281). -/
def execSorImm (h : Hdr) (o : OpI) (s : State) : Host.Outcome State Fault Refusal :=
  .next (issue (.sorImm h o) 0 (scal2Imm o (fun a b => a ||| b)) s)

/-- Immediate form of uniform `xor` (R281). -/
def execSxorImm (h : Hdr) (o : OpI) (s : State) : Host.Outcome State Fault Refusal :=
  .next (issue (.sxorImm h o) 0 (scal2Imm o (fun a b => a ^^^ b)) s)

/-- Immediate form of uniform left shift (R281). -/
def execSshlImm (h : Hdr) (o : OpI) (s : State) : Host.Outcome State Fault Refusal :=
  .next (issue (.sshlImm h o) 0 (scal2Imm o (shlOp (modTy o))) s)

/-- Immediate form of uniform right shift (R281). -/
def execSshrImm (h : Hdr) (o : OpI) (s : State) : Host.Outcome State Fault Refusal :=
  .next (issue (.sshrImm h o) 0 (scal2Imm o (shrOp (modTy o))) s)

/-- Immediate form of uniform move (R281). -/
def execSmovImm (h : Hdr) (o : OpI) (s : State) : Host.Outcome State Fault Refusal :=
  .next (issue (.smovImm h o) 0 (smovImmDesc o) s)

/-! ### Major 0x19 -/

/-- `mov` (R364). -/
def movDesc (h : Hdr) (o : OpG) : Desc where
  opds :=
    if !isSwb o.d && cls o.d == 2 then [dst 0 o.d 1 [2], src 1 o.a 1 sCls]
    else [dstSwb o.d (regsOf o.ty), src 1 o.a (regsOf o.ty) aluCls]
  unif := h.scope == 1
  eff := fun c s =>
    if !isSwb o.d && cls o.d == 2 then sEff o.d (fun c s => uVal c s o.a o.ty) c s
    else laneEff o.d (fillOf o.ty) (fun c s g l => srcV c s g l o.a o.ty) c s

/-- `movi` (R364): a 16-bit type writes bits [15:0] and keeps the rest. -/
def moviDesc (h : Hdr) (o : OpI) : Desc where
  opds := [⟨0, o.d, [0, 2], regsOf (modTy o), true, true⟩]
  unif := h.scope == 1
  eff := fun c s =>
    let ty := modTy o
    let v := immVal ty (modRnd o) o.imm
    if !isSwb o.d && cls o.d == 2 then
      sEff o.d (fun c s => sResult ty ((s.grp c.team c.group).s (idx o.d)).v.toNat v) c s
    else laneEff o.d (fillOf ty) (fun _ _ _ _ => v) c s

/-- `mov` (R364). -/
def execMov (h : Hdr) (o : OpG) (s : State) : Host.Outcome State Fault Refusal :=
  .next (issue (.mov h o) 0 (movDesc h o) s)

/-- `movi` (R364). -/
def execMovi (h : Hdr) (o : OpI) (s : State) : Host.Outcome State Fault Refusal :=
  .next (issue (.movi h o) 0 (moviDesc h o) s)

end Sys2Proof.Machine
end

