-- ==== Sys2Proof/Machine/TransOps.lean ====
section
/-! DEFINITION. Major 0x13: the transcendental unit (R353). -/

namespace Sys2Proof.Machine

/-- `ex2` (R353, Table comp-5). -/
def execEx2 (h : Hdr) (o : OpG) (s : State) : Host.Outcome State Fault Refusal :=
  .next (issue (.ex2 h o) 1 (lane1 h o 0x28 0x28 (TFn.ex2).f32) s)

/-- `lg2` (R353, Table comp-5). -/
def execLg2 (h : Hdr) (o : OpG) (s : State) : Host.Outcome State Fault Refusal :=
  .next (issue (.lg2 h o) 1 (lane1 h o 0x28 0x28 (TFn.lg2).f32) s)

/-- `rcp` (R353, Table comp-5). -/
def execRcp (h : Hdr) (o : OpG) (s : State) : Host.Outcome State Fault Refusal :=
  .next (issue (.rcp h o) 1 (lane1 h o 0x28 0x28 (TFn.rcp).f32) s)

/-- `rsqrt` (R353, Table comp-5). -/
def execRsqrt (h : Hdr) (o : OpG) (s : State) : Host.Outcome State Fault Refusal :=
  .next (issue (.rsqrt h o) 1 (lane1 h o 0x28 0x28 (TFn.rsqrt).f32) s)

/-- `sin` (R353, Table comp-5). -/
def execSin (h : Hdr) (o : OpG) (s : State) : Host.Outcome State Fault Refusal :=
  .next (issue (.sin h o) 1 (lane1 h o 0x28 0x28 (TFn.sin).f32) s)

/-- `cos` (R353, Table comp-5). -/
def execCos (h : Hdr) (o : OpG) (s : State) : Host.Outcome State Fault Refusal :=
  .next (issue (.cos h o) 1 (lane1 h o 0x28 0x28 (TFn.cos).f32) s)

/-- `tanh` (R353, Table comp-5). -/
def execTanh (h : Hdr) (o : OpG) (s : State) : Host.Outcome State Fault Refusal :=
  .next (issue (.tanh h o) 1 (lane1 h o 0x28 0x28 (TFn.tanh).f32) s)

/-- `exp` (R353, Table comp-5). -/
def execExp (h : Hdr) (o : OpG) (s : State) : Host.Outcome State Fault Refusal :=
  .next (issue (.exp h o) 1 (lane1 h o 0x28 0x28 (TFn.exp).f32) s)

end Sys2Proof.Machine
end

