-- ==== Sys2Proof/Machine/Dispatch.lean ====
section
/-! DEFINITION. One arm per instruction and event of the opcode table. -/

namespace Sys2Proof.Machine

/-- The meaning of an instruction in a state. -/
def exec (i : Instr) (s : State) : Host.Outcome State Fault Refusal :=
  match i with
  | .nop h o => Sys2Proof.Machine.execNop h o s
  | .bra h o => Sys2Proof.Machine.execBra h o s
  | .brx h o => Sys2Proof.Machine.execBrx h o s
  | .call h o => Sys2Proof.Machine.execCall h o s
  | .callx h o => Sys2Proof.Machine.execCallx h o s
  | .ret h o => Sys2Proof.Machine.execRet h o s
  | .exit h o => Sys2Proof.Machine.execExit h o s
  | .kill h o => Sys2Proof.Machine.execKill h o s
  | .rejoin h o => Sys2Proof.Machine.execRejoin h o s
  | .trap h o => Sys2Proof.Machine.execTrap h o s
  | .tret h o => Sys2Proof.Machine.execTret h o s
  | .wspill h o => Sys2Proof.Machine.execWspill h o s
  | .wfill h o => Sys2Proof.Machine.execWfill h o s
  | .pchk h o => Sys2Proof.Machine.execPchk h o s
  | .mjoin h o => Sys2Proof.Machine.execMjoin h o s
  | .mleave h o => Sys2Proof.Machine.execMleave h o s
  | .mwait h o => Sys2Proof.Machine.execMwait h o s
  | .mget h o => Sys2Proof.Machine.execMget h o s
  | .bar h o => Sys2Proof.Machine.execBar h o s
  | .arrive h o => Sys2Proof.Machine.execArrive h o s
  | .bwait h o => Sys2Proof.Machine.execBwait h o s
  | .rdv h o => Sys2Proof.Machine.execRdv h o s
  | .tokgive h o => Sys2Proof.Machine.execTokgive h o s
  | .toktake h o => Sys2Proof.Machine.execToktake h o s
  | .fence h o => Sys2Proof.Machine.execFence h o s
  | .clock h o => Sys2Proof.Machine.execClock h o s
  | .place h o => Sys2Proof.Machine.execPlace h o s
  | .sysrd h o => Sys2Proof.Machine.execSysrd h o s
  | .syswr h o => Sys2Proof.Machine.execSyswr h o s
  | .addInt h o => Sys2Proof.Machine.execAddInt h o s
  | .subInt h o => Sys2Proof.Machine.execSubInt h o s
  | .mulInt h o => Sys2Proof.Machine.execMulInt h o s
  | .mulhi h o => Sys2Proof.Machine.execMulhi h o s
  | .mad h o => Sys2Proof.Machine.execMad h o s
  | .divInt h o => Sys2Proof.Machine.execDivInt h o s
  | .rem h o => Sys2Proof.Machine.execRem h o s
  | .minInt h o => Sys2Proof.Machine.execMinInt h o s
  | .maxInt h o => Sys2Proof.Machine.execMaxInt h o s
  | .absInt h o => Sys2Proof.Machine.execAbsInt h o s
  | .negInt h o => Sys2Proof.Machine.execNegInt h o s
  | .lea h o => Sys2Proof.Machine.execLea h o s
  | .addIntImm h o => Sys2Proof.Machine.execAddIntImm h o s
  | .subIntImm h o => Sys2Proof.Machine.execSubIntImm h o s
  | .mulIntImm h o => Sys2Proof.Machine.execMulIntImm h o s
  | .mulhiImm h o => Sys2Proof.Machine.execMulhiImm h o s
  | .divIntImm h o => Sys2Proof.Machine.execDivIntImm h o s
  | .remImm h o => Sys2Proof.Machine.execRemImm h o s
  | .minIntImm h o => Sys2Proof.Machine.execMinIntImm h o s
  | .maxIntImm h o => Sys2Proof.Machine.execMaxIntImm h o s
  | .leaImm h o => Sys2Proof.Machine.execLeaImm h o s
  | .andL h o => Sys2Proof.Machine.execAndL h o s
  | .orL h o => Sys2Proof.Machine.execOrL h o s
  | .xorL h o => Sys2Proof.Machine.execXorL h o s
  | .notL h o => Sys2Proof.Machine.execNotL h o s
  | .shl h o => Sys2Proof.Machine.execShl h o s
  | .shr h o => Sys2Proof.Machine.execShr h o s
  | .rotl h o => Sys2Proof.Machine.execRotl h o s
  | .popc h o => Sys2Proof.Machine.execPopc h o s
  | .clz h o => Sys2Proof.Machine.execClz h o s
  | .ctz h o => Sys2Proof.Machine.execCtz h o s
  | .brev h o => Sys2Proof.Machine.execBrev h o s
  | .bfe h o => Sys2Proof.Machine.execBfe h o s
  | .bfi h o => Sys2Proof.Machine.execBfi h o s
  | .lop3 h o => Sys2Proof.Machine.execLop3 h o s
  | .sel h o => Sys2Proof.Machine.execSel h o s
  | .andImm h o => Sys2Proof.Machine.execAndImm h o s
  | .orImm h o => Sys2Proof.Machine.execOrImm h o s
  | .xorImm h o => Sys2Proof.Machine.execXorImm h o s
  | .shlImm h o => Sys2Proof.Machine.execShlImm h o s
  | .shrImm h o => Sys2Proof.Machine.execShrImm h o s
  | .rotlImm h o => Sys2Proof.Machine.execRotlImm h o s
  | .bfeImm h o => Sys2Proof.Machine.execBfeImm h o s
  | .addFloat h o => Sys2Proof.Machine.execAddFloat h o s
  | .subFloat h o => Sys2Proof.Machine.execSubFloat h o s
  | .mulFloat h o => Sys2Proof.Machine.execMulFloat h o s
  | .fma h o => Sys2Proof.Machine.execFma h o s
  | .minFloat h o => Sys2Proof.Machine.execMinFloat h o s
  | .maxFloat h o => Sys2Proof.Machine.execMaxFloat h o s
  | .absFloat h o => Sys2Proof.Machine.execAbsFloat h o s
  | .negFloat h o => Sys2Proof.Machine.execNegFloat h o s
  | .divFloat h o => Sys2Proof.Machine.execDivFloat h o s
  | .sqrt h o => Sys2Proof.Machine.execSqrt h o s
  | .addFloatImm h o => Sys2Proof.Machine.execAddFloatImm h o s
  | .subFloatImm h o => Sys2Proof.Machine.execSubFloatImm h o s
  | .mulFloatImm h o => Sys2Proof.Machine.execMulFloatImm h o s
  | .minFloatImm h o => Sys2Proof.Machine.execMinFloatImm h o s
  | .maxFloatImm h o => Sys2Proof.Machine.execMaxFloatImm h o s
  | .divFloatImm h o => Sys2Proof.Machine.execDivFloatImm h o s
  | .ex2 h o => Sys2Proof.Machine.execEx2 h o s
  | .lg2 h o => Sys2Proof.Machine.execLg2 h o s
  | .rcp h o => Sys2Proof.Machine.execRcp h o s
  | .rsqrt h o => Sys2Proof.Machine.execRsqrt h o s
  | .sin h o => Sys2Proof.Machine.execSin h o s
  | .cos h o => Sys2Proof.Machine.execCos h o s
  | .tanh h o => Sys2Proof.Machine.execTanh h o s
  | .exp h o => Sys2Proof.Machine.execExp h o s
  | .add2 h o => Sys2Proof.Machine.execAdd2 h o s
  | .sub2 h o => Sys2Proof.Machine.execSub2 h o s
  | .mul2 h o => Sys2Proof.Machine.execMul2 h o s
  | .fma2 h o => Sys2Proof.Machine.execFma2 h o s
  | .min2 h o => Sys2Proof.Machine.execMin2 h o s
  | .max2 h o => Sys2Proof.Machine.execMax2 h o s
  | .setp h o => Sys2Proof.Machine.execSetp h o s
  | .selp h o => Sys2Proof.Machine.execSelp h o s
  | .pand h o => Sys2Proof.Machine.execPand h o s
  | .por h o => Sys2Proof.Machine.execPor h o s
  | .pxor h o => Sys2Proof.Machine.execPxor h o s
  | .pnot h o => Sys2Proof.Machine.execPnot h o s
  | .pmov h o => Sys2Proof.Machine.execPmov h o s
  | .cvt h o => Sys2Proof.Machine.execCvt h o s
  | .pack h o => Sys2Proof.Machine.execPack h o s
  | .unpack h o => Sys2Proof.Machine.execUnpack h o s
  | .qnt4 h o => Sys2Proof.Machine.execQnt4 h o s
  | .dq4 h o => Sys2Proof.Machine.execDq4 h o s
  | .shfl h o => Sys2Proof.Machine.execShfl h o s
  | .vote h o => Sys2Proof.Machine.execVote h o s
  | .rdxOp h o => Sys2Proof.Machine.execRdxOp h o s
  | .scan h o => Sys2Proof.Machine.execScan h o s
  | .bcast h o => Sys2Proof.Machine.execBcast h o s
  | .matchV h o => Sys2Proof.Machine.execMatchV h o s
  | .sadd h o => Sys2Proof.Machine.execSadd h o s
  | .ssub h o => Sys2Proof.Machine.execSsub h o s
  | .smul h o => Sys2Proof.Machine.execSmul h o s
  | .smin h o => Sys2Proof.Machine.execSmin h o s
  | .smax h o => Sys2Proof.Machine.execSmax h o s
  | .sand h o => Sys2Proof.Machine.execSand h o s
  | .sor h o => Sys2Proof.Machine.execSor h o s
  | .sxor h o => Sys2Proof.Machine.execSxor h o s
  | .sshl h o => Sys2Proof.Machine.execSshl h o s
  | .sshr h o => Sys2Proof.Machine.execSshr h o s
  | .smov h o => Sys2Proof.Machine.execSmov h o s
  | .ssetp h o => Sys2Proof.Machine.execSsetp h o s
  | .saddImm h o => Sys2Proof.Machine.execSaddImm h o s
  | .ssubImm h o => Sys2Proof.Machine.execSsubImm h o s
  | .smulImm h o => Sys2Proof.Machine.execSmulImm h o s
  | .sminImm h o => Sys2Proof.Machine.execSminImm h o s
  | .smaxImm h o => Sys2Proof.Machine.execSmaxImm h o s
  | .sandImm h o => Sys2Proof.Machine.execSandImm h o s
  | .sorImm h o => Sys2Proof.Machine.execSorImm h o s
  | .sxorImm h o => Sys2Proof.Machine.execSxorImm h o s
  | .sshlImm h o => Sys2Proof.Machine.execSshlImm h o s
  | .sshrImm h o => Sys2Proof.Machine.execSshrImm h o s
  | .smovImm h o => Sys2Proof.Machine.execSmovImm h o s
  | .mov h o => Sys2Proof.Machine.execMov h o s
  | .movi h o => Sys2Proof.Machine.execMovi h o s
  | .ld h o => Sys2Proof.Machine.execLd h o s
  | .st h o => Sys2Proof.Machine.execSt h o s
  | .sld h o => Sys2Proof.Machine.execSld h o s
  | .lds h o => Sys2Proof.Machine.execLds h o s
  | .sts h o => Sys2Proof.Machine.execSts h o s
  | .ldc h o => Sys2Proof.Machine.execLdc h o s
  | .stc h o => Sys2Proof.Machine.execStc h o s
  | .ldpr h o => Sys2Proof.Machine.execLdpr h o s
  | .stpr h o => Sys2Proof.Machine.execStpr h o s
  | .ldg h o => Sys2Proof.Machine.execLdg h o s
  | .stg h o => Sys2Proof.Machine.execStg h o s
  | .atomAdd h o => Sys2Proof.Machine.execAtomAdd h o s
  | .atomMin h o => Sys2Proof.Machine.execAtomMin h o s
  | .atomMax h o => Sys2Proof.Machine.execAtomMax h o s
  | .atomAnd h o => Sys2Proof.Machine.execAtomAnd h o s
  | .atomOr h o => Sys2Proof.Machine.execAtomOr h o s
  | .atomXor h o => Sys2Proof.Machine.execAtomXor h o s
  | .atomExch h o => Sys2Proof.Machine.execAtomExch h o s
  | .atomCas h o => Sys2Proof.Machine.execAtomCas h o s
  | .redAdd h o => Sys2Proof.Machine.execRedAdd h o s
  | .redMin h o => Sys2Proof.Machine.execRedMin h o s
  | .redMax h o => Sys2Proof.Machine.execRedMax h o s
  | .redAnd h o => Sys2Proof.Machine.execRedAnd h o s
  | .redOr h o => Sys2Proof.Machine.execRedOr h o s
  | .redXor h o => Sys2Proof.Machine.execRedXor h o s
  | .tld h o => Sys2Proof.Machine.execTld h o s
  | .tst h o => Sys2Proof.Machine.execTst h o s
  | .hld h o => Sys2Proof.Machine.execHld h o s
  | .hclr h o => Sys2Proof.Machine.execHclr h o s
  | .spt h o => Sys2Proof.Machine.execSpt h o s
  | .cvta h o => Sys2Proof.Machine.execCvta h o s
  | .cvts h o => Sys2Proof.Machine.execCvts h o s
  | .pf h o => Sys2Proof.Machine.execPf h o s
  | .flush h o => Sys2Proof.Machine.execFlush h o s
  | .disc h o => Sys2Proof.Machine.execDisc h o s
  | .syncwait h o => Sys2Proof.Machine.execSyncwait h o s
  | .syncadd h o => Sys2Proof.Machine.execSyncadd h o s
  | .copy h o => Sys2Proof.Machine.execCopy h o s
  | .tcopy h o => Sys2Proof.Machine.execTcopy h o s
  | .fktab h o => Sys2Proof.Machine.execFktab h o s
  | .fkdec h o => Sys2Proof.Machine.execFkdec h o s
  | .mapset h o => Sys2Proof.Machine.execMapset h o s
  | .wload h o => Sys2Proof.Machine.execWload h o s
  | .mmul h o => Sys2Proof.Machine.execMmul h o s
  | .aclr h o => Sys2Proof.Machine.execAclr h o s
  | .aread h o => Sys2Proof.Machine.execAread h o s
  | .ofence h o => Sys2Proof.Machine.execOfence h o s
  | .rsend h o => Sys2Proof.Machine.execRsend h o s
  | .rrecv h o => Sys2Proof.Machine.execRrecv h o s
  | .smv h o => Sys2Proof.Machine.execSmv h o s
  | .qrot h o => Sys2Proof.Machine.execQrot h o s
  | .bput h o => Sys2Proof.Machine.execBput h o s
  | .bfork h o => Sys2Proof.Machine.execBfork h o s
  | .bdrop h o => Sys2Proof.Machine.execBdrop h o s
  | .attn h o => Sys2Proof.Machine.execAttn h o s
  | .bringUp => Sys2Proof.Machine.execBringUp s
  | .securityVersionRaise => Sys2Proof.Machine.execSecurityVersionRaise s
  | .measurementExtend => Sys2Proof.Machine.execMeasurementExtend s
  | .quoteRequest => Sys2Proof.Machine.execQuoteRequest s
  | .certificateRequest => Sys2Proof.Machine.execCertificateRequest s
  | .vfLoopStep => Sys2Proof.Machine.execVfLoopStep s
  | .droopEvent => Sys2Proof.Machine.execDroopEvent s
  | .droopRecovery => Sys2Proof.Machine.execDroopRecovery s
  | .thermalStateChange => Sys2Proof.Machine.execThermalStateChange s
  | .thermalTrip => Sys2Proof.Machine.execThermalTrip s
  | .powerLimitExceeded => Sys2Proof.Machine.execPowerLimitExceeded s
  | .vflimWrite => Sys2Proof.Machine.execVflimWrite s
  | .pwrcapWrite => Sys2Proof.Machine.execPwrcapWrite s
  | .combwinWrite => Sys2Proof.Machine.execCombwinWrite s
  | .schedCfgWrite => Sys2Proof.Machine.execSchedCfgWrite s
  | .simtCfgWrite => Sys2Proof.Machine.execSimtCfgWrite s
  | .matrixCfgWrite => Sys2Proof.Machine.execMatrixCfgWrite s
  | .adminptrTailWrite => Sys2Proof.Machine.execAdminptrTailWrite s
  | .doorbellWrite => Sys2Proof.Machine.execDoorbellWrite s
  | .errlogOvfClear => Sys2Proof.Machine.execErrlogOvfClear s
  | .errentValidClear => Sys2Proof.Machine.execErrentValidClear s
  | .frameRingTailWrite => Sys2Proof.Machine.execFrameRingTailWrite s
  | .frameRing3HeadWrite => Sys2Proof.Machine.execFrameRing3HeadWrite s
  | .evictReclaim => Sys2Proof.Machine.execEvictReclaim s
  | .evictDirectedBacking => Sys2Proof.Machine.execEvictDirectedBacking s
  | .evictDirectedDiscard => Sys2Proof.Machine.execEvictDirectedDiscard s
  | .bushelEnable => Sys2Proof.Machine.execBushelEnable s
  | .bushelDisable => Sys2Proof.Machine.execBushelDisable s
  | .reg128LowWrite => Sys2Proof.Machine.execReg128LowWrite s
  | .reg128LowRead => Sys2Proof.Machine.execReg128LowRead s
  | .registerWrite => Sys2Proof.Machine.execRegisterWrite s
  | .flitReceived => Sys2Proof.Machine.execFlitReceived s
  | .replayRequest => Sys2Proof.Machine.execReplayRequest s
  | .linkRetrainDone => Sys2Proof.Machine.execLinkRetrainDone s
  | .equalisationStep => Sys2Proof.Machine.execEqualisationStep s
  | .snpdata => Sys2Proof.Machine.execSnpdata s
  | .snpinv => Sys2Proof.Machine.execSnpinv s
  | .snpcur => Sys2Proof.Machine.execSnpcur s
  | .hostSectorFetch => Sys2Proof.Machine.execHostSectorFetch s
  | .itomwrCompletion => Sys2Proof.Machine.execItomwrCompletion s
  | .barMemoryRead => Sys2Proof.Machine.execBarMemoryRead s
  | .barMemoryWrite => Sys2Proof.Machine.execBarMemoryWrite s
  | .gets => Sys2Proof.Machine.execGets s
  | .getx => Sys2Proof.Machine.execGetx s
  | .granuleRecall => Sys2Proof.Machine.execGranuleRecall s
  | .granuleGrant => Sys2Proof.Machine.execGranuleGrant s
  | .putx => Sys2Proof.Machine.execPutx s
  | .rds => Sys2Proof.Machine.execRds s
  | .rdx => Sys2Proof.Machine.execRdx s
  | .upg => Sys2Proof.Machine.execUpg s
  | .rdu => Sys2Proof.Machine.execRdu s
  | .wru => Sys2Proof.Machine.execWru s
  | .atom => Sys2Proof.Machine.execAtom s
  | .fwd => Sys2Proof.Machine.execFwd s
  | .inv => Sys2Proof.Machine.execInv s
  | .graft => Sys2Proof.Machine.execGraft s
  | .pruneack => Sys2Proof.Machine.execPruneack s
  | .wback => Sys2Proof.Machine.execWback s
  | .pathRelease => Sys2Proof.Machine.execPathRelease s
  | .invack => Sys2Proof.Machine.execInvack s
  | .prune => Sys2Proof.Machine.execPrune s
  | .wbd => Sys2Proof.Machine.execWbd s
  | .data => Sys2Proof.Machine.execData s
  | .grant => Sys2Proof.Machine.execGrant s
  | .err => Sys2Proof.Machine.execErr s
  | .wrack => Sys2Proof.Machine.execWrack s
  | .atomack => Sys2Proof.Machine.execAtomack s
  | .redack => Sys2Proof.Machine.execRedack s
  | .syncCountUpdate => Sys2Proof.Machine.execSyncCountUpdate s
  | .red => Sys2Proof.Machine.execRed s
  | .redp => Sys2Proof.Machine.execRedp s
  | .combineWindowExpiry => Sys2Proof.Machine.execCombineWindowExpiry s
  | .ordContributionResend => Sys2Proof.Machine.execOrdContributionResend s
  | .attributeQuery => Sys2Proof.Machine.execAttributeQuery s
  | .placementLookup => Sys2Proof.Machine.execPlacementLookup s
  | .translationWalk => Sys2Proof.Machine.execTranslationWalk s
  | .frameZeroingComplete => Sys2Proof.Machine.execFrameZeroingComplete s
  | .treeCacheEccFatal => Sys2Proof.Machine.execTreeCacheEccFatal s
  | .wcsEviction => Sys2Proof.Machine.execWcsEviction s
  | .ctxCreate => Sys2Proof.Machine.execCtxCreate s
  | .ctxDestroy => Sys2Proof.Machine.execCtxDestroy s
  | .ctxSuspend => Sys2Proof.Machine.execCtxSuspend s
  | .ctxSuspendComplete => Sys2Proof.Machine.execCtxSuspendComplete s
  | .ctxResume => Sys2Proof.Machine.execCtxResume s
  | .objDeclare => Sys2Proof.Machine.execObjDeclare s
  | .objClear => Sys2Proof.Machine.execObjClear s
  | .biasFlip => Sys2Proof.Machine.execBiasFlip s
  | .biasFlipComplete => Sys2Proof.Machine.execBiasFlipComplete s
  | .queueResume => Sys2Proof.Machine.execQueueResume s
  | .xlateInval => Sys2Proof.Machine.execXlateInval s
  | .adminUnknownOpcode => Sys2Proof.Machine.execAdminUnknownOpcode s
  | .adminCommandReadError => Sys2Proof.Machine.execAdminCommandReadError s
  | .userNop => Sys2Proof.Machine.execUserNop s
  | .graphLaunch => Sys2Proof.Machine.execGraphLaunch s
  | .userUnknownOp => Sys2Proof.Machine.execUserUnknownOp s
  | .userCommandReadError => Sys2Proof.Machine.execUserCommandReadError s
  | .nodeNop => Sys2Proof.Machine.execNodeNop s
  | .nodeKernel => Sys2Proof.Machine.execNodeKernel s
  | .nodeCopy => Sys2Proof.Machine.execNodeCopy s
  | .nodeSignal => Sys2Proof.Machine.execNodeSignal s
  | .nodeWait => Sys2Proof.Machine.execNodeWait s
  | .waitReread => Sys2Proof.Machine.execWaitReread s
  | .waitTimeout => Sys2Proof.Machine.execWaitTimeout s
  | .nodeCond => Sys2Proof.Machine.execNodeCond s
  | .nodeWhile => Sys2Proof.Machine.execNodeWhile s
  | .nodeComplete => Sys2Proof.Machine.execNodeComplete s
  | .faultVectorRaise => Sys2Proof.Machine.execFaultVectorRaise s
  | .teamPlacement => Sys2Proof.Machine.execTeamPlacement s
  | .preemptionTrigger => Sys2Proof.Machine.execPreemptionTrigger s
  | .haltComplete => Sys2Proof.Machine.execHaltComplete s
  | .contextSave => Sys2Proof.Machine.execContextSave s
  | .accumulatorSave => Sys2Proof.Machine.execAccumulatorSave s
  | .contextResumeAuto => Sys2Proof.Machine.execContextResumeAuto s
  | .teamExit => Sys2Proof.Machine.execTeamExit s
  | .ejectionHandoverComplete => Sys2Proof.Machine.execEjectionHandoverComplete s
  | .threadRecall => Sys2Proof.Machine.execThreadRecall s
  | .rejoinTimeout => Sys2Proof.Machine.execRejoinTimeout s
  | .ejectionWindowEnd => Sys2Proof.Machine.execEjectionWindowEnd s
  | .copyCommandAccept => Sys2Proof.Machine.execCopyCommandAccept s
  | .copyCountStep => Sys2Proof.Machine.execCopyCountStep s
  | .firkinTableLoadComplete => Sys2Proof.Machine.execFirkinTableLoadComplete s
  | .firkinDecodeComplete => Sys2Proof.Machine.execFirkinDecodeComplete s
  | .syncUpdate => Sys2Proof.Machine.execSyncUpdate s
  | .syncTimerTick => Sys2Proof.Machine.execSyncTimerTick s
  | .rodPairing => Sys2Proof.Machine.execRodPairing s
  | .rodTimeout => Sys2Proof.Machine.execRodTimeout s
  | .asyncOperationComplete => Sys2Proof.Machine.execAsyncOperationComplete s
  | .partReset => Sys2Proof.Machine.execPartReset s
  | .portWriteAcknowledgement => Sys2Proof.Machine.execPortWriteAcknowledgement s

end Sys2Proof.Machine
end

