-- ==== Sys2Proof/Machine/Turn.lean ====
section
/-! DEFINITION. What a step acts on: errors that are due, events, cores and Span cores; the choice among a group's issue sets; instruction fetch; a core's issue slot; and the passing of time (R54, R148-R153, R164, R176, R177, R268, R272, R273, R290, R340). -/

namespace Sys2Proof.Machine

/-! ### Errors and events that are due -/

/-- The first error whose time has come, with the state that no longer holds it. -/
def dueUpset (s : State) : Option (Upset × State) :=
  match s.upsets.find? (fun u => decide (u.1 ≤ s.ncyc)) with
  | none => none
  | some u => some (u.2, { s with upsets := dropFirst (fun x => decide (x.1 ≤ s.ncyc)) s.upsets })

/-- A row of the register window's accesses. -/
def isWindow : Instr → Bool
  | .registerWrite | .reg128LowRead | .reg128LowWrite | .adminptrTailWrite | .vflimWrite | .pwrcapWrite | .combwinWrite | .schedCfgWrite
  | .simtCfgWrite | .matrixCfgWrite | .errlogOvfClear | .errentValidClear | .frameRingTailWrite | .frameRing3HeadWrite
  | .bushelEnable | .bushelDisable => true
  | _ => false

/-- An event by which the host reaches the part's windows over the KHL. -/
def Due.fromHost (e : Due) : Bool :=
  match e.ev with
  | .barMemoryWrite | .doorbellWrite => true
  | .barMemoryRead => e.arg.a != 1 || e.arg.data.isEmpty
  | .evictReclaim | .evictDirectedBacking | .evictDirectedDiscard => e.arg.a == 0 && e.arg.data.isEmpty
  | ev => isWindow ev && e.arg.data.isEmpty

/-- The order key of an event: what the host sends to the windows keeps its order (R89, R103). -/
def Due.order (e : Due) : Nat := if e.fromHost then 8 else e.key

/-- Places in the agenda of the events that can happen now: of one order key only the first (R54). -/
def dueGo (now : Nat) : List Due → Nat → List Nat → List Nat
  | [], _, _ => []
  | e :: l, i, keys =>
    let rest := dueGo now l (i + 1) (e.order :: keys)
    if decide (e.at_ ≤ now) && (e.order == 0 || !keys.contains e.order) then i :: rest else rest

/-- The events that can happen now. -/
def dueEvents (s : State) : List Nat := dueGo s.ncyc s.agenda 0 []

/-- Take an event from the agenda: its operands stand in the state. -/
def takeEvent (i : Nat) (s : State) : Option (Instr × State) :=
  match s.agenda[i]? with
  | none => none
  | some e => some (e.ev, { s with agenda := s.agenda.eraseIdx i, ev := e.arg, evKey := e.key })

/-! ### Issue sets (R176, R177, R273) -/

/-- The issue set of a contending thread. -/
def setOfThread (s : State) (t g i : Nat) : List Nat :=
  let th := s.thr (t, g, i)
  (upFrom 0 (s.grp t g).width).filter (fun k =>
    s.contends t g k && (s.thr (t, g, k)).pc == th.pc && (s.thr (t, g, k)).cd == th.cd)

/-- The issue sets of the listed threads, by their lowest thread. -/
def setsGo (s : State) (t g : Nat) : List Nat → List Nat → List (List Nat)
  | [], _ => []
  | i :: l, seen =>
    if seen.contains i then setsGo s t g l seen
    else
      let set := setOfThread s t g i
      set :: setsGo s t g l (seen ++ set)

/-- The issue sets of a group, the one with the lowest-numbered thread first. -/
def issueSets (s : State) (t g : Nat) : List (List Nat) :=
  setsGo s t g ((upFrom 0 (s.grp t g).width).filter (s.contends t g)) []

/-- How often an issue set has been passed over. -/
def passesOf (s : State) (t g : Nat) (set : List Nat) : Nat :=
  set.foldl (fun m i => max m ((s.grp t g).passed.getD i 0)) 0

/-- The set passed over longest among those that qualify. -/
def starved (s : State) (t g : Nat) (l : List (List Nat)) : Option (List Nat) :=
  (l.filter (fun x => decide (64 ≤ passesOf s t g x))).foldl (fun m x =>
    match m with
    | none => some x
    | some y => if passesOf s t g y < passesOf s t g x then some x else some y) none

/-- The group's chosen issue set. `can` tells whether an issue set could issue now: a yielding set is skipped while another can (R273). -/
def chosenSet (can : Cur → Bool) (s : State) (t g : Nat) : Option (List Nat) :=
  match issueSets s t g with
  | [] => none
  | [x] => some x
  | x :: l =>
    match starved s t g (x :: l) with
    | some y => some y
    | none =>
      match (s.grp t g).skip with
      | none => some x
      | some k =>
        if x.head? == some k then
          match l.find? (fun y => can ⟨t, g, y⟩) with
          | some y => some y
          | none => some x
        else some x

/-- The issue set that a group could issue now, unless a stall count runs (R273). -/
def groupTurn (can : Cur → Bool) (s : State) (t g : Nat) : List Cur :=
  if decide (s.now t < (s.grp t g).stallUntil) then []
  else
    match chosenSet can s t g with
    | some x => [⟨t, g, x⟩]
    | none => []

/-! ### The cores and Span cores that have work -/

/-- The teams that run on a core. -/
def teamsOn (s : State) (k : Nat × Nat) : List (Nat × Team) :=
  s.teams.filter (fun e => !e.2.halted && !e.2.saved && e.2.cluster == k.1 && e.2.core == k.2)

/-- The groups that run on a core, as team and group. -/
def coreGroups (s : State) (k : Nat × Nat) : List (Nat × Nat) :=
  (teamsOn s k).flatMap (fun e => (upFrom 0 (s.launch e.1).groups).map (fun g => (e.1, g)))

/-- The cores that hold a team that runs, by cluster and core. -/
def liveCores (s : State) : List (Nat × Nat) :=
  ((s.teams.filter (fun e => !e.2.halted && !e.2.saved)).map (fun e => (e.2.cluster, e.2.core))).eraseDups

/-- The a-cycles since a core last chose, as its groups have them. -/
def coreLag (s : State) (k : Nat × Nat) : Nat :=
  (coreGroups s k).foldl (fun m g => max m (s.now g.1 - (s.grp g.1 g.2).ageAt)) 0

/-- AGECAP of SCHED.CFG (Table sched-3). -/
def State.ageCap (s : State) : Nat := bits s.regs.sched 63 48

/-- The cores that may choose next. One that has not chosen for as long as R152 lets a group wait goes before every other core. -/
def coreTurns (s : State) : List (Nat × Nat) :=
  let l := liveCores s
  match l.filter (fun k => decide (s.ageCap + 512 ≤ coreLag s k)) with
  | [] => l
  | k :: r => [r.foldl (fun m x => if coreLag s m < coreLag s x then x else m) k]

/-- The ejected threads that a Span core could run, as context of the Span core and thread. -/
def spanThreads (s : State) (k : Nat) : List (Nat × TKey) :=
  s.threads.filterMap (fun e =>
    match e.2.span with
    | none => none
    | some sp =>
      let T := s.team e.1.1
      if 8 * T.cluster + sp.slot / 4 == k && e.2.live && e.2.wait == .none && !T.halted && !T.saved then some (sp.slot % 4, e.1) else none)

/-- The Span cores with a thread to run, by global number. -/
def spanTurns (s : State) : List Nat :=
  (s.threads.filterMap (fun e =>
    match e.2.span with
    | none => none
    | some sp => some (8 * (s.team e.1.1).cluster + sp.slot / 4))).eraseDups.filter (fun k => !(spanThreads s k).isEmpty)

/-- What a step acts on. -/
inductive Pick where
  | idle
  | event (i : Nat)
  | core (k : Nat × Nat)
  | span (k : Nat)
  deriving DecidableEq, Repr

/-- One of several: the order in which the units of the package act is not fixed here. -/
def choose (s : State) : Pick :=
  match (dueEvents s).map Pick.event ++ (coreTurns s).map Pick.core ++ (spanTurns s).map Pick.span with
  | [] => .idle
  | [p] => p
  | p :: l => (p :: l).getD (Config.freeChoice s.tick (2 ^ 40) % (l.length + 1)) p

/-! ### Fetch (R268, R290) -/

/-- The network time at which the node of a team's grid started. -/
def nodeStart (s : State) (t : Nat) : Nat :=
  let G := s.grid t
  match s.runs.get? G.run with
  | none => 0
  | some R =>
    match R.nodes.get? G.node with
    | some N => N.start
    | none => 0

/-- A 4-byte piece of a word in memory: as it stands, or as it stood before a write made while the node runs (R268). -/
def codePiece (s : State) (t : Nat) (host : Bool) (a : Nat) : List Byte :=
  match s.oldCode.filter (fun p => p.host == host && p.addr == a && decide (nodeStart s t ≤ p.time)) with
  | [] => s.rd host a 4
  | m => (m.map (·.bytes)).getD (Config.freeChoice s.tick (2 ^ 41 + a % 16) % (m.length + 1)) (s.rd host a 4)

/-- The answer to a fetch. -/
inductive Fetched where
  | word (w : Nat)
  /-- Err for the piece at an address. -/
  | err (va : Nat)
  /-- The translation waits. -/
  | wait
  deriving DecidableEq, Repr

/-- Fetch 4-byte pieces from an address, each through its own translation. -/
def fetchGo (w : Who) (ctx t : Nat) : Nat → Nat → State → State × Fetched
  | 0, _, s => (s, .word 0)
  | n + 1, va, s =>
    match locate w ctx va false true s with
    | (s, .error k) => (s, if k == 255 then .wait else .err va)
    | (s, .ok x) =>
      let a := x.phys va
      if s.badLine x.attr.host a 4 then (logWho w (lineKind s x.attr.host a) ctx (x.home s va) va s, .err va)
      else
        let v := leVal (codePiece s t x.attr.host a)
        match fetchGo w ctx t n (va + 4) s with
        | (s, .word r) => (s, .word (v + 2 ^ 32 * r))
        | r => r

/-- The word with which the current issue set has arrived at a rendezvous, while it stands there (R190). -/
def keptWord (s : State) : Option Nat :=
  let t := s.cur.team
  let g := s.cur.group
  let th := s.thr (t, g, s.cur.set.headD 0)
  let word := fun (r : Rdv) => if r.pc == th.pc && r.cd == th.cd then (r.arr.find? (fun a => a.group == g && a.set == s.cur.set)).map (·.word) else none
  (((rdvAt t g true s).toList ++ (rdvAt t g false s).toList).filterMap word).head?

/-- Fetch the word at the program counter of the current issue set; an arrival keeps the one that it fetched. -/
def fetchWord (s : State) : State × Fetched :=
  let t := s.cur.team
  let g := s.cur.group
  let k := (t, g, s.cur.set.headD 0)
  let T := s.team t
  match keptWord s with
  | some w => (s, .word w)
  | none => fetchGo ⟨agentOf (unitOf s k), some (bayOf T.cluster), (s.grid t).vdev⟩ T.ctx t 3 (s.thr k).pc s

/-- A fetch that received Err: fetch_error at the word with the address of the piece; an ejected thread is recalled (R183, R268). The frame's SCOPE, which no instruction gives, is open. -/
def fetchError (va : Nat) (s : State) : State :=
  let t := s.cur.team
  let g := s.cur.group
  let i := s.cur.set.headD 0
  let th := s.thr (t, g, i)
  if th.span.isSome then askRecall t g i s
  else enterTrap t g s.cur.set (Config.freeWord s.tick (2 ^ 42) % 4) th.pc th.cd ⟨1, 0, va, s.cur.set, g⟩ s

/-- A word that is no instruction: after the wait of its header, illegal_instruction with INFO = OPC; an ejected thread is recalled (R183, R272, R290). -/
def illegalWord (w : Nat) (s : State) : State :=
  let t := s.cur.team
  let g := s.cur.group
  let i := s.cur.set.headD 0
  let th := s.thr (t, g, i)
  let h := hdrOf w
  if th.span.isSome then askRecall t g i s
  else if (upFrom 0 6).any (fun k => bit h.waitm k && s.counter t g k != 0) then s
  else enterTrap t g s.cur.set h.scope th.pc th.cd ⟨2, bits w 95 80, 0, s.cur.set, g⟩ s

/-! ### A core's issue slot (R148 to R153) -/

/-- What an instruction word does to the current issue set: `exec` of its instruction, or illegal_instruction. -/
abbrev Runner := Nat → State → Host.Outcome State Fault Refusal

/-- The engine that an opcode targets (R148, R344): 0 the vector ALU, 1 the transcendental unit, 2 the load/store unit, 3 matrix issue, 4 engine commands. -/
def engineOf (opc : Nat) : Nat :=
  let m := opc / 256
  if m == 0x13 then 1
  else if (0x20 ≤ m && m ≤ 0x27) || opc == 0x3000 then 2
  else if m == 0x30 || m == 0x31 then 3
  else if m == 0x28 then 4
  else 0

/-- The core's load/store queue has room (Table sched-4). -/
def lsqFree (s : State) (k : Nat × Nat) (now : Nat) : Bool :=
  decide (((s.lsq.getD k []).filter (fun x => decide (now < x))).length < 16)

/-- An engine of a core accepts a slot now (Table sched-4); `t` is a team of the core. -/
def accepts (s : State) (k : Nat × Nat) (t eng : Nat) : Bool :=
  match eng with
  | 0 => (upFrom 0 8).any (s.pipeFree t)
  | 1 => s.pipeFree t 8
  | 2 => lsqFree s k (s.now t)
  | 3 => !cmdQueueFull false k.1 k.2 s
  | _ => !cmdQueueFull true k.1 k.2 s

/-- A group that is eligible, with what the choice of a slot looks at (R149, R150). -/
structure Cand where
  cur : Cur
  word : Nat
  eng : Nat
  age : Nat
  /-- It fills a slot alone. -/
  alone : Bool
  beats : Nat
  deriving DecidableEq, Repr

/-- Set or team scope, 128 threads, matrix issue, and major 0x18 fill a slot alone (R150, R344). -/
def fillsAlone (w width : Nat) : Bool :=
  decide (2 ≤ (hdrOf w).scope) || width == 128 || engineOf (bits w 95 80) == 3 || bits w 95 88 == 0x18

/-- A source of the word names a bypass latch (R173). -/
def readsLatch (w : Nat) : Bool :=
  match decodeWord w with
  | .ok i =>
    match parts i with
    | some (opc, _, .g o) => decide (0x1000 ≤ opc) && decide (opc < 0x1A00) && [o.a, o.b, o.c].any (fun x => cls x == 5)
    | _ => false
  | _ => false

/-- The pipe of a slot: that of the last slot of the first group in it that reads a latch, when it is free; else as the leader alone would choose (R173). -/
def slotPipe (s : State) (eng : Nat) (l : List Cand) : Nat :=
  match l with
  | [] => 0
  | d :: _ =>
    if eng == 1 then 8
    else
      match l.filter (fun c => readsLatch c.word && s.pipeFree c.cur.team (s.grp c.cur.team c.cur.group).lastPipe) with
      | c :: _ => (s.grp c.cur.team c.cur.group).lastPipe
      | [] => s.choosePipe d.cur.team d.cur.group 0

/-- Let an issue set's word run in the slot whose pipe is given. -/
def runIn (run : Runner) (pipe : Nat) (joined : Bool) (c : Cur) (w : Nat) (s : State) : Host.Outcome State Fault Refusal :=
  run w { s with cur := c, slot := some (pipe, joined) }

/-- A group has entered the slot. -/
def entered (s : State) : Bool :=
  match s.slot with
  | some (_, j) => j
  | none => false

/-- No slot is being issued. -/
def noSlot (s : State) : State := { s with slot := none }

/-- The groups of a core after a choice: those in `l` have been eligible since the choice before, and every other has not (AGE, R149). -/
def ageCore (k : Nat × Nat) (l : List (Nat × Nat)) (s : State) : State :=
  forEach (coreGroups s k) (fun s g => s.modGrp g.1 g.2 (fun G =>
    { G with age := if l.contains g then G.age + (s.now g.1 - G.ageAt) else G.age, ageAt := s.now g.1 })) s

/-- An issue set's turn: its word is fetched. A fetch that waits, a fetch error, an illegal word, a trap and an arrival need no slot and take place; an instruction that would enter a slot makes its group eligible (R149, R188). -/
def look (run : Runner) (r : State × List Cand) (c : Cur) : State × List Cand :=
  match fetchWord { r.1 with cur := c } with
  | (s, .wait) => (s, r.2)
  | (s, .err va) => (fetchError va s, r.2)
  | (s, .word w) =>
    let eng := engineOf (bits w 95 80)
    let G := s.grp c.team c.group
    let d : Cand := ⟨c, w, eng, G.age + (s.now c.team - G.ageAt), fillsAlone w G.width, G.width / 16⟩
    match runIn run (s.choosePipe c.team c.group eng) false c w s with
    | .next s' => if entered s' then (s, r.2 ++ [d]) else (noSlot s', r.2)
    | _ => (s, r.2 ++ [d])

/-- The group's slot number on its core. -/
def Cand.slot (d : Cand) (s : State) : Nat := (s.grp d.cur.team d.cur.group).slot

/-- Larger AGE first, then the lower group slot. -/
def Cand.older (s : State) (d e : Cand) : Bool := decide (e.age < d.age) || (e.age == d.age && decide (d.slot s < e.slot s))

/-- The oldest. -/
def oldest (s : State) : List Cand → Option Cand
  | [] => none
  | d :: l =>
    match oldest s l with
    | none => some d
    | some e => if e.older s d then some e else some d

/-- Oldest first. -/
def insertOld (s : State) (d : Cand) : List Cand → List Cand
  | [] => [d]
  | e :: l => if d.older s e then d :: e :: l else e :: insertOld s d l

/-- The groups in the order in which a slot takes them. -/
def byAge (s : State) (l : List Cand) : List Cand := l.foldl (fun m d => insertOld s d m) []

/-- IDLE of an engine of a core (R149). -/
def idleOf (s : State) (k : Nat × Nat) (now eng : Nat) : Nat := now - s.engAt.getD (k.1, k.2, eng) 0

/-- The group holds its team's token (R153). -/
def Cand.holder (s : State) (d : Cand) : Bool := s.tokenOf d.cur.team == some d.cur.group

/-- R151: while a group at the age cap waits for an engine, no other group leads a slot of that engine, and the oldest of them leads the next. -/
def mayLead (s : State) (l : List Cand) (d : Cand) : Bool :=
  l.all (fun e => e.eng != d.eng || decide (e.age < s.ageCap) || e == d || !e.older s d)

/-- The leader among the eligible groups whose engine accepts (R150): the age cap, the token, the idle engine. -/
def leader (s : State) (k : Nat × Nat) (l : List Cand) : Option Cand :=
  let ready := l.filter (fun d => accepts s k d.cur.team d.eng && mayLead s l d)
  match oldest s (ready.filter (fun d => decide (s.ageCap ≤ d.age))) with
  | some d => some d
  | none =>
    match oldest s (ready.filter (Cand.holder s)) with
    | some d => some d
    | none =>
      let idle := fun (d : Cand) => idleOf s k (s.now d.cur.team) d.eng
      oldest s (ready.filter (fun d => ready.all (fun e => decide (idle e ≤ idle d))))

/-- Fill a slot's remaining beats (R150). -/
def pack : List Cand → Nat → List Cand
  | [], _ => []
  | d :: l, room => if !d.alone && decide (d.beats ≤ room) then d :: pack l (room - d.beats) else pack l room

/-- The groups of the slot, the leader first. -/
def slotWith (s : State) (l : List Cand) (d : Cand) : List Cand :=
  if d.alone then [d] else d :: pack (byAge s (l.filter (fun e => e.eng == d.eng && e != d))) (8 - d.beats)

/-- The groups of a slot issue, one after the other. -/
def runSlot (run : Runner) (pipe : Nat) : List Cand → State → Host.Outcome State Fault Refusal
  | [], s => .next s
  | d :: l, s =>
    match runIn run pipe (entered s) d.cur d.word s with
    | .next s => runSlot run pipe l s
    | r => r

/-- A core whose only issue set is given: it issues when its engine accepts a slot. -/
def coreAlone (run : Runner) (k : Nat × Nat) (c : Cur) (s : State) : Host.Outcome State Fault Refusal :=
  match fetchWord { s with cur := c } with
  | (s, .wait) => .next (ageCore k [] s)
  | (s, .err va) => .next (ageCore k [] (fetchError va s))
  | (s, .word w) =>
    let eng := engineOf (bits w 95 80)
    match runIn run (s.choosePipe c.team c.group eng) false c w s with
    | .next s' =>
      if entered s' && !accepts s k c.team eng then .next (ageCore k [(c.team, c.group)] s)
      else .next (ageCore k [] (noSlot s'))
    | r => r

/-- One a-cycle of a core's scheduler (R148 to R151). -/
def coreCycle (run : Runner) (can : Cur → Bool) (k : Nat × Nat) (s : State) : Host.Outcome State Fault Refusal :=
  match (coreGroups s k).flatMap (fun g => groupTurn can s g.1 g.2) with
  | [] => .next (ageCore k [] s)
  | [c] => coreAlone run k c s
  | cs =>
    let (s, l) := cs.foldl (look run) (s, [])
    let old := l.map (fun d => (d.cur.team, d.cur.group))
    match leader s k l with
    | none => .next (ageCore k old s)
    | some d =>
      let m := slotWith s l d
      match runSlot run (slotPipe s d.eng m) m s with
      | .next s => .next (ageCore k old (noSlot s))
      | r => r

/-- Whether an attempt changed the state: an issue that is held leaves it as it was. -/
def moved (s : State) : Host.Outcome State Fault Refusal → Bool
  | .next s' => s' != s
  | _ => true

/-- An issue set fetches and executes (R268). -/
def runTurn (run : Runner) (c : Cur) (s : State) : Host.Outcome State Fault Refusal :=
  match fetchWord { s with cur := c } with
  | (s, .word w) => run w s
  | (s, .err va) => .next (fetchError va s)
  | (s, .wait) => .next s

/-- The contexts of a Span core in turn: the first that can issue does (R164). -/
def spanGo (run : Runner) (k : Nat) : List (Nat × TKey) → State → Host.Outcome State Fault Refusal
  | [], s => .next s
  | (x, (t, g, i)) :: l, s =>
    match runTurn run ⟨t, g, [i]⟩ s with
    | .next s' =>
      if s' == { s with cur := ⟨t, g, [i]⟩ } then spanGo run k l s else .next { s' with spanLast := s'.spanLast.set k x }
    | r => r

/-- A Span core issues: round robin over its four contexts, after the one that issued last (R164). -/
def spanCycle (run : Runner) (k : Nat) (s : State) : Host.Outcome State Fault Refusal :=
  let l := spanThreads s k
  let last := s.spanLast.getD k 3
  spanGo run k ((upFrom 1 4).flatMap (fun j => l.filter (fun e => e.1 == (last + j) % 4))) s

/-- Whether an issue set is eligible, whatever its engine accepts (R149, R273). -/
def canIssue (run : Runner) (s : State) (c : Cur) : Bool :=
  match fetchWord { s with cur := c } with
  | (s, .word w) => moved { s with cur := c, slot := some (0, false) } (runIn run 0 false c w s)
  | (_, .err _) => true
  | (_, .wait) => false

/-! ### Time (R340) -/

/-- Clock cycles pass: at least one of the network clock, and one of each released bay. The timers of synchronisation words are settled first (R211). -/
def passTime (s : State) : State :=
  let s := settleTimed s
  { s with
    ncyc := s.ncyc + 1 + Config.freeCycles (16 * s.tick)
    acyc := s.acyc.map (fun e => (e.1, e.2 + 1 + Config.freeCycles (16 * s.tick + 1 + e.1))) }

/-- What follows the outcome of a unit's action; a crossing's error struck that action alone (R46). -/
def afterExec : Host.Outcome State Fault Refusal → Host.Outcome State Fault Refusal
  | .next s => .next (passTime { s with crossed := [] })
  | r => r

end Sys2Proof.Machine
end

