-- ==== Sys2Proof/Machine/Step.lean ====
section
/-! DEFINITION. One step: an error that is due, an event, a core's issue slot, or a Span core's instruction; and the placing of one instruction word for the host's question. -/

namespace Sys2Proof.Machine

/-- An instruction word reaches the current issue set (R290 step 1, R318). -/
def runWord (w : Nat) (s : State) : Host.Outcome State Fault Refusal :=
  match decodeWord w with
  | .ok i => exec i s
  | _ => .next (illegalWord w s)

/-- One step of the package. -/
def step (s : State) : Host.Outcome State Fault Refusal :=
  let s := s.fresh
  match dueUpset s with
  | some (u, s) => .next (passTime (applyUpset u s))
  | none =>
    match choose s with
    | .idle => afterExec (.next s)
    | .event i =>
      match takeEvent i s with
      | some (e, s) => afterExec (exec e s)
      | none => afterExec (.next s)
    | .core k => afterExec (coreCycle runWord (canIssue runWord s) k s)
    | .span k => afterExec (spanCycle runWord k s)

/-! ### A part that is about to execute one word -/

/-- The addresses of the page-table entries, the placement entries and the frame that `withFetchWord` writes; VA 0 of the context is the word's address. -/
def fetchFrame : Nat := 2 ^ 30

/-- The entries: two tables and a 1 GiB leaf with W, X and A set, then a directory and a middle entry of GRAN 2 for bay 0 (Tables xlate-1 to xlate-4). -/
def fetchTables : List (Nat × Nat) :=
  [(0x1000, 2 ^ 63 + 0x2000), (0x2000, 2 ^ 63 + 0x3000), (0x3000, 2 ^ 63 + 2 ^ 62 + 2 ^ 61 + 2 ^ 60 + 2 ^ 50 + fetchFrame),
    (0x4000, 2 ^ 63 + 0x5000), (0x5000, 2 ^ 63 + 2 ^ 62)]

/-- The context of the word's grid. -/
def fetchCtx : CtxRec := { ctxOfRec 0 [] 0 with ptroot := 0x1000, placerec := 0x4000 }

/-- One group of sixteen threads whose program counter is VA 0. -/
def fetchGrid : Grid := { Grid.blank with ctx := 1, launch := { Launch.blank with handler := 0x1000 } }

/-- A running part whose only issue set stands at the word: it takes the place of the KHA-2's bring-up, the host's commands and the dispatcher. -/
def State.withFetchWord (s : State) (nbits w : Nat) : State :=
  let s : State := fetchTables.foldl (fun s e => s.wr false e.1 (leBytes 8 e.2)) { s with grids := [] }
  let s := s.wr false fetchFrame (leBytes 12 (w % 2 ^ nbits))
  let s : State := { s with
    ctxs := s.ctxs.set 1 fetchCtx, grids := [(1, fetchGrid)], acyc := [(0, 0)], teams := [], sets := [], groups := [], threads := [] }
  let s := startTeam 1 { Team.blank with ctx := 1, grid := 1 } fetchGrid s
  { s with
    agenda := [], upsets := [], tlb := [], plc := [], atc := [], maps := [], bad := [], sbad := [], crossed := [], oldCode := [],
    pipes := [], lsq := [], slot := none }

end Sys2Proof.Machine
end

