-- ==== Sys2Proof/Safety.lean ====
section
/-! DEFINITION. The terms in which the statements speak: the form that every step keeps, issue sets that are free to issue, and what an instruction leaves. -/

namespace Sys2Proof

open Machine

/-! ### Whole steps -/

/-- The form that every reachable state has: both memories list their bytes canonically. -/
def MemInv (s : State) : Prop := memWf s.mem = true ∧ memWf s.hmem = true

/-- A step that answers a next state. -/
def Goes (s : State) : Prop := ∃ t, step s = .next t

/-- A run of a number of steps that never stops. -/
def Safe (n : Nat) (s : State) : Prop := ∃ t, core.run n s = .next t

/-! ### Issue (R176, R188-R192, R290) -/

/-- What an instruction asks of the shared issue rules: its engine, its operand fields, the convergence it needs, what holds it, and its own trap conditions. -/
structure Need where
  eng : Nat
  opds : List Opd
  /-- A uniform-converged issue set (R171, R345). -/
  unif : Bool := false
  /-- Every live thread in `active` (R389). -/
  full : Bool := false
  /-- No rendezvous at set or team scope (R332). -/
  alone : Bool := false
  /-- The instance carries `.part` (R189). -/
  part : Bool := false
  /-- An ejected thread is recalled (R183). -/
  recalled : Bool := false
  /-- Poison is read, not consumed (R339). -/
  noPoison : Bool := false
  hold : Ctx → State → Bool := fun _ _ => false
  chk : Ctx → State → List Trap := fun _ _ => []
  /-- Registers that it writes beside its operands (R322, R338). -/
  also : Thread → List Nat := fun _ => []
  /-- Operand checks that depend on the word and the team alone (R290). -/
  pre : Ctx → State → List Trap := fun _ _ => []

/-- The demands of a description. -/
def needOf (eng : Nat) (d : Desc) : Need :=
  ⟨eng, d.opds, d.unif, d.full, d.alone, d.part, d.recalled, d.noPoison, d.hold, d.chk, d.also, d.pre⟩

/-- A description with these demands and no effect: what the scoreboard and the counters read of it. -/
def Need.desc (n : Need) : Desc :=
  { opds := n.opds, unif := n.unif, full := n.full, alone := n.alone, part := n.part, recalled := n.recalled, noPoison := n.noPoison,
    hold := n.hold, also := n.also, pre := n.pre, chk := n.chk, eff := fun _ s => s }

/-- What keeps no issue set from issuing, at whatever scope: its word is legal, no other thread's handler runs in the group, its threads are live and wait for nothing, its hints and the scoreboard are clear, and its own conditions do not hold it. -/
structure Clear (i : Instr) (n : Need) (c : Ctx) (s : State) : Prop where
  ctx : mkCtx i n.eng s = some c
  word : legal i = true
  handler : (s.grp c.team c.group).trap.active = true → c.span = false → ∀ k ∈ c.set, k ∈ (s.grp c.team c.group).handler
  awake : ∀ k ∈ c.set, (s.thr (c.key k)).live = true ∧ (s.thr (c.key k)).wait = .none
  once : c.set.Nodup
  hints : c.span = false → hintsHold c s = false
  board : c.nosb = false → scoreboardHolds c s n.desc = false
  free : n.hold c s = false
  inSet : c.h.scope = 2 → (s.setOf c.team c.group).isSome = true
  fields : badField n.opds (s.setOf c.team c.group).isSome (c.h.scope == 2) = none
  pre : n.pre c s = []

/-- The issue set executes by itself: lane or group scope, or an instruction without a rendezvous. An ejected thread stays on its Span core only at lane scope, with no operand that recalls it (R183). -/
structure Ready (i : Instr) (n : Need) (c : Ctx) (s : State) : Prop extends Clear i n c s where
  scope : c.h.scope ≤ 1 ∨ n.alone = true
  core : c.span = true → c.h.scope = 0 ∧ n.recalled = false ∧
    ∀ o ∈ n.opds, isSwb o.sel = true ∨ ((cls o.sel = 2 → o.dst = false) ∧ cls o.sel ≠ 1 ∧ (cls o.sel = 6 → 22 ≤ idx o.sel))
  conv : c.span = false → c.h.scope ≤ 1 → n.unif = true ∨ usesS n.opds = true → uniformConverged c s = true
  all : n.full = true → fullArrival c s = true
  clean : n.noPoison = false → poisonTraps c s n.opds = []
  passes : n.chk c s = []

/-- The rendezvous with the executing group's arrival in it (R188). -/
def arrivals (c : Ctx) (s : State) : Rdv :=
  let old : Rdv := (getRdv c s).getD ⟨c.pc, c.cd, [], false⟩
  { old with arr := addArrival ⟨c.group, c.set, c.act, c.word⟩ old.arr, susp := false }

/-- The executing group's arrival completes a rendezvous of set or team scope (R188-R192). -/
structure Joined (i : Instr) (n : Need) (c : Ctx) (s : State) : Prop extends Clear i n c s where
  scope : 2 ≤ c.h.scope
  meets : n.alone = false
  core : c.span = false
  full : n.part = false → fullArrival c s = true
  same : ∀ r, getRdv c s = some r → r.pc = c.pc ∧ r.cd = c.cd
  late : partLanes c s = []
  last : rdvComplete c.team (rdvSet c (dropPart c s)) (arrivals c (dropPart c s)) (dropPart c s) = true
  sound : ∀ a ∈ (arrivals c (dropPart c s)).arr, a.set.Nodup ∧ a.act.Nodup ∧ ∀ l ∈ a.act, l ∈ a.set
  lead : ∀ a, (arrivals c (dropPart c s)).arr.head? = some a → a.word = c.word
  clean : n.noPoison = false → poisonTraps (joinCtx c (arrivals c (dropPart c s))) (dropPart c s) n.opds = []
  passes : n.chk (joinCtx c (arrivals c (dropPart c s))) (dropPart c s) = []

/-- The state in which an issued instruction reads its sources: its slot is booked, its counter signals, and every thread of the issue set stands at the next word (R272, R318). -/
def settled (n : Need) (c : Ctx) (s : State) : State :=
  advance c c.group c.set (signal n.desc c [c.group] (commit c (if 2 ≤ c.h.scope then dropPart c s else s)))

/-- The same at a rendezvous: it is over, and every thread of every arrival has left it for the next word (R190). -/
def gathered (n : Need) (c : Ctx) (s : State) : State :=
  let s := dropPart c s
  let r := arrivals c s
  let c' := joinCtx c r
  forEach r.arr (fun s a =>
      (advance c' a.group a.set s).modThrs c.team a.group a.set (fun t => { t with wait := .none }))
    (putRdv c.team (rdvSet c s) none (signal n.desc c' (r.arr.map (·.group)) (commitAll (r.arr.map (fun a => (a.group, a.set))) c' s)))

/-- Each participating group and lane takes part once, its stack holds a window, and the results of earlier instructions have come. -/
structure Able (c : Ctx) (s : State) : Prop where
  once : c.lanes.Nodup
  deep : ∀ m ∈ c.lanes, 64 ≤ (s.thr (c.team, m.1, m.2)).depth
  still : ∀ m ∈ c.lanes, ∀ f ∈ (s.thr (c.team, m.1, m.2)).inflight, f.due ≤ s.now c.team
  stillP : ∀ m ∈ c.lanes, ∀ f ∈ (s.thr (c.team, m.1, m.2)).flyP, f.due ≤ s.now c.team
  stillS : ∀ g, ∀ f ∈ (s.grp c.team g).inflightS, f.due ≤ s.now c.team
  stillM : ∀ g, ∀ f ∈ (s.grp c.team g).inflightM, f.due ≤ s.now c.team
  stillX : ∀ n, ∀ f ∈ (s.gset c.team n).flyX, f.due ≤ s.now c.team
  groups : (c.mem.map Prod.fst).Nodup

/-- The instruction executes now: with this context, from this state. -/
def Runs (i : Instr) (n : Need) (s : State) (c : Ctx) (s1 : State) : Prop :=
  ((Ready i n c s ∧ s1 = settled n c s) ∨
    (∃ c0, Joined i n c0 s ∧ c = joinCtx c0 (arrivals c0 (dropPart c0 s)) ∧ s1 = gathered n c0 s)) ∧ Able c s1

/-- The live threads of a member group that its arrival mask has left out (R189). -/
def leftOut (c : Ctx) (s : State) (m : Nat × List Nat) : List Nat := (s.liveThr c.team m.1).filter (fun i => !m.2.contains i)

/-- What a `.part` instance at a rendezvous leaves beside its effect `u`, from the state `s1` in which it read its sources (R191): every member group holds the record of its outcome for the lanes that were left out, and those of them that waited at the rendezvous wait no longer. -/
structure LetGo (c : Ctx) (s1 u t : State) (out : Nat → Nat → Nat) : Prop where
  rest : t = { u with threads := t.threads, groups := t.groups }
  record : ∀ m ∈ c.mem, t.grp c.team m.1 = { u.grp c.team m.1 with
    part := (u.grp c.team m.1).part.set (c.h.scope == 3)
      ⟨leftOut c s1 m, c.pc, c.cd, true, (leftOut c s1 m).map (fun l => (l, out m.1 l))⟩ }
  groups : ∀ k : Nat × Nat, (∀ m ∈ c.mem, k ≠ (c.team, m.1)) → t.grp k.1 k.2 = u.grp k.1 k.2
  goOn : ∀ m ∈ c.mem, ∀ l ∈ leftOut c s1 m, t.thr (c.team, m.1, l) = { u.thr (c.team, m.1, l) with
    wait := if (u.thr (c.team, m.1, l)).wait = .rdv (c.h.scope == 3) then .none else (u.thr (c.team, m.1, l)).wait }
  others : ∀ k, (∀ m ∈ c.mem, ∀ l ∈ leftOut c s1 m, k ≠ (c.team, m.1, l)) → t.thr k = u.thr k

/-- Lanes that were left out of the last `.part` instance of their group stand at its instruction: they take its outcome, or wait for it (R191). -/
structure Late (i : Instr) (n : Need) (c : Ctx) (s : State) (p : PartRec) : Prop extends Clear i n c s where
  scope : 2 ≤ c.h.scope
  meets : n.alone = false
  core : c.span = false
  record : (s.grp c.team c.group).part.get? (c.h.scope == 3) = some p
  here : p.pc = c.pc ∧ p.cd = c.cd
  some : c.set.filter (fun i => p.absent.contains i) ≠ []

/-- The lanes of the issue set that were left out. -/
def lateLanes (c : Ctx) (p : PartRec) : List Nat := c.set.filter (fun i => p.absent.contains i)

/-- Lanes that were left out have taken a stored outcome (R191): they stand at the next word, each as `f` relates it to what it was, and the record names them no longer; everything else stays. -/
structure Taken (c : Ctx) (s t : State) (p : PartRec) (f : Nat → Thread → Thread → Prop) : Prop where
  rest : t = { s with threads := t.threads, groups := t.groups }
  late : ∀ l ∈ lateLanes c p, ∃ y, f l (s.thr (c.key l)) y ∧ t.thr (c.key l) = { y with pc := (c.pc + 12) % 2 ^ 64 }
  others : ∀ k, (∀ l ∈ lateLanes c p, k ≠ c.key l) → t.thr k = s.thr k
  record : t.grp c.team c.group = { s.grp c.team c.group with
    part := (s.grp c.team c.group).part.set (c.h.scope == 3) { p with absent := p.absent.filter (fun i => !(lateLanes c p).contains i) } }
  groups : ∀ k : Nat × Nat, k ≠ (c.team, c.group) → t.grp k.1 k.2 = s.grp k.1 k.2

/-! ### Results in registers -/

/-- What a destination of class 0 holds: whole registers, or a bit field of one. -/
def destOf (fl : Fill) (t : Thread) (k : Nat) : Nat :=
  match fl with
  | .regs n => (readRegs t.v n k).v
  | .part lo w => bits (t.v k).v.toNat (lo + w - 1) lo

/-- The registers that a destination touches. -/
def destRegs (fl : Fill) (k : Nat) : List Nat :=
  match fl with
  | .regs n => upFrom k n
  | .part _ _ => [k]

/-- The bits of a destination. -/
def fillBits : Fill → Nat
  | .regs n => 32 * n
  | .part _ w => w

/-- The destination lies in the window, and a bit field in its register. -/
def fillOk (fl : Fill) (k : Nat) : Prop :=
  match fl with
  | .regs n => k + n ≤ 64
  | .part lo w => k < 64 ∧ lo + w ≤ 32 ∧ 0 < w

/-- A lane instruction has left its result in every participating lane: in its destination without poison, or with SWB in the latch only, and in l0 with the older latches shifted (R173, R276, R346). -/
structure LaneResult (c : Ctx) (s1 t : State) (dsel : Nat) (fl : Fill) (val : Nat → Nat → Nat) : Prop where
  dest : isSwb dsel = false → ∀ m ∈ c.lanes,
    destOf fl (t.thr (c.team, m.1, m.2)) (idx dsel) = val m.1 m.2 % 2 ^ fillBits fl
      ∧ ∀ k ∈ destRegs fl (idx dsel), ((t.thr (c.team, m.1, m.2)).v k).p = false
  latch : ∀ m ∈ c.lanes,
    (t.thr (c.team, m.1, m.2)).l0 = BitVec.ofNat 64 (val m.1 m.2)
      ∧ (t.thr (c.team, m.1, m.2)).l1 = (s1.thr (c.team, m.1, m.2)).l0
      ∧ (t.thr (c.team, m.1, m.2)).l2 = (s1.thr (c.team, m.1, m.2)).l1

/-- Beside its destinations and the latches of the participating lanes, a lane instruction leaves everything: memory, groups, other threads, predicates, program counters, and every other register and bit (R344). -/
structure LaneFrame (c : Ctx) (s1 t : State) (dsel : Nat) (fl : Fill) : Prop where
  rest : t = { s1 with threads := t.threads }
  others : ∀ k, (∀ m ∈ c.lanes, k ≠ (c.team, m.1, m.2)) → t.thr k = s1.thr k
  kept : ∀ m ∈ c.lanes, ∃ x, x = t.thr (c.team, m.1, m.2) ∧ x = { s1.thr (c.team, m.1, m.2) with
    regs := x.regs, l0 := x.l0, l1 := x.l1, l2 := x.l2, latPipe := x.latPipe, latN := x.latN, pend := x.pend, inflight := x.inflight }
  regs : ∀ m ∈ c.lanes, ∀ n,
    (isSwb dsel = true ∨ ∀ k ∈ destRegs fl (idx dsel),
        n % (s1.thr (c.team, m.1, m.2)).depth ≠ ((s1.thr (c.team, m.1, m.2)).wb + k) % (s1.thr (c.team, m.1, m.2)).depth) →
      (t.thr (c.team, m.1, m.2)).abs n = (s1.thr (c.team, m.1, m.2)).abs n
  bits : ∀ lo w, fl = .part lo w → isSwb dsel = false → ∀ m ∈ c.lanes, ∀ b, b < 32 → (b < lo ∨ lo + w ≤ b) →
    bit ((t.thr (c.team, m.1, m.2)).v (idx dsel)).v.toNat b = bit ((s1.thr (c.team, m.1, m.2)).v (idx dsel)).v.toNat b

/-- One row of a table of instructions that leave a result in each lane: the instruction, what it asks for, its destination, what of it is written, and the value of each participating lane from the state in which sources are read. -/
structure LaneRow where
  instr : Instr
  need : Need
  dsel : Nat
  fill : Fill
  val : Ctx → State → Nat → Nat → Nat

/-- The instruction completes with the row's values. -/
def LaneRow.Lands (r : LaneRow) : Prop :=
  ∀ s c s1, Runs r.instr r.need s c s1 →
    ∃ t, exec r.instr s = .next t ∧ LaneResult c s1 t r.dsel r.fill (r.val c s1)

/-- The instruction leaves everything else; with `.part` at a rendezvous, what absent lanes get is stated apart. -/
def LaneRow.Keeps (r : LaneRow) : Prop :=
  ∀ s c s1, Runs r.instr r.need s c s1 → r.need.part = false ∨ c.h.scope ≤ 1 → ∃ t, exec r.instr s = .next t ∧ LaneFrame c s1 t r.dsel r.fill

/-- A predicate instruction has left its value in every participating lane; a write to p7 is ignored (R172). -/
structure PredResult (c : Ctx) (s1 t : State) (n : Nat) (val : Nat → Nat → Bool) : Prop where
  dest : ∀ m ∈ c.lanes, n < 7 → (t.thr (c.team, m.1, m.2)).pred n = val m.1 m.2
  true7 : ∀ k, (t.thr k).pred 7 = true

/-- It leaves everything else. -/
structure PredFrame (c : Ctx) (s1 t : State) (n : Nat) : Prop where
  rest : t = { s1 with threads := t.threads }
  others : ∀ k, (∀ m ∈ c.lanes, k ≠ (c.team, m.1, m.2)) → t.thr k = s1.thr k
  kept : ∀ m ∈ c.lanes, ∃ x, x = t.thr (c.team, m.1, m.2) ∧
    x = { s1.thr (c.team, m.1, m.2) with preds := x.preds, flyP := x.flyP }
  preds : ∀ k j, j < 8 → j ≠ n → (t.thr k).pred j = (s1.thr k).pred j

/-- One row of a table of instructions that write a predicate. -/
structure PredRow where
  instr : Instr
  need : Need
  dsel : Nat
  val : Ctx → State → Nat → Nat → Bool

/-- The instruction completes with the row's values. -/
def PredRow.Lands (r : PredRow) : Prop :=
  ∀ s c s1, Runs r.instr r.need s c s1 → ∃ t, exec r.instr s = .next t ∧ PredResult c s1 t (idx r.dsel) (r.val c s1)

/-- The instruction leaves everything else. -/
def PredRow.Keeps (r : PredRow) : Prop :=
  ∀ s c s1, Runs r.instr r.need s c s1 → r.need.part = false ∨ c.h.scope ≤ 1 → ∃ t, exec r.instr s = .next t ∧ PredFrame c s1 t (idx r.dsel)

/-- A group's s register holds a value without poison, and everything else is left. -/
structure SResult (c : Ctx) (s1 t : State) (g n v : Nat) : Prop where
  dest : (t.grp c.team g).s n = ⟨BitVec.ofNat 64 v, false⟩
  rest : t = { s1 with groups := t.groups }
  others : ∀ k, k ≠ (c.team, g) → t.grp k.1 k.2 = s1.grp k.1 k.2
  regs : ∀ k, k ≠ n → (t.grp c.team g).s k = (s1.grp c.team g).s k
  kept : ∃ x, x = t.grp c.team g ∧ x = { s1.grp c.team g with sregs := x.sregs, inflightS := x.inflightS, pendS := x.pendS }

/-- One row of a table of scalar instructions. -/
structure ScalRow where
  instr : Instr
  need : Need
  dsel : Nat
  val : Ctx → State → Nat

/-- With an active lane, the value is in the executing group's s register and nothing else has changed; without one, nothing has (R363). -/
def ScalRow.Lands (r : ScalRow) : Prop :=
  ∀ s c s1, Runs r.instr r.need s c s1 → ∃ t, exec r.instr s = .next t ∧
    (c.act ≠ [] → SResult c s1 t c.group (idx r.dsel) (r.val c s1)) ∧ (c.act = [] → t = s1)

/-! ### Tables of instructions that leave a result in each lane -/

/-- The demands of majors 0x10 to 0x16 and 0x19: at group scope a uniform-converged issue set (R345). -/
def need (h : Hdr) (eng : Nat) (opds : List Opd) : Need := { eng := eng, opds := opds, unif := h.scope == 1 }

/-- One source of type `ty`, a result of type `rty` (R346). -/
def row1 (i : Instr) (h : Hdr) (eng : Nat) (o : OpG) (ty rty : Nat) (f : Nat → Nat) : LaneRow :=
  ⟨i, need h eng [dstSwb o.d (regsOf rty), src 1 o.a (regsOf ty) aluCls], o.d, fillOf rty, fun c s g l => f (srcV c s g l o.a ty)⟩

/-- Two sources. -/
def row2 (i : Instr) (h : Hdr) (eng : Nat) (o : OpG) (ty rty : Nat) (f : Nat → Nat → Nat) : LaneRow :=
  ⟨i, need h eng [dstSwb o.d (regsOf rty), src 1 o.a (regsOf ty) aluCls, src 2 o.b (regsOf ty) aluCls], o.d, fillOf rty,
    fun c s g l => f (srcV c s g l o.a ty) (srcV c s g l o.b ty)⟩

/-- Three sources. -/
def row3 (i : Instr) (h : Hdr) (eng : Nat) (o : OpG) (ty rty : Nat) (f : Nat → Nat → Nat → Nat) : LaneRow :=
  ⟨i, need h eng [dstSwb o.d (regsOf rty), src 1 o.a (regsOf ty) aluCls, src 2 o.b (regsOf ty) aluCls, src 3 o.c (regsOf ty) aluCls],
    o.d, fillOf rty, fun c s g l => f (srcV c s g l o.a ty) (srcV c s g l o.b ty) (srcV c s g l o.c ty)⟩

/-- A source and an immediate of the type in MOD8 (R281). -/
def rowImm (i : Instr) (h : Hdr) (o : OpI) (f : Nat → Nat → Nat) : LaneRow :=
  ⟨i, need h 0 [dstSwb o.d (regsOf (modTy o)), src 1 o.a (regsOf (modTy o)) aluCls], o.d, fillOf (modTy o),
    fun c s g l => f (srcV c s g l o.a (modTy o)) (immVal (modTy o) (modRnd o) o.imm)⟩

/-- A pattern as an integer of its type. -/
def asInt (ty a : Nat) : Int :=
  match intTy ty with
  | some (sg, n) => intVal sg n a
  | none => 0

/-- R348: an exact integer result under POL 0 (wrap) or 1 (sat). -/
def underPol (ty pol : Nat) (r : Int) : Nat :=
  match intTy ty with
  | some (sg, n) => if pol == 1 then wrapN n (satI r (intMin sg n) (intMax sg n)) else wrapN n r
  | none => 0

/-- Quotient toward zero; by 0, the greatest unsigned value or −1 (R348). -/
def quot (ty : Nat) (a b : Int) : Int :=
  if b = 0 then (if tySigned ty then -1 else ((2 ^ tyBits ty - 1 : Nat) : Int)) else Int.tdiv a b

/-- Remainder of that quotient; by 0, the dividend (R348). -/
def remn (a b : Int) : Int := if b = 0 then a else a - b * Int.tdiv a b

/-- Major 0x10 on registers (Table comp-1, R348, R349). -/
def intRows (h : Hdr) (o : OpG) : List LaneRow :=
  let ty := o.ty
  let n := asInt ty
  [row2 (.addInt h o) h 0 o ty ty (fun a b => underPol ty o.pol (n a + n b)),
   row2 (.subInt h o) h 0 o ty ty (fun a b => underPol ty o.pol (n a - n b)),
   row2 (.mulInt h o) h 0 o ty ty (fun a b => underPol ty o.pol (n a * n b)),
   row2 (.mulhi h o) h 0 o ty ty (fun a b => underPol ty 0 (Int.fdiv (n a * n b) ((2 ^ tyBits ty : Nat) : Int))),
   row3 (.mad h o) h 0 o ty ty (fun a b c => underPol ty o.pol (n a * n b + n c)),
   row2 (.divInt h o) h 0 o ty ty (fun a b => underPol ty o.pol (quot ty (n a) (n b))),
   row2 (.rem h o) h 0 o ty ty (fun a b => underPol ty 0 (remn (n a) (n b))),
   row2 (.minInt h o) h 0 o ty ty (fun a b => underPol ty 0 (if n b < n a then n b else n a)),
   row2 (.maxInt h o) h 0 o ty ty (fun a b => underPol ty 0 (if n a < n b then n b else n a)),
   row1 (.absInt h o) h 0 o ty ty (fun a => underPol ty o.pol ((n a).natAbs : Int)),
   row1 (.negInt h o) h 0 o ty ty (fun a => underPol ty o.pol (-(n a))),
   ⟨.lea h o, need h 0 [dstSwb o.d 2, src 1 o.a 2 aluCls, src 2 o.b (regsOf ty) aluCls], o.d, .regs 2, fun c s g l =>
      (srcV c s g l o.a 0x31 + wrapN 64 (n (srcV c s g l o.b ty)) * 2 ^ o.flags) % 2 ^ 64⟩]

/-- Major 0x10 in its immediate forms (R281, R348, R349). -/
def intImmRows (h : Hdr) (o : OpI) : List LaneRow :=
  let ty := modTy o
  let n := asInt ty
  [rowImm (.addIntImm h o) h o (fun a b => underPol ty 0 (n a + n b)),
   rowImm (.subIntImm h o) h o (fun a b => underPol ty 0 (n a - n b)),
   rowImm (.mulIntImm h o) h o (fun a b => underPol ty 0 (n a * n b)),
   rowImm (.mulhiImm h o) h o (fun a b => underPol ty 0 (Int.fdiv (n a * n b) ((2 ^ tyBits ty : Nat) : Int))),
   rowImm (.divIntImm h o) h o (fun a b => underPol ty 0 (quot ty (n a) (n b))),
   rowImm (.remImm h o) h o (fun a b => underPol ty 0 (remn (n a) (n b))),
   rowImm (.minIntImm h o) h o (fun a b => underPol ty 0 (if n b < n a then n b else n a)),
   rowImm (.maxIntImm h o) h o (fun a b => underPol ty 0 (if n a < n b then n b else n a)),
   ⟨.leaImm h o, need h 0 [dstSwb o.d 2, src 1 o.a 2 aluCls], o.d, .regs 2, fun c s g l =>
      (srcV c s g l o.a 0x31 + wrapN 64 (n (immVal ty 0 o.imm))) % 2 ^ 64⟩]

/-- Shift left by a count of 8 bits (Table comp-3). -/
def shiftLeft (ty a b : Nat) : Nat := if tyBits ty ≤ b % 256 then 0 else a * 2 ^ (b % 256) % 2 ^ tyBits ty

/-- Shift right by a count of 8 bits, with the sign for i types and 0 for n types: the quotient by a power of two, rounded down (Table comp-3). -/
def shiftRight (ty a b : Nat) : Nat := wrapN (tyBits ty) (Int.fdiv (intVal (tySigned ty) (tyBits ty) a) ((2 ^ (b % 256) : Nat) : Int))

/-- Major 0x11 on registers (Table comp-3, R350). -/
def logicRows (h : Hdr) (o : OpG) : List LaneRow :=
  let ty := o.ty
  [row2 (.andL h o) h 0 o ty ty (fun a b => a &&& b),
   row2 (.orL h o) h 0 o ty ty (fun a b => a ||| b),
   row2 (.xorL h o) h 0 o ty ty (fun a b => a ^^^ b),
   row1 (.notL h o) h 0 o ty ty (fun a => 2 ^ tyBits ty - 1 - a),
   row2 (.shl h o) h 0 o ty ty (shiftLeft ty),
   row2 (.shr h o) h 0 o ty ty (shiftRight ty),
   row2 (.rotl h o) h 0 o ty ty (rotlOp ty),
   row1 (.popc h o) h 0 o ty 0x2F (fun a => ((upFrom 0 (tyBits ty)).filter (bit a)).length),
   row1 (.clz h o) h 0 o ty 0x2F (clzN (tyBits ty)),
   row1 (.ctz h o) h 0 o ty 0x2F (ctzN (tyBits ty)),
   row1 (.brev h o) h 0 o ty ty (brevN (tyBits ty)),
   row2 (.bfe h o) h 0 o ty ty (fun a b => bfeOp ty a (bits b 7 0) (bits b 15 8)),
   row3 (.bfi h o) h 0 o ty ty (fun a b c => bfiOp ty a b (bits c 7 0) (bits c 15 8)),
   row3 (.lop3 h o) h 0 o ty ty (lop3Op ty (bits o.flags 7 0)),
   row3 (.sel h o) h 0 o ty ty (fun a b c => (a &&& c) ||| (b &&& (2 ^ tyBits ty - 1 - c)))]

/-- Major 0x11 in its immediate forms (R281, R350). -/
def logicImmRows (h : Hdr) (o : OpI) : List LaneRow :=
  [rowImm (.andImm h o) h o (fun a b => a &&& b),
   rowImm (.orImm h o) h o (fun a b => a ||| b),
   rowImm (.xorImm h o) h o (fun a b => a ^^^ b),
   rowImm (.shlImm h o) h o (shiftLeft (modTy o)),
   rowImm (.shrImm h o) h o (shiftRight (modTy o)),
   rowImm (.rotlImm h o) h o (rotlOp (modTy o)),
   rowImm (.bfeImm h o) h o (fun a _ => bfeOp (modTy o) a (bits o.imm 7 0) (bits o.imm 15 8))]

/-- Major 0x12 on registers: the exact result, rounded once (Table comp-4, R351, R352). -/
def floatRows (h : Hdr) (o : OpG) : List LaneRow :=
  let ty := o.ty
  let x := valueOf ty
  let out := convertTo ty o.rnd o.pol
  [row2 (.addFloat h o) h 0 o ty ty (fun a b => out ((x a).add (o.rnd == 3) (x b))),
   row2 (.subFloat h o) h 0 o ty ty (fun a b => out ((x a).add (o.rnd == 3) (x b).neg)),
   row2 (.mulFloat h o) h 0 o ty ty (fun a b => out ((x a).mul (x b))),
   row3 (.fma h o) h 0 o ty ty (fun a b c => out (((x a).mul (x b)).add (o.rnd == 3) (x c))),
   row2 (.divFloat h o) h 0 o ty ty (fun a b => out ((x a).div (x b))),
   row1 (.sqrt h o) h 0 o ty ty (fun a => out (x a).sqrt),
   row2 (.minFloat h o) h 0 o ty ty (floatMinMax false ty),
   row2 (.maxFloat h o) h 0 o ty ty (floatMinMax true ty),
   row1 (.absFloat h o) h 0 o ty ty (floatSign false ty),
   row1 (.negFloat h o) h 0 o ty ty (floatSign true ty)]

/-- Major 0x12 in its immediate forms (R281, R351, R352). -/
def floatImmRows (h : Hdr) (o : OpI) : List LaneRow :=
  let ty := modTy o
  let x := valueOf ty
  let out := convertTo ty (modRnd o) 0
  [rowImm (.addFloatImm h o) h o (fun a b => out ((x a).add (modRnd o == 3) (x b))),
   rowImm (.subFloatImm h o) h o (fun a b => out ((x a).add (modRnd o == 3) (x b).neg)),
   rowImm (.mulFloatImm h o) h o (fun a b => out ((x a).mul (x b))),
   rowImm (.divFloatImm h o) h o (fun a b => out ((x a).div (x b))),
   rowImm (.minFloatImm h o) h o (floatMinMax false ty),
   rowImm (.maxFloatImm h o) h o (floatMinMax true ty)]

/-- Major 0x13, on the transcendental unit (Table comp-5, R353). -/
def transRows (h : Hdr) (o : OpG) : List LaneRow :=
  [row1 (.ex2 h o) h 1 o 0x28 0x28 (TFn.ex2).f32, row1 (.lg2 h o) h 1 o 0x28 0x28 (TFn.lg2).f32,
   row1 (.rcp h o) h 1 o 0x28 0x28 (TFn.rcp).f32, row1 (.rsqrt h o) h 1 o 0x28 0x28 (TFn.rsqrt).f32,
   row1 (.sin h o) h 1 o 0x28 0x28 (TFn.sin).f32, row1 (.cos h o) h 1 o 0x28 0x28 (TFn.cos).f32,
   row1 (.tanh h o) h 1 o 0x28 0x28 (TFn.tanh).f32, row1 (.exp h o) h 1 o 0x28 0x28 (TFn.exp).f32]

/-- A packed operation: each 16-bit half by itself (R354). -/
def rowPacked (i : Instr) (h : Hdr) (o : OpG) (useC : Bool) (f : Nat → Nat → Nat → Nat) : LaneRow :=
  ⟨i, need h 0 ([dstSwb o.d 1, src 1 o.a 1 aluCls, src 2 o.b 1 aluCls] ++ (if useC then [src 3 o.c 1 aluCls] else [])), o.d, .regs 1,
    fun c s g l =>
      let a := packedSrc c s g l o.a o.ty
      let b := packedSrc c s g l o.b o.ty
      let x := if useC then packedSrc c s g l o.c o.ty else 0
      f (bits a 15 0) (bits b 15 0) (bits x 15 0) + 2 ^ 16 * f (bits a 31 16) (bits b 31 16) (bits x 31 16)⟩

/-- An integer or floating-point element, by the type (R354). -/
def byKind (ty : Nat) (i f : Nat) : Nat := if (intTy ty).isSome then i else f

/-- Major 0x14 (R354). -/
def packedRows (h : Hdr) (o : OpG) : List LaneRow :=
  let ty := o.ty
  let n := asInt ty
  let x := valueOf ty
  let out := convertTo ty o.rnd o.pol
  [rowPacked (.add2 h o) h o false (fun a b _ => byKind ty (underPol ty o.pol (n a + n b)) (out ((x a).add (o.rnd == 3) (x b)))),
   rowPacked (.sub2 h o) h o false (fun a b _ => byKind ty (underPol ty o.pol (n a - n b)) (out ((x a).add (o.rnd == 3) (x b).neg))),
   rowPacked (.mul2 h o) h o false (fun a b _ => byKind ty (underPol ty o.pol (n a * n b)) (out ((x a).mul (x b)))),
   rowPacked (.fma2 h o) h o true (fun a b c =>
      byKind ty (underPol ty o.pol (n a * n b + n c)) (out (((x a).mul (x b)).add (o.rnd == 3) (x c)))),
   rowPacked (.min2 h o) h o false (fun a b _ => byKind ty (underPol ty 0 (if n b < n a then n b else n a)) (floatMinMax false ty a b)),
   rowPacked (.max2 h o) h o false (fun a b _ => byKind ty (underPol ty 0 (if n a < n b then n b else n a)) (floatMinMax true ty a b))]

/-- Major 0x16 (R357-R360; beside element 0 of a short immediate the element is the free value of log entry 19), with `selp` of major 0x15 and the moves of major 0x19 to a class 0 destination or the latch (Table comp-6, R364). -/
def moveRows (h : Hdr) (o : OpG) : List LaneRow :=
  let sel := bits o.flags 7 6
  let ty := o.ty
  let big := oty o
  [⟨.cvt h o, { need h 0 [dstSwb o.d (regsOf ty), src 1 o.a (regsOf big) aluCls] with
      chk := fun c _ => selTrap (!cvtSelOk ty sel) 0 c ++ selTrap (!cvtSelOk big (bits o.flags 9 8)) 1 c },
    o.d, (if tyBits ty < 32 then .part (tyBits ty * sel) (tyBits ty) else fillOf ty), fun c s g l =>
      convert big ty o.rnd o.pol (if cls o.a == 7 && bits o.flags 9 8 != 0 then pickElem o big (bits o.flags 9 8) 0
        else elemOf big (bits o.flags 9 8) (readSel c s g l o.a (regsOf big) big).v)⟩,
   ⟨.pack h o, { need h 0 [dstSwb o.d 1, src 1 o.a (regsOf big) aluCls, src 2 o.b (regsOf big) aluCls] with
      chk := fun c _ => selTrap (!packSelOk ty sel) 0 c },
    o.d, (if tyBits ty == 16 then .regs 1 else .part (2 * tyBits ty * sel) (2 * tyBits ty)), fun c s g l =>
      convert big ty o.rnd o.pol (srcV c s g l o.a big) + 2 ^ tyBits ty * convert big ty o.rnd o.pol (srcV c s g l o.b big)⟩,
   ⟨.unpack h o, { need h 0 [dstSwb o.d (regsOf big), src 1 o.a 1 aluCls] with
      chk := fun c _ => selTrap (decide (32 ≤ tyBits ty * bits o.flags 8 6)) 1 c },
    o.d, fillOf big, fun c s g l =>
      convert ty big o.rnd o.pol (if cls o.a == 7 && bits o.flags 8 6 != 0 then pickElem o ty (bits o.flags 8 6) 0
        else elemOf ty (bits o.flags 8 6) (readSel c s g l o.a 1 ty).v)⟩,
   ⟨.qnt4 h o, need h 0 [dstSwb o.d 1, src 1 o.a 1 aluCls, src 2 o.b 1 aluCls], o.d, .part (4 * bits o.flags 8 6) 4, fun c s g l =>
      qnt4Code o.rnd (srcV c s g l o.a 0x28) (srcV c s g l o.b 0x28)⟩,
   ⟨.dq4 h o, need h 0 [dstSwb o.d 1, src 1 o.a 1 aluCls, src 2 o.b 1 aluCls], o.d, .regs 1, fun c s g l =>
      roundTo 0x28 o.rnd ((valueOf 0x26 (if cls o.a == 7 && bits o.flags 8 6 != 0 then pickElem o 0x26 (bits o.flags 8 6) 0
        else elemOf 0x26 (bits o.flags 8 6) (readSel c s g l o.a 1 0x26).v)).mul
        (valueOf 0x28 (srcV c s g l o.b 0x28)))⟩,
   ⟨.selp h o, need h 0 [dstSwb o.d (regsOf ty), src 1 o.a (regsOf ty) aluCls, src 2 o.b (regsOf ty) aluCls, src 3 o.c 1 [3]],
    o.d, fillOf ty, fun c s g l => if s.pred (c.team, g, l) (idx o.c) c.nosb then srcV c s g l o.a ty else srcV c s g l o.b ty⟩]

/-- Group operations with a result in each lane: `shfl`, `scan`, `match` (Table comp-9, R361, R362). -/
def groupRows (h : Hdr) (o : OpG) : List LaneRow :=
  [⟨.shfl h o, { eng := 0, opds := [dstSwb o.d (regsOf o.ty), src 1 o.a (regsOf o.ty) aluCls, src 2 o.b 1 [0, 2, 7]] },
    o.d, fillOf o.ty, fun c s g l =>
      let n := partNum c s (g, l)
      let b := srcV c s g l o.b 0x2E
      let m := atNum c s (match bits o.flags 4 3 with
        | 0 => sext 32 b
        | 1 => (n : Int) - sext 32 b
        | 2 => (n : Int) + sext 32 b
        | _ => ((n ^^^ b : Nat) : Int))
      match m with
      | some m => srcV c s m.1 m.2 o.a o.ty
      | none => srcV c s g l o.a o.ty⟩,
   ⟨.scan h o, { eng := 0, opds := [dstSwb o.d (regsOf o.ty), src 1 o.a (regsOf o.ty) aluCls], part := bit o.flags 9 },
    o.d, fillOf o.ty, fun c s g l =>
      foldVals (bits o.flags 2 0) o.ty o.rnd o.pol ((c.lanes.filter (fun m =>
        decide (partNum c s m < partNum c s (g, l)) || (!bit o.flags 5 && partNum c s m == partNum c s (g, l)))).map
          (fun m => srcV c s m.1 m.2 o.a o.ty))⟩,
   ⟨.matchV h o, { eng := 0, opds := [dst 0 o.d 4 [0], src 1 o.a (regsOf o.ty) aluCls] }, o.d, .regs 4, fun c s g l =>
      (lanesOf ((c.lanes.filter (fun m => m.1 == g && srcV c s g m.2 o.a o.ty == srcV c s g l o.a o.ty)).map Prod.snd)).toNat⟩]

/-! ### Tables of instructions that write a predicate or an s register -/

/-- Majors 0x15, 0x18 and 0x01: comparisons, predicate logic, `ssetp` and `vote` (Tables comp-6, comp-9, comp-11, R355). -/
def predRows (h : Hdr) (o : OpG) : List PredRow :=
  let comb := bits o.flags 5 4
  let logic := fun (i : Instr) (two : Bool) (f : Bool → Bool → Bool) =>
    (⟨i, need h 0 ([dst 0 o.d 1 [3], src 1 o.a 1 [3]] ++ (if two then [src 2 o.b 1 [3]] else [])), o.d, fun c s g l =>
      f (s.pred (c.team, g, l) (idx o.a) c.nosb) (s.pred (c.team, g, l) (idx o.b) c.nosb != bit o.flags 0)⟩ : PredRow)
  [⟨.setp h o, need h 0 ([dst 0 o.d 1 [3], src 1 o.a (regsOf o.ty) aluCls, src 2 o.b (regsOf o.ty) aluCls]
      ++ (if comb != 0 then [src 3 o.c 1 [3]] else [])), o.d, fun c s g l =>
      let x := cmpTy (bits o.flags 3 0) o.ty (srcV c s g l o.a o.ty) (srcV c s g l o.b o.ty)
      let p := s.pred (c.team, g, l) (idx o.c) c.nosb
      if comb = 1 then x && p else if comb = 2 then x || p else if comb = 3 then x != p else x⟩,
   logic (.pand h o) true (· && ·), logic (.por h o) true (· || ·), logic (.pxor h o) true (· != ·),
   logic (.pnot h o) false (fun a _ => !a),
   ⟨.ssetp h o, { eng := 0, opds := [dst 0 o.d 1 [3], src 1 o.a 1 sCls, src 2 o.b 1 sCls], unif := true }, o.d, fun c s _ _ =>
      cmpTy (bits o.flags 3 0) o.ty (uVal c s o.a o.ty) (uVal c s o.b o.ty)⟩]

/-- A scalar operation on two sources (R363). -/
def scal (i : Instr) (o : OpG) (f : Nat → Nat → Nat) : ScalRow :=
  ⟨i, { eng := 0, opds := [dst 0 o.d 1 [2], src 1 o.a 1 sCls, src 2 o.b 1 sCls], unif := true }, o.d, fun c s =>
    sExtend o.ty (f (uVal c s o.a o.ty) (uVal c s o.b o.ty))⟩

/-- Major 0x18 on registers (Table comp-11). -/
def scalRows (h : Hdr) (o : OpG) : List ScalRow :=
  let ty := o.ty
  let n := asInt ty
  [scal (.sadd h o) o (fun a b => underPol ty o.pol (n a + n b)), scal (.ssub h o) o (fun a b => underPol ty o.pol (n a - n b)),
   scal (.smul h o) o (fun a b => underPol ty o.pol (n a * n b)),
   scal (.smin h o) o (fun a b => underPol ty 0 (if n b < n a then n b else n a)),
   scal (.smax h o) o (fun a b => underPol ty 0 (if n a < n b then n b else n a)),
   scal (.sand h o) o (fun a b => a &&& b), scal (.sor h o) o (fun a b => a ||| b), scal (.sxor h o) o (fun a b => a ^^^ b),
   scal (.sshl h o) o (shiftLeft ty), scal (.sshr h o) o (shiftRight ty),
   ⟨.smov h o, { eng := 0, opds := [dst 0 o.d 1 [2], src 2 o.b 1 sCls], unif := true }, o.d, fun c s => sExtend ty (uVal c s o.b ty)⟩]

/-- A scalar operation in its immediate form (R281, R363). -/
def scalImm (i : Instr) (o : OpI) (f : Nat → Nat → Nat) : ScalRow :=
  ⟨i, { eng := 0, opds := [dst 0 o.d 1 [2], src 1 o.a 1 sCls], unif := true }, o.d, fun c s =>
    sExtend (modTy o) (f (uVal c s o.a (modTy o)) (immVal (modTy o) 0 o.imm))⟩

/-- Major 0x18 in its immediate forms (Table comp-11). -/
def scalImmRows (h : Hdr) (o : OpI) : List ScalRow :=
  let ty := modTy o
  let n := asInt ty
  [scalImm (.saddImm h o) o (fun a b => underPol ty 0 (n a + n b)), scalImm (.ssubImm h o) o (fun a b => underPol ty 0 (n a - n b)),
   scalImm (.smulImm h o) o (fun a b => underPol ty 0 (n a * n b)),
   scalImm (.sminImm h o) o (fun a b => underPol ty 0 (if n b < n a then n b else n a)),
   scalImm (.smaxImm h o) o (fun a b => underPol ty 0 (if n a < n b then n b else n a)),
   scalImm (.sandImm h o) o (fun a b => a &&& b), scalImm (.sorImm h o) o (fun a b => a ||| b), scalImm (.sxorImm h o) o (fun a b => a ^^^ b),
   scalImm (.sshlImm h o) o (shiftLeft ty), scalImm (.sshrImm h o) o (shiftRight ty),
   ⟨.smovImm h o, { eng := 0, opds := [dst 0 o.d 1 [2]], unif := true }, o.d, fun _ _ => sExtend ty (immVal ty 0 o.imm)⟩]

/-! ### Other instructions -/

/-- The demands of a load of an address form (R365, R367, R371): a class 0 destination for its elements, the address, no acquire outstanding, and no lane whose address fails. -/
def loadNeed (f : AddrForm) (o : OpM) : Need where
  eng := 2
  opds := [dst 0 o.d (2 ^ o.vec * regsOf o.ty) [0], src 1 o.a f.regs f.cls]
  hold := acqHolds
  chk := addrChk f o.a o.off (2 ^ o.vec * tySize o.ty)

/-- The demands of the uniform load (R373): s registers for its elements, and the lowest active lane's address. -/
def sldNeed (o : OpM) : Need where
  eng := 2
  opds := [dst 0 o.d (2 ^ o.vec) [24], src 1 o.a 2 [2, 60]]
  hold := acqHolds
  chk := fun c s =>
    match c.act with
    | [] => []
    | l :: _ =>
      match addrOf c s c.group l .generic o.a o.off (2 ^ o.vec * tySize o.ty) with
      | .error e => [⟨13, e, addrShown c s c.group l .generic o.a o.off, c.act, c.group⟩]
      | .ok _ => []

/-- The demands of a store of an address form (R365, R367, R372): a releasing store also waits for its scope's writes and takes their errors (R258, R259). -/
def storeNeed (f : AddrForm) (o : OpM) : Need where
  eng := 2
  opds := [src 1 o.a f.regs f.cls, src 2 o.b (2 ^ o.vec * regsOf o.ty) (if o.vec == 0 && tyBits o.ty ≤ 32 then [0, 2, 60, 7] else [0])]
  hold := fun c s => acqHolds c s || (o.ord == 2 && relHolds o.msc c s)
  chk := fun c s => addrChk f o.a o.off (2 ^ o.vec * tySize o.ty) c s ++ (if o.ord == 2 then relTraps o.msc c s else [])

/-- The demands of an atomic (R377, R378): compare-and-swap has two source values. -/
def atomNeed (op : Nat) (h : Hdr) (o : OpM) : Need where
  eng := 2
  opds := [dst 0 o.d (regsOf o.ty) [0], src 1 o.a 2 [0, 2, 60],
    if op == 7 then src 2 o.b (if cls o.b == 2 then 2 else 2 * regsOf o.ty) [0, 23] else src 2 o.b (regsOf o.ty) [0, 2, 60, 7]]
  unif := h.scope == 1
  hold := fun c s => acqHolds c s || (2 ≤ o.ord && relHolds o.msc c s)
  chk := fun c s => atomChk o.ty o.a o.off false c s ++ (if 2 ≤ o.ord then relTraps o.msc c s else [])

/-- The demands of a reduction (R377, R378, R379): with `.ord` or `.cnt` also the record in an s register. -/
def redNeed (h : Hdr) (o : OpM) : Need where
  eng := 2
  opds := (if bits o.modm 2 1 != 0 then [src 0 o.d 1 [2]] else []) ++ [src 1 o.a 2 [0, 2, 60], src 2 o.b (regsOf o.ty) [0, 2, 60, 7]]
  unif := h.scope == 1
  part := bit o.modm 0
  hold := fun c s => acqHolds c s || (o.ord == 2 && relHolds o.msc c s)
  chk := fun c s => recordChk o c s ++ atomChk o.ty o.a o.off (bit o.modm 1) c s ++ (if o.ord == 2 then relTraps o.msc c s else [])

/-- The demands of a spill or fill of the window (R338). -/
def windowNeed (fill : Bool) (o : OpI) : Need where
  eng := 0
  opds := if bit o.mod8 0 then [] else [src 1 o.a 1 [0, 2, 60, 7]]
  hold := windowHolds fill o
  chk := windowChk fill o

/-- The demands of a tensor load (R375): a class 0 destination, coordinates, and a slot whose shape fits with no lane's element failing. -/
def tldNeed (o : OpT) : Need where
  eng := 2
  opds := [dst 0 o.data (2 ^ o.vec * regsOf o.ty) [0]] ++
    (if cls o.coord == 0 then (upFrom 0 o.nc).map (fun k => src 1 (o.coord + k) 1 [0]) else [src 1 o.coord o.nc [23]])
  recalled := true
  hold := acqHolds
  chk := tensorChk o

/-- The demands of a tensor store (R375). -/
def tstNeed (o : OpT) : Need where
  eng := 2
  opds := [src 0 o.data (2 ^ o.vec * regsOf o.ty) [0]] ++
    (if cls o.coord == 0 then (upFrom 0 o.nc).map (fun k => src 1 (o.coord + k) 1 [0]) else [src 1 o.coord o.nc [23]])
  recalled := true
  hold := fun c s => acqHolds c s || (o.ord == 2 && relHolds o.msc c s)
  chk := fun c s => tensorChk o c s ++ (if o.ord == 2 then relTraps o.msc c s else [])

/-- The demands of a wait on synchronisation words (R383, R211): at most 128 issue sets of a core wait. -/
def syncwaitNeed (h : Hdr) (o : OpM) : Need where
  eng := 2
  opds := [dst 0 o.d 1 (if h.scope == 1 then [2] else [0]), src 1 o.a 1 (if h.scope == 1 then [2, 60, 7] else [0, 2, 60, 7]), src 2 o.b 1 [0, 2, 7]]
  unif := h.scope == 1
  hold := fun c s => acqHolds c s || decide (128 ≤ coreWaits s c.team)
  chk := syncChk h o

/-- The demands of an addition to synchronisation words (R384). -/
def syncaddNeed (h : Hdr) (o : OpM) : Need where
  eng := 2
  opds := [src 1 o.a 1 (if h.scope == 1 then [2, 60, 7] else [0, 2, 60, 7]), src 2 o.b 1 (if h.scope == 1 then [2, 60, 7] else [0, 2, 60, 7])]
  unif := h.scope == 1
  hold := fun c s => acqHolds c s || (o.ord == 2 && relHolds o.msc c s)
  chk := fun c s => syncChk h o c s ++ (if o.ord == 2 then relTraps o.msc c s else [])

/-- The demands of `mapset` (R393): a pair of s registers with the map, and one with its place. -/
def mapsetNeed (o : OpE) : Need where
  eng := 2
  opds := [src 1 o.a 2 [22], src 2 o.b 1 [2]]
  unif := true
  recalled := true
  hold := acqHolds
  chk := mapsetChk o

/-- One row of a table of instructions whose next state is given outright, from the context and the state in which they read. -/
structure EffRow where
  instr : Instr
  need : Need
  next : Ctx → State → State

/-- The instruction completes in that state. -/
def EffRow.Lands (r : EffRow) : Prop :=
  ∀ s c s1, Runs r.instr r.need s c s1 → r.need.part = false ∨ c.h.scope ≤ 1 → exec r.instr s = .next (r.next c s1)

/-- At a rendezvous a `.part` instance also lets the lanes go that it left out, with the outcome `out` that they will take (R191). -/
def EffRow.LandsPart (r : EffRow) (out : Ctx → State → Nat → Nat → Nat) : Prop :=
  ∀ s c s1, Runs r.instr r.need s c s1 → r.need.part = true → r.need.alone = false → 2 ≤ c.h.scope →
    ∃ t, exec r.instr s = .next t ∧ LetGo c s1 (r.next c s1) t (out c s1)

/-- Every active lane of the executing group has become `f` of itself; other threads, and everything that is no thread, stay. -/
structure ThreadsBecome (c : Ctx) (s1 t : State) (f : Nat → Thread → Thread) : Prop where
  rest : t = { s1 with threads := t.threads }
  others : ∀ k, (∀ l ∈ c.act, k ≠ c.key l) → t.thr k = s1.thr k
  act : ∀ l ∈ c.act, t.thr (c.key l) = f l (s1.thr (c.key l))

/-- A global line that an access meets in its own unit: its home and its attributes are known at the interface, its page is not never-cached and is not being flipped, no access to it is under way, and a write-combining entry that it has holds nibbles of bytes. -/
structure LineAtHand (s : State) (u ctx va : Nat) : Prop where
  translated : ctx ≠ 0
  placed : (s.plc.get? (niOf u, ctx, va / 2 ^ 16)).isSome = true
  known : ∃ x, atcFind s (niOf u) ctx (va / 128 * 128) = some x ∧ x.home ≠ 3
  still : flipping s ctx (va / 128 * 128) = false
  quiet : ∀ e ∈ s.accs, e.1 < s.nextId ∧ (e.2.ctx ≠ ctx ∨ e.2.line ≠ va / 128)
  whole : ∀ w, s.wcs.get? (u, ctx, va / 128) = some w → ∀ x ∈ w.cells, x.2.1 ≤ 3

/-- An entry of a write-combining store holds bytes from an address on. -/
def EntryHolds (w : Wcs) (va : Nat) (l : List Byte) : Prop := ∀ k b, l[k]? = some b → w.cells.get? (va % 128 + k) = some (3, b)

/-- The rendezvous of a scope that a group takes part in: of its team, or of its set (R188). -/
def rdvOf (scope team group : Nat) (s : State) : Option Rdv :=
  if scope = 3 then (s.team team).rdv
  else
    match s.setOf team group with
    | none => none
    | some n => (s.gset team n).rdv

/-- What a call has left in a thread (R168, R322): the window has moved up by the frame, the call depth is one more, v62 and v63 hold the return address, and every register that the caller's window shared or held below stays. -/
def Called (f ra tgt : Nat) (x y : Thread) : Prop :=
  y = { x with wb := x.wb + f, cd := x.cd + 1, pc := tgt, regs := y.regs, inflight := y.inflight, pend := y.pend }
    ∧ y.v 62 = ⟨BitVec.ofNat 32 ra, false⟩ ∧ y.v 63 = ⟨BitVec.ofNat 32 (ra / 2 ^ 32), false⟩
    ∧ ∀ n, x.lo ≤ n → n < x.wb + 64 → n < x.wb + f + 62 → y.abs n = x.abs n

/-- Each active lane's destination of `n` registers holds a value without poison; its latches, every other register, other threads and everything else stay. -/
structure Wrote (c : Ctx) (s1 t : State) (d n : Nat) (val : Nat → Nat) : Prop where
  dest : ∀ l ∈ c.act, (readRegs (t.thr (c.key l)).v n (idx d)).v = val l % 2 ^ (32 * n) ∧ (readRegs (t.thr (c.key l)).v n (idx d)).p = false
  rest : t = { s1 with threads := t.threads }
  others : ∀ k, (∀ l ∈ c.act, k ≠ c.key l) → t.thr k = s1.thr k
  kept : ∀ l ∈ c.act, ∃ x, x = t.thr (c.key l) ∧ x = { s1.thr (c.key l) with regs := x.regs, pend := x.pend, inflight := x.inflight }

/-- A command or operation has been sent to its unit's queue: it stands there with what the instruction names, its counter raised, and its unit's event is due. -/
structure Sent (c : Ctx) (s1 t : State) (opc mode place : Nat) (word : Option Nat) (a b x : List Nat) (ev : Instr) : Prop where
  op : ∃ id p, (id, p) ∈ t.ops ∧ (⟨ev, .ofK id, t.ncyc, 0⟩ : Due) ∈ t.agenda
    ∧ p.opc = opc ∧ p.mode = mode ∧ p.place = place ∧ p.word = word ∧ p.a = a ∧ p.b = b ∧ p.c = x
    ∧ p.team = c.team ∧ p.cluster = (s1.team c.team).cluster ∧ p.core = (s1.team c.team).core ∧ p.stage = 0
    ∧ p.sig = (if sigOf c < 6 then some (c.mem.map Prod.fst, sigOf c) else none)

/-- One row of a table of commands: what is sent, for an instance with an active lane. -/
structure SendRow where
  instr : Instr
  need : Need
  ok : Ctx → State → Prop
  opc : Nat
  mode : Nat
  place : Ctx → State → Nat
  word : Option Nat
  a : Ctx → State → List Nat
  b : Ctx → State → List Nat
  x : Ctx → State → List Nat
  ev : Instr

/-- The instruction completes: the operation has been sent, or with no active lane only its counter signals. -/
def SendRow.Lands (r : SendRow) : Prop :=
  ∀ s c s1, Runs r.instr r.need s c s1 → ∃ t, exec r.instr s = .next t
    ∧ (c.act ≠ [] → r.ok c s1 → Sent c s1 t r.opc r.mode (r.place c s1) r.word (r.a c s1) (r.b c s1) (r.x c s1) r.ev)
    ∧ (c.act = [] → t = sigSoon c s1)

/-- One row of a table of events: when its own effect happens, and the next state. -/
structure EvRow where
  instr : Instr
  acts : State → Prop
  next : State → State

/-- The event completes in that state. -/
def EvRow.Lands (r : EvRow) : Prop := ∀ s, r.acts s → exec r.instr s = .next (r.next s)

/-! ### Messages at their home, and nodes that start -/

/-- A request `m`, which has its place in an input port, is at its home and has its turn there: it goes on in the state `u` as the message `r` (R49, R52). -/
structure HomeTurn (s : State) (m : Msg) (u : State) (r : Msg) : Prop where
  home : m.at_ = m.dst
  turn : ∃ q, enterPort m s = some q ∧ homeTurn s.ev.k q s = (u, r, true)
  still : flipping s m.ctx (m.line * 128) = false
  noTree : s.trees.get? (m.at_, m.ctx, m.line) = none

/-- The slice of the line at its home serves it: no tree entry is there, the line is writable, readable and not an object's, and its host sectors are held for a write (R38, R62 to R64). -/
structure Serves (s : State) (m : Msg) (c : SliceLn) (u : State) (r : Msg) : Prop extends HomeTurn s m u r where
  slice : s.slices.get? (m.ctx, m.line) = some c
  plain : c.obj = false
  write : c.attr.w = true
  cached : c.attr.home ≠ 3
  good : s.badLine c.attr.host c.pa 128 = false
  held : c.attr.host = true → hostHeld s c.pa 128 true = true

/-- The request is for a never-cached page, with its translation in the home port's cache and D set (R64, R113, R116). -/
structure NeverCached (s : State) (m : Msg) (x : Xl) (u : State) (r : Msg) : Prop extends HomeTurn s m u r where
  noSlice : s.slices.get? (m.ctx, m.line) = none
  ctx : m.ctx ≠ 0
  xl : s.tlbFind m.at_ m.ctx (m.line * 128) = some x
  never : x.attr.home = 3
  write : x.attr.w = true
  plain : x.obj = false
  dirty : x.d = true
  good : s.badLine x.attr.host (x.phys (m.line * 128)) 128 = false
  up : x.attr.host = true → 2 ≤ s.regs.khl.state

/-- The node that the event names runs: its context may run, and its type part is read, now or before. `s1` is the state in which it acts (R92). -/
structure NodeRuns (s : State) (R : Run) (N : NodeSt) (s1 : State) : Prop where
  run : s.runs.get? s.ev.k = some R
  ctx : ∃ c, s.ctxs.get? R.ctx = some c ∧ c.dying = false ∧ c.suspended = false
  part : ((s.node s.ev.k s.ev.a).begun = true ∧ N = s.node s.ev.k s.ev.a ∧ s1 = s) ∨
    ((s.node s.ev.k s.ev.a).begun = false ∧ R.fail = none ∧ ∃ s0 x, vaNum R.ctx (R.base + 64 + 64 * s.ev.a) 48 s = (s0, .ok x)
      ∧ N = { s.node s.ev.k s.ev.a with part := x, phase := 2, start := s0.ncyc } ∧ s1 = s0.modNode s.ev.k s.ev.a (fun _ => N))

/-- A unit's event acts on an operation in flight that its unit has taken. -/
structure Running (s : State) (p : AOp) : Prop where
  op : s.ops.get? s.ev.k = some p
  taken : p.stage = 1

end Sys2Proof
end

