-- ==== Sys2Proof/Certificates/Slice0/Obligations.lean ====
section
/-! DEFINITION. The statements for the provers: each formalises numbered rules of spec/, or says what the model derives from them. -/

open Sys2Proof Sys2Proof.Machine

/-! ### Encoding -/

/-- The words that spec/ writes out in its examples decode to the instructions that they stand for, bit by bit from Tables enc-1 to enc-7 (R268, R269). -/
def Obligations.SampleWordsDecode : Prop :=
  decodeWord 0x12030820_80100150_083A0000 = .ok (.fma ⟨0, false, 2, 2, 0, 2, false, false⟩ ⟨4, 1, 320, 131, 0x28, 0, 0, 0⟩)
    ∧ decodeWord 0x10801C0E_00140500_0003E8B8 = .ok (.addIntImm ⟨0, false, 7, 0, 7, 0, false, false⟩ ⟨5, 5, 1000, 0xB8⟩)
    ∧ decodeWord 0x15001C0E_03040200_C00A0002 = .ok (.setp ⟨0, false, 7, 0, 7, 0, false, false⟩ ⟨193, 2, 3, 0, 0x28, 0, 0, 2⟩)
    ∧ decodeWord 0x20000404_00180200_23780801 = .ok (.ld ⟨0, false, 1, 0, 2, 0, false, false⟩ ⟨6, 2, 0, 4, 1, 0x2F, 64, 0, 1⟩)
    ∧ decodeWord 0x30029C02_02108500_04080210 = .ok (.mmul ⟨2, false, 7, 0, 1, 0, false, false⟩ ⟨132, 133, 0, 1, 0, 1, 0x210⟩)

/-- Every well-formed instruction of Table enc-7, with every operand at every value that its encoding admits, is the decoding of its word. -/
def Obligations.EncodedInstructionsDecode : Prop :=
  ∀ i, wellFormed i = true → ∀ w, encode i = some w → w < 2 ^ 96 ∧ decodeWord w = .ok i

/-- A 96-bit word that decodes is the word of its instruction, which is well-formed: each word has one meaning. -/
def Obligations.DecodedWordsEncode : Prop :=
  ∀ w i, w < 2 ^ 96 → decodeWord w = .ok i → wellFormed i = true ∧ encode i = some w

/-! ### Steps -/

/-- A step runs the decoded instruction. A core whose only issue set is `c`: its 12 bytes are fetched and decode, and the step is that instruction at that state, with the pipe that its slot takes, and then the groups' ages and time advance; when it would enter a slot that its engine does not accept, only they do (R148, R149, R268). Of several issue sets, the leader's slot issues, each group's decoded instruction after the other (R150). The only ready thread of a Span core runs likewise (R164). An event whose turn comes runs with its operands and leaves the agenda, an error that is due strikes, and with nothing to act only time passes (R340). The agenda of events, the choice of which unit acts, and the cycles that pass are the model's (log entries 2 to 5). -/
def Obligations.StepRunsDecodedInstruction : Prop :=
  (∀ s k c s' w i eng t, dueUpset s.fresh = none → choose s.fresh = .core k →
    (coreGroups s.fresh k).flatMap (fun g => groupTurn (canIssue runWord s.fresh) s.fresh g.1 g.2) = [c] →
    fetchWord { s.fresh with cur := c } = (s', .word w) → decodeWord w = .ok i → eng = engineOf (bits w 95 80) →
    exec i { s' with cur := c, slot := some (s'.choosePipe c.team c.group eng, false) } = .next t →
    ((entered t = false ∨ accepts s' k c.team eng = true) → step s = .next (passTime { ageCore k [] (noSlot t) with crossed := [] }))
      ∧ (entered t = true → accepts s' k c.team eng = false →
          step s = .next (passTime { ageCore k [(c.team, c.group)] s' with crossed := [] })))
  ∧
  ((∀ s k a b cs s1 l d t, dueUpset s.fresh = none → choose s.fresh = .core k →
      (coreGroups s.fresh k).flatMap (fun g => groupTurn (canIssue runWord s.fresh) s.fresh g.1 g.2) = a :: b :: cs →
      (a :: b :: cs).foldl (look runWord) (s.fresh, []) = (s1, l) → leader s1 k l = some d →
      runSlot runWord (slotPipe s1 d.eng (slotWith s1 l d)) (slotWith s1 l d) s1 = .next t →
      step s = .next (passTime { ageCore k (l.map (fun e => (e.cur.team, e.cur.group))) (noSlot t) with crossed := [] }))
    ∧ (∀ p d l s i t, decodeWord d.word = .ok i → exec i { s with cur := d.cur, slot := some (p, entered s) } = .next t →
        runSlot runWord p (d :: l) s = runSlot runWord p l t)
    ∧ ∀ s k x key s' w i t, dueUpset s.fresh = none → choose s.fresh = .span k → spanThreads s.fresh k = [(x, key)] → x < 4 →
        fetchWord { s.fresh with cur := ⟨key.1, key.2.1, [key.2.2]⟩ } = (s', .word w) → decodeWord w = .ok i → exec i s' = .next t →
        t ≠ { s.fresh with cur := ⟨key.1, key.2.1, [key.2.2]⟩ } →
        step s = .next (passTime { t with spanLast := t.spanLast.set k x, crossed := [] }))
  ∧
  ((∀ s n e s', dueUpset s.fresh = none → choose s.fresh = .event n → takeEvent n s.fresh = some (e, s') →
      step s = afterExec (exec e s') ∧ s'.agenda = s.agenda.eraseIdx n)
    ∧ (∀ s u s', dueUpset s.fresh = some (u, s') → step s = .next (passTime (applyUpset u s')))
    ∧ ∀ s, dueUpset s.fresh = none → choose s.fresh = .idle → step s = .next (passTime { s.fresh with crossed := [] }))

/-- The window registers show their reset values (Tables package-5 to package-7, package-10, links-3, host-3, host-8, fabric-5, fabric-8 to fabric-10, xlate-5 to xlate-10, sched-3, core-2, matrix-4), and nothing is placed or listed. That memory lists nothing and that nothing is placed is the model's choice (log entries 5, 6 and 7). -/
def Obligations.ResetValues : Prop :=
  (∀ r : WReg, regGet State.reset r = match r with
      | .pwrcap => 3000
      | .combwin => 2 ^ 31 + 2048
      | .schedCfg => 256 * 2 ^ 48 + 4 * 2 ^ 40 + 16 * 2 ^ 32 + 2
      | .simtCfg => 1048576 * 2 ^ 40 + 8192 * 2 ^ 24 + 1024 * 2 ^ 8
      | .matrixCfg => 1048576 * 2 ^ 40
      | .vfstat _ => 80 * 2 ^ 7
      | .vflim _ => 120 * 2 ^ 7 + 80
      | _ => 0)
    ∧ windowRead State.reset 0x8 4 = 3000
    ∧ windowRead State.reset 0x200 4 = 2 ^ 31 + 2048
    ∧ windowRead State.reset 0x210 8 = 1048576 * 2 ^ 40 + 8192 * 2 ^ 24 + 1024 * 2 ^ 8
    ∧ (∀ b, b < 8 → windowRead State.reset (0x100000 + 0x10000 * b) 4 = 80 * 2 ^ 7
        ∧ windowRead State.reset (0x100000 + 0x10000 * b + 8) 4 = 120 * 2 ^ 7 + 80
        ∧ windowRead State.reset (0x100000 + 0x10000 * b + 0x10) 4 = 0)
    ∧ State.reset.mem = [] ∧ State.reset.threads = [] ∧ State.reset.ctxs = []

/-- Reset lists no byte, which is the canonical form of both memories. That memory lists nothing at reset is the model's choice (log entry 6). -/
def Obligations.ResetInv : Prop :=
 MemInv State.reset

/-- Every step, whether an instruction or an event, keeps the canonical form of device and host memory: equal contents are equal lists. The canonical form, and that an unlisted byte reads as 0, are the model's choice (log entry 6). -/
def Obligations.StepKeepsInv : Prop :=
 ∀ s t, MemInv s → step s = .next t → MemInv t

/-- A word that is no instruction raises illegal_instruction with INFO = OPC over its issue set, once the counters that its header waits for are 0 (R290 step 1, R272, R194). A trap in a handler, or without a handler, is unresolved: the grid has ended, no thread of its teams is live, and its failure is kept with the frame (R96, R194). -/
def Obligations.UndecodedWordsAndUnresolvedTraps : Prop :=
  (∀ s w e, (∀ i, decodeWord w ≠ .ok i) →
    (s.thr (s.cur.team, s.cur.group, s.cur.set.headD 0)).span = none →
    (∀ k, k < 6 → bit (hdrOf w).waitm k = true → s.counter s.cur.team s.cur.group k = 0) →
    (s.grp s.cur.team s.cur.group).trap.active = false → s.handlerEntry s.cur.team = some e → s.cur.set.Nodup →
    ∃ t, runWord w s = .next t ∧
      (t.grp s.cur.team s.cur.group).trap.kind = 2 ∧ (t.grp s.cur.team s.cur.group).trap.info = bits w 95 80
      ∧ (t.grp s.cur.team s.cur.group).trap.active = true
      ∧ (t.grp s.cur.team s.cur.group).trap.pc = (s.thr (s.cur.team, s.cur.group, s.cur.set.headD 0)).pc
      ∧ (t.grp s.cur.team s.cur.group).trap.lanes = lanesOf s.cur.set
      ∧ (∀ l ∈ s.cur.set, (t.thr (s.cur.team, s.cur.group, l)).pc = e) ∧ t.mem = s.mem ∧ t.hmem = s.hmem)
  ∧
  (∀ a g set scope pc cd tr s, ((s.grp a g).trap.active = true ∨ s.handlerEntry a = none) → (s.grid a).ended = false →
    (s.grids.get? (s.team a).grid).isSome = true → (s.teams.get? a).isSome = true →
    (enterTrap a g set scope pc cd tr s).failed = s.failed ++ [⟨(s.team a).grid, 2, (s.team a).lin,
        ⟨true, tr.kind, scope, tr.group, cd, tr.info % 2 ^ 32, pc, tr.va % 2 ^ 57, lanesOf tr.lanes⟩⟩]
      ∧ ((enterTrap a g set scope pc cd tr s).grid a).ended = true
      ∧ (∀ m l, ((enterTrap a g set scope pc cd tr s).thr (a, m, l)).live = false)
      ∧ (enterTrap a g set scope pc cd tr s).mem = s.mem)

/-! ### Traps -/

/-- Taking a trap (R193, R194): the frame is saved, ACTIVE is set, every thread of the issue set stands at the handler, and everything else stays as the instruction's checks have left it: the register window, the predicates, the masks, memory, other threads and groups. The record of a failed store is cleared when store_error is taken, which is the model's reading (log entry 18). An instruction that meets several conditions takes the one with the lowest code (R193). -/
def Obligations.TrapsEnterTheHandler : Prop :=
  (∀ i e d s c tr pc u, exec i s = .next (issue i e d s) → mkCtx i e s = some c → held i d c s = false → c.span = false →
    (c.h.scope ≤ 1 ∨ d.alone = true) → c.set.Nodup → lowest (localTraps i d c s) = some tr → u = d.seen c s →
    (u.grp c.team c.group).trap.active = false → u.handlerEntry c.team = some pc →
    ∃ t, exec i s = .next t ∧ t = { u with threads := t.threads, groups := t.groups }
      ∧ (∀ k, (∀ l ∈ c.set, k ≠ c.key l) → t.thr k = u.thr k)
      ∧ (∀ l ∈ c.set, t.thr (c.key l) = { u.thr (c.key l) with
          pc := pc, wait := .none, latPipe := none, storeErr := if tr.kind = 14 then [] else (u.thr (c.key l)).storeErr })
      ∧ t.grp c.team c.group = { u.grp c.team c.group with
          trap := ⟨true, tr.kind, c.h.scope, tr.group, c.cd, tr.info % 2 ^ 32, c.pc, tr.va % 2 ^ 57, lanesOf tr.lanes⟩, handler := c.set }
      ∧ (∀ a g, (a, g) ≠ (c.team, c.group) → t.grp a g = u.grp a g))
  ∧
  (∀ l, (∀ t, lowest l = some t → t ∈ l ∧ ∀ u ∈ l, t.kind ≤ u.kind) ∧ (lowest l = none → l = []))

/-! ### Rendezvous and issue -/

/-- What every instruction that executes leaves before its own effect: the threads of the issue set stand at PC + 12 modulo 2^64, and the stall count and the age of the group start (R149, R273), and registers, predicates, other threads, the groups' registers and memory are as they were (R318). An arrival at set or team scope that does not complete its rendezvous waits: its threads stay at the instruction and wait, the arrival is recorded, and nothing else happens (R188, R189). One that completes it ends it: every thread of every arrival goes on at the next word (R190). Lanes that the group's `.part` arrival has left out wait with it when they come (R191). The count of passes is read as log entry 12 says. -/
def Obligations.IssueAndRendezvous : Prop :=
  (∀ i n s c, Ready i n c s →
    (∀ l ∈ c.set, (settled n c s).thr (c.key l) = { s.thr (c.key l) with pc := (c.pc + 12) % 2 ^ 64 })
      ∧ (∀ k, (∀ l ∈ c.set, k ≠ c.key l) → (settled n c s).thr k = s.thr k)
      ∧ (∀ a g, ∃ x, x = (settled n c s).grp a g ∧ x = { s.grp a g with
          stallUntil := x.stallUntil, skip := x.skip, passed := x.passed, age := x.age, ageAt := x.ageAt, lastPipe := x.lastPipe
          sigDue := x.sigDue, part := x.part })
      ∧ (c.span = false → ((settled n c s).grp c.team c.group).stallUntil = s.now c.team + c.h.stall + 1
          ∧ ((settled n c s).grp c.team c.group).age = 0)
      ∧ settled n c s = { s with
          threads := (settled n c s).threads, groups := (settled n c s).groups, pipes := (settled n c s).pipes
          lsq := (settled n c s).lsq, slot := (settled n c s).slot, engAt := (settled n c s).engAt })
  ∧
  (∀ i e d s c, exec i s = .next (issue i e d s) → Clear i (needOf e d) c s → 2 ≤ c.h.scope → d.alone = false → c.span = false →
    (d.part = false → fullArrival c s = true) → (∀ r, getRdv c s = some r → r.pc = c.pc ∧ r.cd = c.cd) → partLanes c s = [] →
    rdvComplete c.team (rdvSet c (dropPart c s)) (arrivals c (dropPart c s)) (dropPart c s) = false →
    ∃ t, exec i s = .next t
      ∧ (∀ l ∈ c.set, t.thr (c.key l) = { s.thr (c.key l) with wait := .rdv (c.h.scope == 3) })
      ∧ (∀ k, (∀ l ∈ c.set, k ≠ c.key l) → t.thr k = s.thr k)
      ∧ getRdv c t = some (arrivals c (dropPart c s))
      ∧ (∀ a g, (a, g) ≠ (c.team, c.group) → t.grp a g = s.grp a g)
      ∧ (∀ p, p = ((dropPart c s).grp c.team c.group).part → t.grp c.team c.group = { s.grp c.team c.group with
          part := if d.part = true then p.set (c.h.scope == 3) ⟨leftOut c s (c.group, c.act), c.pc, c.cd, false, []⟩ else p })
      ∧ t = { putRdv c.team (rdvSet c s) (some (arrivals c (dropPart c s))) s with threads := t.threads, groups := t.groups })
  ∧
  (∀ i n s c, Joined i n c s → ∀ r, r = arrivals c (dropPart c s) →
    (∀ a ∈ r.arr, ∀ l ∈ a.set, (gathered n c s).thr (c.team, a.group, l) = { s.thr (c.team, a.group, l) with
        pc := (c.pc + 12) % 2 ^ 64, wait := .none })
      ∧ (∀ k, (∀ a ∈ r.arr, ∀ l ∈ a.set, k ≠ (c.team, a.group, l)) → (gathered n c s).thr k = s.thr k)
      ∧ (∀ a g, ∃ x, x = (gathered n c s).grp a g ∧ x = { s.grp a g with
          stallUntil := x.stallUntil, skip := x.skip, passed := x.passed, age := x.age, ageAt := x.ageAt, lastPipe := x.lastPipe
          sigDue := x.sigDue, part := x.part })
      ∧ getRdv c (gathered n c s) = none
      ∧ ∀ t, t = gathered n c s → t = { putRdv c.team (rdvSet c s) none s with
          threads := t.threads, groups := t.groups, pipes := t.pipes, lsq := t.lsq, slot := t.slot, engAt := t.engAt })
  ∧
  (∀ i e d s c p, exec i s = .next (issue i e d s) → Late i (needOf e d) c s p → p.done = false →
    ∃ t, exec i s = .next t ∧ t = { s with threads := t.threads }
      ∧ (∀ l ∈ lateLanes c p, t.thr (c.key l) = { s.thr (c.key l) with wait := .rdv (c.h.scope == 3) })
      ∧ ∀ k, (∀ l ∈ lateLanes c p, k ≠ c.key l) → t.thr k = s.thr k)

/-- What a source reads, with no earlier result in flight (Table enc-3, R275, R277, R173): a window register or a pair with the lower register in the low bits, an element of x, the lead group's s register, a predicate, a latch under the pipe condition, zero, the lane's number, a sign-extended short immediate. -/
def Obligations.OperandReading : Prop :=
  ∀ c s g l sel ty, c.span = false → (∀ f ∈ (s.thr (c.team, g, l)).inflight, f.due ≤ s.now c.team) →
    (∀ f ∈ (s.thr (c.team, g, l)).flyP, f.due ≤ s.now c.team) →
    (∀ f ∈ (s.grp c.team c.lead).inflightS, f.due ≤ s.now c.team) → (∀ k, ∀ f ∈ (s.gset c.team k).flyX, f.due ≤ s.now c.team) →
    (cls sel = 0 → readSel c s g l sel 1 ty = ⟨((s.thr (c.team, g, l)).v (idx sel)).v.toNat, ((s.thr (c.team, g, l)).v (idx sel)).p⟩
        ∧ readSel c s g l sel 2 ty =
          ⟨((s.thr (c.team, g, l)).v (idx sel)).v.toNat + 2 ^ 32 * ((s.thr (c.team, g, l)).v (idx sel + 1)).v.toNat,
            ((s.thr (c.team, g, l)).v (idx sel)).p || ((s.thr (c.team, g, l)).v (idx sel + 1)).p⟩)
      ∧ (cls sel = 1 → ∀ k, s.setOf c.team g = some k →
          readSel c s g l sel 1 ty = ⟨(s.x c.team k (idx sel) l).v.toNat, (s.x c.team k (idx sel) l).p⟩)
      ∧ (cls sel = 2 → ∀ n, readSel c s g l sel n ty = ⟨((s.grp c.team c.lead).s (idx sel)).v.toNat, ((s.grp c.team c.lead).s (idx sel)).p⟩)
      ∧ (cls sel = 3 → ∀ n, readSel c s g l sel n ty = ⟨b2n ((s.thr (c.team, g, l)).pred (idx sel)), false⟩)
      ∧ (cls sel = 5 → ∀ n p run, (s.thr (c.team, g, l)).latPipe = some (p, run) → p = c.pipe → idx sel < (s.thr (c.team, g, l)).latN →
          (s.pipe c.team c.pipe).groups.get? (c.team, g) = some run →
          readSel c s g l sel n ty = ⟨(if idx sel = 0 then (s.thr (c.team, g, l)).l0 else if idx sel = 1 then (s.thr (c.team, g, l)).l1
            else (s.thr (c.team, g, l)).l2).toNat, false⟩)
      ∧ (cls sel = 6 → ∀ n, readSel c s g l sel n ty = ⟨if idx sel = 33 then l else 0, false⟩)
      ∧ (cls sel = 7 → ∀ n sg w, intTy ty = some (sg, w) → readSel c s g l sel n ty = ⟨wrapN w (sext 6 (idx sel)), false⟩)
      ∧ (cls sel = 7 → ∀ n, intTy ty = none → readSel c s g l sel n ty = ⟨roundTo ty 0 (.ofInt (sext 6 (idx sel))), false⟩
          ∧ (ty ∈ [0x20, 0x21, 0x28, 0x2A] → (valueOf ty (roundTo ty 0 (.ofInt (sext 6 (idx sel))))).eqv (.ofInt (sext 6 (idx sel))) = true))

/-! ### Instructions with a result in each lane -/

/-- Majors 0x10 and 0x10 immediate (Table comp-1, R346, R348, R349): each completes with the exact integer result under its policy. Major 0x11 and its immediate forms (Table comp-3, R350). Major 0x16 and `selp` (Table comp-6, R357 to R360). The tie of a format with one bit of precision is read as log entry 16 says, and the element that a short immediate names for `cvt`, `unpack` and `dq4` is a free value (log entry 19). -/
def Obligations.IntegerLogicAndConversions : Prop :=
  ((∀ h o, ∀ r ∈ intRows h o, r.Lands) ∧ ∀ h o, ∀ r ∈ intImmRows h o, r.Lands)
  ∧
  ((∀ h o, ∀ r ∈ logicRows h o, r.Lands) ∧ ∀ h o, ∀ r ∈ logicImmRows h o, r.Lands)
  ∧
  (∀ h o, ∀ r ∈ moveRows h o, r.Lands)

/-- Major 0x12 and its immediate forms (Table comp-4, R351, R352): the exact value, rounded once. The rule of `min`, `max`, `abs` and `neg` (R352), by the patterns of their operands: an operand unchanged, a NaN avoided, −0 below +0, and only the sign bit. -/
def Obligations.FloatOperations : Prop :=
  ((∀ h o, ∀ r ∈ floatRows h o, r.Lands) ∧ ∀ h o, ∀ r ∈ floatImmRows h o, r.Lands)
    ∧ (∀ ty ∈ [0x20, 0x21, 0x28, 0x2A], ∀ m a b, a < 2 ^ tyBits ty → b < 2 ^ tyBits ty → ∀ x y r z, x = valueOf ty a → y = valueOf ty b →
        r = floatMinMax m ty a b → z = valueOf ty r →
        (x.isNan = true → y.isNan = true → r = nanOf ty) ∧ (x.isNan = true → y.isNan = false → r = b)
          ∧ (x.isNan = false → y.isNan = true → r = a)
          ∧ (x.isNan = false → y.isNan = false → (r = a ∨ r = b)
              ∧ (m = false → x.lt z = false ∧ y.lt z = false) ∧ (m = true → z.lt x = false ∧ z.lt y = false)
              ∧ (x.isZero = true → y.isZero = true → x.isNeg ≠ y.isNeg → z.isNeg = !m)))
    ∧ ∀ ty ∈ [0x20, 0x21, 0x28, 0x2A], ∀ neg a, a < 2 ^ tyBits ty →
        ((valueOf ty a).isNan = true → floatSign neg ty a = nanOf ty)
          ∧ ((valueOf ty a).isNan = false → floatSign neg ty a < 2 ^ tyBits ty
              ∧ ∀ k, k < tyBits ty → bit (floatSign neg ty a) k = if k = tyBits ty - 1 then neg && !bit a k else bit a k)

/-- Majors 0x13 and 0x14 (Table comp-5, R353, R354). Of major 0x13: the special values of Table comp-5, a NaN for every NaN and for `lg2` and `rsqrt` of a negative number; `rcp` is the rounded quotient and `lg2` is exact at powers of 2; the code of another `lg2`, of `tanh` and of `exp` lies within the stated units of the rounded-down code of the exact value, and `sin` and `cos` within 2^-22 of it or at the rounded value (R353). `shfl`, `scan` and `match` over the participants of their scope (Table comp-9, R361, R362). Which of the codes within its bound the result of `lg2`, `sin`, `cos`, `tanh` and `exp` is, is a free value (log entry 19), the tie of a format of one bit of precision is read as log entry 16 says, and the lane offset of `shfl` as log entry 14 says. -/
def Obligations.TranscendentalPackedAndGroupOperations : Prop :=
  ((∀ h o, ∀ r ∈ transRows h o, r.Lands) ∧ ∀ h o, ∀ r ∈ packedRows h o, r.Lands)
  ∧
  (∀ h o, ∀ r ∈ groupRows h o, r.Lands)
  ∧
  ((∀ (f : TFn) a, (valueOf 0x28 a).isNan = true → f.f32 a = nanOf 0x28)
    ∧ (∀ a neg m e st, valueOf 0x28 a = .fin neg m e st → neg = true → m ≠ 0 → (TFn.lg2).f32 a = nanOf 0x28 ∧ (TFn.rsqrt).f32 a = nanOf 0x28)
    ∧ (∀ f a r, (f, a, r) ∈ ([(.ex2, 0xFF800000, 0), (.ex2, 0x7F800000, 0x7F800000), (.lg2, 0, 0xFF800000), (.lg2, 0x80000000, 0xFF800000),
        (.lg2, 0x7F800000, 0x7F800000), (.lg2, 0xFF800000, nanOf 0x28), (.rcp, 0, 0x7F800000), (.rcp, 0x80000000, 0xFF800000),
        (.rcp, 0x7F800000, 0), (.rcp, 0xFF800000, 0x80000000), (.rsqrt, 0, 0x7F800000), (.rsqrt, 0x80000000, 0xFF800000),
        (.rsqrt, 0x7F800000, 0), (.rsqrt, 0xFF800000, nanOf 0x28), (.sin, 0, 0), (.sin, 0x80000000, 0x80000000), (.sin, 0x7F800000, nanOf 0x28),
        (.sin, 0xFF800000, nanOf 0x28), (.cos, 0, 0x3F800000), (.cos, 0x80000000, 0x3F800000), (.cos, 0x7F800000, nanOf 0x28),
        (.cos, 0xFF800000, nanOf 0x28), (.tanh, 0, 0), (.tanh, 0x80000000, 0x80000000), (.tanh, 0x7F800000, 0x3F800000),
        (.tanh, 0xFF800000, 0xBF800000), (.exp, 0xFF800000, 0), (.exp, 0x7F800000, 0x7F800000)] : List (TFn × Nat × Nat)) → f.f32 a = r)
    ∧ (∀ a, (TFn.rcp).f32 a = roundTo 0x28 0 ((Exact.ofInt 1).div (valueOf 0x28 a)))
    ∧ ∀ a neg m e st, valueOf 0x28 a = .fin neg m e st → m ≠ 0 →
        (neg = false → m = 2 ^ m.log2 → (TFn.lg2).f32 a = roundTo 0x28 0 (.ofInt (e + (m.log2 : Int))))
          ∧ (neg = false → m ≠ 2 ^ m.log2 → ∀ x, x = Exact.ofIntExp false (log2Fx m e) (-96) →
              ∃ k, roundTo 0x28 1 x.abs ≤ k ∧ k ≤ roundTo 0x28 1 x.abs + 1 ∧ (TFn.lg2).f32 a = k + signF32 x.isNeg)
          ∧ (∃ k, roundTo 0x28 1 (tanhExact m e).abs ≤ k + 1 ∧ k ≤ roundTo 0x28 1 (tanhExact m e).abs + 2 ∧ (TFn.tanh).f32 a = k + signF32 neg)
          ∧ (∀ y, y = expExact (.fin neg m e st) →
              ((Exact.fin false 1 128 false).lt y = true → (TFn.exp).f32 a = 0x7F800000)
                ∧ ((Exact.fin false 1 128 false).lt y = false → roundTo 0x28 1 y.abs ≤ (TFn.exp).f32 a + 1 ∧ (TFn.exp).f32 a ≤ roundTo 0x28 1 y.abs + 2))
          ∧ ∀ f x, (f, x) ∈ [(TFn.sin, sinFx neg m e), (TFn.cos, cosFx neg m e)] →
              f.f32 a = roundTo 0x28 0 (.ofIntExp false x (-(fxBits : Int))) ∨ (toFx (valueOf 0x28 (f.f32 a)) - x).natAbs ≤ 2 ^ (fxBits - 22))

/-- What the instructions of all these tables leave unchanged (R344, R346): memory, groups, other threads, predicates, the program counter, every register but the destination, and the other bits of a destination that is a bit field. -/
def Obligations.LaneOperationFrame : Prop :=
  (∀ h o, ∀ r ∈ intRows h o ++ logicRows h o ++ floatRows h o ++ transRows h o ++ packedRows h o ++ moveRows h o ++ groupRows h o, r.Keeps)
    ∧ ∀ h o, ∀ r ∈ intImmRows h o ++ logicImmRows h o ++ floatImmRows h o, r.Keeps

/-- Comparisons, predicate logic and `ssetp` (Table comp-6, R355, R172): the value in each participating lane, nothing else, and p7 stays true. The codes of a comparison (R355, Table comp-7) and the ones that are not instructions. -/
def Obligations.PredicateOperations : Prop :=
  (∀ h o, ∀ r ∈ predRows h o, r.Lands ∧ r.Keeps)
    ∧ (∀ ty n a b, a < 2 ^ n → b < 2 ^ n →
      (intTy ty = some (true, n) → ∀ x y, x = (BitVec.ofNat n a).toInt → y = (BitVec.ofNat n b).toInt →
        (upFrom 0 6).map (fun k => cmpTy k ty a b) = [decide (x = y), decide (x ≠ y), decide (x < y), decide (x ≤ y), decide (y < x), decide (y ≤ x)])
      ∧ (intTy ty = some (false, n) →
        (upFrom 0 6).map (fun k => cmpTy k ty a b) = [decide (a = b), decide (a ≠ b), decide (a < b), decide (a ≤ b), decide (b < a), decide (b ≤ a)]))
    ∧ (∀ ty a b, intTy ty = none → ∀ x y, x = valueOf ty a → y = valueOf ty b →
      ((x.isNan = true ∨ y.isNan = true) → (upFrom 0 14).map (fun k => cmpTy k ty a b) =
          [false, false, false, false, false, false, false, true, true, true, true, true, true, true])
      ∧ (x.isNan = false → y.isNan = false → ∀ eq lt gt, eq = x.eqv y → lt = x.lt y → gt = y.lt x →
        (upFrom 0 14).map (fun k => cmpTy k ty a b) =
            [eq, !eq, lt, lt || eq, gt, gt || eq, true, false, eq, !eq, lt, lt || eq, gt, gt || eq]
          ∧ (x.isZero = true → y.isZero = true → eq = true)))
    ∧ ∀ h o, wellFormed (.setp h o) = true → bits o.flags 3 0 < 14 ∧ (∀ k, intTy o.ty = some k → bits o.flags 3 0 < 6)
        ∧ (bits o.flags 5 4 = 0 → o.c = 0)

/-- Major 0x18 (Table comp-11, R363): the extended result in the executing group's s register, and nothing else. Counting, reversing, rotating, inserting and three-input logic, by the bits of their operands (Table comp-3, R350). -/
def Obligations.ScalarAndBitOperations : Prop :=
  ((∀ h o, ∀ r ∈ scalRows h o, r.Lands) ∧ ∀ h o, ∀ r ∈ scalImmRows h o, r.Lands)
  ∧
  ((∀ n a, (∀ k, k < n → bit (brevN n a) k = bit a (n - 1 - k))
      ∧ (clzN n a ≤ n ∧ (∀ k, n - clzN n a ≤ k → k < n → bit a k = false) ∧ (clzN n a < n → bit a (n - 1 - clzN n a) = true))
      ∧ (ctzN n a ≤ n ∧ (∀ k, k < ctzN n a → bit a k = false) ∧ (ctzN n a < n → bit a (ctzN n a) = true)))
    ∧ (∀ ty a b k, a < 2 ^ tyBits ty → k < tyBits ty →
        bit (rotlOp ty a b) k = bit a ((k + tyBits ty - b % 256 % tyBits ty) % tyBits ty))
    ∧ (∀ ty lut a b c k, k < tyBits ty →
        bit (lop3Op ty lut a b c) k = bit lut (4 * b2n (bit a k) + 2 * b2n (bit b k) + b2n (bit c k)))
    ∧ ∀ ty a b pos len k, k < tyBits ty →
        bit (bfiOp ty a b pos len) k = if pos ≤ k ∧ k < pos + len then bit b (k - pos) else bit a k)

/-! ### Moves and results that participants share -/

/-- `mov`, `movi`, `pmov` and `pchk` by the class of their destination (Table comp-6, R339, R356, R364): a class 0 destination or the latch in each lane, an s register of the group, or a predicate; `pchk` reads poison without a trap. The extension of a value in an s register is read as log entry 14 says. -/
def Obligations.MovesByClass : Prop :=
  ∀ h,
    (∀ o : OpG, (isSwb o.d = true ∨ cls o.d ≠ 2) →
      ∀ r : LaneRow, r = ⟨.mov h o, need h 0 [dstSwb o.d (regsOf o.ty), src 1 o.a (regsOf o.ty) aluCls], o.d, fillOf o.ty,
        fun c s g l => srcV c s g l o.a o.ty⟩ → r.Lands ∧ r.Keeps)
    ∧ (∀ o : OpG, isSwb o.d = false → cls o.d = 2 →
      ScalRow.Lands ⟨.mov h o, need h 0 [dst 0 o.d 1 [2], src 1 o.a 1 sCls], o.d, fun c s => uVal c s o.a o.ty⟩)
    ∧ (∀ o : OpI, (isSwb o.d = true ∨ cls o.d ≠ 2) →
      ∀ r : LaneRow, r = ⟨.movi h o, need h 0 [⟨0, o.d, [0, 2], regsOf (modTy o), true, true⟩], o.d, fillOf (modTy o),
        fun _ _ _ _ => immVal (modTy o) (modRnd o) o.imm⟩ → r.Lands ∧ r.Keeps)
    ∧ (∀ o : OpI, isSwb o.d = false → cls o.d = 2 →
      ScalRow.Lands ⟨.movi h o, need h 0 [⟨0, o.d, [0, 2], regsOf (modTy o), true, true⟩], o.d, fun c s =>
        if tyBits (modTy o) = 16 then setBits ((s.grp c.team c.group).s (idx o.d)).v.toNat 15 0 (immVal (modTy o) (modRnd o) o.imm)
        else sExtend (modTy o) (immVal (modTy o) (modRnd o) o.imm)⟩)
    ∧ (∀ o : OpG, cls o.a = 3 →
      ∀ r : LaneRow, r = ⟨.pmov h o, need h 0 [⟨0, o.d, [0], 1, true, true⟩, src 1 o.a 1 [3]], o.d, .regs 1,
        fun c s g l => b2n (s.pred (c.team, g, l) (idx o.a) c.nosb)⟩ → r.Lands ∧ r.Keeps)
    ∧ (∀ o : OpG, isSwb o.d = false → cls o.d = 3 → cls o.a ≠ 3 →
      ∀ r : PredRow, r = ⟨.pmov h o, need h 0 [⟨0, o.d, if [0, 2, 7].contains (cls o.a) then [3] else [], 1, true, false⟩,
          src 1 o.a 1 [0, 2, 7]], o.d, fun c s g l => bit (srcV c s g l o.a 0x2F) 0⟩ → r.Lands ∧ r.Keeps)
    ∧ ∀ o : OpI, ∀ r : PredRow, r = ⟨.pchk h o, { eng := 0, opds := [dst 0 o.d 1 [3], src 1 o.a 1 [0, 1, 2]], noPoison := true }, o.d,
        fun c s g l => (readSel c s g l o.a 1 0x2F).p⟩ → r.Lands ∧ r.Keeps

/-- `vote` (Table comp-9): all, any or uniform over the participants' predicates, in each lane; a ballot's mask goes to a pair of s registers. `rdx` and `bcast` (Table comp-9, R361, R362): one value for all participants, in each lane, in an s register of every member, or in an x register of the set with 0 beyond the width. At a rendezvous a `.part` instance of `vote`, `rdx` or `scan` keeps its outcome for the lanes that it left out, and such a lane takes it when it comes, if its guard holds (R191, R361, R344). The lane number of `bcast` is read as log entry 14 says. -/
def Obligations.VotesAndSharedResults : Prop :=
  (∀ h (o : OpG),
    (bits o.flags 4 3 ≠ 3 →
      PredRow.Lands ⟨.vote h o, { eng := 0, opds := [dst 0 o.d 1 [3], src 1 o.a 1 [3]], part := bit o.flags 9 }, o.d, fun c s _ _ =>
        let p := c.lanes.map (fun m => s.pred (c.team, m.1, m.2) (idx o.a) c.nosb)
        if bits o.flags 4 3 = 0 then p.all id else if bits o.flags 4 3 = 1 then p.any id else p.all id || p.all (!·)⟩)
    ∧ (bits o.flags 4 3 = 3 → ∀ s c s1,
      Runs (.vote h o) { eng := 0, opds := [dst 0 o.d 1 [22], src 1 o.a 1 [3]], part := bit o.flags 9 } s c s1 →
      ∃ t, exec (.vote h o) s = .next t ∧
        ∀ m, m = (lanesOf (c.act.filter (fun l => s1.pred (c.key l) (idx o.a) c.nosb))).toNat →
          (t.grp c.team c.group).s (idx o.d) = ⟨BitVec.ofNat 64 m, false⟩
            ∧ (t.grp c.team c.group).s (idx o.d + 1) = ⟨BitVec.ofNat 64 (m / 2 ^ 64), false⟩))
  ∧
  (∀ h (o : OpG) i allow l v, (i, allow, l, v) ∈ ([
      (.rdxOp h o, [0, 1, 2], [src 1 o.a (regsOf o.ty) aluCls], fun c s =>
        foldVals (bits o.flags 2 0) o.ty o.rnd o.pol (c.lanes.map (fun m => srcV c s m.1 m.2 o.a o.ty))),
      (.bcast h o, [0, 2], [src 1 o.a (regsOf o.ty) aluCls, src 2 o.b 1 [2, 7]], fun c s =>
        match atNum c s (sext 32 (readU c s o.b 0x2E).v) with
        | some m => srcV c s m.1 m.2 o.a o.ty
        | none => 0)] : List (Instr × List Nat × List Opd × (Ctx → State → Nat))) →
    ∀ n : Need, n = { eng := 0, opds := ⟨0, o.d, allow, regsOf o.ty, true, true⟩ :: l, part := (i == .rdxOp h o) && bit o.flags 9 } →
    ((isSwb o.d = true ∨ cls o.d = 0) → LaneRow.Lands ⟨i, n, o.d, fillOf o.ty, fun c s _ _ => v c s⟩)
    ∧ (isSwb o.d = false → cls o.d = 2 → ∀ s c s1, Runs i n s c s1 → c.lanes ≠ [] →
        ∃ t, exec i s = .next t ∧ ∀ m ∈ c.mem, (t.grp c.team m.1).s (idx o.d) = ⟨BitVec.ofNat 64 (
          if tyBits o.ty = 16 then setBits ((s1.grp c.team m.1).s (idx o.d)).v.toNat 15 0 (v c s1) else sExtend o.ty (v c s1)), false⟩)
    ∧ (isSwb o.d = false → cls o.d = 1 → ∀ s c s1 k, Runs i n s c s1 → c.lanes ≠ [] → s1.setOf c.team c.lead = some k →
        ∃ t, exec i s = .next t ∧ ∀ e j, e < 128 → j < regsOf o.ty →
          t.x c.team k (idx o.d + j) e = ⟨BitVec.ofNat 32 (
            if (s1.grp c.team c.lead).width ≤ e then 0
            else if tyBits o.ty = 16 then setBits (s1.x c.team k (idx o.d) e).v.toNat 15 0 (v c s1) else v c s1 / 2 ^ (32 * j)), false⟩))
  ∧
  (∀ h (o : OpG) i eng l out, (i, eng, l, out) ∈ ([
      (.vote h o, 0, [dst 0 o.d 1 (if bits o.flags 4 3 = 3 then [22] else [3]), src 1 o.a 1 [3]], fun c s _ _ =>
        let p := c.lanes.map (fun m => s.pred (c.team, m.1, m.2) (idx o.a) c.nosb)
        b2n (if bits o.flags 4 3 = 0 then p.all id else if bits o.flags 4 3 = 1 then p.any id else p.all id || !p.any id)),
      (.rdxOp h o, 0, [⟨0, o.d, [0, 1, 2], regsOf o.ty, true, true⟩, src 1 o.a (regsOf o.ty) aluCls], fun c s _ _ =>
        foldVals (bits o.flags 2 0) o.ty o.rnd o.pol (c.lanes.map (fun m => srcV c s m.1 m.2 o.a o.ty))),
      (.scan h o, 0, [dstSwb o.d (regsOf o.ty), src 1 o.a (regsOf o.ty) aluCls], fun c s g l =>
        foldVals (bits o.flags 2 0) o.ty o.rnd o.pol ((c.lanes.filter (fun m => decide (partNum c s m < partNum c s (g, l)))).map
          (fun m => srcV c s m.1 m.2 o.a o.ty)))] : List (Instr × Nat × List Opd × (Ctx → State → Nat → Nat → Nat))) →
    ∀ n : Need, n = { eng := eng, opds := l, part := bit o.flags 9 } →
    (∀ s c s1, Runs i n s c s1 → bit o.flags 9 = true → 2 ≤ c.h.scope → ∃ t u, exec i s = .next t ∧ LetGo c s1 u t (out c s1))
    ∧ (∀ s c p, Late i n c s p → p.done = true → (∀ k ∈ lateLanes c p, 64 ≤ (s.thr (c.key k)).depth) →
        (∀ k ∈ lateLanes c p, (∀ f ∈ (s.thr (c.key k)).inflight, f.due ≤ s.now c.team) ∧ ∀ f ∈ (s.thr (c.key k)).flyP, f.due ≤ s.now c.team) →
        (i ≠ .vote h o → isSwb o.d = true ∨ cls o.d = 0) → (i = .vote h o → idx o.d < 7) →
        ∃ t, exec i s = .next t ∧ Taken c s t p (fun k x y =>
          (k ∉ c.act → y = x)
          ∧ (k ∈ c.act → (i = .vote h o → y.pred (idx o.d) = decide (p.vals.getD k 0 ≠ 0) ∧ y = { x with preds := y.preds, flyP := y.flyP })
              ∧ (i ≠ .vote h o → y.l0 = BitVec.ofNat 64 (p.vals.getD k 0) ∧ y.l1 = x.l0 ∧ y.l2 = x.l1
                  ∧ (isSwb o.d = false → destOf (fillOf o.ty) y (idx o.d) = p.vals.getD k 0 % 2 ^ fillBits (fillOf o.ty))
                  ∧ y = { x with regs := y.regs, l0 := y.l0, l1 := y.l1, l2 := y.l2, latPipe := y.latPipe, latN := y.latN
                                 pend := y.pend, inflight := y.inflight })))))

/-! ### Control and divergence -/

/-- `bra` without ejection, `brx` and `ret` (R320, R321, R323, R168): the active lanes go to their targets, a return leaves the callee's window, and nothing else changes; the other lanes of the issue set stand at PC + 12. `bra` with ejection (R180, R181): every thread of the minority leaves its issue set with a Span context that holds its window base, the segment up to 128 registers, the group's s registers and what is still owed to them, and the rest of the issue set goes on at its side's address. Which Span context an ejected thread takes, and that its snapshot of the s registers is taken at the branch, are the model's choice (log entries 21 and 69). -/
def Obligations.BranchesReturnsAndEjection : Prop :=
  ((∀ h (o : OpI) s c s1, Runs (.bra h o) { eng := 0, opds := [] } s c s1 →
    (bit o.mod8 0 = true ∨ c.span = true ∨ ∀ m, (m = c.act ∨ m = c.set.filter (fun i => !c.act.contains i)) → ejects c m s1 = false) →
    ∃ t, exec (.bra h o) s = .next t ∧
      ThreadsBecome c s1 t (fun _ x => { x with pc := wrapN 64 ((c.pc : Int) + 12 * sext 32 o.imm) }))
  ∧ (∀ h (o : OpI) s c s1, Runs (.brx h o) { eng := 0, opds := [src 1 o.a 2 [0, 2]], chk := badTargets o.a } s c s1 →
    ∃ t, exec (.brx h o) s = .next t ∧ ThreadsBecome c s1 t (fun l x => { x with pc := srcV c s1 c.group l o.a 0x31 }))
  ∧ ∀ h (o : OpI) s c s1, Runs (.ret h o) { eng := 0, opds := [src 1 o.a 2 [0, 2]], chk := fun c s => badTargets o.a c s ++ retTraps (8 * o.mod8) c s } s c s1 →
    ∃ t, exec (.ret h o) s = .next t ∧
      ThreadsBecome c s1 t (fun l x => { x with wb := x.wb - 8 * o.mod8, cd := x.cd - 1, pc := srcV c s1 c.group l o.a 0x31 }))
  ∧
  (∀ h (o : OpI) s c s1 m, Runs (.bra h o) { eng := 0, opds := [] } s c s1 → bit o.mod8 0 = false → c.span = false →
    ((m = c.act ∧ c.act.length < (c.set.filter (fun i => !c.act.contains i)).length)
      ∨ (m = c.set.filter (fun i => !c.act.contains i) ∧ m.length < c.act.length)) → ejects c m s1 = true →
    ∃ t, exec (.bra h o) s = .next t
      ∧ (∀ l ∈ m, ∃ k, t.thr (c.key l) = { s1.thr (c.key l) with
          pc := if l ∈ c.act then wrapN 64 ((c.pc : Int) + 12 * sext 32 o.imm) else (s1.thr (c.key l)).pc
          span := some ⟨k, (s1.thr (c.key l)).wb, min ((s1.thr (c.key l)).wb + 128) ((s1.thr (c.key l)).lo + (s1.thr (c.key l)).depth),
            (upFrom 0 24).map (s1.grp c.team c.group).s, (s1.grp c.team c.group).pendS⟩
          wait := .moving, latPipe := none })
      ∧ ∀ l ∈ c.set, l ∉ m → t.thr (c.key l) = { s1.thr (c.key l) with
          pc := if l ∈ c.act then wrapN 64 ((c.pc : Int) + 12 * sext 32 o.imm) else (s1.thr (c.key l)).pc })

/-- `call` and `callx` (R168, R320, R322), in every active lane, once nothing is owed to v62 and v63 of the new window (R274); other threads and memory stay. -/
def Obligations.Calls : Prop :=
  (∀ h (o : OpI) s c s1, Runs (.call h o) { eng := 0, opds := [], also := fun x => upFrom (x.wb + 8 * o.mod8 + 62) 2, chk := callTraps (8 * o.mod8) } s c s1 →
    ∃ t, exec (.call h o) s = .next t ∧ t = { s1 with threads := t.threads }
      ∧ (∀ k, (∀ l ∈ c.act, k ≠ c.key l) → t.thr k = s1.thr k)
      ∧ ∀ l ∈ c.act, Called (8 * o.mod8) ((c.pc + 12) % 2 ^ 64) (wrapN 64 ((c.pc : Int) + 12 * sext 32 o.imm)) (s1.thr (c.key l)) (t.thr (c.key l)))
  ∧ ∀ h (o : OpI) s c s1, Runs (.callx h o) { eng := 0, opds := [src 1 o.a 2 [0, 2]], also := fun x => upFrom (x.wb + 8 * o.mod8 + 62) 2, chk := fun c s => badTargets o.a c s ++ callTraps (8 * o.mod8) c s } s c s1 →
    ∃ t, exec (.callx h o) s = .next t ∧ t = { s1 with threads := t.threads }
      ∧ (∀ k, (∀ l ∈ c.act, k ≠ c.key l) → t.thr k = s1.thr k)
      ∧ ∀ l ∈ c.act, Called (8 * o.mod8) ((c.pc + 12) % 2 ^ 64) (srcV c s1 c.group l o.a 0x31) (s1.thr (c.key l)) (t.thr (c.key l))

/-- `exit` ends its active threads; `kill`, with an active lane, every live thread of its mask (R324). What waited on them is looked at again, and memory stays. `tret` (R337, R192): for a trap of lane or group scope, ACTIVE is cleared, the frame stays, and the handler's threads go on at the trapped instruction or, with SKIP, at the next one; a retry of a kind that no retry can serve is an unresolved trap; for one of set or team scope, a retry takes the suspension off the rendezvous, and a skip ends it with every waiting member at the next instruction. Which kinds a retry serves is read as log entry 18 says; that the suspension stands in the rendezvous, and whom a skip passes, as log entry 21 says. -/
def Obligations.EndOfThreadsAndTrapReturn : Prop :=
  ((∀ h (o : OpI) s c s1, Runs (.exit h o) { eng := 0, opds := [] } s c s1 →
    ∃ t, exec (.exit h o) s = .next t ∧ t = endThreads c.team c.group c.act s1
      ∧ (∀ l ∈ c.act, (t.thr (c.key l)).live = false) ∧ t.mem = s1.mem ∧ t.hmem = s1.hmem)
  ∧ ∀ h (o : OpI) s c s1, Runs (.kill h o) { eng := 0, opds := [src 1 o.a 1 [4]] } s c s1 →
    ∃ t, exec (.kill h o) s = .next t ∧ (c.act = [] → t = s1)
      ∧ (c.act ≠ [] → ∀ l ∈ laneList (s1.grp c.team c.group).width ((s1.grp c.team c.group).mask (idx o.a)).bits, (t.thr (c.key l)).live = false)
      ∧ t.mem = s1.mem ∧ t.hmem = s1.hmem)
  ∧
  (∀ h (o : OpI) s c s1 f, Runs (.tret h o) { eng := 0, opds := [], chk := tretTraps } s c s1 → f = (s1.grp c.team c.group).trap → f.scope < 2 →
    (bit o.mod8 0 = true ∨ f.kind ∈ [9, 10, 15, 16] →
      ∃ t, exec (.tret h o) s = .next t ∧ t = { s1 with threads := t.threads, groups := t.groups }
        ∧ (∀ l ∈ c.set, t.thr (c.key l) = { s1.thr (c.key l) with
            pc := if bit o.mod8 0 then (f.pc + 12) % 2 ^ 64 else f.pc, latPipe := none })
        ∧ t.grp c.team c.group = { s1.grp c.team c.group with trap := { f with active := false }, handler := [] }
        ∧ ∀ k, (∀ l ∈ c.set, k ≠ c.key l) → t.thr k = s1.thr k)
    ∧ (bit o.mod8 0 = false → f.kind ∉ [9, 10, 15, 16] → exec (.tret h o) s = .next (unresolved c.team f s1)))
  ∧
  (∀ h (o : OpI) s c s1 f r, Runs (.tret h o) { eng := 0, opds := [], chk := tretTraps } s c s1 → f = (s1.grp c.team c.group).trap → 2 ≤ f.scope →
    rdvOf f.scope c.team c.group s1 = some r → r.susp = true → (bit o.mod8 0 = true ∨ f.kind ∈ [9, 10, 15, 16]) →
    ∃ t, exec (.tret h o) s = .next t
      ∧ (t.grp c.team c.group).trap = { f with active := false } ∧ (t.grp c.team c.group).handler = []
      ∧ (∀ l ∈ c.set, (t.thr (c.key l)).pc = if bit o.mod8 0 then (f.pc + 12) % 2 ^ 64 else f.pc)
      ∧ (bit o.mod8 0 = false → rdvOf f.scope c.team c.group t = some { r with susp := false }
          ∧ ∀ k, (∀ l ∈ c.set, k ≠ c.key l) → t.thr k = s1.thr k)
      ∧ (bit o.mod8 0 = true → rdvOf f.scope c.team c.group t = none
          ∧ ∀ a ∈ r.arr, ∀ l, l < (s1.grp c.team a.group).width → (s1.thr (c.team, a.group, l)).live = true →
              (s1.thr (c.team, a.group, l)).wait = .rdv (f.scope == 3) → (∀ k ∈ c.set, (c.team, a.group, l) ≠ c.key k) →
              t.thr (c.team, a.group, l) = { s1.thr (c.team, a.group, l) with wait := .none, pc := (f.pc + 12) % 2 ^ 64 }))

/-- `trap` (R336): a user trap of the active lanes with INFO = IMM; without an active lane, nothing. -/
def Obligations.UserTrap : Prop :=
  ∀ h (o : OpI) s c, Clear (.trap h o) { eng := 0, opds := [] } c s → c.h.scope ≤ 1 → c.span = false →
    (∀ pc, c.act ≠ [] → (s.grp c.team c.group).trap.active = false → s.handlerEntry c.team = some pc →
      ∃ t, exec (.trap h o) s = .next t ∧ t = { s with threads := t.threads, groups := t.groups }
        ∧ (t.grp c.team c.group).trap = ⟨true, 16, c.h.scope, c.group, c.cd, o.imm % 2 ^ 32, c.pc, 0, lanesOf c.act⟩
        ∧ (∀ l ∈ c.set, t.thr (c.key l) = { s.thr (c.key l) with pc := pc, wait := .none, latPipe := none }))
    ∧ (c.act = [] → exec (.trap h o) s = .next (settled { eng := 0, opds := [] } c s))

/-- `mjoin`, `mleave` and `mget` (R178, R326, R327): the active lanes enter the mask, which takes the call depth as its tag when it was empty, or leave it, and the waits on masks are evaluated again; with no active lane a join changes nothing. `mget` reads the mask's 128 bits into two s registers, or its tag into one. `mwait` (R178): the active threads of the mask wait at the instruction, and when with them every thread of the mask waits, all its waiters go on at the next word; an active thread outside the mask passes. The evaluation of the waits on the masks of a group (R178): the waiters of a mask whose every thread waits go on, and no other thread, mask or s register changes. A `.group` release of the waiting threads is read as log entry 64 says. -/
def Obligations.MaskInstructions : Prop :=
  ((∀ h (o : OpG) s c s1, Runs (.mjoin h o) { eng := 0, opds := [dst 0 o.d 1 [4]], chk := fun c s =>
        let r := (s.grp c.team c.group).mask (idx o.d)
        if r.bits != 0 && r.tag != c.cd then depthTrap c (idx o.d) r c.act else [] } s c s1 →
    ∃ t, exec (.mjoin h o) s = .next t ∧ (c.act = [] → t = s1)
      ∧ (c.act ≠ [] → ∀ r, r = (s1.grp c.team c.group).mask (idx o.d) →
          (∀ l, l < 128 → laneIn ((t.grp c.team c.group).mask (idx o.d)).bits l = (laneIn r.bits l || c.act.contains l))
          ∧ ((t.grp c.team c.group).mask (idx o.d)).tag = (if r.bits = 0 then c.cd else r.tag)
          ∧ (∀ m, m ≠ idx o.d → (t.grp c.team c.group).mask m = (s1.grp c.team c.group).mask m)
          ∧ (∀ n, (t.grp c.team c.group).s n = (s1.grp c.team c.group).s n)
          ∧ (∀ k, (∀ m, m < 12 → (s1.thr k).wait ≠ .mask m) → t.thr k = s1.thr k)
          ∧ ∃ q, t = evalMasks c.team c.group (putM c (idx o.d) q s1) ∧ q = (t.grp c.team c.group).mask (idx o.d)))
  ∧ (∀ h (o : OpG) s c s1, Runs (.mleave h o) { eng := 0, opds := [dst 0 o.d 1 [4]] } s c s1 →
    ∃ t, exec (.mleave h o) s = .next t
      ∧ (∀ l, l < 128 → laneIn ((t.grp c.team c.group).mask (idx o.d)).bits l =
          (laneIn ((s1.grp c.team c.group).mask (idx o.d)).bits l && !c.act.contains l))
      ∧ ((t.grp c.team c.group).mask (idx o.d)).tag = ((s1.grp c.team c.group).mask (idx o.d)).tag
      ∧ (∀ m, m ≠ idx o.d → (t.grp c.team c.group).mask m = (s1.grp c.team c.group).mask m)
      ∧ (∀ n, (t.grp c.team c.group).s n = (s1.grp c.team c.group).s n)
      ∧ (∀ k, (∀ m, m < 12 → (s1.thr k).wait ≠ .mask m) → t.thr k = s1.thr k)
      ∧ ∃ q, t = evalMasks c.team c.group (putM c (idx o.d) q s1) ∧ q = (t.grp c.team c.group).mask (idx o.d))
  ∧ ∀ h (o : OpG) s c s1, Runs (.mget h o) { eng := 0, opds := [dst 0 o.d 1 (if bit o.flags 0 then [2] else [22]), src 1 o.a 1 [4]] } s c s1 →
    ∀ r, r = (s1.grp c.team c.group).mask (idx o.a) → ∃ t, exec (.mget h o) s = .next t
      ∧ (bit o.flags 0 = true → SResult c s1 t c.group (idx o.d) r.tag)
      ∧ (bit o.flags 0 = false → ∃ u, SResult c s1 u c.group (idx o.d) (r.bits.toNat % 2 ^ 64) ∧ SResult c u t c.group (idx o.d + 1) (r.bits.toNat / 2 ^ 64)))
  ∧
  (∀ h (o : OpG) s c s1, Runs (.mwait h o)
      { eng := 0, opds := [src 1 o.a 1 [4]],
        hold := fun c s => relHolds 0 { c with act := c.act.filter (laneIn (s.readM c.team c.group (idx o.a) c.nosb).bits) } s,
        chk := fun c s =>
          let r := s.readM c.team c.group (idx o.a) c.nosb
          if r.tag != c.cd then depthTrap c (idx o.a) r (c.act.filter (laneIn r.bits)) else [] } s c s1 →
    (∀ l ∈ c.act, l < (s1.grp c.team c.group).width) →
    ∃ t, exec (.mwait h o) s = .next t ∧ ∀ m r, m = idx o.a → r = (s1.grp c.team c.group).mask m →
      (∀ l ∈ c.act, laneIn r.bits l = false → t.thr (c.key l) = s1.thr (c.key l))
      ∧ ((∀ l ∈ laneList (s1.grp c.team c.group).width r.bits, l ∈ c.act ∨ ((s1.thr (c.key l)).live = true ∧ (s1.thr (c.key l)).wait = .mask m)) →
          (∀ l ∈ c.act, laneIn r.bits l = true → t.thr (c.key l) = { s1.thr (c.key l) with pc := (c.pc + 12) % 2 ^ 64, wait := .none })
          ∧ ((∃ l ∈ c.act, laneIn r.bits l = true) → ∀ l, l < (s1.grp c.team c.group).width → (s1.thr (c.key l)).live = true →
              (s1.thr (c.key l)).wait = .mask m →
              t.thr (c.key l) = { s1.thr (c.key l) with pc := ((s1.thr (c.key l)).pc + 12) % 2 ^ 64, wait := .none }))
      ∧ (¬ (∀ l ∈ laneList (s1.grp c.team c.group).width r.bits, l ∈ c.act ∨ ((s1.thr (c.key l)).live = true ∧ (s1.thr (c.key l)).wait = .mask m)) →
          (∀ l ∈ c.act, laneIn r.bits l = true → t.thr (c.key l) = { s1.thr (c.key l) with pc := c.pc, wait := .mask m })
          ∧ ∀ l, l ∉ c.act → (s1.thr (c.key l)).wait = .mask m → t.thr (c.key l) = s1.thr (c.key l))
      ∧ (∀ k, (∀ l ∈ c.act, k ≠ c.key l) → (∀ m, m < 12 → (s1.thr k).wait ≠ .mask m) → t.thr k = s1.thr k)
      ∧ ∀ n, (t.grp c.team c.group).mask n = (s1.grp c.team c.group).mask n ∧ (t.grp c.team c.group).s n = (s1.grp c.team c.group).s n)
  ∧
  (∀ a g s m, m < 12 →
    (maskWaiters a g m s ≠ [] → (∀ l ∈ maskThreads a g m s, l ∈ maskWaiters a g m s) → ∀ l ∈ maskWaiters a g m s,
      (evalMasks a g s).thr (a, g, l) = { s.thr (a, g, l) with wait := .none, pc := ((s.thr (a, g, l)).pc + 12) % 2 ^ 64 })
    ∧ (¬ (∀ l ∈ maskThreads a g m s, l ∈ maskWaiters a g m s) → ∀ l ∈ maskWaiters a g m s, (evalMasks a g s).thr (a, g, l) = s.thr (a, g, l))
    ∧ (∀ k, (∀ n, n < 12 → (s.thr k).wait ≠ .mask n) → (evalMasks a g s).thr k = s.thr k)
    ∧ (∀ k b n, ((evalMasks a g s).grp k b).mask n = (s.grp k b).mask n ∧ ((evalMasks a g s).grp k b).s n = (s.grp k b).s n))

/-- `nop`, `rejoin` and `fence` (R319, R328, R335): nothing beyond the advance; a releasing fence runs once the release counters of its scope are 0, and an acquiring one holds each active thread's later accesses until its outstanding reads have returned. -/
def Obligations.NoEffectInstructions : Prop :=
  ∀ h (i : OpI) (o : OpG), ∀ r ∈ ([
      ⟨.nop h i, { eng := 0, opds := [] }, fun _ s => s⟩,
      ⟨.rejoin h i, { eng := 0, opds := [] }, fun _ s => s⟩,
      ⟨.fence h o, { eng := 0, opds := [], hold := fun c s => bit o.flags 1 && relHolds (bits o.flags 9 7) c s,
                     chk := fun c s => if bit o.flags 1 then relTraps (bits o.flags 9 7) c s else [] }, fun c s => if bit o.flags 0 then
        s.modThrs c.team c.group c.act (fun t => { t with acq := t.acq ++ t.pend.map (·.access) ++ (owedS c s).map (·.access) }) else s⟩]
      : List EffRow), r.Lands

/-- `bar` and `rdv` (R329, R330): at the rendezvous every active thread of every member goes on at the next word and waits no longer, and `rdv` gives each member the value of the lead group's register; a `.part` instance also lets the lanes go that it left out, which take its passage when they come (R191). `arrive` and `bwait` (R332, R333): an arrival answers the phase, is counted when its role takes part, and flips the phase when with it every expected group has arrived; a wait whose lanes' phases have all passed goes on, and another one waits at the instruction with its phases recorded. `tokgive` and `toktake` (R153, R334): a holder gives the token, which none then holds if the named group has no live thread; a free token, or one that is taken by force, goes to the group, and D says whether it has it; the change shows from the next a-cycle on. -/
def Obligations.RendezvousBarriersAndTokens : Prop :=
  (∀ h (o : OpG) n, n = ({ eng := 0, opds := [], part := bit o.flags 0, hold := relHolds (bits o.flags 9 7), chk := relTraps (bits o.flags 9 7) } : Need) →
    (∀ s c s1, Runs (.bar h o) n s c s1 → ∃ t, exec (.bar h o) s = .next t
        ∧ (∀ m ∈ c.mem, ∀ l ∈ m.2, (t.thr (c.team, m.1, l)).wait = .none ∧ (t.thr (c.team, m.1, l)).pc = (c.pc + 12) % 2 ^ 64)
        ∧ (bit o.flags 0 = false ∨ c.h.scope ≤ 1 → t = s1)
        ∧ (bit o.flags 0 = true → 2 ≤ c.h.scope → LetGo c s1 s1 t (fun _ _ => 0)))
    ∧ ∀ s c p, Late (.bar h o) n c s p → p.done = true → ∃ t, exec (.bar h o) s = .next t ∧ Taken c s t p (fun _ x y => y = x))
  ∧
  (∀ h (o : OpG) s c s1, Runs (.rdv h o) { eng := 0, opds := [dst 0 o.d 1 [2], src 1 o.a 1 [2]], hold := relHolds (bits o.flags 9 7), chk := relTraps (bits o.flags 9 7) } s c s1 →
      ∃ t, exec (.rdv h o) s = .next t ∧ t = { s1 with groups := t.groups }
        ∧ (∀ m ∈ c.mem, ∀ l ∈ m.2, (t.thr (c.team, m.1, l)).wait = .none ∧ (t.thr (c.team, m.1, l)).pc = (c.pc + 12) % 2 ^ 64)
        ∧ (∀ m ∈ c.mem, (t.grp c.team m.1).s (idx o.d) = ⟨((s1.grp c.team c.lead).s (idx o.a)).v, false⟩
            ∧ ∀ k, k ≠ idx o.d → (t.grp c.team m.1).s k = (s1.grp c.team m.1).s k)
        ∧ ∀ g, (∀ m ∈ c.mem, g ≠ m.1) → t.grp c.team g = s1.grp c.team g)
  ∧
  ((∀ h (o : OpG) s c s1, Runs (.arrive h o)
      { eng := 0, opds := [dst 0 o.d 1 [0, 2]], full := true, alone := true,
        hold := fun c s =>
          let b := getBar c.team (bankOf c s) (bits o.flags 2 0) s
          let other := match b.role with
            | some r => r != bits o.flags 6 5
            | none => false
          relHolds (bits o.flags 9 7) c s || (fullArrival c s && (other || b.arrived.contains c.group)),
        chk := relTraps (bits o.flags 9 7) } s c s1 →
    ∀ bk n r b l, bk = bankOf c s1 → n = bits o.flags 2 0 → r = bits o.flags 6 5 → b = getBar c.team bk n s1 →
    l = (if c.group ∈ expectedGroups c.team bk r s1 then b.arrived ++ [c.group] else b.arrived) →
    ∃ t, exec (.arrive h o) s = .next t ∧ t = { s1 with threads := t.threads, groups := t.groups, teams := t.teams, sets := t.sets }
      ∧ (cls o.d = 2 → (t.grp c.team c.group).s (idx o.d) = ⟨BitVec.ofNat 64 b.phase, false⟩)
      ∧ (cls o.d = 0 → ∀ k ∈ c.act, (t.thr (c.key k)).v (idx o.d) = ⟨BitVec.ofNat 32 b.phase, false⟩)
      ∧ ((l ≠ [] ∧ ∀ g ∈ expectedGroups c.team bk r s1, g ∈ l) → getBar c.team bk n t = ⟨(b.phase + 1) % 2 ^ 16, none, []⟩)
      ∧ (¬ (l ≠ [] ∧ ∀ g ∈ expectedGroups c.team bk r s1, g ∈ l) → getBar c.team bk n t = ⟨b.phase, some r, l⟩)
      ∧ ∀ m, m ≠ n → getBar c.team bk m t = getBar c.team bk m s1)
  ∧ ∀ h (o : OpG) s c s1, Runs (.bwait h o) { eng := 0, opds := [src 1 o.a 1 [0, 2, 7]], alone := true } s c s1 →
    ∀ b (ph : Nat → Nat), b = getBar c.team (bankOf c s1) (bits o.flags 2 0) s1 → (∀ l, ph l = srcV c s1 c.group l o.a 0x2F % 2 ^ 16) →
    ((∀ l ∈ c.act, ph l ≠ b.phase) → exec (.bwait h o) s = .next s1)
    ∧ ((∃ l ∈ c.act, ph l = b.phase) →
        ∃ t, exec (.bwait h o) s = .next t ∧ t = { s1 with threads := t.threads, groups := t.groups }
          ∧ (∀ l ∈ c.set, t.thr (c.key l) = { s1.thr (c.key l) with pc := c.pc, wait := .word })
          ∧ (∀ k, (∀ l ∈ c.set, k ≠ c.key l) → t.thr k = s1.thr k)
          ∧ (t.grp c.team c.group = { s1.grp c.team c.group with waits := (s1.grp c.team c.group).waits
              ++ [⟨c.set, c.act.map (fun l => ⟨l, bits o.flags 2 0, ph l, b.phase != ph l, 0⟩), some (c.h.scope == 3), false, 7⟩] })
          ∧ ∀ a g, (a, g) ≠ (c.team, c.group) → t.grp a g = s1.grp a g))
  ∧
  ((∀ h (o : OpG) s c s1, Runs (.tokgive h o) { eng := 0, opds := [src 1 o.a 1 [2, 7]], chk := fun c s =>
        if (decide (giveTo c s o.a < 0) || decide (((s.launch c.team).groups : Int) ≤ giveTo c s o.a)) then [c.trapAll 3 1] else [] } s c s1 →
      ∃ t, exec (.tokgive h o) s = .next t
      ∧ (c.act ≠ [] → s1.tokenOf c.team = some c.group → ∀ g, g = (giveTo c s1 o.a).toNat →
          t = s1.modTeam c.team (fun T => { T with
            token := if s1.liveThr c.team g = [] then none else some g, tokenOld := some c.group, tokenAt := s1.now c.team + 1 }))
      ∧ ((c.act = [] ∨ s1.tokenOf c.team ≠ some c.group) → t = s1))
  ∧ ∀ h (o : OpG) s c s1, Runs (.toktake h o) { eng := 0, opds := [dst 0 o.d 1 [2]] } s c s1 → ∃ t, exec (.toktake h o) s = .next t
      ∧ (c.act ≠ [] → (s1.tokenOf c.team = none ∨ bit o.flags 0 = true) →
          SResult c (s1.modTeam c.team (fun T => { T with token := some c.group, tokenOld := s1.tokenOf c.team, tokenAt := s1.now c.team + 1 }))
            t c.group (idx o.d) 1)
      ∧ (c.act ≠ [] → ∀ g, s1.tokenOf c.team = some g → bit o.flags 0 = false →
          SResult c s1 t c.group (idx o.d) (if g = c.group then 1 else 0))
      ∧ (c.act = [] → t = s1))
  ∧ ∀ (s : State) t h, (setHolder t h s).tokenOf t = s.tokenOf t
      ∧ ∀ u : State, u.team t = (setHolder t h s).team t → s.now t + 1 ≤ u.now t → u.tokenOf t = h

/-- `clock`, `place`, `sysrd` and `syswr` (R340 to R343): the value in each active lane's destination, which takes 1, 2 or 4 registers, and nothing else; `syswr` sets the ejection threshold within its bounds, after the step of an adaptation window that has ended (R186, R343). The items of `place` (Table ctl-5) and the contents of every system register (Tables core-4, ctl-6 and ctl-7). -/
def Obligations.SystemRegisters : Prop :=
  ((∀ h (o : OpG) s c s1, Runs (.clock h o) { eng := 0, opds := [dst 0 o.d 2 [0]] } s c s1 → ∃ t, exec (.clock h o) s = .next t
      ∧ Wrote c s1 t o.d 2 (fun _ => if bit o.flags 0 then s1.ncyc else s1.now c.team))
  ∧ (∀ h (o : OpG) s c s1, Runs (.place h o) { eng := 0, opds := [dst 0 o.d 1 [0]] } s c s1 → ∃ t, exec (.place h o) s = .next t
      ∧ Wrote c s1 t o.d 1 (placeItem (bits o.flags 1 0) c s1))
  ∧ (∀ h (o : OpG) s c s1 n, n = (if o.flags ∈ [3, 13] then 4 else if o.flags ∈ [0, 1, 2, 4, 8] then 2 else 1) →
      Runs (.sysrd h o) { eng := 0, opds := [dst 0 o.d n [0]] } s c s1 → ∃ t, exec (.sysrd h o) s = .next t
      ∧ Wrote c s1 t o.d n (sysReg o.flags c s1))
  ∧ ∀ h (o : OpG) s c s1, Runs (.syswr h o) { eng := 0, opds := [src 1 o.a 1 [2]] } s c s1 → ∃ t, exec (.syswr h o) s = .next t ∧ (c.act = [] → t = s1)
      ∧ (c.act ≠ [] → t = (closeWindow c.team s1).modTeam c.team (fun T =>
          { T with ej := satN (bits (readU c s1 o.a 0x2F).v 4 0) (s1.launch c.team).ejmin (s1.launch c.team).ejmax })))
  ∧
  (∀ c s l G T t L, G = s.grp c.team c.group → T = s.team c.team → t = s.thr (c.key l) → L = s.launch c.team →
    sysReg 0 c s l = (if G.trap.active then 2 ^ 63 else 0) + G.trap.kind * 2 ^ 48 + G.trap.scope * 2 ^ 46 + G.trap.group * 2 ^ 42
        + G.trap.depth * 2 ^ 32 + G.trap.info
      ∧ sysReg 1 c s l = G.trap.pc ∧ sysReg 2 c s l = G.trap.va ∧ sysReg 3 c s l = G.trap.lanes.toNat
      ∧ sysReg 4 c s l = t.wb * 2 ^ 32 + t.lo ∧ sysReg 5 c s l = t.depth * 2 ^ 16 + t.cd ∧ sysReg 6 c s l = T.lin
      ∧ (∀ w set, (G.width, w) ∈ [(16, 0), (32, 1), (64, 2), (128, 3)] → set = (if G.setNo = none then 0 else 2 ^ 12 + G.setNo.getD 0 * 2 ^ 9) →
          sysReg 7 c s l = w * 2 ^ 13 + set + (if G.prod then 2 ^ 8 else 0) + (L.groups - 1) * 2 ^ 4 + c.group)
      ∧ sysReg 8 c s l = (s.grid c.team).z * 2 ^ 32 + (s.grid c.team).y * 2 ^ 16 + (s.grid c.team).x
      ∧ sysReg 9 c s l = (s.grid c.team).vdev * 2 ^ 14 + s.viewOf T.ctx * 2 ^ 12 + T.ctx
      ∧ sysReg 10 c s l = L.ejmax * 2 ^ 16 + L.ejmin * 2 ^ 8 + T.ej
      ∧ sysReg 11 c s l = (match s.tokenOf c.team with
          | some g => g
          | none => 31)
      ∧ sysReg 12 c s l = s.spanHeld T.cluster T.ctx * 2 ^ 8 + (32 - (s.spanUsed T.cluster).length)
      ∧ (∀ k, k < 128 → bit (sysReg 13 c s l) k = (decide (k < G.width) && (s.thr (c.key k)).span.isSome))
      ∧ (t.span = none → placeItem 0 c s l = T.cluster / 16 + T.cluster % 16 * 2 ^ 3 + T.core * 2 ^ 7)
      ∧ (∀ sp, t.span = some sp → placeItem 0 c s l = T.cluster / 16 + T.cluster % 16 * 2 ^ 3 + 3 * 2 ^ 7 + sp.slot / 4 * 2 ^ 9)
      ∧ (∀ n, (s.viewOf T.ctx, n) ∈ [(0, 8), (1, 4), (2, 1)] → placeItem 1 c s l = (s.grid c.team).vdev + n * 2 ^ 3)
      ∧ placeItem 2 c s l = (if L.arrw = 0 then 0 else T.ox + T.oy * 2 ^ 3 + L.arrw * 2 ^ 6 + L.arrh * 2 ^ 10)
      ∧ ∀ b x y, (b, x, y) ∈ [(0, 0, 0), (1, 4, 0), (2, 8, 0), (3, 12, 0), (4, 0, 4), (5, 4, 4), (6, 8, 4), (7, 12, 4)] → T.cluster / 16 = b →
          placeItem 3 c s l = x + T.cluster % 16 % 4 + (y + T.cluster % 16 / 4) * 2 ^ 4)

/-! ### Memory -/

/-- Memory, from a store to a load. Bytes of device or host memory: a write is read back, every other byte of both memories stays, and the canonical form is kept. What a byte reads as that nothing has written, and that one list holds each memory whatever the window it is reached by (R4), are the model's choice (log entry 6). Global memory (R254, R371, R372): a store leaves the bytes of its data, at the address of its instruction, in the write-combining store of its core, and a load of that core at the same address gives its destination the value of the bytes that stand there. -/
def Obligations.MemoryReadAfterWrite : Prop :=
  (∀ s host a l, MemInv s →
    (s.wr host a l).rd host a l.length = l
      ∧ (∀ b n, (b + n ≤ a ∨ a + l.length ≤ b) → (s.wr host a l).rd host b n = s.rd host b n)
      ∧ (∀ b n, (s.wr host a l).rd (!host) b n = s.rd (!host) b n) ∧ MemInv (s.wr host a l))
  ∧ (∀ h (o : OpM), ∀ x ∈ ([(.st h o, .generic), (.stg h o, .global)] : List (Instr × AddrForm)),
      ∀ s c s1 l va u, Runs x.1 (storeNeed x.2 o) s c s1 → o.vec = 0 → c.act = [l] → u = issueUnit c c.group s1 →
        addrOf c s1 c.group l x.2 o.a o.off (tySize o.ty) = .ok (.glob, va) → va % 128 + tySize o.ty ≤ 128 → LineAtHand s1 u (ctxOf c s1) va →
        ∃ t w, exec x.1 s = .next t ∧ t.wcs.get? (u, ctxOf c s1, va / 128) = some w
          ∧ EntryHolds w va (leBytes (tySize o.ty) (srcV c s1 c.group l o.b o.ty)))
  ∧ ∀ h (o : OpM), ∀ x ∈ ([(.ld h o, .generic), (.ldg h o, .global)] : List (Instr × AddrForm)),
      ∀ s c s1 l va u w bs y, Runs x.1 (loadNeed x.2 o) s c s1 → o.vec = 0 → c.act = [l] → u = issueUnit c c.group s1 →
        addrOf c s1 c.group l x.2 o.a o.off (tySize o.ty) = .ok (.glob, va) → va % 128 + tySize o.ty ≤ 128 → LineAtHand s1 u (ctxOf c s1) va →
        s1.wcs.get? (u, ctxOf c s1, va / 128) = some w → bs.length = tySize o.ty → EntryHolds w va bs →
        s1.threads.get? (c.key l) = some y → y.pend = [] →
        ∃ t, exec x.1 s = .next t ∧ (t.thr (c.key l)).regs = (putAbs y (y.wb + idx o.d) o.ty (leVal bs) false).regs

/-- A generic pointer (R203, Table local-1): global below the window, the team's own scratchpad, the cluster-shared and the private space, the sub-code of every other pattern, then the bound of the space and the alignment; a per-space form checks the bound and the alignment of its offset. An address that fails (R365, R367, Table local-3): the address trap of the failing lanes with the sub-code and the address of the lowest, the issue set at the handler, and memory untouched. -/
def Obligations.GenericPointersAndAddressTraps : Prop :=
  ((∀ s t p, p < 2 ^ 64 → ∀ tag lo, tag = (s.team t).lin % 2 ^ 20 → lo = p % 2 ^ 40 →
    (2 ^ 57 ≤ p → window s t p = .error 1)
      ∧ (p < 0x1FFF * 2 ^ 44 → window s t p = .ok (.glob, p))
      ∧ (p / 2 ^ 40 = 0x1FFF0 → lo / 2 ^ 19 % 2 = 1 → window s t p = .error 2)
      ∧ (p / 2 ^ 40 = 0x1FFF0 → lo / 2 ^ 19 % 2 = 0 → lo / 2 ^ 20 ≠ tag → window s t p = .error 4)
      ∧ (p / 2 ^ 40 = 0x1FFF0 → lo / 2 ^ 19 % 2 = 0 → lo / 2 ^ 20 = tag → window s t p = .ok (.spad, lo % 2 ^ 19))
      ∧ (p / 2 ^ 40 = 0x1FFF1 → 2 ^ 20 ≤ lo → window s t p = .error 2)
      ∧ (p / 2 ^ 40 = 0x1FFF1 → lo < 2 ^ 20 → window s t p = .ok (.clsh, lo))
      ∧ (p / 2 ^ 40 = 0x1FFF2 → 2 ^ 32 ≤ lo → window s t p = .error 2)
      ∧ (p / 2 ^ 40 = 0x1FFF2 → lo < 2 ^ 32 → window s t p = .ok (.priv, lo))
      ∧ (0x1FFF3 * 2 ^ 40 ≤ p → p < 2 ^ 57 → window s t p = .error 2))
    ∧ (∀ s t p n L, L = s.launch t →
      (∀ e, window s t p = .error e → decodeGeneric s t p n = .error e)
        ∧ (∀ o, window s t p = .ok (.glob, o) → decodeGeneric s t p n = if o % n ≠ 0 then .error 7 else .ok (.glob, o))
        ∧ ∀ sp o, window s t p = .ok (sp, o) → ∀ size e, (sp, size, e) ∈ [(Space.spad, L.spad, 3), (.clsh, L.cshared, 5), (.priv, L.privSize, 6)] →
            decodeGeneric s t p n = if size < o + n then .error e else if o % n ≠ 0 then .error 7 else .ok (sp, o))
    ∧ ∀ c s g l sel off n L, L = s.launch c.team → ∀ sp size e,
        (sp, size, e) ∈ [(Space.spad, L.spad, 3), (.clsh, L.cshared, 5), (.priv, L.privSize, 6)] →
        (∀ o : Nat, addrBase c s g l (.space sp) sel + sext 14 off = (o : Int) →
          addrOf c s g l (.space sp) sel off n = if size < o + n then .error e else if o % n ≠ 0 then .error 7 else .ok (sp, o))
        ∧ (addrBase c s g l (.space sp) sel + sext 14 off < 0 → addrOf c s g l (.space sp) sel off n = .error e))
  ∧
  (∀ h o, ∀ x ∈ ([(.ld h o, .generic, loadDesc .generic o), (.lds h o, .space .spad, loadDesc (.space .spad) o),
      (.ldc h o, .space .clsh, loadDesc (.space .clsh) o), (.ldpr h o, .space .priv, loadDesc (.space .priv) o),
      (.ldg h o, .global, loadDesc .global o), (.st h o, .generic, storeDesc .generic o), (.sts h o, .space .spad, storeDesc (.space .spad) o),
      (.stc h o, .space .clsh, storeDesc (.space .clsh) o), (.stpr h o, .space .priv, storeDesc (.space .priv) o),
      (.stg h o, .global, storeDesc .global o)] : List (Instr × AddrForm × Desc)),
    ∀ s c l e va r pc, Clear x.1 (needOf 2 x.2.2) c s → c.h.scope ≤ 1 → c.span = false →
      (usesS x.2.2.opds = true → uniformConverged c s = true) → poisonTraps c s x.2.2.opds = [] → o.ord ≠ 2 →
      locErrs c.act (fun l => addrOf c s c.group l x.2.1 o.a o.off (2 ^ o.vec * tySize o.ty)) (fun l => addrShown c s c.group l x.2.1 o.a o.off)
        = (l, e, va) :: r →
      (s.grp c.team c.group).trap.active = false → s.handlerEntry c.team = some pc →
      ∃ t, exec x.1 s = .next t
        ∧ (t.grp c.team c.group).trap = ⟨true, 13, c.h.scope, c.group, c.cd, e % 2 ^ 32, c.pc, va % 2 ^ 57, lanesOf (l :: r.map (·.1))⟩
        ∧ (∀ k ∈ c.set, (t.thr (c.key k)).pc = pc) ∧ t = { s with threads := t.threads, groups := t.groups })

/-- Loads (R367, R371, R373) complete with the elements of the active lanes at their addresses, those of local spaces read at once and those of the global and private spaces by an access for each 128-byte line; the zeroing form clears the inactive lanes' destinations. A uniform load reads once, for the lowest active lane: with no active lane only its counter signals, its private words are read at once where nothing must be waited for, and otherwise it stands at the instruction to issue again. Stores (R367, R372) complete with the elements of the active lanes, from the registers of the data operand, at their addresses. That a uniform private load reads at its issue, and issues again while a page is waited for, is the model's choice (log entry 60). -/
def Obligations.LoadsAndStoresComplete : Prop :=
  ((∀ h (o : OpM), ∀ x ∈ ([(.ld h o, .generic), (.lds h o, .space .spad), (.ldc h o, .space .clsh), (.ldpr h o, .space .priv),
      (.ldg h o, .global)] : List (Instr × AddrForm)),
    EffRow.Lands ⟨x.1, loadNeed x.2 o, fun c s =>
      let s' := loadElems c (o.ord == 1) ((placesOf c s x.2 o.a o.off (2 ^ o.vec * tySize o.ty)).flatMap (fun p =>
        laneElems c s c.group p.1 o.ty o.vec (idx o.d) none p.2)) s s
      if bit o.modm 0 then zeroLanes c (idx o.d) (2 ^ o.vec * regsOf o.ty) s' else s'⟩)
  ∧ ∀ h (o : OpM) s c s1, Runs (.sld h o) (sldNeed o) s c s1 →
    (c.act = [] → exec (.sld h o) s = .next (sigSoon c s1))
      ∧ ∀ l r sp x es, c.act = l :: r → addrOf c s1 c.group l .generic o.a o.off (2 ^ o.vec * tySize o.ty) = .ok (sp, x) →
        es = (upFrom 0 (2 ^ o.vec)).map (fun e =>
          (⟨c.group, l, sp, x + e * tySize o.ty, tySize o.ty, none, idx o.d + e, true, o.ty, 0, 0⟩ : Elem)) →
        (sp ≠ .priv → exec (.sld h o) s = .next (loadElems c (o.ord == 1) es s1 s1))
        ∧ (sp = .priv → ∀ t, (loadPriv c es s1 = (t, false) →
              exec (.sld h o) s = .next (sigAt c.team [c.group] (sigOf c) (c.due (s1.now c.team)) t))
            ∧ (loadPriv c es s1 = (t, true) → exec (.sld h o) s = .next (t.modThrs c.team c.group c.set (fun u => { u with pc := c.pc })))))
  ∧
  (∀ h (o : OpM), ∀ x ∈ ([(.st h o, .generic), (.sts h o, .space .spad), (.stc h o, .space .clsh), (.stpr h o, .space .priv),
      (.stg h o, .global)] : List (Instr × AddrForm)),
    EffRow.Lands ⟨x.1, storeNeed x.2 o, fun c s =>
      storeElems c o.msc ((placesOf c s x.2 o.a o.off (2 ^ o.vec * tySize o.ty)).flatMap (fun p =>
        laneElems c s c.group p.1 o.ty o.vec 0 (some o.b) p.2)) s⟩)

/-- A 32-bit load from local memory, by a generic pointer or in the forms of the scratchpad and the cluster-shared space (R371, R202): each active lane's register takes the little-endian word at its address, with the word's poison; memory and other threads stay. A uniform load of such a word (R373): the group's s register takes the word of the lowest active lane's address, extended by its type, and no thread changes. -/
def Obligations.ScratchpadLoadValue : Prop :=
  (∀ h (o : OpM), ∀ x ∈ ([(.ld h o, .generic), (.lds h o, .space .spad), (.ldc h o, .space .clsh)] : List (Instr × AddrForm)),
    ∀ s c s1, Runs x.1 (loadNeed x.2 o) s c s1 → o.vec = 0 → tyBits o.ty = 32 → bit o.modm 0 = false →
    (∀ l ∈ c.act, (s1.thr (c.key l)).pend = []) →
    (∀ l ∈ c.act, ∃ sp y, addrOf c s1 c.group l x.2 o.a o.off 4 = .ok (sp, y) ∧ (sp = .spad ∨ sp = .clsh)) →
    ∃ t, exec x.1 s = .next t ∧ t = { s1 with threads := t.threads, groups := t.groups, tracks := t.tracks, nextId := t.nextId }
      ∧ (∀ k, (∀ l ∈ c.act, k ≠ c.key l) → t.thr k = s1.thr k)
      ∧ ∀ l ∈ c.act, ∀ sp y, addrOf c s1 c.group l x.2 o.a o.off 4 = .ok (sp, y) →
        (t.thr (c.key l)).v (idx o.d) = ⟨BitVec.ofNat 32 ((s1.local c.team sp).num y 4), (s1.local c.team sp).bad y 4⟩)
  ∧ ∀ h (o : OpM) s c s1 l r sp y, Runs (.sld h o) (sldNeed o) s c s1 → o.vec = 0 → tyBits o.ty = 32 → c.act = l :: r →
    (s1.grp c.team c.group).pendS = [] →
    addrOf c s1 c.group l .generic o.a o.off 4 = .ok (sp, y) → (sp = .spad ∨ sp = .clsh) →
    ∃ t, exec (.sld h o) s = .next t ∧ t.mem = s1.mem ∧ t.hmem = s1.hmem ∧ t.teams = s1.teams ∧ t.clsh = s1.clsh
      ∧ (∀ k, ∃ sp, t.thr k = { s1.thr k with span := sp })
      ∧ (t.grp c.team c.group).s (idx o.d) = ⟨BitVec.ofNat 64 (sExtend o.ty ((s1.local c.team sp).num y 4)), (s1.local c.team sp).bad y 4⟩

/-- A store to local memory by one active lane, with no operation in flight (R372): the stored element reads back; by a generic pointer or in the forms of the scratchpad and the cluster-shared space. What a scratchpad store leaves unchanged (R372), when no engine command still has its operands under watch (R214): device and host memory, every byte of the allotment outside the bytes that the active lanes store at their addresses, and, when no issue set waits on a word, every register, predicate and program counter. -/
def Obligations.ScratchpadStores : Prop :=
  (∀ h (o : OpM), ∀ x ∈ ([(.st h o, .generic), (.sts h o, .space .spad), (.stc h o, .space .clsh)] : List (Instr × AddrForm)),
    ∀ s c s1 l sp y, Runs x.1 (storeNeed x.2 o) s c s1 → o.vec = 0 → c.act = [l] → s1.ops = [] → s1.doneOps = [] →
    addrOf c s1 c.group l x.2 o.a o.off (tySize o.ty) = .ok (sp, y) → (sp = .spad ∨ sp = .clsh) →
    ∃ t, exec x.1 s = .next t
      ∧ (t.local c.team sp).num y (tySize o.ty) = srcV c s1 c.group l o.b o.ty % 2 ^ (8 * tySize o.ty))
  ∧
  (∀ h (o : OpM) s c s1, Runs (.sts h o) (storeNeed (.space .spad) o) s c s1 → s1.doneOps = [] →
    ∃ t, exec (.sts h o) s = .next t ∧ t.mem = s1.mem ∧ t.hmem = s1.hmem
      ∧ (∀ b, (∀ l ∈ c.act, ∀ x, addrOf c s1 c.group l (.space .spad) o.a o.off (2 ^ o.vec * tySize o.ty) = .ok (.spad, x) →
            b < x ∨ x + 2 ^ o.vec * tySize o.ty ≤ b) →
          (t.team c.team).spad.byte b = (s1.team c.team).spad.byte b)
      ∧ ((∀ g, (s1.grp c.team g).waits = []) →
          (∀ k, ∃ n, t.thr k = { s1.thr k with owl := n })
            ∧ ∀ a g, ∃ x, x = t.grp a g ∧ x = { s1.grp a g with unfenced := x.unfenced, cnt := x.cnt, sigDue := x.sigDue }))

/-- Atomics and reductions (R219, R221, R377 to R379): one request for each distinct element, with the contributions of the participants in ascending order; requests to local elements act at their port at once, and requests to global elements go to their home. A `.part` reduction also lets the lanes of its rendezvous go that it left out: they wait no longer, their group's record names them with the instance's place, and a lane that comes later goes on with nothing stored (R191). On which counter a local reduction is counted is the model's choice (log entry 54). -/
def Obligations.AtomicsAndReductionsComplete : Prop :=
  (∀ h (o : OpM), ∀ x ∈ ([(.atomAdd h o, 0), (.atomMin h o, 1), (.atomMax h o, 2), (.atomAnd h o, 3), (.atomOr h o, 4), (.atomXor h o, 5),
      (.atomExch h o, 6), (.atomCas h o, 7)] : List (Instr × Nat)),
    EffRow.Lands ⟨x.1, atomNeed x.2 h o, fun c s =>
      let first := fun g l => srcV c s g l o.b o.ty
      let second := fun g l => srcV c s g l (if cls o.b = 2 then o.b + 1 else o.b + regsOf o.ty) o.ty
      let groups := byElem (contribs c s o.ty o.a o.off (idx o.d) (if x.2 = 7 then second else first) (if x.2 = 7 then first else fun _ _ => 0))
      let far := groups.filter (fun k => k.1.1 == Space.glob)
      let near := decide (far.length < groups.length)
      let q := openTrack c (far.length + b2n near) 0 s
      let r := if near = true ∧ far = [] then (0, sigAt c.team (c.mem.map Prod.fst) (sigOf c) (c.due (s.now c.team)) s)
        else (q.1, if near = true then nearPart c q.1 q.2 else q.2)
      groups.foldl (fun u k => atomRequest c x.2 o.ty r.1 (bit o.ord 0) k.1 k.2 u) r.2⟩)
  ∧ (∀ h (o : OpM), ∀ x ∈ ([(.redAdd h o, 0), (.redMin h o, 1), (.redMax h o, 2), (.redAnd h o, 3), (.redOr h o, 4),
      (.redXor h o, 5)] : List (Instr × Nat)),
    ∀ r : EffRow, r = ⟨x.1, redNeed h o, fun c s =>
      let groups := byElem (contribs c s o.ty o.a o.off 0 (fun g l => srcV c s g l o.b o.ty) (fun _ _ => 0))
      let r := openTrack c ((groups.map redParts).foldl (fun a b => a + b) 0) 0 s
      groups.foldl (fun u k => redRequest c x.2 o (redRecord c s o) r.1 k.1 k.2 u) r.2⟩ → r.Lands ∧ r.LandsPart (fun _ _ _ _ => 0))
  ∧ ∀ h (o : OpM), ∀ i ∈ ([.redAdd h o, .redMin h o, .redMax h o, .redAnd h o, .redOr h o, .redXor h o] : List Instr),
    ∀ s c p, Late i (redNeed h o) c s p → p.done = true → ∃ t, exec i s = .next t ∧ Taken c s t p (fun _ x y => y = x)

/-- A scratchpad atomic by one lane, with nothing in flight and no word waited on (R219, R220): the lane takes the old value, and the element holds the operation's result; exchange stores the operand, and compare-and-swap stores it when the old value equals the comparand. A scratchpad reduction by one lane, without record or word (R219, R378): the element holds the operation's result, and no register changes. -/
def Obligations.ScratchpadAtomicValue : Prop :=
  (∀ h (o : OpM), ∀ x ∈ ([(.atomAdd h o, 0), (.atomMin h o, 1), (.atomMax h o, 2), (.atomAnd h o, 3), (.atomOr h o, 4), (.atomXor h o, 5),
      (.atomExch h o, 6), (.atomCas h o, 7)] : List (Instr × Nat)),
    ∀ s c s1 l y old, Runs x.1 (atomNeed x.2 h o) s c s1 → c.lanes = [(c.group, l)] → s1.ops = [] → s1.doneOps = [] →
      (∀ g, (s1.grp c.team g).waits = []) → (s1.thr (c.key l)).pend = [] → tyBits o.ty = 32 →
      addrOf c s1 c.group l .generic o.a o.off 4 = .ok (.spad, y) → (s1.team c.team).spad.bad y 4 = false →
      old = (s1.team c.team).spad.num y 4 →
      ∃ t, exec x.1 s = .next t ∧ (t.thr (c.key l)).v (idx o.d) = ⟨BitVec.ofNat 32 old, false⟩
        ∧ (t.team c.team).spad.num y 4 = (
          if x.2 = 6 then srcV c s1 c.group l o.b o.ty
          else if x.2 = 7 then
            (if old = srcV c s1 c.group l o.b o.ty then srcV c s1 c.group l (o.b + 1) o.ty else old)
          else foldStep x.2 o.ty 0 0 old (srcV c s1 c.group l o.b o.ty)) % 2 ^ 32)
  ∧ ∀ h (o : OpM), ∀ x ∈ ([(.redAdd h o, 0), (.redMin h o, 1), (.redMax h o, 2), (.redAnd h o, 3), (.redOr h o, 4),
      (.redXor h o, 5)] : List (Instr × Nat)),
    ∀ s c s1 l y old, Runs x.1 (redNeed h o) s c s1 → bits o.modm 2 0 = 0 → c.lanes = [(c.group, l)] → s1.ops = [] → s1.doneOps = [] →
      (∀ g, (s1.grp c.team g).waits = []) → tyBits o.ty = 32 →
      addrOf c s1 c.group l .generic o.a o.off 4 = .ok (.spad, y) → (s1.team c.team).spad.bad y 4 = false →
      old = (s1.team c.team).spad.num y 4 →
      ∃ t, exec x.1 s = .next t ∧ (∀ k, ∃ n, t.thr k = { s1.thr k with owl := n })
        ∧ (t.team c.team).spad.num y 4 = foldStep x.2 o.ty 0 0 old (srcV c s1 c.group l o.b o.ty) % 2 ^ 32

/-- `wspill` and `wfill` (R169, R338): the lane's count, of its operand or, with AUTO, of the trap that asks for it; the lowest held registers go to the private words of their numbers, or those below the low limit come back from theirs, and the low limit moves by the count. One that passes its checks keeps the bounds of R168 and R338, and spills no poison. -/
def Obligations.WindowSpillAndFill : Prop :=
  ∀ h (o : OpI),
    EffRow.Lands ⟨.wspill h o, windowNeed false o, fun c s =>
      forEach c.act (fun s' l => s'.modThr (c.key l) (fun t => { t with lo := t.lo + (windowCount false o c s l).toNat }))
        (storeElems c 0 (windowElems false o c s) s)⟩
    ∧ EffRow.Lands ⟨.wfill h o, windowNeed true o, fun c s =>
      loadElems c false (windowElems true o c s) s
        (forEach c.act (fun s' l => s'.modThr (c.key l) (fun t => { t with lo := t.lo - (windowCount true o c s l).toNat })) s)⟩
    ∧ ∀ c s,
      (∀ fill l, (bit o.mod8 0 = false → windowCount fill o c s l = sext 32 (wrapN 32 (sext 32 (srcV c s c.group l o.a 0x2E) + sext 32 o.imm)))
        ∧ (bit o.mod8 0 = true → ∀ f, f = (s.grp c.team c.group).trap →
            windowCount fill o c s l = if f.kind = (if fill then 10 else 9) then (f.info : Int) else 0))
      ∧ (∀ v : Nat → Nat → Nat, (∀ l k, v l k = ((s.thr (c.key l)).read (s.now c.team) s.tick l c.nosb k).v.toNat) →
        ∀ row : Nat → Nat → Elem, (∀ l k, row l k = ⟨c.group, l, .priv, 4 * k, 4, none, k, false, 0x2F, v l k, 0⟩) →
        windowElems false o c s = c.act.flatMap (fun l => (upFrom (s.thr (c.key l)).lo (windowCount false o c s l).toNat).map (row l))
          ∧ windowElems true o c s = c.act.flatMap (fun l =>
              (upFrom ((s.thr (c.key l)).lo - (windowCount true o c s l).toNat) (windowCount true o c s l).toNat).map (row l)))
      ∧ ∀ fill, windowChk fill o c s = [] → ∀ l ∈ c.act, ∀ n x, n = windowCount fill o c s l → x = s.thr (c.key l) →
          0 ≤ n ∧ (fill = false → (x.lo : Int) + n ≤ x.wb ∧ 4 * ((x.lo : Int) + n) ≤ (s.launch c.team).privSize
              ∧ ∀ k, x.lo ≤ k → (k : Int) < x.lo + n → (x.read (s.now c.team) s.tick l c.nosb k).p = false)
            ∧ (fill = true → n ≤ x.lo ∧ (x.wb : Int) + 64 ≤ x.lo - n + x.depth ∧ 4 * x.lo ≤ (s.launch c.team).privSize)

/-- Tensor accesses and shape slots (R374, R375): `tld` and `tst` move the elements that lie inside the shape, each at the place that its coordinates give it (R287), an element outside loads as 0, and the zeroing form clears the inactive lanes' destinations; `hld` fills a slot with the 64 bytes at the pointer, of local memory at once, and issues again while what it reads must be waited for; `hclr` empties a slot; without an active lane neither does anything but signal. `spt`, `cvta` and `cvts` (R206, R376, Table local-2), in each active lane's registers or, for the lowest active lane, in an s register: the space of a pointer, the generic pointer of an offset or address, and the offset of a pointer of the named space. That `hld` reads at its issue is the model's choice (log entry 60). -/
def Obligations.TensorAndPointerInstructions : Prop :=
  ((∀ h (o : OpT) s c s1 k, slotOf c s1 o.hs = some k →
    (Runs (.tld h o) (tldNeed o) s c s1 →
      exec (.tld h o) s = .next (
        let s' := loadElems c (o.ord == 1) (tensorElems o false k c s1) s1 (tensorZero o k c s1 s1)
        if bit o.modt 0 then zeroLanes c (idx o.data) (2 ^ o.vec * regsOf o.ty) s' else s'))
    ∧ (Runs (.tst h o) (tstNeed o) s c s1 → exec (.tst h o) s = .next (storeElems c o.msc (tensorElems o true k c s1) s1)))
  ∧ (∀ s t h cs sp off (x : Nat → Nat), window s t h.base = .ok (sp, off) → 1 ≤ h.rank →
      ((∃ k, k < h.rank ∧ (cs.getD k 0 < 0 ∨ ((h.ext.getD k 0 : Nat) : Int) ≤ cs.getD k 0)) → shapeAddr s t h cs = .oob)
      ∧ ((∀ k, k < h.rank → cs.getD k 0 = (x k : Int) ∧ x k < h.ext.getD k 0) →
          ∀ e half at_ nib, e = (upFrom 1 (h.rank - 1)).foldl (fun y k => y + x k * h.stride.getD k 0) (x 0) →
            half = decide (h.ty = 0x26 ∨ h.ty = 0x27) → at_ = off + (if half then e / 2 else e * tySize h.ty) → nib = (if half then e % 2 else 0) →
            (sp ≠ .spad → shapeAddr s t h cs = .at_ sp at_ nib)
              ∧ (sp = .spad → ∃ b, shapeAddr s t h cs = .at_ .spad b nib ∧ ∀ k, bit b k = (bit at_ k
                  ^^ (decide (3 ≤ k ∧ k < 9 ∧ 2 ≤ h.rank) && bit h.swz (k - 3) && bit (x 1) (k - 3))))))
  ∧ (∀ (o : OpT) data k c s (cs : Nat → Nat → List Int) (val : Nat → Nat → Nat),
      (∀ l e, cs l e = (upFrom 0 7).map (fun j => if j < o.nc then
        sext 32 (srcV c s c.group l (o.coord + j) 0x2E) + (if j = 0 then (e : Int) else 0) else 0)) →
      (∀ l e, val l e = if data then (readSel c s c.group l (o.data + e * regsOf o.ty) (regsOf o.ty) o.ty).v % 2 ^ tyBits o.ty else 0) →
      ∀ place : Nat → Nat → ElemLoc, (∀ l e, place l e = elemCheck s c.team o.ty (shapeAddr s c.team k (cs l e))) →
      tensorElems o data k c s = c.act.flatMap (fun l => (upFrom 0 (2 ^ o.vec)).filterMap (fun e => match place l e with
        | .at_ sp y nib => some ⟨c.group, l, sp, y, tySize o.ty, if o.ty ∈ [0x26, 0x27] then some nib else none,
            (s.thr (c.key l)).wb + idx o.data + e * regsOf o.ty, false, o.ty, val l e, 0⟩
        | _ => none))
      ∧ (tyBits o.ty = 32 → o.vec = 0 → c.act.Nodup → (∀ l ∈ c.act, (s.thr (c.key l)).pend = []) → ∀ l ∈ c.act,
          (place l 0 = .oob → ((tensorZero o k c s s).thr (c.key l)).v (idx o.data) = ⟨0, false⟩)
            ∧ (place l 0 ≠ .oob → (tensorZero o k c s s).thr (c.key l) = s.thr (c.key l))))
  ∧ (∀ h (o : OpT) s c s1, Runs (.hld h o) { eng := 2, opds := [src 1 o.coord 1 [2]], unif := true, recalled := true, hold := acqHolds, chk := hldChk o } s c s1 →
      (c.act = [] → exec (.hld h o) s = .next (sigSoon c s1))
      ∧ (c.act ≠ [] → ∀ sp x, decodeGeneric s1 c.team (readS c s1 (c.set.headD 0) (idx o.coord)).v.toNat 64 = .ok (sp, x) → ∀ s2,
        (∀ b, readThrough c c.group sp x 64 s1 = (s2, .ok b) →
          ∃ t, exec (.hld h o) s = .next t ∧ t = { s2 with groups := t.groups } ∧ (t.grp c.team c.group).shapes.get? o.hs = some (leVal b)
            ∧ ∀ k, k ≠ o.hs → (t.grp c.team c.group).shapes.get? k = (s2.grp c.team c.group).shapes.get? k)
        ∧ (sp = .spad → (s1.team c.team).spad.bad x 64 = false →
            ∃ t, exec (.hld h o) s = .next t ∧ t = { s1 with groups := t.groups }
              ∧ (t.grp c.team c.group).shapes.get? o.hs = some ((s1.team c.team).spad.num x 64))
        ∧ (readThrough c c.group sp x 64 s1 = (s2, .error 255) →
            exec (.hld h o) s = .next (s2.modThrs c.team c.group c.set (fun u => { u with pc := c.pc })))))
  ∧ ∀ h (o : OpT) s c s1, Runs (.hclr h o) { eng := 2, opds := [], unif := true, recalled := true } s c s1 →
      (c.act = [] → exec (.hclr h o) s = .next (sigSoon c s1))
      ∧ (c.act ≠ [] → ∃ t, exec (.hclr h o) s = .next t ∧ t = { s1 with groups := t.groups }
        ∧ (t.grp c.team c.group).shapes.get? o.hs = none
        ∧ ∀ k, k ≠ o.hs → (t.grp c.team c.group).shapes.get? k = (s1.grp c.team c.group).shapes.get? k))
  ∧
  (∀ h (o : OpG) s c s1 i n k f u, k = bits o.flags 1 0 → u = sigAt c.team [c.group] (sigOf c) (c.due (s1.now c.team)) s1 →
    ((i = .spt h o ∧ n = 1 ∧ Runs (.spt h o) { eng := 2, opds := [dst 0 o.d 1 [0, 2], src 1 o.a 2 [0, 2]] } s c s1
        ∧ ∀ l ∈ c.act, f l = (match window s1 c.team (readSel c s1 c.group l o.a 2 0x31).v with
          | .ok (.glob, _) => 0
          | .ok (.spad, _) => 1
          | .ok (.clsh, _) => 2
          | .ok (.priv, _) => 3
          | .error e => if e = 4 then 4 else 5))
      ∨ (i = .cvta h o ∧ n = 2 ∧ Runs (.cvta h o)
          { eng := 2, opds := [dst 0 o.d 2 [0, 2], src 1 o.a (if k = 0 then 2 else 1) [0, 2, 60, 7]], chk := (cvtaDesc o).chk } s c s1
        ∧ ∀ l ∈ c.act, toGeneric s1 c.team k (cvtaSrc o c s1 l) = .ok (f l)
          ∧ f l = (if k = 0 then 0 else if k = 1 then 0x1FFF0 * 2 ^ 40 + (s1.team c.team).lin % 2 ^ 20 * 2 ^ 20
              else if k = 2 then 0x1FFF1 * 2 ^ 40 else 0x1FFF2 * 2 ^ 40) + cvtaSrc o c s1 l)
      ∨ (i = .cvts h o ∧ n = (if k = 0 then 2 else 1) ∧ Runs (.cvts h o)
          { eng := 2, opds := [dst 0 o.d n [0, 2], src 1 o.a 2 [0, 2]], chk := (cvtsDesc o).chk } s c s1
        ∧ ∀ l ∈ c.act, window s1 c.team (readSel c s1 c.group l o.a 2 0x31).v
            = .ok (if k = 0 then .glob else if k = 1 then .spad else if k = 2 then .clsh else .priv, f l))) →
    ∃ t, exec i s = .next t ∧ (cls o.d ≠ 2 → Wrote c u t o.d n f)
      ∧ (cls o.d = 2 → (c.act = [] → t = u) ∧ ∀ l r, c.act = l :: r → SResult c u t c.group (idx o.d) (f l)))

/-- `pf`, `flush` and `disc` (R380 to R382): an access for each line prefetched, and an eviction for each line after its stores have been sent or dropped. `syncwait` (R383): a wait whose words are all satisfied answers their results, in each active lane or once in an s register, and goes on at the next word, and nothing else of its threads, its group or memory changes; another one waits at the instruction with its words, phases and destinations recorded, and its counter raised. `syncadd` (R384): an addition updates each word in the order of the lanes, and is counted until its port acknowledges it. What a flush waits for is read as log entry 29 says. -/
def Obligations.CacheAndSyncInstructions : Prop :=
  (∀ h (o : OpM), ∀ r ∈ ([
      ⟨.pf h o, { eng := 2, opds := [src 1 o.a 2 [0, 2, 60]], noPoison := true, hold := acqHolds }, fun c s => forEach (prefLines o c s) (fun u line =>
        (startAcc (Acc.new (.pref (bit o.modm 0)) (issueUnit c c.group u) (ctxOf c u) line c.team [] 0) u).2) (sigSoon c s)⟩,
      ⟨.flush h o, { eng := 2, opds := [src 1 o.a 2 [0, 2, 60]], hold := acqHolds, chk := addrChk .generic o.a o.off 1 }, fun c s =>
        let ls := (lineLanes o 1 c s).filter (fun p => !p.2.isEmpty)
        let r := openTrack c ((ls.map (fun p => p.2.length)).foldl (fun a b => a + b) 0) 5 s
        ls.foldl (fun u p => flushLine c r.1 p.1 p.2 (drainLine (issueUnit c c.group u) (ctxOf c u) p.1 u)) r.2⟩,
      ⟨.disc h o, { eng := 2, opds := [src 1 o.a 2 [0, 2, 60]], hold := acqHolds, chk := (discDesc o).chk }, fun c s =>
        let ls := (lineLanes o 1 c s).filter (fun p => !p.2.isEmpty)
        let r := openTrack c ((ls.map (fun p => p.2.length)).foldl (fun a b => a + b) 0) 5 s
        ls.foldl (fun u p => flushLine c r.1 p.1 p.2 (dropLine (issueUnit c c.group u) (ctxOf c u) p.1 u)) r.2⟩] : List EffRow), r.Lands)
  ∧
  (∀ h (o : OpM) s c s1 (ls : List Nat) (word : Nat → SyncWord) (phase : Nat → Nat), Runs (.syncwait h o) (syncwaitNeed h o) s c s1 → ls = (if h.scope = 1 then c.act.take 1 else c.act) →
    (∀ l, word l = syncAt s1 c.team (syncOff o c s1 l)) → (∀ l, phase l = srcV c s1 c.group l o.b 0x2F % 2 ^ 16) →
    ((∀ l ∈ ls, (word l).sat (phase l) = true) →
      ∃ t, exec (.syncwait h o) s = .next t ∧ t = { s1 with threads := t.threads, groups := t.groups, doneOps := t.doneOps }
        ∧ (∀ l ∈ c.act, (t.thr (c.key l)).pc = (c.pc + 12) % 2 ^ 64 ∧ (t.thr (c.key l)).wait = .none)
        ∧ (h.scope ≠ 1 → (∀ l ∈ c.act, (t.thr (c.key l)).v (idx o.d) = ⟨BitVec.ofNat 32 (word l).result, false⟩
              ∧ ∀ x y, x = s1.thr (c.key l) → y = t.thr (c.key l) → y = { x with regs := y.regs }
                ∧ ∀ n, n % x.depth ≠ (x.wb + idx o.d) % x.depth → y.abs n = x.abs n)
            ∧ (∀ k, (∀ l ∈ c.act, k ≠ c.key l) → t.thr k = s1.thr k) ∧ ∀ g n, (t.grp c.team g).s n = (s1.grp c.team g).s n)
        ∧ (h.scope = 1 → t.threads = s1.threads
            ∧ (∀ n, (∀ l r, c.act = l :: r → n ≠ idx o.d) → (t.grp c.team c.group).s n = (s1.grp c.team c.group).s n)
            ∧ ∀ l r, c.act = l :: r →
                (t.grp c.team c.group).s (idx o.d) = ⟨BitVec.ofNat 64 (word l).result, false⟩))
    ∧ ((∃ l ∈ ls, (word l).sat (phase l) = false) →
      ∃ t, exec (.syncwait h o) s = .next t ∧ t.mem = s1.mem ∧ t.hmem = s1.hmem
        ∧ (∀ l ∈ c.set, (t.thr (c.key l)).pc = c.pc ∧ (t.thr (c.key l)).wait = .word)
        ∧ (∀ k, (∀ l ∈ c.set, k ≠ c.key l) → t.thr k = s1.thr k)
        ∧ (∀ k, k < 6 → sigOf c = k → (t.grp c.team c.group).cnt = (s1.grp c.team c.group).cnt.set k ((s1.grp c.team c.group).w k + 1))
        ∧ ∃ w, (t.grp c.team c.group).waits = (s1.grp c.team c.group).waits ++ [w] ∧ w.set = c.set ∧ w.bank = none ∧ w.sig = sigOf c
            ∧ w.uniform = (h.scope == 1) ∧ w.lanes.map (·.lane) = ls
            ∧ ∀ x ∈ w.lanes, x.at_ = syncOff o c s1 x.lane ∧ x.phase = phase x.lane ∧ x.ok = (word x.lane).sat (phase x.lane)
                ∧ x.dst = (if h.scope = 1 then idx o.d else (s1.thr (c.key x.lane)).wb + idx o.d)))
  ∧ ∀ h (o : OpM), EffRow.Lands ⟨.syncadd h o, syncaddNeed h o, fun c s =>
      countLocal c.team c.group (if h.scope = 1 then c.act else syncLanes h c) 0
        (sigSoon c (forEach (syncLanes h c) (fun u l => noteWrite c.team c.group (syncOff o c s l) 16
          (syncApply c.team (syncOff o c s l) (srcV c s c.group l o.b 0x2F) false u)) s))⟩

/-! ### Engine commands and matrix operations -/

/-- `copy`, `tcopy`, `fktab` and `fkdec` (R385 to R388): the command stands in its core's queue with its operands, its mode, its word and the counter that its acceptance lowers, and its acceptance is due. The matrix, Rod, stack-multiply, rotation and Bushel operations (R389 to R404): each stands in its core's queue with its operands, its place and its barrier object, and its unit's event is due. The order of the units' work is the model's (log entries 3 and 33). -/
def Obligations.CommandsAndOperationsSent : Prop :=
  (∀ h o, ∀ r ∈ ([
      ⟨.copy h o, needOf 4 (copyDesc o), fun c s => (∃ k, engLoc s c.team (sReg c s o.a 0) = .ok k) ∧ ∃ k, engLoc s c.team (sReg c s o.b 0) = .ok k,
        0x2800, o.mode, fun _ _ => 0, wordOf o.mode, fun c s => [sReg c s o.a 0], fun c s => [sReg c s o.b 0], fun c s => [sReg c s o.c 0],
        .copyCommandAccept⟩,
      ⟨.tcopy h o, needOf 4 (tcopyDesc o), fun c s => (leadSlot c s o.a).isSome = true ∧ (leadSlot c s o.b).isSome = true,
        0x2801, o.mode, fun _ _ => 0, wordOf o.mode, fun _ _ => [], fun _ _ => [], fun c s => (upFrom 0 8).map (sReg c s o.c), .copyCommandAccept⟩,
      ⟨.fktab h o, needOf 4 (fktabDesc o), fun c s => ∃ k, engLoc s c.team (sReg c s o.a 0) = .ok k,
        0x2802, o.mode, fun _ _ => 0, wordOf o.mode, fun c s => [sReg c s o.a 0], fun _ _ => [], fun _ _ => [], .copyCommandAccept⟩,
      ⟨.fkdec h o, needOf 4 (fkdecDesc o), fun c s => (∃ k, engLoc s c.team (sReg c s o.a 0) = .ok k) ∧ ∃ k, engLoc s c.team (sReg c s o.b 0) = .ok k,
        0x2803, o.mode, fun _ _ => 0, wordOf o.mode, fun c s => [sReg c s o.a 0], fun c s => [sReg c s o.b 0], fun c s => [sReg c s o.c 0],
        .copyCommandAccept⟩] : List SendRow), r.Lands)
  ∧
  (∀ h o,
    let array := fun (c : Ctx) (s : State) => (arrayPlace o c s).getD 0
    let bay := fun (c : Ctx) (s : State) => (bayPlace o c s).getD 0
    let send := fun (i : Instr) (d : Desc) (opc : Nat) (place : Ctx → State → Nat) (a b x : Ctx → State → List Nat) =>
      (⟨i, needOf 3 d, fun _ _ => True, opc, o.mode, place, some (barOff o.mode), a, b, x, .asyncOperationComplete⟩ : SendRow)
    let regs := fun (sel n : Nat) (c : Ctx) (s : State) => (upFrom 0 n).map (sReg c s sel)
    ∀ r ∈ [send (.wload h o) (wloadDesc o) 0x3001 array (regs o.a 1) (regs 0 0) (regs 0 0),
      send (.mmul h o) (mmulDesc o) 0x3002 array (regs o.a 1) (regs o.b 1) (regs 0 0),
      send (.aclr h o) (aclrDesc o) 0x3003 array (regs o.a 1) (regs 0 0) (regs 0 0),
      send (.aread h o) (areadDesc o) 0x3004 array (regs o.a 1) (regs o.b 1) (regs o.c 1),
      send (.rsend h o) (rodDesc 0x3006 o) 0x3006 array (regs o.a 1) (regs 0 0) (regs 0 0),
      send (.rrecv h o) (rodDesc 0x3007 o) 0x3007 array (regs o.a 1) (regs 0 0) (regs 0 0),
      send (.smv h o) (smvDesc o) 0x3100 (fun _ _ => 0) (regs o.a 1) (regs o.b 1) (regs o.c 2),
      send (.qrot h o) (qrotDesc o) 0x3101 (fun _ _ => 0) (regs o.a 1) (regs 0 0) (regs 0 0),
      send (.bput h o) (bushelDesc 0x3102 o) 0x3102 bay (regs o.a 2) (regs o.b 1) (regs 0 0),
      send (.bfork h o) (bushelDesc 0x3103 o) 0x3103 bay (regs o.a 2) (regs o.b 1) (regs 0 0),
      send (.bdrop h o) (bushelDesc 0x3104 o) 0x3104 bay (regs o.a 2) (regs o.b 1) (regs 0 0),
      send (.attn h o) (bushelDesc 0x3105 o) 0x3105 bay (regs o.a 2) (regs o.b 1) (regs 0 0)], r.Lands)

/-- `mapset` (R393) stores the 16 bytes of an operand map in the scratchpad as one write, counted until its port acknowledges it, and with no active lane only signals; with no operation in flight the map's number reads back. `ofence` (R394), once no thread of the issue set has a write unacknowledged, makes the members' scratchpad writes ready for matrix operations. -/
def Obligations.MapsetAndOperandFence : Prop :=
  ∀ h (o : OpE), (∀ r ∈ ([
      ⟨.mapset h o, mapsetNeed o, fun c s => if c.act = [] then sigSoon c s else
        countLocal c.team c.group c.act (openTrack c 1 0 s).1 (noteWrite c.team c.group (sReg c s o.b 0) 16
          (portWrite c.team .spad (sReg c s o.b 0) (leBytes 16 (sReg c s o.a 0 + 2 ^ 64 * sReg c s o.a 1)) (openTrack c 1 0 s).2))⟩,
      ⟨.ofence h o, { eng := 3, opds := [], full := true, hold := fun c s => c.set.any (fun l => (s.thr (c.key l)).owl != 0) }, fun c s =>
        forEach c.mem (fun u m => u.modGrp c.team m.1 (fun G => { G with unfenced := [] })) (sigSoon c s)⟩]
      : List EffRow), r.Lands)
    ∧ ∀ s c s1, Runs (.mapset h o) (mapsetNeed o) s c s1 → c.act ≠ [] → s1.ops = [] → s1.doneOps = [] →
      ∃ t, exec (.mapset h o) s = .next t
        ∧ (t.team c.team).spad.num (sReg c s1 o.b 0) 16 = sReg c s1 o.a 0 + 2 ^ 64 * sReg c s1 o.a 1

/-! ### Events of the package -/

/-- Bring-up with good hardware, good images and feasible remap tables (R26, R30, Table package-10): every step is done, the KHL has trained with the settings of its lanes, the stacks hold zeros, the bays are released at 640 MHz with their clocks at 0 and their loops due, the remap tables are in place, and the command processor runs. A failing check of bring-up, at whichever step, leaves its code and the last completed step; the bays and the command processor stay as they were (R26, Table package-10). A reset of the part (R26): the state on the part is that of reset, its caches, slices, trees, messages, operations, objects and contexts empty; the fuses (seed, root-key digest, defects), the flash of the KHA-2 (images, certificate), the security version and host memory stay, and what the KHA-2 is to do next. The last step of bring-up that sets RUN, and what a reset keeps, are read as log entries 49 and 52 say; the contents of flash are inputs (log entry 8). -/
def Obligations.BringUpAndReset : Prop :=
  (∀ s ts, s.regs.stage = 0 → s.regs.booterr = 0 → s.ev.k ∉ [1, 5, 6, 8] → imageCheck s (imageOf s 0) = 0 →
    remapAll (clearStacks (stageOne s)) = some ts → imageCheck (putRemap ts (clearStacks (stageOne s))) (imageOf s 1) = 0 →
    ∃ t, exec .bringUp s = .next t ∧ t.regs.stage = 8 ∧ t.regs.booterr = 0 ∧ t.regs.run = true ∧ t.mem = [] ∧ t.hmem = s.hmem
      ∧ t.regs.khl.state = (if s.ev.a = 1 then 3 else 2) ∧ t.regs.khl.width = (if s.ev.a = 1 then 8 else 16) ∧ t.regs.khl.eq = eqOf s.ev.data
      ∧ t.ident.seedLocked = true
      ∧ (∀ b, b < 8 → (t.bay b).freq = 80 ∧ t.acyc.getD b 1 = 0 ∧ ∃ d ∈ t.agenda, d.ev = .vfLoopStep ∧ d.arg.k = b)
      ∧ ∀ b w, b < 8 → remapWords (clearStacks (stageOne s)) b = some w → (t.bay b).remap = (upFrom 0 112).zip w)
  ∧
  (∀ s stage err, s.regs.stage = 0 → s.regs.booterr = 0 →
    ((s.ev.k = 1 ∧ stage = 0 ∧ err = 1)
      ∨ (s.ev.k ≠ 1 ∧ imageCheck s (imageOf s 0) ≠ 0 ∧ stage = 3 ∧ err = imageCheck s (imageOf s 0))
      ∨ (imageCheck s (imageOf s 0) = 0 ∧ ((s.ev.k = 5 ∧ stage = 4 ∧ err = 5) ∨ (s.ev.k = 6 ∧ stage = 5 ∧ err = 6)
          ∨ (s.ev.k ∉ [1, 5, 6] ∧ ((remapAll (clearStacks (stageOne s)) = none ∧ stage = 6 ∧ err = 7)
              ∨ ∃ ts e, remapAll (clearStacks (stageOne s)) = some ts ∧ e = imageCheck (putRemap ts (clearStacks (stageOne s))) (imageOf s 1)
                  ∧ ((e ≠ 0 ∧ stage = 6 ∧ err = e) ∨ (e = 0 ∧ s.ev.k = 8 ∧ stage = 7 ∧ err = 8))))))) →
    ∃ t, exec .bringUp s = .next t ∧ t.regs = { s.regs with stage := stage, booterr := err } ∧ t.acyc = s.acyc ∧ t.agenda = s.agenda
      ∧ ∀ b, (t.bay b).freq = (s.bay b).freq)
  ∧
  (∀ s, ∃ t, exec .partReset s = .next t
    ∧ t = { State.reset with
        tick := s.tick, hmem := s.hmem, notices := s.notices, agenda := s.agenda.filter (fun d => d.ev == .bringUp)
        regs := { State.reset.regs with svn := s.regs.svn }
        ident := { s.ident with seedLocked := false, publicKey := [], meas := State.reset.ident.meas, reply := [] } }
    ∧ t.mem = [] ∧ t.bad = [] ∧ t.threads = [] ∧ t.groups = [] ∧ t.teams = [] ∧ t.sets = [] ∧ t.grids = [] ∧ t.clsh = [] ∧ t.left = []
    ∧ t.ctxs = [] ∧ t.runs = [] ∧ t.tasks = [] ∧ t.bays = State.reset.bays ∧ t.ncyc = 0 ∧ t.acyc = []
    ∧ t.l1 = [] ∧ t.slices = [] ∧ t.trees = [] ∧ t.wcs = [] ∧ t.accs = [] ∧ t.msgs = [] ∧ t.combs = [] ∧ t.ords = []
    ∧ t.plc = [] ∧ t.atc = [] ∧ t.tlb = [] ∧ t.maps = [] ∧ t.walks = [] ∧ t.hsect = [] ∧ t.objs = [] ∧ t.xfers = [] ∧ t.putxs = [] ∧ t.flips = []
    ∧ t.ops = [] ∧ t.doneOps = [] ∧ t.timed = [] ∧ t.firkin = [] ∧ t.arrays = [] ∧ t.posted = [] ∧ t.regs.khl.state = 0 ∧ t.regs.kfl = []
    ∧ t.ident.seed = s.ident.seed ∧ t.ident.rootDigest = s.ident.rootDigest ∧ t.ident.defects = s.ident.defects
    ∧ t.ident.images = s.ident.images ∧ t.ident.certificate = s.ident.certificate
    ∧ t.ident.seedLocked = false ∧ t.ident.meas = State.reset.ident.meas)

/-- Identity, attestation, clocks, droops, temperature and power (R17 to R20, R27 to R29). The security version rises only by a signed command, and never falls. A bay's loop takes a step at most once in 2,000 n-cycles and is due again after it: throttling, the power limit and FMAX lower the frequency by one step, to no less than 640 MHz, FMIN raises it, and else it moves by at most one step inside its limits. A droop stretches the bay's clock and counts; the core keeps its time. A change of temperature sets the thermal state, which is left only 3 degrees below its threshold; the first reading that trips a bay is reported and removes the power. A measured power above the limit marks every bay until one below it is measured, and is reported when all run at 640 MHz (R18 to R20, Table package-3). Sensors, droops and the free steps of the loop are inputs or free choices (log entry 51); the layout of a quote (log entry 50), of the certificate's answer and of a signed command, that Trip stays until the reset, the state that a reading between two thresholds leaves, and TEMP after a trip without a reading are the model's choice (log entry 56). -/
def Obligations.PackagePowerAndThermalEvents : Prop :=
  (∀ r ∈ ([
      ⟨.securityVersionRaise, fun s => s.ident.seedLocked = true ∧ s.ev.v < 2 ^ 16 ∧ sha3 (s.ev.data.take 1312) = s.ident.rootDigest
          ∧ Config.mlDsaVerify (s.ev.data.take 1312) (sha3 (leBytes 2 s.ev.v)) (s.ev.data.drop 1312) = true,
        fun s => s.modRegs (fun r => { r with svn := max r.svn s.ev.v })⟩,
      ⟨.securityVersionRaise, fun s => Config.mlDsaVerify (s.ev.data.take 1312) (sha3 (leBytes 2 s.ev.v)) (s.ev.data.drop 1312) = false, fun s => s⟩,
      ⟨.measurementExtend, fun s => s.ident.seedLocked = true ∧ 2 ≤ s.ev.k ∧ s.ev.k < 8, fun s =>
        s.modIdent (fun x => { x with meas := (upFrom 0 8).map (fun k =>
          let old := x.meas.getD k (List.replicate 32 0)
          if k = s.ev.k then sha3 (old ++ s.ev.data) else old) })⟩,
      ⟨.quoteRequest, fun s => s.ident.seedLocked = true ∧ s.ev.data.length = 32, fun s =>
        let m := s.ev.data ++ s.ident.meas.flatten ++ leBytes 2 s.regs.svn
        s.modIdent (fun x => { x with reply := m ++ Config.mlDsaSign x.seed (sha3 m) })⟩,
      ⟨.certificateRequest, fun s => s.ident.seedLocked = true, fun s =>
        s.modIdent (fun x => { x with reply := x.publicKey ++ x.certificate })⟩,
      ⟨.vfLoopStep, fun s => (s.bay s.ev.k).vfAt ≤ s.ncyc, fun s => vfDue s.ev.k (s.ncyc + 2000) (s.modBay s.ev.k (fun B =>
        { B with freq := nextFreq B (Config.freeChoice s.tick s.ev.k), vfAt := s.ncyc + 2000 }))⟩,
      ⟨.vfLoopStep, fun s => s.ncyc < (s.bay s.ev.k).vfAt, fun s => vfDue s.ev.k (s.bay s.ev.k).vfAt s⟩,
      ⟨.droopRecovery, fun _ => True, fun s => s.modBay s.ev.k (fun B => { B with stretched := false })⟩,
      ⟨.thermalTrip, fun _ => True, fun s =>
        ((s.modBay s.ev.k (fun B => { B with temp := max B.temp 110, therm := 3 })).tell (.trip s.ev.k)).push .partReset (.ofK 0)⟩]
      : List EvRow), r.Lands)
  ∧
  (∀ b at_ s, (∃ d ∈ (vfDue b at_ s).agenda, d.ev = .vfLoopStep ∧ d.arg.k = b)
      ∧ ∀ B n, (1 ≤ B.therm ∨ B.overCap = true ∨ B.fmax < B.freq → nextFreq B n = max 80 (B.freq - 1))
        ∧ (B.therm = 0 → B.overCap = false → B.freq ≤ B.fmax → B.freq < B.fmin → nextFreq B n = B.freq + 1)
        ∧ (B.therm = 0 → B.overCap = false → B.freq ≤ B.fmax → B.fmin ≤ B.freq →
            B.freq ≤ nextFreq B n + 1 ∧ nextFreq B n ≤ B.freq + 1 ∧ B.fmin ≤ nextFreq B n ∧ nextFreq B n ≤ B.fmax))
  ∧
  ((∀ s, ∃ t, exec .droopEvent s = .next t ∧ (t.bay s.ev.k).stretched = true ∧ (t.bay s.ev.k).droopcnt = ((s.bay s.ev.k).droopcnt + 1) % 256
      ∧ s.ncyc ∈ t.coreDroop.getD (48 * s.ev.k + s.ev.a) [] ∧ ∀ b, b ≠ s.ev.k → t.bay b = s.bay b)
  ∧ (∀ s b v old, b = s.ev.k → v = s.ev.v → old = (s.bay b).therm → v < 256 → old ≤ 3 → ∃ t new, exec .thermalStateChange s = .next t
      ∧ (t.bay b).temp = v ∧ new = (t.bay b).therm ∧ ((old = 3 ∨ 110 ≤ v) → new = 3)
        ∧ (old ≠ 3 → 100 ≤ v → v < 110 → new = 2) ∧ (old = 2 → 97 < v → v < 110 → new = 2)
        ∧ (old < 2 → 95 ≤ v → v < 100 → new = 1) ∧ (old = 2 → 92 < v → v ≤ 97 → new = 1) ∧ (old = 1 → 92 < v → v < 100 → new = 1)
        ∧ (old = 0 → v < 95 → new = 0) ∧ (old ≠ 3 → v ≤ 92 → new = 0)
        ∧ (new = 3 → old ≠ 3 → t.notices = s.notices ++ [.trip b] ∧ ∃ d ∈ t.agenda, d.ev = .partReset)
        ∧ ((new ≠ 3 ∨ old = 3) → t.notices = s.notices))
  ∧ ∀ s, ∃ t, exec .powerLimitExceeded s = .next t
      ∧ (∀ b, b < 8 → (t.bay b).overCap = (decide (s.regs.pwrcap < s.ev.v) || ((s.bay b).overCap && !decide (s.ev.v < s.regs.pwrcap))))
      ∧ (s.regs.pwrcap < s.ev.v → (∀ b, b < 8 → (s.bay b).freq = 80) → t.notices = s.notices ++ [.overrun])
      ∧ (s.ev.v ≤ s.regs.pwrcap → t.notices = s.notices))

/-- The window (R101 to R103): an aligned access of the register's width acts on the register that the offset names, the lower half of a wide register is held until its upper half is written, and a read of it keeps a snapshot, which the next read of the upper half uses up; another width or alignment reads 0, and so does an offset that names no register, whose write is ignored. A read that reaches the part over the KHL, or by the KHA-2 sideband, which answers too while the KHL is down (R26), is answered with the register's bytes, and one of the write-only doorbell window with zeros (R4, R88). The host's accesses wait while the KHL trains and have no effect while it is down (R33, R34). Writes that have events of their own show in the register afterwards, within its limits, with reserved bits 0 (R5, R20, R24, R75, R146, R187, R239, Tables package-6, package-7, fabric-8, sched-3, core-2, matrix-4). -/
def Obligations.RegisterWindow : Prop :=
  (∀ s o n r, regAt o = some r →
    (n ≠ r.bytes → windowTake o n s = (s, 0)) ∧ (n = r.bytes → r.wide = false → windowTake o n s = (s, regGet s r))
    ∧ (n = r.bytes → r.wide = true → o % 16 = 0 → ∃ t, windowTake o n s = (t, regGet s r % 2 ^ 64) ∧ t = { s with regs := t.regs }
        ∧ t.regs.snap.get? o = some (regGet s r))
    ∧ (n = r.bytes → r.wide = true → o % 16 ≠ 0 → ∃ t, windowTake o n s = (t, s.regs.snap.getD (o - 8) (regGet s r) / 2 ^ 64) ∧ t = { s with regs := t.regs }
        ∧ t.regs.snap.get? (o - 8) = none))
  ∧ (∀ s o n, regAt o = none → windowTake o n s = (s, 0))
  ∧ (∀ s, (s.ev.data ≠ [] ∨ 2 ≤ s.regs.khl.state) → s.ev.a = 1 →
      ∃ t, exec .barMemoryRead s = .next t ∧ ∀ l, l = leBytes s.ev.v (windowTake s.ev.k s.ev.v s).2 → t.regs.readback = l
        ∧ t.notices = s.notices ++ [if s.ev.data = [] then .barData l else .sideData l])
  ∧ (∀ s, 2 ≤ s.regs.khl.state → s.ev.a = 2 → ∃ t, exec .barMemoryRead s = .next t ∧ t.regs.readback = List.replicate s.ev.v 0
        ∧ t.notices = s.notices ++ [.barData (List.replicate s.ev.v 0)])
  ∧ (∀ s, s.ev.data = [] → ∀ i ∈ [Instr.registerWrite, .reg128LowWrite, .reg128LowRead, .frameRingTailWrite, .frameRing3HeadWrite, .bushelEnable,
        .bushelDisable, .pwrcapWrite, .combwinWrite, .schedCfgWrite, .simtCfgWrite, .matrixCfgWrite, .vflimWrite, .errlogOvfClear, .errentValidClear],
      (s.regs.khl.state = 0 → exec i s = .next s) ∧ (s.regs.khl.state = 1 → exec i s = .next (s.keep i)))
  ∧
  ((∀ s r, (s.ev.data ≠ [] ∨ 2 ≤ s.regs.khl.state) → regAt s.ev.k = some r → s.ev.a = r.bytes → (r.wide = false ∨ s.ev.k % 16 ≠ 0) →
    exec .registerWrite s = .next (regPut r (s.ev.v % 2 ^ (8 * r.bytes)) s))
  ∧ (∀ s r, (s.ev.data ≠ [] ∨ 2 ≤ s.regs.khl.state) → regAt s.ev.k = some r → s.ev.a = r.bytes → r.wide = true → s.ev.k % 16 = 0 →
    ∃ t, exec .registerWrite s = .next t ∧ t.regs.lowHeld.get? s.ev.k = some (s.ev.v % 2 ^ 64) ∧ regGet t r = regGet s r)
  ∧ (∀ s, (s.ev.data ≠ [] ∨ 2 ≤ s.regs.khl.state) → (regAt s.ev.k = none ∨ ∃ r, regAt s.ev.k = some r ∧ s.ev.a ≠ r.bytes) → exec .registerWrite s = .next s)
  ∧ (∀ s r, (s.ev.data ≠ [] ∨ 2 ≤ s.regs.khl.state) → regAt s.ev.k = some r → r.wide = true → s.ev.k % 16 = 0 →
    (∃ t, exec .reg128LowWrite s = .next t ∧ t.regs.lowHeld.get? s.ev.k = some (s.ev.v % 2 ^ 64))
    ∧ ∃ t, exec .reg128LowRead s = .next t ∧ t.regs.snap.get? s.ev.k = some (regGet s r)
        ∧ t.regs.readback = leBytes 8 (regGet s r) ∧ t.notices = s.notices ++ [if s.ev.data = [] then .barData (leBytes 8 (regGet s r)) else .sideData (leBytes 8 (regGet s r))])
  ∧ ∀ r ∈ ([
      ⟨.frameRingTailWrite, fun s => (s.ev.data ≠ [] ∨ 2 ≤ s.regs.khl.state) ∧ s.ev.a < 3, fun s => putFrptr s.ev.k s.ev.a s.ev.v s⟩,
      ⟨.frameRing3HeadWrite, fun s => s.ev.data ≠ [] ∨ 2 ≤ s.regs.khl.state, fun s => putFrptr s.ev.k 3 s.ev.v s⟩,
      ⟨.bushelEnable, fun s => s.ev.data ≠ [] ∨ 2 ≤ s.regs.khl.state, fun s => putBushel s.ev.k s.ev.v s⟩,
      ⟨.bushelDisable, fun s => s.ev.data ≠ [] ∨ 2 ≤ s.regs.khl.state, fun s => putBushel s.ev.k s.ev.v s⟩] : List EvRow), r.Lands)
  ∧
  (∀ s, (s.ev.data ≠ [] ∨ 2 ≤ s.regs.khl.state) →
    (∃ t, exec .pwrcapWrite s = .next t ∧ regGet t .pwrcap = satN (bits s.ev.v 11 0) 1500 3000 ∧ t = { s with regs := t.regs })
    ∧ (∃ t, exec .combwinWrite s = .next t ∧ t = { s with regs := t.regs }
        ∧ regGet t .combwin = bits s.ev.v 31 31 * 2 ^ 31 + (if bits s.ev.v 15 0 = 0 then 1 else bits s.ev.v 15 0))
    ∧ (∃ t, exec .schedCfgWrite s = .next t ∧ t = { s with regs := t.regs }
        ∧ regGet t .schedCfg = satN (bits s.ev.v 63 48) 16 4096 * 2 ^ 48 + bits s.ev.v 47 32 * 2 ^ 32 + bits s.ev.v 2 0)
    ∧ (∃ t, exec .simtCfgWrite s = .next t ∧ t = { s with rjto := t.rjto, lathi := t.lathi, latlo := t.latlo }
        ∧ regGet t .simtCfg = satN (bits s.ev.v 63 40) 1024 16777215 * 2 ^ 40 + bits s.ev.v 39 24 * 2 ^ 24 + bits s.ev.v 23 8 * 2 ^ 8)
    ∧ (∃ t, exec .matrixCfgWrite s = .next t ∧ t = { s with regs := t.regs }
        ∧ regGet t .matrixCfg = satN (bits s.ev.v 63 40) 1024 16777215 * 2 ^ 40)
    ∧ (∃ t, exec .vflimWrite s = .next t ∧ (∀ b, b ≠ s.ev.k → t.bay b = s.bay b)
        ∧ (∀ lo hi, lo = satN (bits s.ev.v 6 0) 80 120 → hi = satN (bits s.ev.v 13 7) 80 120 →
            (lo ≤ hi → regGet t (.vflim s.ev.k) = hi * 2 ^ 7 + lo) ∧ (hi < lo → t = s)))
    ∧ (∃ t, exec .errlogOvfClear s = .next t ∧ (t.bay s.ev.k).ovf = ((s.bay s.ev.k).ovf && !bit s.ev.v 9)
        ∧ (t.bay s.ev.k).errhead = (s.bay s.ev.k).errhead ∧ ∀ b, b ≠ s.ev.k → t.bay b = s.bay b)
    ∧ (∃ t, exec .errentValidClear s = .next t
        ∧ (bit s.ev.v 63 = true → bit ((t.bay s.ev.k).errent.getD s.ev.a 0) 127 = false)
        ∧ (bit s.ev.v 63 = false → ∀ b, t.bay b = s.bay b)))

/-! ### Admin commands and doorbells -/

/-- Admin commands that do what they name (R85 to R88, R80, R41 to R43, R97, R162); a completion writes its record, the status before the rest, then moves HEAD on and raises vector 0 (R85). A suspension whose halt may not start yet, and a bias flip whose page is not quiet, are looked at again; a flip without the link ends with status 8. A command that names no context completes with status 1 and changes nothing else (R87). A read of a command's operand that the KHL's training holds is made after it. A doorbell (R88), which comes over the KHL and waits while it trains (R33): TAIL of a queue of a known context takes the written value modulo the ring size, and the queue is looked at; another one counts as a bad doorbell and does nothing else. The statuses that the spec does not name are read as log entry 47 says. -/
def Obligations.AdminCommandsAndDoorbells : Prop :=
  ((∀ r ∈ ([
      ⟨.adminptrTailWrite, fun s => s.ev.data ≠ [] ∨ 2 ≤ s.regs.khl.state, fun s => adminPump (s.modRegs (fun r => { r with admintail := bits s.ev.v 15 0 % r.adminLen }))⟩,
      ⟨.adminUnknownOpcode, fun _ => True, fun s => adminDone 10 s⟩,
      ⟨.adminCommandReadError, fun _ => True, fun s =>
        adminPump ((s.modRegs (fun r => { r with abusy := false, adminhead := (r.adminhead + 1) % r.adminLen })).msix 0)⟩,
      ⟨.objClear, fun s => (s.ctxs.get? s.aCtx).isSome = true ∧ s.aLen < 4096 ∧ ∀ x ∈ s.xfers, x.obj ≠ s.aLen,
        fun s => adminDone 0 { s with objs := s.objs.del s.aLen }⟩,
      ⟨.biasFlip, fun s => (s.ctxs.get? s.aCtx).isSome = true ∧ s.aArg < 2 ∧ flipPage s s.aCtx s.aAddr s.aLen = true,
        fun s => ({ s with flips := s.flips ++ [⟨s.aCtx, s.aAddr, s.aLen, s.aArg == 1, 0⟩] } : State).push .biasFlipComplete s.ev⟩,
      ⟨.queueResume, fun s => ∃ c q, s.ctxs.get? s.aCtx = some c ∧ c.queues.get? s.aArg = some q,
        fun s => adminDone 0 (queuePump s.aCtx s.aArg (s.modQueue s.aCtx s.aArg (fun x => { x with halted := false })))⟩,
      ⟨.xlateInval, fun s => (s.ctxs.get? s.aCtx).isSome = true, fun s => adminDone 0 (discardRange s.aCtx s.aAddr s.aLen s)⟩,
      ⟨.ctxSuspendComplete, fun s => ∃ c, s.ctxs.get? s.aCtx = some c ∧ resident s s.aCtx = [] ∧ c.inHalt = false, fun s => adminDone 0 s⟩,
      ⟨.ctxDestroy, fun s => ∃ c, s.ctxs.get? s.aCtx = some c ∧ c.dying = true ∧ ctxBusy s s.aCtx = false,
        fun s => adminDone 0 (purgeContext s.aCtx s)⟩] : List EvRow), r.Lands)
  ∧ (∀ s x ds s1 s2, s.aAddr % 64 = 0 → cpNum s.aAddr 64 s = (s1, .ok x) → recordOk_ x = true →
      readDescs (bits x 319 256) (4 * viewDevices (bits x 499 498)) 0 [] s1 = (s2, .ok ds) → ds.all queueOk = true →
      s2.ctxs.get? (bits x 511 500) = none → s2.ctxs.length < 256 →
      exec .ctxCreate s = .next (adminDone 0 { s2 with
        ctxs := s2.ctxs ++ [(bits x 511 500, ctxOfRec x ((upFrom 0 ds.length).zip (ds.map queueOf)) s2.ncyc)] }))
  ∧ (∀ s s1 k, s.aAddr % 64 = 0 → cpNum s.aAddr 64 s = (s1, .error k) →
      (k = 255 → exec .ctxCreate s = .next (s1.keep .ctxCreate)) ∧ (k ≠ 255 → exec .ctxCreate s = .next (adminDone 9 s1)))
  ∧ (∀ s c s1 k, s.ctxs.get? s.aCtx = some c → s.aLen < 4096 → cpNum s.aAddr 32 s = (s1, .error k) →
      (k = 255 → exec .objDeclare s = .next (s1.keep .objDeclare)) ∧ (k ≠ 255 → exec .objDeclare s = .next (adminDone 9 s1)))
  ∧ (∀ s c, s.ctxs.get? s.aCtx = some c → (resident s s.aCtx = [] ∨ c.inHalt = true) →
      ∃ t, exec .ctxSuspend s = .next t ∧ (t.ctxs.get? s.aCtx).map (·.suspended) = some true
        ∧ (⟨.ctxSuspendComplete, s.ev, s.ncyc, 0⟩ : Due) ∈ t.agenda)
  ∧ (∀ s c u, s.ctxs.get? s.aCtx = some c → resident s s.aCtx ≠ [] → c.inHalt = false → u = markSuspended s.aCtx s →
      ((c.phase = 0 ∨ c.phase = 4) → mayPreempt u s.aCtx 8 = true →
          exec .ctxSuspend s = .next ((requestHalt s.aCtx 8 none none u).push .ctxSuspendComplete s.ev))
      ∧ ((c.phase ≠ 0 ∧ c.phase ≠ 4 ∨ mayPreempt u s.aCtx 8 = false) → exec .ctxSuspend s = .next (u.push .ctxSuspend s.ev)))
  ∧ (∀ s c u, s.ctxs.get? s.aCtx = some c → u = s.modCtx s.aCtx (fun c => { c with suspended := false, cause := none, causeTeam := none }) →
      exec .ctxResume s = .next (adminDone 0 (resumeCmdStep.callDispatchers s.aCtx (
        if c.phase = 4 then u.push .contextResumeAuto ⟨s.aCtx, 0, 1, []⟩
        else if c.phase = 0 ∧ c.suspended = true then runAgain s.aCtx u else u))))
  ∧ (∀ s c x y s1 s2, s.ctxs.get? s.aCtx = some c → s.aLen < 4096 → cpNum s.aAddr 32 s = (s1, .ok x) →
      cpNum (objOfImage x).shape 64 s1 = (s2, .ok y) → objOk s2 (objOfImage x) = true →
      exec .objDeclare s = .next (adminDone 0 { s2 with objs := if bit x 255 then s2.objs.set s.aLen (objOfImage x) else s2.objs.del s.aLen }))
  ∧ ∀ s f l, s.flips = f :: l →
      (s.regs.khl.state = 0 → exec .biasFlipComplete s = .next (adminDone 8 (settle (setBias { f with toDev := false } { s with flips := l }))))
      ∧ (s.regs.khl.state ≠ 0 → (s.regs.khl.state < 2 ∨ flipHolds f s = true) →
          exec .biasFlipComplete s = .next ((drainPage f s).push .biasFlipComplete s.ev))
      ∧ (2 ≤ s.regs.khl.state → flipHolds f s = false →
          exec .biasFlipComplete s = .next (adminDone 0 (settle (setBias f (flipWork f { s with flips := l }))))))
  ∧
  (∀ s code d, d = bits s.regs.acmd 319 256 → ∀ s1 s2, s1 = (cpWrite (d + 8) (leBytes 8 (statusWord code 0 0)) s).1 →
      s2 = (cpWrite d (leBytes 8 0) s1).1 → adminDone code s = adminPump ((s2.modRegs (fun r =>
        { r with abusy := false, adminhead := (r.adminhead + 1) % r.adminLen })).msix 0))
  ∧
  (∀ s, s.ctxs.get? s.aCtx = none → ∀ i ∈ [Instr.ctxDestroy, .ctxSuspend, .ctxResume, .objDeclare, .objClear, .biasFlip, .queueResume, .xlateInval],
    exec i s = .next (adminDone 1 s))
  ∧
  ((∀ s c q, 2 ≤ s.regs.khl.state → s.ctxs.get? s.ev.k = some c → c.queues.get? s.ev.a = some q →
      exec .doorbellWrite s = .next (queuePump s.ev.k s.ev.a (s.modQueue s.ev.k s.ev.a (fun x => { x with tail := bits s.ev.v 15 0 % x.len }))))
  ∧ (∀ s, (s.regs.khl.state = 0 → exec .doorbellWrite s = .next s) ∧ (s.regs.khl.state = 1 → exec .doorbellWrite s = .next (s.keep .doorbellWrite)))
  ∧ ∀ s, 2 ≤ s.regs.khl.state → (s.ctxs.get? s.ev.k = none ∨ ∃ c, s.ctxs.get? s.ev.k = some c ∧ c.queues.get? s.ev.a = none) →
      ∃ t, exec .doorbellWrite s = .next t ∧ t = { s with regs := { s.regs with badbell := (s.regs.badbell + 1) % 2 ^ 16 } })

/-! ### Events of resident teams -/

/-- What happens to threads between instructions (R180 to R186, R198, R209, R211, R372): the acknowledgement of local writes, after which the last part of an instruction lowers its dependency counter (R175); the hand-over to a Span core, which waits for the thread's stores and reads and for its core's stores (R184), and the recall, which waits for the thread's accesses and its Span core's stores, a failed store of the stay being taken as store_error; the rejoin timeout, whose lanes are the ejected threads of the mask; the end of an adaptation window; a count that reaches a word, with the command's end before its last one; the arithmetic of an update (R209), which the word then shows; and the timer of a word, which counts only while the word is waited on, has a limit and has not timed out. The moments of these events, and when a timer is looked at, are the model's choice (log entries 21 and 35); so are the wait for a core's stores (log entries 26 and 44), LO after a recall (log entry 70), a timeout while the handler is active (log entry 71) and an update of a poisoned word (log entry 72). -/
def Obligations.ThreadEvents : Prop :=
  (∀ s l, laneList 128 (BitVec.ofNat 128 s.ev.v) = l → leVal ((s.ev.data.drop 8).take 8) ≤ s.now s.ev.k →
      ∃ t, exec .portWriteAcknowledgement s = .next t ∧ t = { s with threads := t.threads, groups := t.groups, tracks := t.tracks }
        ∧ (∀ i ∈ l, t.thr (s.ev.k, s.ev.a, i) = { s.thr (s.ev.k, s.ev.a, i) with owl := (s.thr (s.ev.k, s.ev.a, i)).owl - 1 })
        ∧ (∀ k, (∀ i ∈ l, k ≠ (s.ev.k, s.ev.a, i)) → t.thr k = s.thr k)
        ∧ (s.tracks.get? (leVal (s.ev.data.take 8)) = none → t.tracks = s.tracks ∧ t.groups = s.groups)
        ∧ (∀ x, s.tracks.get? (leVal (s.ev.data.take 8)) = some x → 2 ≤ x.left →
            t.tracks = s.tracks.set (leVal (s.ev.data.take 8)) { x with left := x.left - 1 } ∧ t.groups = s.groups)
        ∧ ∀ x, s.tracks.get? (leVal (s.ev.data.take 8)) = some x → x.left ≤ 1 → x.groups.Nodup → x.sig < 6 →
            t.tracks = s.tracks.del (leVal (s.ev.data.take 8))
              ∧ ∀ g ∈ x.groups, t.grp x.team g = { s.grp x.team g with cnt := (s.grp x.team g).cnt.set x.sig ((s.grp x.team g).w x.sig - 1) })
  ∧ (∀ r ∈ ([
      ⟨.ejectionHandoverComplete, fun s => let x := s.thr (s.ev.k, s.ev.a, s.ev.v)
          x.live = true ∧ x.wait = .moving ∧ threadDrained x = true ∧ coreStores (16 * (s.team s.ev.k).cluster + (s.team s.ev.k).core) s = false
            ∧ ∃ sp, x.span = some sp ∧ ∀ p ∈ x.pend ++ sp.owed, ∀ a, s.accs.get? p.access = some a → a.kind ≠ AKind.load ∧ a.kind ≠ AKind.atom,
        fun s => s.modThr (s.ev.k, s.ev.a, s.ev.v) (fun x => { x with wait := .none })⟩,
      ⟨.ejectionHandoverComplete, fun s => let x := s.thr (s.ev.k, s.ev.a, s.ev.v)
          x.live = true ∧ x.wait = .moving ∧ ∃ sp, x.span = some sp
            ∧ (threadDrained x = false ∨ coreStores (16 * (s.team s.ev.k).cluster + (s.team s.ev.k).core) s = true
              ∨ ∃ p ∈ x.pend ++ sp.owed, ∃ a, s.accs.get? p.access = some a ∧ (a.kind = AKind.load ∨ a.kind = AKind.atom)),
        fun s => (drainUnit (16 * (s.team s.ev.k).cluster + (s.team s.ev.k).core) (drainThread s.ev.k s.ev.a s.ev.v s)).push .ejectionHandoverComplete s.ev⟩,
      ⟨.threadRecall, fun s => let x := s.thr (s.ev.k, s.ev.a, s.ev.v)
          x.live = true ∧ x.span.isSome = true ∧ (s.team s.ev.k).halted = false ∧ threadDrained x = true ∧ x.pend = [] ∧ x.acq = []
            ∧ coreStores (unitOf s (s.ev.k, s.ev.a, s.ev.v)) s = false ∧ x.storeErr.any (errCovered 3) = false,
        fun s => evalMasks s.ev.k s.ev.a (s.modThr (s.ev.k, s.ev.a, s.ev.v) (fun x => { x with span := none, wait := .none, latPipe := none }))⟩,
      ⟨.threadRecall, fun s => let x := s.thr (s.ev.k, s.ev.a, s.ev.v)
          x.live = true ∧ x.span.isSome = true ∧ (s.team s.ev.k).halted = false ∧ (threadDrained x = false ∨ x.pend ≠ [] ∨ x.acq ≠ []
            ∨ coreStores (unitOf s (s.ev.k, s.ev.a, s.ev.v)) s = true
            ∨ (x.storeErr.any (errCovered 3) = true ∧ (s.grp s.ev.k s.ev.a).trap.active = true)),
        fun s => (drainUnit (unitOf s (s.ev.k, s.ev.a, s.ev.v)) (drainThread s.ev.k s.ev.a s.ev.v s)).push .threadRecall s.ev⟩,
      ⟨.threadRecall, fun s => let x := s.thr (s.ev.k, s.ev.a, s.ev.v)
          x.live = true ∧ x.span.isSome = true ∧ (s.team s.ev.k).halted = false ∧ threadDrained x = true ∧ x.pend = [] ∧ x.acq = []
            ∧ coreStores (unitOf s (s.ev.k, s.ev.a, s.ev.v)) s = false
            ∧ x.storeErr.any (errCovered 3) = true ∧ (s.grp s.ev.k s.ev.a).trap.active = false,
        fun s =>
          let x := s.thr (s.ev.k, s.ev.a, s.ev.v)
          let u := evalMasks s.ev.k s.ev.a (s.modThr (s.ev.k, s.ev.a, s.ev.v) (fun x => { x with span := none, wait := .none, latPipe := none }))
          enterTrap s.ev.k s.ev.a (issueSetOf u s.ev.k s.ev.a s.ev.v) 0 x.pc x.cd ⟨14, 3, 0, [s.ev.v], s.ev.a⟩ u⟩,
      ⟨.syncUpdate, fun s => (s.teams.get? s.ev.k).isSome = true ∧ leVal s.ev.data = 0,
        fun s => syncApply s.ev.k s.ev.a (s.ev.v / 2) (s.ev.v % 2 == 1) s⟩,
      ⟨.syncUpdate, fun s => (s.teams.get? s.ev.k).isSome = true ∧ leVal s.ev.data % 2 = 0 ∧ leVal s.ev.data ≠ 0, fun s =>
        let u := syncApply s.ev.k s.ev.a (s.ev.v / 2) (s.ev.v % 2 == 1) s
        u.push (nextCount (s.op (leVal s.ev.data / 2))) (.ofK (leVal s.ev.data / 2))⟩,
      ⟨.syncUpdate, fun s => ((finishCmd (leVal s.ev.data / 2) s).teams.get? s.ev.k).isSome = true ∧ leVal s.ev.data % 2 = 1,
        fun s => syncApply s.ev.k s.ev.a (s.ev.v / 2) (s.ev.v % 2 == 1) (finishCmd (leVal s.ev.data / 2) s)⟩,
      ⟨.ejectionWindowEnd, fun s => ∃ T, s.teams.get? s.ev.k = some T ∧ T.halted = false ∧ 4096 ≤ T.winCount + (s.now s.ev.k - T.winStart), fun s =>
        let T := s.team s.ev.k
        let e := nextThreshold (s.launch s.ev.k).ejmin (s.launch s.ev.k).ejmax (s.spanUsed T.cluster).length T.winLat s.lathi s.latlo T.ej
        (s.modTeam s.ev.k (fun T => { T with ej := e, winStart := s.now s.ev.k, winCount := T.winCount + (s.now s.ev.k - T.winStart) - 4096, winLat := 0 })).push
          .ejectionWindowEnd s.ev⟩]
      : List EvRow), r.Lands)
  ∧ (∀ s x w ws pc, (s.grp s.ev.k s.ev.a).timers.find? (fun r => r.mask == s.ev.v) = some x → (s.team s.ev.k).halted = false →
      s.rjto ≤ x.count + (s.now s.ev.k - x.start) → (s.grp s.ev.k s.ev.a).trap.active = false → maskWaiters s.ev.k s.ev.a s.ev.v s = w :: ws →
      s.handlerEntry s.ev.k = some pc →
      ∃ t, exec .rejoinTimeout s = .next t ∧ (t.grp s.ev.k s.ev.a).trap.active = true ∧ (t.grp s.ev.k s.ev.a).trap.kind = 15
        ∧ (t.grp s.ev.k s.ev.a).trap.info = s.ev.v % 2 ^ 32
        ∧ (t.grp s.ev.k s.ev.a).trap.lanes = lanesOf ((maskThreads s.ev.k s.ev.a s.ev.v s).filter (fun i => (s.thr (s.ev.k, s.ev.a, i)).span.isSome))
        ∧ (t.grp s.ev.k s.ev.a).trap.pc = (s.thr (s.ev.k, s.ev.a, w)).pc ∧ (t.thr (s.ev.k, s.ev.a, w)).pc = pc
        ∧ (t.thr (s.ev.k, s.ev.a, w)).wait = .none
        ∧ ∀ y ∈ (t.grp s.ev.k s.ev.a).timers, y.mask ≠ s.ev.v)
  ∧ (∀ s x, (s.grp s.ev.k s.ev.a).timers.find? (fun r => r.mask == s.ev.v) = some x → (s.grp s.ev.k s.ev.a).trap.active = true →
      exec .rejoinTimeout s = .next (s.push .rejoinTimeout s.ev))
  ∧ (∀ s x w, s.timed.find? (fun y => y.team == s.ev.k && y.off == s.ev.a) = some x → (s.team s.ev.k).halted = false → w = syncAt s s.ev.k s.ev.a →
      (x.count + (s.now s.ev.k - x.start) < 1024 → exec .syncTimerTick s = .next (s.push .syncTimerTick s.ev))
      ∧ (1024 ≤ x.count + (s.now s.ev.k - x.start) → ∀ e u, e = (w.elapsed + 1) % 2 ^ 16 →
          u = portWrite s.ev.k .spad s.ev.a (leBytes 16 ({ w with elapsed := e, timeout := decide (w.limit ≤ e) } : SyncWord).toNat)
            (restartWord s.ev.k s.ev.a (x.start + (1024 - x.count)) s) →
          (e < w.limit → exec .syncTimerTick s = .next (u.push .syncTimerTick s.ev))
            ∧ (w.limit ≤ e → exec .syncTimerTick s = .next ((wordRecord s.ev.k u).push .syncTimerTick s.ev))))
  ∧ (∀ s x, s.timed = [x] → (s.team x.team).halted = false → (s.teams.get? x.team).isSome = true →
      (wordWaited s x.team x.off = false → settleTimed s = untimeWord x.team x.off s)
      ∧ (wordWaited s x.team x.off = true → ∀ w, w = syncAt s x.team x.off →
          ((w.limit = 0 ∨ w.timeout = true) → settleTimed s = { s with timed := [{ x with start := s.now x.team, count := 0 }] })
          ∧ (w.limit ≠ 0 → w.timeout = false → settleTimed s = s)))
  ∧ (∀ (w r : SyncWord) amount err n, w.count < 2 ^ 32 → n = min (2 ^ 32 - 1) (w.count + amount) → r = w.update amount err →
      r.target = w.target ∧ r.timeout = w.timeout ∧ r.limit = w.limit ∧ r.rsv = w.rsv ∧ r.error = (w.error || err)
      ∧ (w.target ≠ 0 → w.target ≤ n → r.count = n - w.target ∧ r.gen = (w.gen + 1) % 2 ^ 16 ∧ r.elapsed = 0
          ∧ r.overF = (w.overF || decide (2 ^ 32 - 1 < w.count + amount) || decide (w.target ≤ n - w.target)))
      ∧ (w.target = 0 ∨ n < w.target → r.count = n ∧ r.gen = w.gen ∧ r.elapsed = w.elapsed
          ∧ r.overF = (w.overF || decide (2 ^ 32 - 1 < w.count + amount))))
  ∧ ∀ s t off amount err, (s.teams.get? t).isSome = true → s.ops = [] → s.doneOps = [] → (∀ g, (s.grp t g).waits = []) →
      syncAt (syncApply t off amount err s) t off = (syncAt s t off).update amount err

/-- The adaptive threshold (R186) moves by at most one and stays within the launch's bounds. -/
def Obligations.ThresholdStaysInBounds : Prop :=
  ∀ lo hi used lat lathi latlo e, lo ≤ e → e ≤ hi →
    lo ≤ nextThreshold lo hi used lat lathi latlo e ∧ nextThreshold lo hi used lat lathi latlo e ≤ hi
      ∧ nextThreshold lo hi used lat lathi latlo e ≤ e + 1 ∧ e ≤ nextThreshold lo hi used lat lathi latlo e + 1

/-- An uncorrectable tree-cache error (R69, R99): the package is fabric-fatal, and nothing new is accepted. -/
def Obligations.TreeCacheErrorIsFatal : Prop :=
  ∀ s, ∃ t, exec .treeCacheEccFatal s = .next t ∧ t.regs.fatal = true ∧ t.accepts = false

/-! ### Links, host memory and granules -/

/-- The links (R32 to R36, Tables links-1 to links-4): a flit that fails its CRC is asked for again, the later ones are discarded until it comes, and its eighth failure starts a retrain; a flit in sequence moves the receiver on, delivers its message, and frees the replay buffer up to the acknowledged number, and a discarded one does none of this; a replay request makes the sender resend from a number; the settings of the lanes move by one step in 100 microseconds within their limits; a retrain ends at the width that trained and resends what is not acknowledged, and with the KHL go the writes that its training held back; the third failure in a row takes the link down, which is reported to the host for the KHL, and the KHL stays down, while a KFL port's granules are lost once nothing of them is on its way; and a message that leaves the part takes a flit for each 240 bytes of its data, is kept in the replay buffer until it is acknowledged, and is held while the link trains. Which flits take a place in the sequence (a reserved type does not), and how the values of these events stand for what the link measures, are the model's choice (log entries 7 and 57). -/
def Obligations.LinkEvents : Prop :=
  (∀ s k l h, s.ev.k = k → s.link k = l → leVal (s.ev.data.take 4) = h → 2 ≤ l.state →
    (bit s.ev.v 1 = true →
      (l.replaying = true → bits h 23 12 ≠ l.next → exec .flitReceived s = .next s)
      ∧ ((l.replaying = false ∨ bits h 23 12 = l.next) → ∀ l' : LinkStat, l' = { l with
            replay := (l.replay + 1) % 256, replaying := true, wire := l.wire ++ [(⟨2, 0, l.next, (l.next + 4095) % 4096, none⟩ : Flit)] } →
          (l.fails < 7 → exec .flitReceived s = .next (s.setLink k { l' with fails := l.fails + 1 }))
            ∧ (7 ≤ l.fails → exec .flitReceived s = .next (startRetrain k (s.setLink k { l' with fails := 0 })))))
    ∧ (bit s.ev.v 1 = false → ∀ v u, v = { l with feccorr := if bit s.ev.v 0 = true then (l.feccorr + 1) % 256 else l.feccorr } →
        u = v.acknowledge (bits h 11 0) →
        (bits h 31 28 = 2 → exec .flitReceived s = .next (s.setLink k (u.resend (bits h 23 12))))
        ∧ (bits h 31 28 ≠ 2 → bits h 31 28 ≤ 3 → bits h 23 12 = l.next → exec .flitReceived s = .next (s.setLink k { u with
            next := (l.next + 1) % 4096, fails := 0, replaying := false
            got := if bits h 31 28 = 1 then l.got ++ [(s.ev.data.drop 4).take 240] else l.got }))
        ∧ (bits h 31 28 ≠ 2 → (bits h 23 12 ≠ l.next ∨ 3 < bits h 31 28) → exec .flitReceived s = .next (s.setLink k v)))
    ∧ exec .replayRequest s = .next (s.setLink k (l.resend s.ev.v))
    ∧ (s.ev.v = 1 → exec .equalisationStep s = .next (startRetrain k s))
    ∧ ((s.ev.v = 0 ∨ 4 ≤ s.ev.v) → exec .equalisationStep s = .next s)
    ∧ ∀ x, l.eq[s.ev.a]? = some x → (s.ev.v = 2 ∨ s.ev.v = 3) →
        (s.ncyc < x.at_ → exec .equalisationStep s = .next (s.setLink k { l with eq := l.eq.set s.ev.a x }))
        ∧ (x.at_ ≤ s.ncyc → exec .equalisationStep s = .next (s.setLink k { l with eq := l.eq.set s.ev.a { x with
            value := if s.ev.v = 2 then min x.hi (x.value + 1) else max x.lo (x.value - 1), at_ := s.ncyc + 200000 } })))
  ∧ (∀ s k l, s.ev.k = k → s.link k = l → l.training = true → ¬(k ≠ 0 ∧ l.state = 0 ∧ l.bad = 3) → ∀ l' : LinkStat, l' = { l with
        retrain := (l.retrain + 1) % 256, training := false, eq := eqOf s.ev.data } →
      ∀ back : State → State, (∀ u, back u = if k = 0 then khlReturns u else u) →
      (∀ st w, ((st = 2 ∧ w = fullWidth k ∧ fullWidth k ≤ s.ev.v) ∨ (st = 3 ∧ w = fullWidth k / 2 ∧ fullWidth k / 2 ≤ s.ev.v ∧ s.ev.v < fullWidth k)) →
        exec .linkRetrainDone s = .next (back (s.setLink k (LinkStat.release { l' with
          state := st, width := w, bad := 0, wire := l.wire ++ l.buffer }))))
      ∧ (s.ev.v < fullWidth k / 2 → l.bad < 2 →
          exec .linkRetrainDone s = .next (back (startRetrain k (s.setLink k { l' with state := 1, bad := l.bad + 1 }))))
      ∧ (s.ev.v < fullWidth k / 2 → 2 ≤ l.bad → ∀ u, u = s.setLink k { l' with state := 0, width := 0, bad := 3 } →
          (k = 0 → exec .linkRetrainDone s = .next (khlReturns (khlDown u)) ∧ (khlDown u).notices.getLast? = some .linkDown)
            ∧ (k ≠ 0 → portQuiet (k - 1) u = true → exec .linkRetrainDone s = .next (kflDown (k - 1) (u.setLink k { u.link k with bad := 0 })))
            ∧ (k ≠ 0 → portQuiet (k - 1) u = false → exec .linkRetrainDone s = .next (u.keep .linkRetrainDone))))
  ∧ (∀ s k, s.ev.k = k → k ≠ 0 → (s.link k).state = 0 → (s.link k).bad = 3 →
      (portQuiet (k - 1) s = true → exec .linkRetrainDone s = .next (kflDown (k - 1) (s.setLink k { s.link k with bad := 0 })))
      ∧ (portQuiet (k - 1) s = false → exec .linkRetrainDone s = .next (s.keep .linkRetrainDone)))
  ∧ (∀ s, (s.regs.khl.training = true → khlReturns s = s)
      ∧ (s.regs.khl.training = false → s.posted = [] → ∀ u : State, u = { s with posted := [] } →
          khlReturns s = adminPump (u.ctxs.foldl (fun v e => e.2.queues.foldl (fun w q => queuePump e.1 q.1 w) v) u)))
  ∧ (∀ s a l, 2 ^ 40 ≤ a → s.regs.khl.state = 1 → cpWrite a l s = ({ s with posted := s.posted ++ [(a, l)] }, none))
  ∧ (∀ s k, (s.link k).training = false → (s.link k).state ≠ 0 → startRetrain k s = s.setLink k { s.link k with state := 1, training := true })
  ∧ (∀ s, s.ev.k = 0 → s.regs.khl.state = 0 → s.regs.khl.training = false →
      (∀ i ∈ [Instr.flitReceived, .replayRequest, .equalisationStep], exec i s = .next s) ∧ exec .linkRetrainDone s = .next (khlReturns s))
  ∧ (∀ (l : LinkStat) q,
      ((∀ x ∈ l.buffer, x.seq ≠ q) → l.acknowledge q = l ∧ (l.resend q).wire = l.wire)
      ∧ (∀ a x b, l.buffer = a ++ x :: b → x.seq = q → (∀ y ∈ a, y.seq ≠ q) →
          l.acknowledge q = LinkStat.release { l with acked := q, buffer := b } ∧ l.resend q = { l with wire := l.wire ++ x :: b }))
  ∧ (∀ (s : State) (n : Notice) (k : Nat) (l : LinkStat), noticeLink n = some k → s.link k = l → 2 ≤ l.state → l.held = [] →
      l.buffer.length + n.payloads.length ≤ 512 →
      s.tell n = ({ s with notices := s.notices ++ [n] } : State).setLink k (n.payloads.foldl (fun u p =>
        let x : Flit := ⟨1, 0, u.txNext, (u.next + 4095) % 4096, some p⟩
        { u with buffer := u.buffer ++ [x], wire := u.wire ++ [x], txNext := (u.txNext + 1) % 4096 }) l))
  ∧ (∀ d l, (Notice.barData d).payloads = l → ∃ ds : List (List Byte), l = ds.map .barData ∧ ds.flatten = d ∧ ∀ x ∈ ds, x.length ≤ 240)
  ∧ (∀ p ty i g d sick l, (Notice.kfl p ty i g d sick).payloads = l →
      ∃ ds : List (List Byte), l = ds.map (fun x => .kfl p ty i g x sick) ∧ ds.flatten = d ∧ ∀ x ∈ ds, x.length ≤ 240)
  ∧ ∀ (s : State) (n : Notice) k, noticeLink n = some k → (s.link k).state < 2 →
      s.tell n = ({ s with notices := s.notices ++ [n] } : State).setLink k { s.link k with held := (s.link k).held ++ n.payloads }

/-- Host memory (R38 to R40, R70, R100, R114): the fetch of a line, once its request has come to I/O die 0, asks the host for the sectors that the part lacks, takes them and fills the slice; with the link down it ends in an error of kind 7 for those who wait, and while the link trains it waits; a completed write leaves its counters; a snoop of a sector that the part does not hold misses, and one that hits and has its turn at the line's home is answered with the sector's bytes: SnpData leaves it shared, SnpInv gives it up with everything of its line on chip, and SnpCur changes nothing; and the device-memory window reads and writes context 0. How the host's writes arrive, and that a snoop waits while something of its line is on its way, are the model's choice (log entries 25 and 32). -/
def Obligations.HostMemoryEvents : Prop :=
  (∀ (s s0 u : State) (x : Xl) (own : Bool), fetchArrives s = (s0, true) →
    (∀ f ∈ s0.flips, f.ctx ≠ s.ev.k ∨ s.ev.a * 128 < f.va ∨ f.va + f.size ≤ s.ev.a * 128 ∨ (f.toDev = false ∧ s.ev.v % 2 = 1)) →
    s0.tlbFind 128 s.ev.k (s.ev.a * 128) = some x → x.attr.host = true → own = (s.ev.v % 2 == 1 || x.bias) →
    u = (if s.ev.v % 2 = 1 then touchD 128 x s0 else s0) →
    ((sectorsToAsk u (x.phys (s.ev.a * 128)) own = [] ∨ 2 ≤ u.regs.khl.state) → u.slices.get? (s.ev.k, s.ev.a) = none →
      (∀ k ∈ victimsOf u s.ev.k ((upFrom 0 2).map (fun i => (x.phys (s.ev.a * 128) / 64 + i, s.ev.a * 2 + i))), lineQuiet u k.1 k.2 = true) →
      ∃ t, exec .hostSectorFetch s = .next t ∧ ∃ c, t.slices.get? (s.ev.k, s.ev.a) = some c ∧ c.attr = x.attr
        ∧ c.pa = x.phys (s.ev.a * 128) ∧ c.obj = x.obj ∧ c.dirty = false)
    ∧ (sectorsToAsk u (x.phys (s.ev.a * 128)) own ≠ [] →
      (u.regs.khl.state = 0 → exec .hostSectorFetch s = .next (failLine s.ev.k s.ev.a 7 u))
      ∧ (u.regs.khl.state = 1 → exec .hostSectorFetch s = .next (u.sendArg .hostSectorFetch u.ev 0 s.ev.k s.ev.a))))
  ∧ (∀ s s0, fetchArrives s = (s0, false) → exec .hostSectorFetch s = .next (s0.sendArg .hostSectorFetch s.ev 0 s.ev.k s.ev.a))
  ∧ (∀ s hs ctx vs st, (∀ h ∈ s.hsect, h.hs ≠ hs) → s.hsect.length < 2097152 →
      takeSector hs ctx vs st s = { s with hsect := s.hsect ++ [⟨hs, ctx, vs, st⟩] })
  ∧ (∀ s a, s.accs.get? s.ev.k = some a → ∀ i ∈ [Instr.itomwrCompletion, .wrack],
    exec i s = .next (Machine.settle (trackDones a.parts.length a.track (homeDone a false { s with accs := s.accs.del s.ev.k }))))
  ∧ (∀ s, s.hsect.find? (fun h => h.hs == s.ev.k) = none → 2 ≤ s.regs.khl.state → ∀ u, u = dropMsg s.ev.a s →
    exec .snpdata s = .next (u.tell .snoopMiss) ∧ exec .snpcur s = .next (u.tell .snoopMiss)
      ∧ exec .snpinv s = .next ((u.tell .snoopMiss).wr true (s.ev.k * 64) s.ev.data))
  ∧ (∀ s h, s.hsect.find? (fun x => x.hs == s.ev.k) = some h → 2 ≤ s.regs.khl.state →
    ∀ i ∈ [Instr.snpcur, .snpdata, .snpinv], ∀ s1 id, (snoopTurn i h s = (s1, id, false) → exec i s = .next (s1.push i { s.ev with a := id }))
      ∧ (snoopTurn i h s = (s1, id, true) → s1.trees.get? (lineHome s1 h.ctx (h.vs / 2), h.ctx, h.vs / 2) = none →
        ∀ u v d, u = landLine h.ctx (h.vs / 2) s1 → v = dropMsg id u → d = u.rd true (s.ev.k * 64) 64 →
          (i = .snpcur → exec i s = .next (v.tell (.snoopHit d)))
          ∧ (i = .snpdata → exec i s = .next (({ v with
              hsect := v.hsect.map (fun (x : HostSector) => if x.hs == s.ev.k then { x with st := HSt.s } else x) } : State).tell (.snoopHit d)))
          ∧ (i = .snpinv → lineQuiet u h.ctx (h.vs / 2) = true →
              exec i s = .next ((purgeLines h.ctx [h.vs / 2] (v.tell (.snoopHit d))).wr true (s.ev.k * 64) s.ev.data))))
  ∧ (∀ s, 2 ≤ s.regs.khl.state → 0 < s.ev.v → s.ev.k % 128 + s.ev.v ≤ 128 → s.ev.k < 2 ^ 40 → s.badLine false s.ev.k s.ev.v = false →
    s.slices.get? (0, s.ev.k / 128) = none → s.ev.a ≠ 1 → s.ev.a ≠ 2 →
    ∃ t, exec .barMemoryRead s = .next t ∧ t.regs.readback = s.rd false s.ev.k s.ev.v
      ∧ t.notices = s.notices ++ [.barData (s.rd false s.ev.k s.ev.v)])
  ∧ ∀ s, 2 ≤ s.regs.khl.state → s.ev.data ≠ [] → s.ev.k % 128 + s.ev.data.length ≤ 128 → s.ev.k < 2 ^ 40 →
    s.slices.get? (0, s.ev.k / 128) = none →
    s.badMerge false s.ev.k s.ev.data.length = false → exec .barMemoryWrite s = .next (s.ctlWr false s.ev.k s.ev.data)

/-- Granules of declared objects (R43 to R45, Tables links-7 and links-8): the home sends a granule that nobody holds against the request, records the requester, and first recalls it from those who do; a package that is not the home gives a recalled granule up, with its data from E, keeps the data of its own eviction until the home acknowledges it and answers no recall meanwhile; a recall waits behind a grant that has arrived before it, so that no two packages hold a granule for writing; a grant writes the granule and sets its state; what comes by a port waits while the port trains (R33); the home takes a returned one back; and an access waits, asking for the granule, where its state does not permit it, and fails where the home's port is down. Which lines a granule holds, and that a transfer waits while something of its lines is on its way, are the model's choice (log entries 25 and 31). -/
def Obligations.GranuleEvents : Prop :=
  (∀ s o b, s.objs.get? s.ev.k = some o → o.home = 7 → s.ev.v < 4 → 2 ≤ (s.link (s.ev.v + 1)).state → (∀ x ∈ s.xfers, x.obj ≠ s.ev.k ∨ x.gran ≠ s.ev.a) → b = granByte s o s.ev.a →
    ∀ e i, i = (if e then Instr.getx else .gets) →
    (granQuiet s o s.ev.a = true → bit b 3 = false → (e = true → bits b 7 4 = 0) →
      ∀ u d, u = purgeLines o.ctx (granLines s o s.ev.a) (touchGran o s.ev.a s) → d = Notice.kfl s.ev.v 0 s.ev.k s.ev.a (granData u o s.ev.a) (granSick u o s.ev.a) →
      ∃ t, exec i s = .next t ∧ t.notices.getLast? = some d
        ∧ t = nextXfer s.ev.k s.ev.a ((setGranByte o s.ev.a (if e then 8 + 2 * s.ev.v else setBit b (4 + s.ev.v) true) u).tell d))
    ∧ (∀ ws, ws = (if bit b 3 then [bits b 2 1] else []) ++ (if e then portsOf (bits b 7 4) else []) → ws ≠ [] →
        exec i s = .next (ws.foldl (fun u p => u.tell (.kfl p (if e then 4 else 3) s.ev.k s.ev.a [] []))
          { s with xfers := s.xfers ++ [(⟨s.ev.k, s.ev.a, s.ev.v, e, ws, true⟩ : Xfer)] })))
  ∧ (∀ s o, s.objs.get? s.ev.k = some o → o.home ≠ 7 →
      (s.ev.v ≠ 8 → bits (granByte s o s.ev.a) 1 0 = 2 → s.putxs.contains ⟨s.ev.k, s.ev.a⟩ = false → granQuiet s o s.ev.a = true →
        ∀ u, u = purgeLines o.ctx (granLines s o s.ev.a) s → exec .putx s = .next (({ u with putxs := u.putxs ++ [⟨s.ev.k, s.ev.a⟩] } : State).tell
          (.kfl o.home 6 s.ev.k s.ev.a (granData u o s.ev.a) (granSick u o s.ev.a))))
      ∧ (2 ≤ (s.link (o.home + 1)).state →
        (s.putxs.contains ⟨s.ev.k, s.ev.a⟩ = true → exec .granuleRecall s = .next s)
        ∧ (s.putxs.contains ⟨s.ev.k, s.ev.a⟩ = false → granQuiet s o s.ev.a = true →
          (∀ d ∈ s.agenda, d.ev ≠ .granuleGrant ∨ d.arg.k ≠ s.ev.k ∨ d.arg.a ≠ s.ev.a) →
          ∀ b own u, b = bits (granByte s o s.ev.a) 1 0 → own = decide (b = 2) → u = purgeLines o.ctx (granLines s o s.ev.a) s →
          exec .granuleRecall s = .next ((setGranByte o s.ev.a (if s.ev.v = 0 ∧ b ≠ 0 then 1 else 0) u).tell
            (.kfl o.home 5 s.ev.k s.ev.a (if own then granData u o s.ev.a else []) (if own then granSick u o s.ev.a else []))))
        ∧ (s.putxs.contains ⟨s.ev.k, s.ev.a⟩ = false →
          (granQuiet s o s.ev.a = false ∨ ∃ d ∈ s.agenda, d.ev = .granuleGrant ∧ d.arg.k = s.ev.k ∧ d.arg.a = s.ev.a) →
          exec .granuleRecall s = .next (s.keep .granuleRecall))
        ∧ (granQuiet s o s.ev.a = true → exec .granuleGrant s = .next (nextXfer s.ev.k s.ev.a (setXfer s.ev.k s.ev.a none
            (setGranByte o s.ev.a (if bit s.ev.v 3 = true then 2 else 1)
              (putGranData o s.ev.a s.ev.data (s.ev.v / 16) (touchGran o s.ev.a (purgeLines o.ctx (granLines s o s.ev.a) s)))))))
        ∧ (granQuiet s o s.ev.a = false → exec .granuleGrant s = .next (s.keep .granuleGrant))
        ∧ (s.ev.v = 8 → s.putxs.contains ⟨s.ev.k, s.ev.a⟩ = true → exec .putx s = .next (nextXfer s.ev.k s.ev.a (setGranByte o s.ev.a 0
            { s with putxs := s.putxs.filter (fun x => x != (⟨s.ev.k, s.ev.a⟩ : PutX)) }))))
      ∧ ((s.link (o.home + 1)).state = 1 → exec .granuleRecall s = .next (s.keep .granuleRecall) ∧ exec .granuleGrant s = .next (s.keep .granuleGrant)))
  ∧ (∀ s o, s.objs.get? s.ev.k = some o → o.home = 7 → 2 ≤ (s.link (s.ev.v % 4 + 1)).state →
      (granQuiet s o s.ev.a = true →
        exec .granuleGrant s = .next (returned s.ev.k o s.ev.a (s.ev.v % 4) (bit s.ev.v 3) s.ev.data (s.ev.v / 16) s)
        ∧ exec .putx s = .next ((returned s.ev.k o s.ev.a (s.ev.v % 4) false s.ev.data (s.ev.v / 16) s).tell (.kfl (s.ev.v % 4) 7 s.ev.k s.ev.a [] [])))
      ∧ (granQuiet s o s.ev.a = false →
        exec .granuleGrant s = .next (s.keep .granuleGrant) ∧ exec .putx s = .next (s.keep .putx)))
  ∧ ∀ s ctx line i o g wr, objOf s ctx line = some (i, o, g) →
      (objLost s o = true → granGate ctx line wr s = (s, .lost))
      ∧ (objLost s o = false → s.putxs.contains ⟨i, g⟩ = true → granGate ctx line wr s = (s, .wait))
      ∧ (objLost s o = false → s.putxs.contains ⟨i, g⟩ = false →
          ((o.home = 7 ∧ bit (granByte s o g) 3 = false ∧ (wr = true → bits (granByte s o g) 7 4 = 0)
              ∨ o.home ≠ 7 ∧ (bits (granByte s o g) 1 0 = 2 ∨ (wr = false ∧ bits (granByte s o g) 1 0 = 1))) →
            granGate ctx line wr s = (s, .ok))
          ∧ ((o.home = 7 ∧ (bit (granByte s o g) 3 = true ∨ (wr = true ∧ bits (granByte s o g) 7 4 ≠ 0))
              ∨ o.home ≠ 7 ∧ bits (granByte s o g) 1 0 ≠ 2 ∧ (wr = true ∨ bits (granByte s o g) 1 0 ≠ 1)) →
            (∀ x ∈ s.xfers, x.obj ≠ i ∨ x.gran ≠ g ∨ x.port ≠ 7) →
            granGate ctx line wr s = (({ s with xfers := s.xfers ++ [(⟨i, g, 7, wr, [], false⟩ : Xfer)] } : State).push
              (if wr then .getx else .gets) ⟨i, g, 7, []⟩, .wait)))

/-! ### Messages of the fabric -/

/-- Requests that their home serves at once (R61 to R64, R72, R73, R113, R220): a read or a request for ownership gets Data or Grant with a new root entry, in E where the page may be written; a never-cached read its bytes; a never-cached write is written and acknowledged, of host memory by the host; an atomic and a reduction change their element at the home slice and are acknowledged, a reduction counted into its word. That memory holds a line's bytes once, and the order of messages, are the model's choice (log entries 23 and 24). -/
def Obligations.RequestMessages : Prop :=
  (∀ s m c u r w k x, s.msgs.get? s.ev.k = some m → Serves s m c u r → freeWay (treeSetOf u r.at_ r.ctx r.line) = some w → k = (r.at_, r.ctx, r.line) →
      x = putTree k { Tree.building w r.from_ true (reqHost u r) s.ev.k with owned := true, host := c.attr.host }
        (putTree k (Tree.building w r.from_ true (reqHost u r) s.ev.k) u) →
      exec .rdx s = .next (supply .grant s.ev.k r c.attr c.pa true x) ∧ exec .upg s = .next (supply .grant s.ev.k r c.attr c.pa true x)
        ∧ ((∀ a, s.accs.get? m.acc = some a → a.kind ≠ AKind.pref true) →
            exec .rds s = .next (supply .data s.ev.k { r with work := 1 } c.attr c.pa true x)))
  ∧ (∀ s m x u r pa t, s.msgs.get? s.ev.k = some m → NeverCached s m x u r → pa = x.phys (m.line * 128) →
      t = (if x.attr.host = true then askHost 2 pa 128 u else u) →
      exec .rdu s = .next (answer .data m.acc pa 0 m.ctx m.line (lineBytes t x.attr.host pa)
        (modAcc m.acc (fun a => { a with attr := some x.attr, graft := true }) (dropMsg s.ev.k t))))
  ∧ (∀ s m x u r a pa v t, s.msgs.get? s.ev.k = some m → NeverCached s m x u r → s.accs.get? m.acc = some a → pa = x.phys (m.line * 128) →
      storeBadMerge s x.attr.host pa a = false → v = storeHeal x.attr.host pa a (dropMsg s.ev.k u) →
      t = disturb (if x.attr.host then .host else .dev) ((storeOffs a).map (pa + ·))
        (dirtySlices x.attr.host pa 128 (v.wr x.attr.host pa (storeBytes a (lineBytes v x.attr.host pa)))) →
      (x.attr.host = false → exec .wru s = .next (answer .wrack m.acc 0 0 m.ctx m.line [] t))
        ∧ (x.attr.host = true → exec .wru s = .next ((askHost 3 pa 128 t).push .itomwrCompletion (.ofK m.acc))))
  ∧ (∀ s m c u r a off n, s.msgs.get? s.ev.k = some m → Serves s m c u r → s.accs.get? m.acc = some a →
      off = (a.parts.map (·.off)).headD 0 → n = (a.parts.map (·.n)).headD 4 →
      exec .atom s = .next (answer .atomack m.acc (s.num c.attr.host (c.pa + off) n) 0 m.ctx m.line []
        ((dropMsg s.ev.k u).cwr c.attr.host (c.pa + off) (leBytes n (atomNew a.op a.ty (s.num c.attr.host (c.pa + off) n) a.parts)))))
  ∧ (∀ s m c u r a k pa n q, s.msgs.get? s.ev.k = some q → s.accs.get? q.acc = some a → m = { q with val := redVal a.op a.ty a.parts, cnt := a.parts.length } →
      Serves s m c u r → a.otot = 0 → (∀ at_, a.attr = some at_ → at_.home ≠ 3) → combOn s = false → k = redKey a → pa = c.pa + k.va % 128 → n = tyBits k.ty / 8 →
      exec .red s = .next (countWord k.word a.parts.length false m.ctx m.line (answer .redack m.acc 0 0 m.ctx m.line []
        ((dropMsg s.ev.k u).cwr c.attr.host pa (leBytes n (foldStep k.op k.ty 0 0 (s.num c.attr.host pa n) m.val))))))
  ∧ ∀ s m c u r k pa n, s.msgs.get? s.ev.k = some m → Serves s m c u r → sentKey s 24 m.acc = some k → combOn s = false →
      pa = c.pa + k.va % 128 → n = tyBits k.ty / 8 →
      exec .redp s = .next (countWord k.word m.cnt false m.ctx m.line (answer .redack m.acc 0 0 m.ctx m.line []
        ((dropMsg s.ev.k u).cwr c.attr.host pa (leBytes n (foldStep k.op k.ty 0 0 (s.num c.attr.host pa n) m.val)))))

/-- The tree class (R59, R61, R63, R66, R115, Table fabric-4): a holder answers Fwd with the line and gives up exclusivity, a snoop with its sector, and Inv with InvAck and without the line, which it writes back from M or O; a Graft makes a Building entry Stable; InvAck counts PEND down, and the root's last frees it; a departing branch leaves its entry; acknowledgements free Pruning entries and end W; a path release frees what its request allocated; and each stands in an input port first, and waits for credit there (R49). Where the replies of a tree meet, and the order of messages, are the model's choice (log entries 23, 24 and 29). -/
def Obligations.TreeMessages : Prop :=
  (∀ s m c, s.msgs.get? s.ev.k = some m → m.inq = true → m.unit ≠ 2047 → fillPending s m.unit m.ctx m.line = none →
      s.l1.get? (m.unit, m.ctx, m.line) = some c →
      (m.val ≠ 1 → m.acc ≠ 0 → exec .fwd s = .next (answer .data m.acc c.pa 0 m.ctx m.line (lineBytes s c.attr.host c.pa)
        (modAcc m.acc (fun a => { a with bad := c.bad }) { dropMsg s.ev.k s with l1 := s.l1.set (m.unit, m.ctx, m.line) { c with
          st := if c.st = CSt.e then CSt.s else if c.st = CSt.m then CSt.o else c.st } })))
      ∧ (m.val ≠ 1 → m.acc = 0 → exec .fwd s = .next ((dropMsg s.ev.k s).tell (.snoopHit (s.rd true (m.cnt * 64) 64))))
      ∧ (m.val = 1 → c.owners = [] → ∀ old u, old = (c.st == CSt.m || c.st == CSt.o) →
        u = (if old then writeBack m.ctx m.line c.attr.host c.pa c.bad (dropMsg s.ev.k s) else dropMsg s.ev.k s) →
        exec .inv s = .next (sendMsg .invack { Msg.mk0 0 m.ctx m.line (unitRouter m.unit) (unitLink m.unit) (unitRouter m.unit) m.unit with dirty := old }
          { u with l1 := u.l1.del (m.unit, m.ctx, m.line) })))
  ∧ (∀ s m, s.msgs.get? s.ev.k = some m → m.inq = true → exec .graft s = .next (fillTry m.acc (modAcc m.acc (fun a => { a with graft := true })
        ((routeY m.at_ m.dst).foldl (fun s r => graftAt m r s) (dropMsg s.ev.k s)))))
  ∧ (∀ (s : State) m r t, s.trees.get? (r, m.ctx, m.line) = some t → t.st = TSt.building →
      ((graftAt m r s).trees.get? (r, m.ctx, m.line)).map (·.st) = some TSt.stable)
  ∧ (∀ s m t, s.msgs.get? s.ev.k = some m → m.inq = true → s.trees.get? (m.at_, m.ctx, m.line) = some t → t.st = TSt.tearing →
      (1 < t.pend → exec .invack s = .next
        (putTree (m.at_, m.ctx, m.line) { t with pend := t.pend - 1, dirty := t.dirty || m.dirty } (dropMsg s.ev.k s)))
      ∧ (t.pend = 1 → t.root = true → t.keep = none → exec .invack s = .next (freeTree (m.at_, m.ctx, m.line) (dropMsg s.ev.k s))))
  ∧ (∀ s m t, s.msgs.get? s.ev.k = some m → m.inq = true → s.trees.get? (m.at_, m.ctx, m.line) = some t → t.st = TSt.stable → t.links ≠ [m.from_] →
      m.work ≠ 1 → exec .prune s = .next (sendMsg .pruneack (Msg.mk0 0 m.ctx m.line m.at_ 15 m.dst m.unit)
        (putTree (m.at_, m.ctx, m.line) { t with links := t.links.filter (fun l => l != m.from_) }
          (putTree (m.at_, m.ctx, m.line) t (dropMsg s.ev.k s)))))
  ∧ (∀ s m t u, s.msgs.get? s.ev.k = some m → m.inq = true → s.trees.get? (m.at_, m.ctx, m.line) = some t → t.st = TSt.stable → t.links ≠ [m.from_] →
      m.work ≠ 1 → (∀ c, s.slices.get? (m.ctx, m.line) = some c → c.obj = false) → lineHome (dropMsg s.ev.k s) m.ctx m.line = m.at_ → u = { t with owned := false } →
      exec .wbd s = .next (sendMsg .wback (Msg.mk0 0 m.ctx m.line m.at_ 15 m.dst m.unit)
        (putTree (m.at_, m.ctx, m.line) { u with links := t.links.filter (fun l => l != m.from_) }
          (putTree (m.at_, m.ctx, m.line) u (dropMsg s.ev.k s)))))
  ∧ (∀ s m t, s.msgs.get? s.ev.k = some m → m.inq = true → routeY m.at_ m.dst = [m.at_] → s.trees.get? (m.at_, m.ctx, m.line) = some t →
      (t.st = TSt.pruning → t.keep = none → m.unit = 2047 → ∀ i ∈ [Instr.pruneack, .wback],
        exec i s = .next (freeTree (m.at_, m.ctx, m.line) (dropMsg s.ev.k s)))
      ∧ (t.st = TSt.building → t.req = m.val → exec .pathRelease s = .next (freeTree (m.at_, m.ctx, m.line) (dropMsg s.ev.k s)))
      ∧ (t.st ≠ TSt.building → t.keep.isSome = true → t.kreq = m.val →
          exec .pathRelease s = .next (putTree (m.at_, m.ctx, m.line) { t with keep := none, kreq := 0 } (dropMsg s.ev.k s))))
  ∧ (∀ s m c, s.msgs.get? s.ev.k = some m → m.inq = true → routeY m.at_ m.dst = [m.at_] → s.trees.get? (m.at_, m.ctx, m.line) = none → m.unit ≠ 2047 →
      s.l1.get? (m.unit, m.ctx, m.line) = some c → c.st = CSt.w → c.owners = [] → ∀ i ∈ [Instr.pruneack, .wback],
        exec i s = .next (Machine.settle (linePump m.unit m.ctx m.line (hostLeave m.ctx m.line { dropMsg s.ev.k s with l1 := s.l1.del (m.unit, m.ctx, m.line) }))))
  ∧ (∀ s m, s.msgs.get? s.ev.k = some m → enterPort m s = none → ∀ i ∈ [Instr.fwd, .inv, .graft, .invack, .prune, .wbd, .pruneack, .wback, .pathRelease],
      exec i s = .next (again i s.ev.k m s))

/-- Answers, and what waits for them (R57, R72, R73, R76, R108, R110, R120, R221, R222, R254, R416): Data and Grant fill the line and Err fails the access; an atomic's old values are returned; a reduction's acknowledgement reaches every contributor; counts are applied; a placement, an attribute and a walk are cached and the accesses that wait for them go on; a zeroed frame holds zeros and loses ZERO; an evicted write-combining entry asks for ownership. The order of messages and the record of an error are read as log entries 23, 24 and 30 say. -/
def Obligations.AnswerEvents : Prop :=
  (∀ s, ∀ i ∈ [Instr.data, .grant],
      exec i s = .next (fillTry s.ev.k (modAcc s.ev.k (fun a => { a with got := some (s.ev.data, false), pa := s.ev.v }) s)))
  ∧ (∀ s a at_, s.accs.get? s.ev.k = some a → a.graft = true → a.attr = some at_ → at_.home = 3 → s.ev.data.length = 128 →
      ∃ u, u = { s with accs := s.accs.set s.ev.k { a with got := some (s.ev.data, false), pa := s.ev.v } }
        ∧ exec .data s = .next (Machine.settle (retire s.ev.k (returnSick { a with got := some (s.ev.data, false), pa := s.ev.v } none s.ev.data a.bad u))))
  ∧ (∀ s a, s.accs.get? s.ev.k = some a → a.kind = AKind.load → a.heldMsgs = [] →
      exec .err s = .next (Machine.settle (linePump a.unit a.ctx a.line (retire s.ev.k (returnLoad a [] true s)))))
  ∧ (∀ s a, s.accs.get? s.ev.k = some a → exec .atomack s = .next (Machine.settle (retire s.ev.k
      ((a.parts.zip (atomOlds a.op a.ty s.ev.v a.parts)).foldl (fun s x => putElem a.team x.1 x.2 (!a.bad.isEmpty) s) (homeDone a false s)))))
  ∧ (∀ s l k, s.combSent.get? s.ev.k = some l → sentKey s 24 s.ev.k = some k → exec .redack s = .next
      (l.foldl (fun s x => answer .redack x 0 0 k.ctx (k.va / 128) [] s) { s with combSent := s.combSent.del s.ev.k }))
  ∧ (∀ s a, s.combSent.get? s.ev.k = none → s.accs.get? s.ev.k = some a →
      exec .redack s = .next (Machine.settle (retire s.ev.k (homeDone a false s))))
  ∧ (∀ s a x, s.accs.get? s.ev.k = some a → a.ctx ≠ 0 → s.tlbFind (homeOf a.bay a.line) a.ctx (a.line * 128) = some x →
      exec .attributeQuery s = .next (niPump (niOf a.unit) (atcPut (niOf a.unit) a.ctx (a.line * 128) x.attr s)))
  ∧ (∀ s a s1 b, s.accs.get? s.ev.k = some a →
      placeAt (niOf a.unit) a.ctx (a.line * 128) (s.grid a.team).vdev (some (bayOf (niOf a.unit)))
        (a.kind == AKind.pref true || a.kind == AKind.pref false) s = (s1, .ok b) →
      exec .placementLookup s = .next (niPump (niOf a.unit) s1))
  ∧ (∀ ni ctx va vd bay pf s, ctx ≠ 0 →
      (∀ b, s.plc.get? (ni, ctx, va / 2 ^ 16) = some b → placeAt ni ctx va vd bay pf s = (s, .ok b))
      ∧ (∀ s1 b, s.plc.get? (ni, ctx, va / 2 ^ 16) = none → place ctx va vd bay pf s = (s1, .ok b) →
          ∃ t, placeAt ni ctx va vd bay pf s = (t, .ok b) ∧ t.plc.get? (ni, ctx, va / 2 ^ 16) = some b))
  ∧ (∀ s w b s1 x, s.walks.find? (fun w => w.port == s.ev.k && w.ctx == s.ev.a && w.page == s.ev.v) = some w →
      placedAt s w.ctx (w.page * 2 ^ 16) = .bay b → walkPage w.port b w.ctx (w.page * 2 ^ 16) w.vd w.wr s = (s1, .ok x) →
      exec .translationWalk s = .next { s1 with walks := s1.walks.filter (fun x => x != w) })
  ∧ (∀ s pte e n f, walkLeaf s s.ev.k (s.ev.a * 2 ^ 16) = .ok (pte, e, n) → bit e 53 = true → f = pteAddr e →
      exec .frameZeroingComplete s = .next (pteClear pte (2 ^ 53) { s with
        zeroing := (s.zeroing.filter (fun z => z != (s.ev.k, s.ev.a))).filter (fun z => z != (s.ev.k, s.ev.a * 2 ^ 16))
        mem := memClear s.mem f (2 ^ n)
        bad := s.bad.filter (fun k => k % 2 == 1 || decide (k / 2 * 32 < f) || decide (f + 2 ^ n ≤ k / 2 * 32))
        sbad := s.sbad.filter (fun k => k % 2 == 1 || decide (k / 2 * 32 < f) || decide (f + 2 ^ n ≤ k / 2 * 32)) }))
  ∧ ∀ r ∈ ([
      ⟨.syncCountUpdate, fun s => (s.teams.get? s.ev.k).isSome = true, fun s => syncApply s.ev.k s.ev.a (s.ev.v / 2) (s.ev.v % 2 == 1) s⟩,
      ⟨.ordContributionResend, fun s => (s.accs.get? s.ev.k).isSome = true, fun s => request .red s.ev.k s⟩,
      ⟨.combineWindowExpiry, fun s => ∃ c ∈ s.combs, c.id = s.ev.k, fun s =>
        forwardComb ((s.combs.find? (fun c => c.id == s.ev.k)).getD ⟨0, 0, 0, 0, 0, 0, none, 0, 0, []⟩) s⟩,
      ⟨.wcsEviction, fun s => ∃ e, s.wcs.get? (s.ev.k, s.ev.a, s.ev.v) = some e ∧ e.draining = false, fun s =>
        let e := s.wcs.getD (s.ev.k, s.ev.a, s.ev.v) ⟨[], [], false⟩
        Machine.settle (startAcc (Acc.new AKind.own s.ev.k s.ev.a s.ev.v ((e.owners.map (·.team)).headD 0) [] 0)
          { s with wcs := s.wcs.set (s.ev.k, s.ev.a, s.ev.v) { e with draining := true } }).2⟩] : List EvRow), r.Lands

/-- The eviction engine (R124 to R127, Tables xlate-8 and xlate-9): GO starts a request with its counters cleared; a reclaim ends once its target is met, clears A of a page that has it, and selects the next evictable page whose A is clear and which is not pinned; a directed request selects the page that it names; the selected page waits for the accesses that were translated earlier, and then is torn down; with EVP set, the epoch of the bay advanced and the page out of its translation caches; and the commit compares the PTE, gives the frame to ring 3 and counts the page, or gives up and counts an abort. The conflicts of the eviction registers are read as log entry 48 says. -/
def Obligations.EvictionEvents : Prop :=
  (∀ s i, i ∈ [Instr.evictReclaim, .evictDirectedBacking, .evictDirectedDiscard] → s.ev.a = 0 → bit s.ev.v 63 = true →
      s.ev.v < 2 ^ 64 → (s.ev.data ≠ [] ∨ 2 ≤ s.regs.khl.state) → (s.bay s.ev.k).busy = false → bits s.ev.v 62 61 ≠ 3 →
      ∃ t, exec i s = .next t ∧ (t.bay s.ev.k).busy = true ∧ (t.bay s.ev.k).everr = 0 ∧ (t.bay s.ev.k).evicted = 0
        ∧ ∃ d ∈ t.agenda, d.arg.k = s.ev.k ∧ d.arg.a ≠ 0 ∧ d.ev = evEvent (bits s.ev.v 62 61 * 2 ^ 125))
  ∧ (∀ s b v pos, s.ev.k = b → s.ev.v = v → s.ev.a = pos + 1 → (s.bay b).busy = true → (s.bay b).evict = none → evMode v = 0 →
      (evTarget v ≤ (s.bay b).evicted → exec .evictReclaim s = .next (evEnd b v 0 pos s))
      ∧ (∀ x, (s.bay b).evicted < evTarget v →
          (evictPages s b (evCtx v)).find? (fun x => decide (pos ≤ x.1 / 2 ^ 16)
            && (!(s.bay b).evWrap || decide (x.1 / 2 ^ 16 < (s.bay b).evFrom))) = some x →
          bit x.2.2 52 = false →
          (bit x.2.2 50 = false → exec .evictReclaim s = .next (evSelect b v (x.1 / 2 ^ 16 + 1) x (evMore b v (x.1 / 2 ^ 16 + 1)) s))
          ∧ (bit x.2.2 50 = true → exec .evictReclaim s = .next (evMore b v (x.1 / 2 ^ 16 + 1) (pteClear x.2.1 (2 ^ 50) s)))))
  ∧ (∀ s b v pte e, s.ev.k = b → s.ev.v = v → s.ev.a ≠ 0 → (s.bay b).busy = true → (s.bay b).evict = none →
      (evMode v = 1 ∨ evMode v = 2) → walkLeaf s (evCtx v) (evPage v * 2 ^ 16) = .ok (pte, e, 16) → evictable s b (evCtx v) (evPage v * 2 ^ 16) e = true → bit e 52 = false →
      ∀ i ∈ [Instr.evictDirectedBacking, .evictDirectedDiscard], exec i s = .next (evSelect b v 0 (evPage v * 2 ^ 16, pte, e) (evEnd b v 2 0) s))
  ∧ (∀ s b ctx va e, evictable s b ctx va e = true ↔
      bit e 57 = false ∧ bit e 51 = false ∧ placedAt s ctx va = .bay b ∧ pteAddr e % 2 ^ 16 = 0)
  ∧ (∀ b v pos va pte e lose s, bit e 54 = false → bit e 53 = false → ∀ u : State, u = partRmw pte (fun _ => setBit e 53 false ||| 2 ^ 51) s →
      evSelect b v pos (va, pte, e) lose s = evMore b v pos (({ u with tlb := u.tlb.filter (fun t => !(t.2.ctx == evCtx v && t.2.va == va)) } : State).modBay b
        (fun B => { B with epoch := B.epoch + 1, evict := some ⟨evCtx v, va, 16, pte, setBit e 53 false ||| 2 ^ 51, pteAddr (setBit e 53 false ||| 2 ^ 51)⟩ })))
  ∧ (∀ s b v pos x i, s.ev.k = b → s.ev.v = v → s.ev.a = pos + 1 → (s.bay b).busy = true → (s.bay b).evict = some x →
      i ∈ [Instr.evictReclaim, .evictDirectedBacking, .evictDirectedDiscard] →
      (evDrained s x = false → exec i s = .next (evMore b v pos s))
      ∧ (evMode v ≠ 2 → s.regs.khl.state < 2 → exec i s = .next (evMore b v pos s))
      ∧ (evDrained s x = true → evMode v = 2 → ring3Full (evTear x s) b = false → exec i s = .next (evCommit b v pos x none (evTear x s)))
      ∧ (evDrained s x = true → evMode v ≠ 2 → 2 ≤ s.regs.khl.state → ring3Full (evTear x s) b = false →
          (∀ u f, takeBacking b (evTear x s) = (u, some f) → exec i s = .next (evCommit b v pos x (some f) (copyPage x f u)))
          ∧ ∀ u, takeBacking b (evTear x s) = (u, none) → exec i s = .next (evEnd b v 1 pos (evRestore b x u)))
      ∧ (evDrained s x = true → (evMode v = 2 ∨ 2 ≤ s.regs.khl.state) → ring3Full (evTear x s) b = true →
          exec i s = .next (evEnd b v 3 pos (evRestore b x (evTear x s)))))
  ∧ ∀ s b v pos x back,
      (s.num false x.pte 8 ≠ x.e → evCommit b v pos x back s
        = evNext b v pos ((evRestore b x s).modBay b (fun B => { B with aborts := (B.aborts + 1) % 64 })))
      ∧ (s.num false x.pte 8 = x.e → ∀ e u, e = setBit (setBit x.e 63 false) 51 false →
          u = partRmw x.pte (fun _ => match back with
            | some f => setBits (setBit e 48 true) 47 8 (f / 256)
            | none => setBit e 48 false) s →
          evCommit b v pos x back s = evNext b v pos ((freeFrame b x.frame { u with maps := u.maps.filter (fun m => !(m.ctx == x.ctx && m.va == x.va)) }).modBay b (fun B =>
            { B with evict := none, evicted := (B.evicted + 1) % 2 ^ 14, spare := if back.isSome then none else B.spare })))

/-! ### User commands and graphs -/

/-- User commands (R89, R91, R95, R97 to R99): a command that ends writes its record, moves the head and halts the queue on a failure; a command that cannot be read leaves a fault record; a launch of a valid graph starts its run, that of another is rejected with one fault record and ends as a run that failed; a completion whose page is held is written later; and none starts after a fabric-fatal error (R99); a due fault vector is raised once. Which failures leave a fault record is read as log entry 39 says. -/
def Obligations.UserCommands : Prop :=
  (∀ s c s1 code, s.ctxs.get? s.ev.k = some c → c.dying = false →
      writeDone s.ev.k (bits (s.queue s.ev.k s.ev.a).cmd 383 320) (bits (s.queue s.ev.k s.ev.a).cmd 319 256) code 0 0 s = (s1, true) →
      (code = 0 → exec .userNop s = .next (queueNext s.ev.k s.ev.a (bit (s.queue s.ev.k s.ev.a).cmd 503) false s1))
      ∧ (code = 10 → exec .userUnknownOp s = .next (queueNext s.ev.k s.ev.a (bit (s.queue s.ev.k s.ev.a).cmd 503) true s1)))
  ∧ (∀ s c s1, s.ctxs.get? s.ev.k = some c → c.dying = false →
      (writeDone s.ev.k (bits (s.queue s.ev.k s.ev.a).cmd 383 320) (bits (s.queue s.ev.k s.ev.a).cmd 319 256) 0 0 0 s = (s1, false) →
        exec .userNop s = .next (s1.push .userNop s1.ev))
      ∧ (writeDone s.ev.k (bits (s.queue s.ev.k s.ev.a).cmd 383 320) (bits (s.queue s.ev.k s.ev.a).cmd 319 256) 10 0 0 s = (s1, false) →
        exec .userUnknownOp s = .next (s1.push .userUnknownOp s1.ev)))
  ∧ (∀ s c, s.ctxs.get? s.ev.k = some c → c.dying = false →
      exec .userCommandReadError s = .next (queueNext s.ev.k s.ev.a false true (appendFault s.ev.k (.plain 9 s.ev.a 0 0 0) s)))
  ∧ (∀ s c t, s.ctxs.get? s.ev.k = some c → c.dying = false → s.regs.fatal = false → c.suspended = false →
      startRun s.ev.k s.ev.a (bits (s.queue s.ev.k s.ev.a).cmd 447 384) 1 none s = (t, 0) → exec .graphLaunch s = .next t)
  ∧ (∀ s c t u v r code va, s.ctxs.get? s.ev.k = some c → c.dying = false → s.regs.fatal = false → c.suspended = false →
      va = bits (s.queue s.ev.k s.ev.a).cmd 447 384 → startRun s.ev.k s.ev.a va 1 none s = (t, code) → code ≠ 0 → code ≠ 255 →
      (r, u) = (appendFault s.ev.k (.plain code s.ev.a 0 1 (bits (s.queue s.ev.k s.ev.a).cmd 479 448)) t).newId →
      v = { u with runs := u.runs ++ [(r, ⟨s.ev.k, s.ev.a, va, 1, none, [], some (code, 0, 1)⟩)] } →
      exec .graphLaunch s = .next (finishRun r v))
  ∧ (∀ r R s t, s.runs.get? r = some R → R.parent = none → ∀ f, f = R.fail.getD (0, 0, R.depth) →
      (userDone R.ctx R.queue f.1 f.2.1 f.2.2 s = (t, true) → finishRun r s = { t with runs := t.runs.del r })
      ∧ (userDone R.ctx R.queue f.1 f.2.1 f.2.2 s = (t, false) → finishRun r s = t.push .nodeComplete ⟨r, 4096, 0, []⟩))
  ∧ (∀ s c, s.ctxs.get? s.ev.k = some c → (c.dying = true ∨ s.regs.fatal = true) → exec .graphLaunch s = .next s)
  ∧ ∀ s c, s.ctxs.get? s.ev.k = some c → c.dying = false → c.toRaise = true →
      exec .faultVectorRaise s = .next ((s.modCtx s.ev.k (fun c => { c with toRaise := false, raised := some s.ncyc })).msix c.faultvec)

/-- Nodes of a graph (R92 to R94, R138): NOP ends; SIGNAL writes or adds to its word; WAIT ends when its comparison holds, and at its timeout; COND and WHILE run a subgraph by their word; COPY and KERNEL enter the region-match unit or start; a node that completes makes those of its successors ready that wait for nothing else, in ascending order, and one that fails leaves a fault record and the first failure of its run. The width of a condition word and the statuses of malformed nodes are read as log entries 39 and 40 say. -/
def Obligations.GraphNodes : Prop :=
  (∀ s R N s1, NodeRuns s R N s1 →
      exec .nodeNop s = .next (endNode s1.ev.k s1.ev.a 0 s1)
      ∧ (∀ s2, bits N.part 383 320 % 8 = 0 → bits N.part 255 254 < 2 →
          signalWord R (bits N.part 383 320) (bits N.part 255 254) (bits N.part 319 256) s1 = (s2, none) →
          exec .nodeSignal s = .next (endNode s2.ev.k s2.ev.a 0 s2))
      ∧ (∀ s2 w, bits N.part 383 320 % 8 = 0 → bits N.part 255 254 < 3 → bits N.part 253 222 = 0 →
          readWord R (bits N.part 383 320) s1 = (s2, .ok w) → waitHolds (bits N.part 255 254) w (bits N.part 319 256) = true →
          exec .nodeWait s = .next (endNode s1.ev.k s1.ev.a 0 s2))
      ∧ (∀ s2 w va, readWord R (bits N.part 383 320) s1 = (s2, .ok w) →
          va = (if w ≠ 0 then bits N.part 319 256 else bits N.part 255 192) →
          (va = 0 → exec .nodeCond s = .next (endNode s2.ev.k s2.ev.a 0 s2))
          ∧ ∀ t, va ≠ 0 → startRun R.ctx R.queue va (R.depth + 1) (some (s2.ev.k, s2.ev.a)) s2 = (t, 0) → exec .nodeCond s = .next t)
      ∧ (∀ s2 w, readWord R (bits N.part 383 320) s1 = (s2, .ok w) →
          (w = 0 → exec .nodeWhile s = .next (endNode s2.ev.k s2.ev.a 0 s2))
          ∧ (w ≠ 0 → bits N.part 255 224 ≠ 0 → bits N.part 255 224 ≤ N.count → exec .nodeWhile s = .next (endNode s2.ev.k s2.ev.a 5 s2))
          ∧ ∀ t, w ≠ 0 → (bits N.part 255 224 = 0 ∨ N.count < bits N.part 255 224) →
              startRun R.ctx R.queue (bits N.part 319 256) (R.depth + 1) (some (s2.ev.k, s2.ev.a)) s2 = (t, 0) →
              exec .nodeWhile s = .next (t.modNode s2.ev.k s2.ev.a (fun N => { N with count := N.count + 1 })))
      ∧ (∀ a b n, a = bits N.part 383 320 → b = bits N.part 319 256 → n = bits N.part 255 192 →
          (n = 0 → exec .nodeCopy s = .next (endNode s1.ev.k s1.ev.a 0 s1))
          ∧ (n ≠ 0 → exec .nodeCopy s = .next
              (submitTask R s1.ev.k s1.ev.a [(a, a + n, false), (b, b + n, true)] (matched s1 R.ctx) s1)))
      ∧ (∀ n la x rs s2 s3, n = bits N.part 79 76 → la = bits N.part 319 256 → n ≤ 8 → la % 64 = 0 →
          vaNum R.ctx la 128 s1 = (s2, .ok x) → readRegions R (bits N.part 143 80) n 0 [] s2 = (s3, .ok rs) → launchOk x = true →
          exec .nodeKernel s = .next (submitTask R s1.ev.k s1.ev.a rs (matched s3.newId.2 R.ctx && n != 0)
            { s3.newId.2 with grids := s3.newId.2.grids ++ [(s3.newId.1, ⟨R.ctx, R.vd, launchOf x, bits N.part 383 320, bits N.part 255 192,
              bits N.part 159 144, bits N.part 175 160, bits N.part 191 176, 0, 0, s1.ev.k, s1.ev.a, false, s3.newId.2.ncyc⟩)] })))
  ∧ (∀ s R N s2 w, s.runs.get? s.ev.k = some R → N = s.node s.ev.k s.ev.a → N.phase = 2 → N.ty = 4 →
      (readWord R (bits N.part 383 320) s = (s2, .ok w) → waitHolds (bits N.part 255 254) w (bits N.part 319 256) = true →
        exec .waitReread s = .next (endNode s.ev.k s.ev.a 0 s2))
      ∧ (∀ c, s.ctxs.get? R.ctx = some c → c.paused = false → N.start + 2000 * bits N.part 253 222 ≤ s.ncyc →
        exec .waitTimeout s = .next (endNode s.ev.k s.ev.a 4 s)))
  ∧ ∀ s R u, s.runs.get? s.ev.k = some R → s.ev.a < 4096 → R.fail = none → u = s.modNode s.ev.k s.ev.a (fun N => { N with phase := 3 }) →
      (s.ev.v = 0 → ∀ s1 s2 next, s1 = { u with
          grids := s.grids.filter (fun e => e.2.run != s.ev.k || e.2.node != s.ev.a)
          tasks := s.tasks.filter (fun x => x.run != s.ev.k || x.node != s.ev.a) } →
        next = (s1.node s.ev.k s.ev.a).succ → s2 = next.foldl (fun s' k => s'.modNode s.ev.k k (fun N => { N with pred := N.pred - 1 })) s1 →
        exec .nodeComplete s = .next (checkEnd s.ev.k (taskPump R.vd (readyNodes s.ev.k (next.filter (fun k => (s2.node s.ev.k k).pred == 0)) s2))))
      ∧ (0 < s.ev.v → s.ev.v < 2 ^ 16 → s.ev.data = [] →
        ∀ w, w = (nodeRecord R s.ev.k s.ev.a s.ev.v u).modRun s.ev.k (fun R' => { R' with fail := some (R'.fail.getD (s.ev.v, s.ev.a, R.depth)) }) →
        exec .nodeComplete s = .next (checkEnd s.ev.k (taskPump R.vd { w with
          grids := w.grids.filter (fun e => e.2.run != s.ev.k || e.2.node != s.ev.a)
          tasks := w.tasks.filter (fun x => x.run != s.ev.k || x.node != s.ev.a) })))

/-- A graph is accepted exactly when its header says version 1 and a number of nodes from 1 to 4096, and its nodes are valid (R90, R91): types and successor counts in range, successors inside the graph, every node's predecessor count right, and links that form no cycle, so that the nodes can be numbered with every link going up. The nesting that depth 4 forbids is read as log entry 40 says; that a header address which is not 64-byte aligned is refused is the model's choice (log entry 74). -/
def Obligations.AcceptedGraphsAreValid : Prop :=
  ∀ ctx va depth s s1 l, readGraph ctx va depth s = (s1, .ok l) ↔
    va % 64 = 0
      ∧ (∃ s0 h, vaNum ctx va 64 s = (s0, .ok h) ∧ bits h 495 488 = 1 ∧ 1 ≤ bits h 511 496 ∧ bits h 511 496 ≤ 4096
          ∧ readNodes ctx va (bits h 511 496) 0 [] s0 = (s1, .ok l))
      ∧ (∀ N ∈ l, N.ty ≤ 6 ∧ N.count ≤ 6 ∧ ∀ k ∈ N.succ, k < l.length)
      ∧ (∀ i N, l[i]? = some N → (l.flatMap (·.succ)).count i = N.pred)
      ∧ (∃ rank : Nat → Nat, ∀ i N, l[i]? = some N → ∀ k ∈ N.succ, rank i < rank k)
      ∧ (depth = 4 → ∀ N ∈ l, N.ty ≠ 5 ∧ N.ty ≠ 6)

/-! ### Dispatchers, pre-emption and engines -/

/-- Placement, exit and pre-emption (R137, R144, R145, R154 to R163, R325): a dispatcher places the first team that fits; a team without live threads whose writes and operations have ended leaves its core, and what its allotment holds stays there; the trigger of a team that has waited, to start or to resume, requests the halt of its victim, and asks again while there is none; the halt, the save, the save of the accumulators and the resume follow each other. The order of halts, saves and resumes of several teams, and the layout of an image, are the model's choice (log entries 44, 45 and 73). -/
def Obligations.DispatchEvents : Prop :=
  (∀ s g G t u, tryGrids s.ev.k s (serviceOrder s s.ev.k s.ev.a) = some (g, G, t) →
      u = (if g = s.ev.a then t else serve G.ctx (gridQueue s G) t) →
      exec .teamPlacement s = .next (if (waitingGrids u s.ev.k).isEmpty = true then u else u.push .teamPlacement ⟨s.ev.k, g, 0, []⟩))
  ∧ (∀ s T, s.teams.get? s.ev.k = some T → T.saved = false → s.liveGroups s.ev.k = [] → teamDone s s.ev.k = true →
      exec .teamExit s = .next (saveCheck T.ctx (segsAfter T.ctx T.cluster T.homeOf.1 (countExit T.grid (dropTeam s.ev.k T s)))))
  ∧ (∀ t T s, T.saved = false → (dropTeam t T s).left.get? t = some T ∧ (dropTeam t T s).teams.get? t = none)
  ∧ (∀ s G v, s.ev.v ≠ 1 → s.grids.get? s.ev.k = some G → G.ended = false → G.next = s.ev.a → placeable s G.ctx = true → G.since + 40000 ≤ s.ncyc →
      pickVictim (s.ctxs.filter (fun e => victimOk s G.ctx (viewBays (s.viewOf G.ctx) G.vdev) e.1 e.2)) = some v → mayPreempt s v.1 G.vdev = true →
      exec .preemptionTrigger s = .next (requestHalt v.1 G.vdev (some (s.ev.k, s.ev.a)) none s))
  ∧ (∀ s c w x l, s.ev.v = 1 → s.ctxs.get? s.ev.k = some c → savedWaits s s.ev.k = x :: l → c.waitFrom = some w → c.phase = 4 →
      c.dying = false → w + 40000 ≤ s.ncyc → exec .preemptionTrigger s = .next (askVictim s.ev.k (x :: l) s))
  ∧ (∀ k d s v, pickVictim (s.ctxs.filter (fun e => victimOk s k (viewBays (s.viewOf k) d) e.1 e.2)) = some v → mayPreempt s v.1 d = true →
      ∀ a b cause team, (∀ y ∈ a, victimFor k y.1 s = none) → askVictim k (a ++ (d, cause, team) :: b) s = requestHalt v.1 d cause team s)
  ∧ (∀ k l s, (∀ y ∈ l, victimFor k y.1 s = none) → askVictim k l s = s.push .preemptionTrigger s.ev)
  ∧ (∀ s ctx t T, (t, T) ∈ s.teams → T.ctx = ctx → T.saved = true → ∃ t', ((s.grids.getD T.grid .blank).vdev, none, some t') ∈ savedWaits s ctx)
  ∧ (∀ s c, s.ctxs.get? s.ev.k = some c → c.phase = 1 → (∀ e ∈ s.ops, e.2.ctx = s.ev.k → e.2.node = none → rodWaits e.2 = false) →
      exec .haltComplete s = .next ((((resident s s.ev.k).foldl (fun s e => haltTeam e.1 s) s).modCtx s.ev.k
        (fun c => { c with phase := 2, haltAt := if c.suspended then c.haltAt else s.ncyc })).push .contextSave (.ofK s.ev.k)))
  ∧ (∀ s c, s.ctxs.get? s.ev.k = some c → c.phase = 2 → contextQuiet s s.ev.k = true →
      exec .contextSave s = .next (saveCheck s.ev.k (askAccumulators s.ev.k
        ((saveImages s.ev.k c (saveHeader s.ev.k c s)).modCtx s.ev.k (fun c => { c with phase := 3 })))))
  ∧ (∀ s T c s1, s.teams.get? s.ev.k = some T → s.ctxs.get? T.ctx = some c → T.halted = true → T.saved = false → c.phase = 3 →
      opsOf s s.ev.k = [] → countsPending s s.ev.k = false → s.liveGroups s.ev.k ≠ [] →
      s1 = (saveArrays T.ctx c T s).modTeam s.ev.k Team.putAway →
      exec .accumulatorSave s = .next (saveCheck T.ctx (segsAfter T.ctx T.cluster T.homeOf.1 s1)))
  ∧ ∀ s c, s.ctxs.get? s.ev.k = some c → c.phase = 4 → c.dying = false → (c.suspended = false ∨ resident s s.ev.k ≠ []) →
      (∀ s1, (s.ev.v ≠ 0 ∨ (Machine.settled s c = true ∧ roomFor_ s.ev.k (savedClusters s s.ev.k) s = true)) →
        resumeAll s.ev.k c (savedClusters s s.ev.k) s = (s1, true) → exec .contextResumeAuto s = .next (runAgain s.ev.k s1))
      ∧ (s.ev.v = 0 → Machine.settled s c = true → roomFor_ s.ev.k (savedClusters s s.ev.k) s = false →
        exec .contextResumeAuto s = .next ((armResume s.ev.k s).push .contextResumeAuto s.ev))
      ∧ (s.ev.v = 0 → Machine.settled s c = false → exec .contextResumeAuto s = .next (s.push .contextResumeAuto s.ev))

/-- A dispatcher places a team only on a core that has room for it (R139 to R142, Table sched-2): with it, the core's teams need at most 1 MiB of registers, are at most 16 and have at most 64 groups, it leaves as many free units of the scratchpad as the team needs, the rectangle of arrays that it needs is inside the die and free, and the cluster's segments take at most 1 MiB. Which of the free units a team takes is the model's choice (log entry 43). -/
def Obligations.PlacedTeamsFit : Prop :=
  ∀ d g G s t, tryGrid d g G s = some t → ∃ core, core ∈ viewCores s G.ctx d
    ∧ sumBy (fun e => regNeed (launchFor s e.2)) (coreTeams s core) + regNeed G.launch ≤ 2 ^ 20
    ∧ (coreTeams s core).length < 16
    ∧ sumBy (fun e => (launchFor s e.2).groups) (coreTeams s core) + G.launch.groups ≤ 64
    ∧ (G.launch.cshared = 0 ∨ (s.clsh.get? (g, core / 3)).isSome = true ∨ segBytes s (core / 3) + G.launch.cshared ≤ 2 ^ 20)
    ∧ G.launch.spad / 4096 ≤ (freeUnits s core (((coreTeams s core).head?.map (fun e => e.2.split)).getD G.launch.split)).length
    ∧ (G.launch.arrw = 0 ∨ ∃ o, o = originOfCluster (core / 3) ∧ o.1 + G.launch.arrw ≤ 8 ∧ o.2 + G.launch.arrh ≤ 8
        ∧ ∀ k ∈ rectArrays o.1 o.2 G.launch.arrw G.launch.arrh, k ∉ heldArrays s (bayOf (core / 3)))
    ∧ ∃ s' : State, s' = { s with ptrs := s'.ptrs } ∧ t = placeTeam g G core s'

/-- Engines and the matrix die (R213 to R218, R227, R238, R239, R243): a unit takes a command at the head of its queue, and takes its place in the order of arrival; a copy moves its next bytes and counts them, and lands with its last count, after which the program's writes to its bytes leave undefined ones until the word is observed; the Firkin loads a table and decodes in turn, counting at most 4 KiB at a time; an operation runs when nothing earlier meets it; sends and receives pair at the heads of their link, or end at their timeout. When results land, and results that the spec leaves undefined, are the model's choice (log entries 33, 34, 36, 37 and 46). -/
def Obligations.EngineEvents : Prop :=
  (∀ s p, s.ops.get? s.ev.k = some p → p.stage = 0 → atHead s.ev.k s = true →
      (p.opc = 0x2802 → exec .copyCommandAccept s = .next ((takeOp s.ev.k s).push .firkinTableLoadComplete (.ofK s.ev.k)))
      ∧ (p.opc = 0x2803 → exec .copyCommandAccept s = .next ((takeOp s.ev.k s).push .firkinDecodeComplete (.ofK s.ev.k)))
      ∧ (p.opc ∈ [0x2800, 0x2801, 0] →
          (s.ops.filter (fun e => e.2.stage == 1 && (e.2.opc == 0x2800 || e.2.opc == 0x2801 || e.2.opc == 0) && e.2.cluster == p.cluster)).length < 64 →
          exec .copyCommandAccept s = .next ((takeOp s.ev.k s).push .copyCountStep (.ofK s.ev.k)))
      ∧ (rodWaits p = false → exec .asyncOperationComplete s = .next ((takeOp s.ev.k s).push .asyncOperationComplete (.ofK s.ev.k)))
      ∧ (rodWaits p = true → ∀ u, u = takeOp s.ev.k s → exec .asyncOperationComplete s = .next
          (((u.modOp s.ev.k (fun q => { q with start := s.now q.team })).push .rodPairing (.ofK s.ev.k)).push .rodTimeout (.ofK s.ev.k)))
      ∧ (p.sig = none → takeOp s.ev.k s = { s with
          nextId := s.nextId + 1, ops := s.ops.set s.ev.k { p with stage := 1, sig := none, arrived := s.nextId } }))
  ∧ (∀ s p s1 y e n, s.ops.get? s.ev.k = some p → copyChunk p s = (s1, some (y, e, n)) →
      exec .copyCountStep s = .next (bumpWord s.ev.k n e (decide (copyTotal s1 p ≤ p.pos + n))
        (s1.modOp s.ev.k (fun q => { q with outs := q.outs ++ y.outs, spoil := q.spoil ++ y.spoil, pos := q.pos + n, err := q.err || e }))))
  ∧ (∀ s id p n e last, s.ops.get? id = some p →
      (∀ o, p.word = some o → bumpWord id n e last s = s.push .syncUpdate ⟨p.team, o, 2 * n + b2n e, leBytes 8 (2 * id + b2n last)⟩)
      ∧ (p.word = none → bumpWord id n e last s = if last then finishCmd id s else s.push (nextCount p) (.ofK id))
      ∧ ∀ u, u = landOp id (s.modOp id (fun q => { q with hits := q.hits ++ cmdHits q })) →
          (p.node = none → p.opc ≠ 0x2802 → finishCmd id s = afterOp p { u.newId.2 with
            doneOps := u.newId.2.doneOps ++ [(⟨p.team, p.word, p.reads, p.writes, p.opc != 0x2803, u.newId.1⟩ : DoneOp)] })
          ∧ ((p.node.isSome = true ∨ p.opc = 0x2802) → finishCmd id s = afterOp p u.newId.2))
  ∧ (∀ s p k s1 l, s.ops.get? s.ev.k = some p → firkinTurn s.ev.k p s = true → engLoc s p.team (p.a.getD 0 0) = .ok k →
      engRead p k 320 s = (s1, some l) → p.stirred = false →
      ∃ ok, ok = (!l.any Prod.snd && tableValid (l.map Prod.fst)) ∧
        exec .firkinTableLoadComplete s = .next (bumpWord s.ev.k 320 (!ok) true { s1 with
          firkin := s1.firkin.set (p.cluster, slotBit p.mode) ⟨p.ctx, ok, if ok then assignCodes (l.map Prod.fst) else []⟩ }))
  ∧ (∀ s p, s.ops.get? s.ev.k = some p →
      (p.pos ≠ 0 → exec .firkinDecodeComplete s = .next (decodeCount s.ev.k s))
      ∧ (∀ kd kf s1 l f, p.pos = 0 → firkinTurn s.ev.k p s = true → engLoc s p.team (p.a.getD 0 0) = .ok kd → engLoc s p.team (p.b.getD 0 0) = .ok kf →
          engRead p kf (bits (p.c.getD 0 0) 63 32) s = (s1, some l) →
          s1.firkin.get? (p.cluster, slotBit p.mode) = some f → f.valid = true → f.ctx = p.ctx →
          ∃ out ok, (out, ok) = decodeStream f.codes (bits (p.c.getD 0 0) 24 0) (streamBits ((l.takeWhile (fun x => !x.2)).map Prod.fst)) ∧
            exec .firkinDecodeComplete s = .next (decodeCount s.ev.k (s1.modOp s.ev.k (fun q => { q with
              outs := (out.zip (upFrom kd.2 out.length)).map (fun y => ((s1.areaOf p.team kd.1, y.2), y.1)), err := !ok }))))
      ∧ (p.stirred = false → ∀ m last, m = min 4096 (bits (p.c.getD 0 0) 24 0 - p.pos) → last = decide (bits (p.c.getD 0 0) 24 0 ≤ p.pos + m) →
          decodeCount s.ev.k s = bumpWord s.ev.k m (last && p.err) last (s.modOp s.ev.k (fun q => { q with pos := q.pos + m }))))
  ∧ (∀ s p, Running s p → (p.opc = 0x3007 → exec .asyncOperationComplete s = .next (rodMove s.ev.k p s)) ∧ (opBlocked s.ev.k p s = false →
      (p.opc = 0x3001 → exec .asyncOperationComplete s = .next (wloadRun s.ev.k p s))
      ∧ (p.opc = 0x3002 → exec .asyncOperationComplete s = .next (mmulRun s.ev.k p s))
      ∧ (p.opc = 0x3003 → exec .asyncOperationComplete s = .next (aclrRun s.ev.k p s))
      ∧ (p.opc = 0x3004 → exec .asyncOperationComplete s = .next (areadRun s.ev.k p s))
      ∧ (p.opc = 0x3100 → exec .asyncOperationComplete s = .next (smvRun s.ev.k p s))
      ∧ (p.opc = 0x3101 → exec .asyncOperationComplete s = .next (qrotRun s.ev.k p s))
      ∧ (0x3102 ≤ p.opc → p.opc ≤ 0x3105 → bushelBlocked s.ev.k p s = false → exec .asyncOperationComplete s = .next (bushelRun s.ev.k p s))))
  ∧ (∀ s p b k x y, s.ops.get? s.ev.k = some p → rodFacing (bayOf p.cluster) p.place (rodDir p.mode) = some (b, k) →
      rodHead s p.opc p.ctx (bayOf p.cluster) p.place (rodDir p.mode) = some x →
      (p.opc = 0x3006 → rodHead s 0x3007 p.ctx b k (rodBack (rodDir p.mode)) = some y →
        exec .rodPairing s = .next (rodPairs (s.ops.length - 1) p (rodPair x.1 x.2 y.1 y.2 s)))
      ∧ (p.opc = 0x3007 → rodHead s 0x3006 p.ctx b k (rodBack (rodDir p.mode)) = some y →
        exec .rodPairing s = .next (rodPairs (s.ops.length - 1) p (rodPair y.1 y.2 x.1 x.2 s))))
  ∧ ∀ s p, s.ops.get? s.ev.k = some p → rodWaits p = true →
      (p.start + p.pos ≤ s.now p.team → exec .rodTimeout s = .next (rodPairs s.ops.length p (completeOp s.ev.k { code := 6 } s)))
        ∧ (s.now p.team < p.start + p.pos → exec .rodTimeout s = .next (s.push .rodTimeout s.ev))

/-- What the matrix die and the quantiser compute (R233 to R236, R240, R244, R309, R310, R313 to R316, R402 to R404): the exact sum of a column's products rounded once, and the pair that `pair_add` leaves; a reload puts the codes of its map into its plane; a multiply adds each column sum to its tile element, an empty plane ends it with code 5, and an empty product reports EMPTY; an accumulator read scales and rounds each element once; a stack multiply sums line by line and scales, and refuses memory that it may not read; the rotation is the exact Hadamard sum rounded once; quantisation gives four-bit codes that are never −8, and a NaN vector the NaN scale; an appended token holds the quantised rotation of its input; a Bushel operation looks at poisoned inputs first, and does not ask for V (log entry 38). -/
def Obligations.MatrixAndQuantiserResults : Prop :=
  (∀ mode ab ps, ps = ab.map (fun p : Exact × Exact => p.1.mul p.2) →
      ((∀ p ∈ ps, p.isNan = false ∧ p.isInf = false) → (sumExact ps).isZero = false → columnSum mode ab = roundTo 0x28 mode (sumExact ps))
      ∧ ((∃ p ∈ ps, p.isNan = true) → columnSum mode ab = nanOf 0x28))
  ∧ (∀ (p : Pair) x S hn, S = sumExact [f32 p.h, f32 p.l, f32 x, .zero false] → hn = roundTo 0x28 0 S → S.isZero = false →
      (∀ c ∈ [p.h, p.l, x], (f32 c).isNan = false ∧ (f32 c).isInf = false) →
      ((f32 hn).isInf = true → pairAdd p x = ⟨hn, 0⟩)
      ∧ ((f32 hn).isInf = false → pairAdd p x = ⟨hn, roundTo 0x28 0 (S.add false (f32 hn).neg)⟩))
  ∧ (∀ id p s m el, m = OMap.ofNat (p.recs.getD 0 0) → el = (fun r j => opElem p s (fmtBits m.fmt) (m.elem r j)) → ∃ (pl : Plane) (bad : Bool),
      wloadRun id p s = completeOp id { code := if bad then 4 else 0, flags := if pl.poison then fPoison else 0 }
        (modArray p (fun A => { A with planes := A.planes.set (bits p.mode 2 0) pl }) s)
      ∧ pl.fmt = m.fmt ∧ (bad = true ↔ ∃ r j, r < m.rows ∧ j < m.cols ∧ (el r j).bad = true)
      ∧ (pl.poison = true ↔ bad = true ∨ p.badRows ≠ [])
      ∧ ∀ r j, r < m.rows → j < m.cols → (el r j).stirred = false → pl.w.getD (r, j) 0 = (el r j).code)
  ∧ (∀ p s m n mode clear pl t k i j row, i < m.rows → j < n → row = mapRow p s m i → (∀ e ∈ row, e.stirred = false) →
      ∃ q, ((i, j), q) ∈ (mulPlane p s m n mode clear pl t k).1
        ∧ q.p = pairAdd (if clear then Pair.zero else (t.el i j).p) (columnSum mode
            ((row.map (fun e => valueOf m.fmt e.code)).zip ((upFrom 0 m.cols).map (fun x => valueOf pl.fmt (pl.w.getD (x, j) 0)))))
        ∧ (q.poison = true ↔ (clear = false ∧ (t.el i j).poison = true) ∨ (∃ e ∈ row, e.bad = true) ∨ pl.poison = true ∨ i ∈ p.badRows))
  ∧ (∀ id p s m v n, m = OMap.ofNat (p.recs.getD 0 0) → v = p.b.getD 0 0 → n = bits v 7 0 →
      ((m.rows = 0 ∨ n = 0 ∨ m.cols = 0) → (bit p.mode 4 = false ∨ m.cols ≠ 0) → mmulRun id p s = completeOp id { flags := fEmpty } s)
      ∧ (bits v 16 14 = 0 → m.cols = 0 → bit p.mode 4 = true →
        mmulRun id p s = completeOp id { flags := fEmpty } (putTile id p (bits v 13 11) (zeroEls m.rows n) s))
      ∧ (bits v 16 14 = 0 → m.rows ≠ 0 → n ≠ 0 → m.cols ≠ 0 → ∀ pl, pl = (s.array (bayOf p.cluster) p.place).planes.get? (bits v 10 8) →
        (pl = none → mmulRun id p s = completeOp id { code := 5 } s)
        ∧ ∀ P x, pl = some P → x = mulPlane p s m n (bits p.mode 3 2) (bit p.mode 4) P (s.tile p (bits v 13 11)) 0 →
          mmulRun id p s = completeOp id { code := x.2.code, flags := x.2.flags } (putTile id p (bits v 13 11) x.1 s)))
  ∧ (∀ p f i j (e : Elt) (rs cs : OElem) mode, rs.stirred = false → cs.stirred = false → mode = bits p.mode 3 2 →
      ((areadElem p f i j e rs cs).bad = true ↔ e.poison = true ∨ rs.bad = true ∨ cs.bad = true)
      ∧ (f = 0x29 → (areadElem p f i j e rs cs).code = e.p.h + 2 ^ 32 * e.p.l)
      ∧ (f ≠ 0x29 → (areadElem p f i j e rs cs).code = convertTo f mode (if (intTy f).isSome then 1 else bits p.mode 1 0)
          (((e.p.value mode).mul (f32 rs.code)).mul (f32 cs.code))))
  ∧ (∀ mode a b sc, (smvElem mode a b sc).1 = roundTo 0x28 mode ((Pair.value mode
      ((a.zip b.lines).foldl (fun x q => pairAdd x (columnSum mode (q.1.zip q.2))) Pair.zero)).mul (f32 sc.code)))
  ∧ (∀ id p s u d, d = Smv.ofNat (p.a.getD 0 0) (p.b.getD 0 0) (p.c.getD 0 0) (p.c.getD 1 0) →
      (d.empty = true → smvRun id p s = completeOp id { flags := fEmpty } s)
      ∧ (d.empty = false → smvEligible p d s = (u, some false) → smvRun id p s = completeOp id { code := 10 } u)
      ∧ (d.empty = false → smvEligible p d s = (u, none) → smvRun id p s = u.push .asyncOperationComplete (.ofK id)))
  ∧ (∀ (e : Int) x i ts, i < x.length → ts = (x.zip (upFrom 0 x.length)).map (fun p => if popcount 8 (i &&& p.2) % 2 = 1 then p.1.neg else p.1) →
      ((∀ v ∈ x, v.isNan = false ∧ v.isInf = false) → (sumExact ts).isZero = false →
        (hadamard e x)[i]? = some (roundTo 0x28 0 ((sumExact ts).scale e)))
      ∧ ((∃ v ∈ x, v.isNan = true) → (hadamard e x)[i]? = some (nanOf 0x28)))
  ∧ (∀ f mode e x, (rotate f mode e x).map Prod.fst = (hadamard e x).map (fun c => convertTo f mode 1 (f32 c)))
  ∧ (∀ y, (quant4 y).q.length = y.length ∧ (∀ q ∈ (quant4 y).q, q < 16 ∧ q ≠ 8)
      ∧ ((∃ c ∈ y, (f32 c).isNan = true ∨ (f32 c).isInf = true) → quant4 y = ⟨y.map (fun _ => 0), 0x7E00, true, false⟩))
  ∧ (∀ s mIn dIn fmtP, (∃ c ∈ mIn :: s, (f32 c).isNan = true) →
      (softmaxBlock s mIn dIn fmtP).nan = true ∧ (softmaxBlock s mIn dIn fmtP).m = nanOf 0x28)
  ∧ (∀ p s off n f x q, f = qrotFmt (bits (p.a.getD 0 0) 55 54) → x = (upFrom 0 128).map (fun i => opElem p s (tyBits f) (off + i * tySize f, none)) →
      (∀ e ∈ x, e.stirred = false) → q = quant4 (hadamard (-3) (x.map (fun e => valueOf f e.code))) →
      (putVector p s off n).1 = (packCodes q.q, q.scale))
  ∧ (∀ (d : BSeq) g, d.valid g = true ↔ d.next ≤ 8 ∧ d.len ≤ 16 * d.cap ∧ ∀ e ∈ d.ext,
      e.base % 2 ^ e.ord = 0 ∧ e.base + 2 ^ e.ord ≤ g.pages ∧ e.ord ≤ g.maxord ∧ 1 ≤ e.len ∧ e.len ≤ 2 ^ e.ord ∧ e.stride % 2 = 1)
  ∧ ∀ id p s, ((∃ x ∈ p.reads, opBad p s x.lo x.len = true) → bushelRun id p s = completeOp id { code := 4 } s)
      ∧ ∀ g n, g = bcfg s p.place → n = bits (p.a.getD 0 0) 15 0 → (∀ x ∈ p.reads, opBad p s x.lo x.len = false) →
        ((p.err = true ∨ g.en = false ∨ g.ctx ≠ p.ctx) → bushelRun id p s = completeOp id { code := 11, aux := 5 } s)
        ∧ (p.err = false → g.en = true → g.ctx = p.ctx → n < 2 ^ g.logseq → (bseq s g n).valid g = true → p.opc = 0x3104 →
          bushelRun id p s = completeOp id {} (dropSeq g n (bseq s g n) s).1)
end

