-- ==== Sys2Proof/Laws/State.lean ====
section
/-! SUPPORT. What the named updates of a state leave in each field: one lemma for each field of each update, true by definition. -/

namespace Sys2Proof.Machine

/-! ### State.fresh -/

@[simp] theorem State.fresh_cur (s : State) : s.fresh.cur = s.cur := rfl
@[simp] theorem State.fresh_ev (s : State) : s.fresh.ev = s.ev := rfl
@[simp] theorem State.fresh_evKey (s : State) : s.fresh.evKey = s.evKey := rfl
@[simp] theorem State.fresh_ncyc (s : State) : s.fresh.ncyc = s.ncyc := rfl
@[simp] theorem State.fresh_acyc (s : State) : s.fresh.acyc = s.acyc := rfl
@[simp] theorem State.fresh_agenda (s : State) : s.fresh.agenda = s.agenda := rfl
@[simp] theorem State.fresh_teams (s : State) : s.fresh.teams = s.teams := rfl
@[simp] theorem State.fresh_sets (s : State) : s.fresh.sets = s.sets := rfl
@[simp] theorem State.fresh_groups (s : State) : s.fresh.groups = s.groups := rfl
@[simp] theorem State.fresh_threads (s : State) : s.fresh.threads = s.threads := rfl
@[simp] theorem State.fresh_grids (s : State) : s.fresh.grids = s.grids := rfl
@[simp] theorem State.fresh_clsh (s : State) : s.fresh.clsh = s.clsh := rfl
@[simp] theorem State.fresh_left (s : State) : s.fresh.left = s.left := rfl
@[simp] theorem State.fresh_pipes (s : State) : s.fresh.pipes = s.pipes := rfl
@[simp] theorem State.fresh_slot (s : State) : s.fresh.slot = s.slot := rfl
@[simp] theorem State.fresh_engAt (s : State) : s.fresh.engAt = s.engAt := rfl
@[simp] theorem State.fresh_lsq (s : State) : s.fresh.lsq = s.lsq := rfl
@[simp] theorem State.fresh_spanLast (s : State) : s.fresh.spanLast = s.spanLast := rfl
@[simp] theorem State.fresh_failed (s : State) : s.fresh.failed = s.failed := rfl
@[simp] theorem State.fresh_ctxs (s : State) : s.fresh.ctxs = s.ctxs := rfl
@[simp] theorem State.fresh_rjto (s : State) : s.fresh.rjto = s.rjto := rfl
@[simp] theorem State.fresh_lathi (s : State) : s.fresh.lathi = s.lathi := rfl
@[simp] theorem State.fresh_latlo (s : State) : s.fresh.latlo = s.latlo := rfl
@[simp] theorem State.fresh_mem (s : State) : s.fresh.mem = s.mem := rfl
@[simp] theorem State.fresh_hmem (s : State) : s.fresh.hmem = s.hmem := rfl
@[simp] theorem State.fresh_oldCode (s : State) : s.fresh.oldCode = s.oldCode := rfl
@[simp] theorem State.fresh_bad (s : State) : s.fresh.bad = s.bad := rfl
@[simp] theorem State.fresh_sbad (s : State) : s.fresh.sbad = s.sbad := rfl
@[simp] theorem State.fresh_crossed (s : State) : s.fresh.crossed = s.crossed := rfl
@[simp] theorem State.fresh_nextId (s : State) : s.fresh.nextId = s.nextId := rfl
@[simp] theorem State.fresh_accs (s : State) : s.fresh.accs = s.accs := rfl
@[simp] theorem State.fresh_tracks (s : State) : s.fresh.tracks = s.tracks := rfl
@[simp] theorem State.fresh_wcs (s : State) : s.fresh.wcs = s.wcs := rfl
@[simp] theorem State.fresh_l1 (s : State) : s.fresh.l1 = s.l1 := rfl
@[simp] theorem State.fresh_slices (s : State) : s.fresh.slices = s.slices := rfl
@[simp] theorem State.fresh_trees (s : State) : s.fresh.trees = s.trees := rfl
@[simp] theorem State.fresh_msgs (s : State) : s.fresh.msgs = s.msgs := rfl
@[simp] theorem State.fresh_combs (s : State) : s.fresh.combs = s.combs := rfl
@[simp] theorem State.fresh_combSent (s : State) : s.fresh.combSent = s.combSent := rfl
@[simp] theorem State.fresh_ords (s : State) : s.fresh.ords = s.ords := rfl
@[simp] theorem State.fresh_ordHeld (s : State) : s.fresh.ordHeld = s.ordHeld := rfl
@[simp] theorem State.fresh_plc (s : State) : s.fresh.plc = s.plc := rfl
@[simp] theorem State.fresh_atc (s : State) : s.fresh.atc = s.atc := rfl
@[simp] theorem State.fresh_tlb (s : State) : s.fresh.tlb = s.tlb := rfl
@[simp] theorem State.fresh_maps (s : State) : s.fresh.maps = s.maps := rfl
@[simp] theorem State.fresh_walks (s : State) : s.fresh.walks = s.walks := rfl
@[simp] theorem State.fresh_zeroing (s : State) : s.fresh.zeroing = s.zeroing := rfl
@[simp] theorem State.fresh_xlogs (s : State) : s.fresh.xlogs = s.xlogs := rfl
@[simp] theorem State.fresh_hsect (s : State) : s.fresh.hsect = s.hsect := rfl
@[simp] theorem State.fresh_objs (s : State) : s.fresh.objs = s.objs := rfl
@[simp] theorem State.fresh_xfers (s : State) : s.fresh.xfers = s.xfers := rfl
@[simp] theorem State.fresh_putxs (s : State) : s.fresh.putxs = s.putxs := rfl
@[simp] theorem State.fresh_flips (s : State) : s.fresh.flips = s.flips := rfl
@[simp] theorem State.fresh_bays (s : State) : s.fresh.bays = s.bays := rfl
@[simp] theorem State.fresh_regs (s : State) : s.fresh.regs = s.regs := rfl
@[simp] theorem State.fresh_ident (s : State) : s.fresh.ident = s.ident := rfl
@[simp] theorem State.fresh_ops (s : State) : s.fresh.ops = s.ops := rfl
@[simp] theorem State.fresh_doneOps (s : State) : s.fresh.doneOps = s.doneOps := rfl
@[simp] theorem State.fresh_timed (s : State) : s.fresh.timed = s.timed := rfl
@[simp] theorem State.fresh_firkin (s : State) : s.fresh.firkin = s.firkin := rfl
@[simp] theorem State.fresh_arrays (s : State) : s.fresh.arrays = s.arrays := rfl
@[simp] theorem State.fresh_runs (s : State) : s.fresh.runs = s.runs := rfl
@[simp] theorem State.fresh_tasks (s : State) : s.fresh.tasks = s.tasks := rfl
@[simp] theorem State.fresh_ptrs (s : State) : s.fresh.ptrs = s.ptrs := rfl
@[simp] theorem State.fresh_coreTemp (s : State) : s.fresh.coreTemp = s.coreTemp := rfl
@[simp] theorem State.fresh_coreDroop (s : State) : s.fresh.coreDroop = s.coreDroop := rfl
@[simp] theorem State.fresh_spadUsers (s : State) : s.fresh.spadUsers = s.spadUsers := rfl
@[simp] theorem State.fresh_notices (s : State) : s.fresh.notices = s.notices := rfl
@[simp] theorem State.fresh_posted (s : State) : s.fresh.posted = s.posted := rfl
@[simp] theorem State.fresh_upsets (s : State) : s.fresh.upsets = s.upsets := rfl

/-! ### State.push -/

@[simp] theorem State.push_cur (s : State) (e : Instr) (a : EvArg) : (s.push e a).cur = s.cur := rfl
@[simp] theorem State.push_ev (s : State) (e : Instr) (a : EvArg) : (s.push e a).ev = s.ev := rfl
@[simp] theorem State.push_evKey (s : State) (e : Instr) (a : EvArg) : (s.push e a).evKey = s.evKey := rfl
@[simp] theorem State.push_tick (s : State) (e : Instr) (a : EvArg) : (s.push e a).tick = s.tick := rfl
@[simp] theorem State.push_ncyc (s : State) (e : Instr) (a : EvArg) : (s.push e a).ncyc = s.ncyc := rfl
@[simp] theorem State.push_acyc (s : State) (e : Instr) (a : EvArg) : (s.push e a).acyc = s.acyc := rfl
@[simp] theorem State.push_teams (s : State) (e : Instr) (a : EvArg) : (s.push e a).teams = s.teams := rfl
@[simp] theorem State.push_sets (s : State) (e : Instr) (a : EvArg) : (s.push e a).sets = s.sets := rfl
@[simp] theorem State.push_groups (s : State) (e : Instr) (a : EvArg) : (s.push e a).groups = s.groups := rfl
@[simp] theorem State.push_threads (s : State) (e : Instr) (a : EvArg) : (s.push e a).threads = s.threads := rfl
@[simp] theorem State.push_grids (s : State) (e : Instr) (a : EvArg) : (s.push e a).grids = s.grids := rfl
@[simp] theorem State.push_clsh (s : State) (e : Instr) (a : EvArg) : (s.push e a).clsh = s.clsh := rfl
@[simp] theorem State.push_left (s : State) (e : Instr) (a : EvArg) : (s.push e a).left = s.left := rfl
@[simp] theorem State.push_pipes (s : State) (e : Instr) (a : EvArg) : (s.push e a).pipes = s.pipes := rfl
@[simp] theorem State.push_slot (s : State) (e : Instr) (a : EvArg) : (s.push e a).slot = s.slot := rfl
@[simp] theorem State.push_engAt (s : State) (e : Instr) (a : EvArg) : (s.push e a).engAt = s.engAt := rfl
@[simp] theorem State.push_lsq (s : State) (e : Instr) (a : EvArg) : (s.push e a).lsq = s.lsq := rfl
@[simp] theorem State.push_spanLast (s : State) (e : Instr) (a : EvArg) : (s.push e a).spanLast = s.spanLast := rfl
@[simp] theorem State.push_failed (s : State) (e : Instr) (a : EvArg) : (s.push e a).failed = s.failed := rfl
@[simp] theorem State.push_ctxs (s : State) (e : Instr) (a : EvArg) : (s.push e a).ctxs = s.ctxs := rfl
@[simp] theorem State.push_rjto (s : State) (e : Instr) (a : EvArg) : (s.push e a).rjto = s.rjto := rfl
@[simp] theorem State.push_lathi (s : State) (e : Instr) (a : EvArg) : (s.push e a).lathi = s.lathi := rfl
@[simp] theorem State.push_latlo (s : State) (e : Instr) (a : EvArg) : (s.push e a).latlo = s.latlo := rfl
@[simp] theorem State.push_mem (s : State) (e : Instr) (a : EvArg) : (s.push e a).mem = s.mem := rfl
@[simp] theorem State.push_hmem (s : State) (e : Instr) (a : EvArg) : (s.push e a).hmem = s.hmem := rfl
@[simp] theorem State.push_oldCode (s : State) (e : Instr) (a : EvArg) : (s.push e a).oldCode = s.oldCode := rfl
@[simp] theorem State.push_bad (s : State) (e : Instr) (a : EvArg) : (s.push e a).bad = s.bad := rfl
@[simp] theorem State.push_sbad (s : State) (e : Instr) (a : EvArg) : (s.push e a).sbad = s.sbad := rfl
@[simp] theorem State.push_crossed (s : State) (e : Instr) (a : EvArg) : (s.push e a).crossed = s.crossed := rfl
@[simp] theorem State.push_nextId (s : State) (e : Instr) (a : EvArg) : (s.push e a).nextId = s.nextId := rfl
@[simp] theorem State.push_accs (s : State) (e : Instr) (a : EvArg) : (s.push e a).accs = s.accs := rfl
@[simp] theorem State.push_tracks (s : State) (e : Instr) (a : EvArg) : (s.push e a).tracks = s.tracks := rfl
@[simp] theorem State.push_wcs (s : State) (e : Instr) (a : EvArg) : (s.push e a).wcs = s.wcs := rfl
@[simp] theorem State.push_l1 (s : State) (e : Instr) (a : EvArg) : (s.push e a).l1 = s.l1 := rfl
@[simp] theorem State.push_slices (s : State) (e : Instr) (a : EvArg) : (s.push e a).slices = s.slices := rfl
@[simp] theorem State.push_trees (s : State) (e : Instr) (a : EvArg) : (s.push e a).trees = s.trees := rfl
@[simp] theorem State.push_msgs (s : State) (e : Instr) (a : EvArg) : (s.push e a).msgs = s.msgs := rfl
@[simp] theorem State.push_combs (s : State) (e : Instr) (a : EvArg) : (s.push e a).combs = s.combs := rfl
@[simp] theorem State.push_combSent (s : State) (e : Instr) (a : EvArg) : (s.push e a).combSent = s.combSent := rfl
@[simp] theorem State.push_ords (s : State) (e : Instr) (a : EvArg) : (s.push e a).ords = s.ords := rfl
@[simp] theorem State.push_ordHeld (s : State) (e : Instr) (a : EvArg) : (s.push e a).ordHeld = s.ordHeld := rfl
@[simp] theorem State.push_plc (s : State) (e : Instr) (a : EvArg) : (s.push e a).plc = s.plc := rfl
@[simp] theorem State.push_atc (s : State) (e : Instr) (a : EvArg) : (s.push e a).atc = s.atc := rfl
@[simp] theorem State.push_tlb (s : State) (e : Instr) (a : EvArg) : (s.push e a).tlb = s.tlb := rfl
@[simp] theorem State.push_maps (s : State) (e : Instr) (a : EvArg) : (s.push e a).maps = s.maps := rfl
@[simp] theorem State.push_walks (s : State) (e : Instr) (a : EvArg) : (s.push e a).walks = s.walks := rfl
@[simp] theorem State.push_zeroing (s : State) (e : Instr) (a : EvArg) : (s.push e a).zeroing = s.zeroing := rfl
@[simp] theorem State.push_xlogs (s : State) (e : Instr) (a : EvArg) : (s.push e a).xlogs = s.xlogs := rfl
@[simp] theorem State.push_hsect (s : State) (e : Instr) (a : EvArg) : (s.push e a).hsect = s.hsect := rfl
@[simp] theorem State.push_objs (s : State) (e : Instr) (a : EvArg) : (s.push e a).objs = s.objs := rfl
@[simp] theorem State.push_xfers (s : State) (e : Instr) (a : EvArg) : (s.push e a).xfers = s.xfers := rfl
@[simp] theorem State.push_putxs (s : State) (e : Instr) (a : EvArg) : (s.push e a).putxs = s.putxs := rfl
@[simp] theorem State.push_flips (s : State) (e : Instr) (a : EvArg) : (s.push e a).flips = s.flips := rfl
@[simp] theorem State.push_bays (s : State) (e : Instr) (a : EvArg) : (s.push e a).bays = s.bays := rfl
@[simp] theorem State.push_regs (s : State) (e : Instr) (a : EvArg) : (s.push e a).regs = s.regs := rfl
@[simp] theorem State.push_ident (s : State) (e : Instr) (a : EvArg) : (s.push e a).ident = s.ident := rfl
@[simp] theorem State.push_ops (s : State) (e : Instr) (a : EvArg) : (s.push e a).ops = s.ops := rfl
@[simp] theorem State.push_doneOps (s : State) (e : Instr) (a : EvArg) : (s.push e a).doneOps = s.doneOps := rfl
@[simp] theorem State.push_timed (s : State) (e : Instr) (a : EvArg) : (s.push e a).timed = s.timed := rfl
@[simp] theorem State.push_firkin (s : State) (e : Instr) (a : EvArg) : (s.push e a).firkin = s.firkin := rfl
@[simp] theorem State.push_arrays (s : State) (e : Instr) (a : EvArg) : (s.push e a).arrays = s.arrays := rfl
@[simp] theorem State.push_runs (s : State) (e : Instr) (a : EvArg) : (s.push e a).runs = s.runs := rfl
@[simp] theorem State.push_tasks (s : State) (e : Instr) (a : EvArg) : (s.push e a).tasks = s.tasks := rfl
@[simp] theorem State.push_ptrs (s : State) (e : Instr) (a : EvArg) : (s.push e a).ptrs = s.ptrs := rfl
@[simp] theorem State.push_coreTemp (s : State) (e : Instr) (a : EvArg) : (s.push e a).coreTemp = s.coreTemp := rfl
@[simp] theorem State.push_coreDroop (s : State) (e : Instr) (a : EvArg) : (s.push e a).coreDroop = s.coreDroop := rfl
@[simp] theorem State.push_spadUsers (s : State) (e : Instr) (a : EvArg) : (s.push e a).spadUsers = s.spadUsers := rfl
@[simp] theorem State.push_notices (s : State) (e : Instr) (a : EvArg) : (s.push e a).notices = s.notices := rfl
@[simp] theorem State.push_posted (s : State) (e : Instr) (a : EvArg) : (s.push e a).posted = s.posted := rfl
@[simp] theorem State.push_upsets (s : State) (e : Instr) (a : EvArg) : (s.push e a).upsets = s.upsets := rfl

/-! ### State.setThr -/

@[simp] theorem State.setThr_cur (s : State) (k : TKey) (t : Thread) : (s.setThr k t).cur = s.cur := rfl
@[simp] theorem State.setThr_ev (s : State) (k : TKey) (t : Thread) : (s.setThr k t).ev = s.ev := rfl
@[simp] theorem State.setThr_evKey (s : State) (k : TKey) (t : Thread) : (s.setThr k t).evKey = s.evKey := rfl
@[simp] theorem State.setThr_tick (s : State) (k : TKey) (t : Thread) : (s.setThr k t).tick = s.tick := rfl
@[simp] theorem State.setThr_ncyc (s : State) (k : TKey) (t : Thread) : (s.setThr k t).ncyc = s.ncyc := rfl
@[simp] theorem State.setThr_acyc (s : State) (k : TKey) (t : Thread) : (s.setThr k t).acyc = s.acyc := rfl
@[simp] theorem State.setThr_agenda (s : State) (k : TKey) (t : Thread) : (s.setThr k t).agenda = s.agenda := rfl
@[simp] theorem State.setThr_teams (s : State) (k : TKey) (t : Thread) : (s.setThr k t).teams = s.teams := rfl
@[simp] theorem State.setThr_sets (s : State) (k : TKey) (t : Thread) : (s.setThr k t).sets = s.sets := rfl
@[simp] theorem State.setThr_groups (s : State) (k : TKey) (t : Thread) : (s.setThr k t).groups = s.groups := rfl
@[simp] theorem State.setThr_grids (s : State) (k : TKey) (t : Thread) : (s.setThr k t).grids = s.grids := rfl
@[simp] theorem State.setThr_clsh (s : State) (k : TKey) (t : Thread) : (s.setThr k t).clsh = s.clsh := rfl
@[simp] theorem State.setThr_left (s : State) (k : TKey) (t : Thread) : (s.setThr k t).left = s.left := rfl
@[simp] theorem State.setThr_pipes (s : State) (k : TKey) (t : Thread) : (s.setThr k t).pipes = s.pipes := rfl
@[simp] theorem State.setThr_slot (s : State) (k : TKey) (t : Thread) : (s.setThr k t).slot = s.slot := rfl
@[simp] theorem State.setThr_engAt (s : State) (k : TKey) (t : Thread) : (s.setThr k t).engAt = s.engAt := rfl
@[simp] theorem State.setThr_lsq (s : State) (k : TKey) (t : Thread) : (s.setThr k t).lsq = s.lsq := rfl
@[simp] theorem State.setThr_spanLast (s : State) (k : TKey) (t : Thread) : (s.setThr k t).spanLast = s.spanLast := rfl
@[simp] theorem State.setThr_failed (s : State) (k : TKey) (t : Thread) : (s.setThr k t).failed = s.failed := rfl
@[simp] theorem State.setThr_ctxs (s : State) (k : TKey) (t : Thread) : (s.setThr k t).ctxs = s.ctxs := rfl
@[simp] theorem State.setThr_rjto (s : State) (k : TKey) (t : Thread) : (s.setThr k t).rjto = s.rjto := rfl
@[simp] theorem State.setThr_lathi (s : State) (k : TKey) (t : Thread) : (s.setThr k t).lathi = s.lathi := rfl
@[simp] theorem State.setThr_latlo (s : State) (k : TKey) (t : Thread) : (s.setThr k t).latlo = s.latlo := rfl
@[simp] theorem State.setThr_mem (s : State) (k : TKey) (t : Thread) : (s.setThr k t).mem = s.mem := rfl
@[simp] theorem State.setThr_hmem (s : State) (k : TKey) (t : Thread) : (s.setThr k t).hmem = s.hmem := rfl
@[simp] theorem State.setThr_oldCode (s : State) (k : TKey) (t : Thread) : (s.setThr k t).oldCode = s.oldCode := rfl
@[simp] theorem State.setThr_bad (s : State) (k : TKey) (t : Thread) : (s.setThr k t).bad = s.bad := rfl
@[simp] theorem State.setThr_sbad (s : State) (k : TKey) (t : Thread) : (s.setThr k t).sbad = s.sbad := rfl
@[simp] theorem State.setThr_crossed (s : State) (k : TKey) (t : Thread) : (s.setThr k t).crossed = s.crossed := rfl
@[simp] theorem State.setThr_nextId (s : State) (k : TKey) (t : Thread) : (s.setThr k t).nextId = s.nextId := rfl
@[simp] theorem State.setThr_accs (s : State) (k : TKey) (t : Thread) : (s.setThr k t).accs = s.accs := rfl
@[simp] theorem State.setThr_tracks (s : State) (k : TKey) (t : Thread) : (s.setThr k t).tracks = s.tracks := rfl
@[simp] theorem State.setThr_wcs (s : State) (k : TKey) (t : Thread) : (s.setThr k t).wcs = s.wcs := rfl
@[simp] theorem State.setThr_l1 (s : State) (k : TKey) (t : Thread) : (s.setThr k t).l1 = s.l1 := rfl
@[simp] theorem State.setThr_slices (s : State) (k : TKey) (t : Thread) : (s.setThr k t).slices = s.slices := rfl
@[simp] theorem State.setThr_trees (s : State) (k : TKey) (t : Thread) : (s.setThr k t).trees = s.trees := rfl
@[simp] theorem State.setThr_msgs (s : State) (k : TKey) (t : Thread) : (s.setThr k t).msgs = s.msgs := rfl
@[simp] theorem State.setThr_combs (s : State) (k : TKey) (t : Thread) : (s.setThr k t).combs = s.combs := rfl
@[simp] theorem State.setThr_combSent (s : State) (k : TKey) (t : Thread) : (s.setThr k t).combSent = s.combSent := rfl
@[simp] theorem State.setThr_ords (s : State) (k : TKey) (t : Thread) : (s.setThr k t).ords = s.ords := rfl
@[simp] theorem State.setThr_ordHeld (s : State) (k : TKey) (t : Thread) : (s.setThr k t).ordHeld = s.ordHeld := rfl
@[simp] theorem State.setThr_plc (s : State) (k : TKey) (t : Thread) : (s.setThr k t).plc = s.plc := rfl
@[simp] theorem State.setThr_atc (s : State) (k : TKey) (t : Thread) : (s.setThr k t).atc = s.atc := rfl
@[simp] theorem State.setThr_tlb (s : State) (k : TKey) (t : Thread) : (s.setThr k t).tlb = s.tlb := rfl
@[simp] theorem State.setThr_maps (s : State) (k : TKey) (t : Thread) : (s.setThr k t).maps = s.maps := rfl
@[simp] theorem State.setThr_walks (s : State) (k : TKey) (t : Thread) : (s.setThr k t).walks = s.walks := rfl
@[simp] theorem State.setThr_zeroing (s : State) (k : TKey) (t : Thread) : (s.setThr k t).zeroing = s.zeroing := rfl
@[simp] theorem State.setThr_xlogs (s : State) (k : TKey) (t : Thread) : (s.setThr k t).xlogs = s.xlogs := rfl
@[simp] theorem State.setThr_hsect (s : State) (k : TKey) (t : Thread) : (s.setThr k t).hsect = s.hsect := rfl
@[simp] theorem State.setThr_objs (s : State) (k : TKey) (t : Thread) : (s.setThr k t).objs = s.objs := rfl
@[simp] theorem State.setThr_xfers (s : State) (k : TKey) (t : Thread) : (s.setThr k t).xfers = s.xfers := rfl
@[simp] theorem State.setThr_putxs (s : State) (k : TKey) (t : Thread) : (s.setThr k t).putxs = s.putxs := rfl
@[simp] theorem State.setThr_flips (s : State) (k : TKey) (t : Thread) : (s.setThr k t).flips = s.flips := rfl
@[simp] theorem State.setThr_bays (s : State) (k : TKey) (t : Thread) : (s.setThr k t).bays = s.bays := rfl
@[simp] theorem State.setThr_regs (s : State) (k : TKey) (t : Thread) : (s.setThr k t).regs = s.regs := rfl
@[simp] theorem State.setThr_ident (s : State) (k : TKey) (t : Thread) : (s.setThr k t).ident = s.ident := rfl
@[simp] theorem State.setThr_ops (s : State) (k : TKey) (t : Thread) : (s.setThr k t).ops = s.ops := rfl
@[simp] theorem State.setThr_doneOps (s : State) (k : TKey) (t : Thread) : (s.setThr k t).doneOps = s.doneOps := rfl
@[simp] theorem State.setThr_timed (s : State) (k : TKey) (t : Thread) : (s.setThr k t).timed = s.timed := rfl
@[simp] theorem State.setThr_firkin (s : State) (k : TKey) (t : Thread) : (s.setThr k t).firkin = s.firkin := rfl
@[simp] theorem State.setThr_arrays (s : State) (k : TKey) (t : Thread) : (s.setThr k t).arrays = s.arrays := rfl
@[simp] theorem State.setThr_runs (s : State) (k : TKey) (t : Thread) : (s.setThr k t).runs = s.runs := rfl
@[simp] theorem State.setThr_tasks (s : State) (k : TKey) (t : Thread) : (s.setThr k t).tasks = s.tasks := rfl
@[simp] theorem State.setThr_ptrs (s : State) (k : TKey) (t : Thread) : (s.setThr k t).ptrs = s.ptrs := rfl
@[simp] theorem State.setThr_coreTemp (s : State) (k : TKey) (t : Thread) : (s.setThr k t).coreTemp = s.coreTemp := rfl
@[simp] theorem State.setThr_coreDroop (s : State) (k : TKey) (t : Thread) : (s.setThr k t).coreDroop = s.coreDroop := rfl
@[simp] theorem State.setThr_spadUsers (s : State) (k : TKey) (t : Thread) : (s.setThr k t).spadUsers = s.spadUsers := rfl
@[simp] theorem State.setThr_notices (s : State) (k : TKey) (t : Thread) : (s.setThr k t).notices = s.notices := rfl
@[simp] theorem State.setThr_posted (s : State) (k : TKey) (t : Thread) : (s.setThr k t).posted = s.posted := rfl
@[simp] theorem State.setThr_upsets (s : State) (k : TKey) (t : Thread) : (s.setThr k t).upsets = s.upsets := rfl

/-! ### State.modThr -/

@[simp] theorem State.modThr_cur (s : State) (k : TKey) (f : Thread → Thread) : (s.modThr k f).cur = s.cur := rfl
@[simp] theorem State.modThr_ev (s : State) (k : TKey) (f : Thread → Thread) : (s.modThr k f).ev = s.ev := rfl
@[simp] theorem State.modThr_evKey (s : State) (k : TKey) (f : Thread → Thread) : (s.modThr k f).evKey = s.evKey := rfl
@[simp] theorem State.modThr_tick (s : State) (k : TKey) (f : Thread → Thread) : (s.modThr k f).tick = s.tick := rfl
@[simp] theorem State.modThr_ncyc (s : State) (k : TKey) (f : Thread → Thread) : (s.modThr k f).ncyc = s.ncyc := rfl
@[simp] theorem State.modThr_acyc (s : State) (k : TKey) (f : Thread → Thread) : (s.modThr k f).acyc = s.acyc := rfl
@[simp] theorem State.modThr_agenda (s : State) (k : TKey) (f : Thread → Thread) : (s.modThr k f).agenda = s.agenda := rfl
@[simp] theorem State.modThr_teams (s : State) (k : TKey) (f : Thread → Thread) : (s.modThr k f).teams = s.teams := rfl
@[simp] theorem State.modThr_sets (s : State) (k : TKey) (f : Thread → Thread) : (s.modThr k f).sets = s.sets := rfl
@[simp] theorem State.modThr_groups (s : State) (k : TKey) (f : Thread → Thread) : (s.modThr k f).groups = s.groups := rfl
@[simp] theorem State.modThr_grids (s : State) (k : TKey) (f : Thread → Thread) : (s.modThr k f).grids = s.grids := rfl
@[simp] theorem State.modThr_clsh (s : State) (k : TKey) (f : Thread → Thread) : (s.modThr k f).clsh = s.clsh := rfl
@[simp] theorem State.modThr_left (s : State) (k : TKey) (f : Thread → Thread) : (s.modThr k f).left = s.left := rfl
@[simp] theorem State.modThr_pipes (s : State) (k : TKey) (f : Thread → Thread) : (s.modThr k f).pipes = s.pipes := rfl
@[simp] theorem State.modThr_slot (s : State) (k : TKey) (f : Thread → Thread) : (s.modThr k f).slot = s.slot := rfl
@[simp] theorem State.modThr_engAt (s : State) (k : TKey) (f : Thread → Thread) : (s.modThr k f).engAt = s.engAt := rfl
@[simp] theorem State.modThr_lsq (s : State) (k : TKey) (f : Thread → Thread) : (s.modThr k f).lsq = s.lsq := rfl
@[simp] theorem State.modThr_spanLast (s : State) (k : TKey) (f : Thread → Thread) : (s.modThr k f).spanLast = s.spanLast := rfl
@[simp] theorem State.modThr_failed (s : State) (k : TKey) (f : Thread → Thread) : (s.modThr k f).failed = s.failed := rfl
@[simp] theorem State.modThr_ctxs (s : State) (k : TKey) (f : Thread → Thread) : (s.modThr k f).ctxs = s.ctxs := rfl
@[simp] theorem State.modThr_rjto (s : State) (k : TKey) (f : Thread → Thread) : (s.modThr k f).rjto = s.rjto := rfl
@[simp] theorem State.modThr_lathi (s : State) (k : TKey) (f : Thread → Thread) : (s.modThr k f).lathi = s.lathi := rfl
@[simp] theorem State.modThr_latlo (s : State) (k : TKey) (f : Thread → Thread) : (s.modThr k f).latlo = s.latlo := rfl
@[simp] theorem State.modThr_mem (s : State) (k : TKey) (f : Thread → Thread) : (s.modThr k f).mem = s.mem := rfl
@[simp] theorem State.modThr_hmem (s : State) (k : TKey) (f : Thread → Thread) : (s.modThr k f).hmem = s.hmem := rfl
@[simp] theorem State.modThr_oldCode (s : State) (k : TKey) (f : Thread → Thread) : (s.modThr k f).oldCode = s.oldCode := rfl
@[simp] theorem State.modThr_bad (s : State) (k : TKey) (f : Thread → Thread) : (s.modThr k f).bad = s.bad := rfl
@[simp] theorem State.modThr_sbad (s : State) (k : TKey) (f : Thread → Thread) : (s.modThr k f).sbad = s.sbad := rfl
@[simp] theorem State.modThr_crossed (s : State) (k : TKey) (f : Thread → Thread) : (s.modThr k f).crossed = s.crossed := rfl
@[simp] theorem State.modThr_nextId (s : State) (k : TKey) (f : Thread → Thread) : (s.modThr k f).nextId = s.nextId := rfl
@[simp] theorem State.modThr_accs (s : State) (k : TKey) (f : Thread → Thread) : (s.modThr k f).accs = s.accs := rfl
@[simp] theorem State.modThr_tracks (s : State) (k : TKey) (f : Thread → Thread) : (s.modThr k f).tracks = s.tracks := rfl
@[simp] theorem State.modThr_wcs (s : State) (k : TKey) (f : Thread → Thread) : (s.modThr k f).wcs = s.wcs := rfl
@[simp] theorem State.modThr_l1 (s : State) (k : TKey) (f : Thread → Thread) : (s.modThr k f).l1 = s.l1 := rfl
@[simp] theorem State.modThr_slices (s : State) (k : TKey) (f : Thread → Thread) : (s.modThr k f).slices = s.slices := rfl
@[simp] theorem State.modThr_trees (s : State) (k : TKey) (f : Thread → Thread) : (s.modThr k f).trees = s.trees := rfl
@[simp] theorem State.modThr_msgs (s : State) (k : TKey) (f : Thread → Thread) : (s.modThr k f).msgs = s.msgs := rfl
@[simp] theorem State.modThr_combs (s : State) (k : TKey) (f : Thread → Thread) : (s.modThr k f).combs = s.combs := rfl
@[simp] theorem State.modThr_combSent (s : State) (k : TKey) (f : Thread → Thread) : (s.modThr k f).combSent = s.combSent := rfl
@[simp] theorem State.modThr_ords (s : State) (k : TKey) (f : Thread → Thread) : (s.modThr k f).ords = s.ords := rfl
@[simp] theorem State.modThr_ordHeld (s : State) (k : TKey) (f : Thread → Thread) : (s.modThr k f).ordHeld = s.ordHeld := rfl
@[simp] theorem State.modThr_plc (s : State) (k : TKey) (f : Thread → Thread) : (s.modThr k f).plc = s.plc := rfl
@[simp] theorem State.modThr_atc (s : State) (k : TKey) (f : Thread → Thread) : (s.modThr k f).atc = s.atc := rfl
@[simp] theorem State.modThr_tlb (s : State) (k : TKey) (f : Thread → Thread) : (s.modThr k f).tlb = s.tlb := rfl
@[simp] theorem State.modThr_maps (s : State) (k : TKey) (f : Thread → Thread) : (s.modThr k f).maps = s.maps := rfl
@[simp] theorem State.modThr_walks (s : State) (k : TKey) (f : Thread → Thread) : (s.modThr k f).walks = s.walks := rfl
@[simp] theorem State.modThr_zeroing (s : State) (k : TKey) (f : Thread → Thread) : (s.modThr k f).zeroing = s.zeroing := rfl
@[simp] theorem State.modThr_xlogs (s : State) (k : TKey) (f : Thread → Thread) : (s.modThr k f).xlogs = s.xlogs := rfl
@[simp] theorem State.modThr_hsect (s : State) (k : TKey) (f : Thread → Thread) : (s.modThr k f).hsect = s.hsect := rfl
@[simp] theorem State.modThr_objs (s : State) (k : TKey) (f : Thread → Thread) : (s.modThr k f).objs = s.objs := rfl
@[simp] theorem State.modThr_xfers (s : State) (k : TKey) (f : Thread → Thread) : (s.modThr k f).xfers = s.xfers := rfl
@[simp] theorem State.modThr_putxs (s : State) (k : TKey) (f : Thread → Thread) : (s.modThr k f).putxs = s.putxs := rfl
@[simp] theorem State.modThr_flips (s : State) (k : TKey) (f : Thread → Thread) : (s.modThr k f).flips = s.flips := rfl
@[simp] theorem State.modThr_bays (s : State) (k : TKey) (f : Thread → Thread) : (s.modThr k f).bays = s.bays := rfl
@[simp] theorem State.modThr_regs (s : State) (k : TKey) (f : Thread → Thread) : (s.modThr k f).regs = s.regs := rfl
@[simp] theorem State.modThr_ident (s : State) (k : TKey) (f : Thread → Thread) : (s.modThr k f).ident = s.ident := rfl
@[simp] theorem State.modThr_ops (s : State) (k : TKey) (f : Thread → Thread) : (s.modThr k f).ops = s.ops := rfl
@[simp] theorem State.modThr_doneOps (s : State) (k : TKey) (f : Thread → Thread) : (s.modThr k f).doneOps = s.doneOps := rfl
@[simp] theorem State.modThr_timed (s : State) (k : TKey) (f : Thread → Thread) : (s.modThr k f).timed = s.timed := rfl
@[simp] theorem State.modThr_firkin (s : State) (k : TKey) (f : Thread → Thread) : (s.modThr k f).firkin = s.firkin := rfl
@[simp] theorem State.modThr_arrays (s : State) (k : TKey) (f : Thread → Thread) : (s.modThr k f).arrays = s.arrays := rfl
@[simp] theorem State.modThr_runs (s : State) (k : TKey) (f : Thread → Thread) : (s.modThr k f).runs = s.runs := rfl
@[simp] theorem State.modThr_tasks (s : State) (k : TKey) (f : Thread → Thread) : (s.modThr k f).tasks = s.tasks := rfl
@[simp] theorem State.modThr_ptrs (s : State) (k : TKey) (f : Thread → Thread) : (s.modThr k f).ptrs = s.ptrs := rfl
@[simp] theorem State.modThr_coreTemp (s : State) (k : TKey) (f : Thread → Thread) : (s.modThr k f).coreTemp = s.coreTemp := rfl
@[simp] theorem State.modThr_coreDroop (s : State) (k : TKey) (f : Thread → Thread) : (s.modThr k f).coreDroop = s.coreDroop := rfl
@[simp] theorem State.modThr_spadUsers (s : State) (k : TKey) (f : Thread → Thread) : (s.modThr k f).spadUsers = s.spadUsers := rfl
@[simp] theorem State.modThr_notices (s : State) (k : TKey) (f : Thread → Thread) : (s.modThr k f).notices = s.notices := rfl
@[simp] theorem State.modThr_posted (s : State) (k : TKey) (f : Thread → Thread) : (s.modThr k f).posted = s.posted := rfl
@[simp] theorem State.modThr_upsets (s : State) (k : TKey) (f : Thread → Thread) : (s.modThr k f).upsets = s.upsets := rfl

/-! ### State.modGrp -/

@[simp] theorem State.modGrp_cur (s : State) (t g : Nat) (f : Group → Group) : (s.modGrp t g f).cur = s.cur := rfl
@[simp] theorem State.modGrp_ev (s : State) (t g : Nat) (f : Group → Group) : (s.modGrp t g f).ev = s.ev := rfl
@[simp] theorem State.modGrp_evKey (s : State) (t g : Nat) (f : Group → Group) : (s.modGrp t g f).evKey = s.evKey := rfl
@[simp] theorem State.modGrp_tick (s : State) (t g : Nat) (f : Group → Group) : (s.modGrp t g f).tick = s.tick := rfl
@[simp] theorem State.modGrp_ncyc (s : State) (t g : Nat) (f : Group → Group) : (s.modGrp t g f).ncyc = s.ncyc := rfl
@[simp] theorem State.modGrp_acyc (s : State) (t g : Nat) (f : Group → Group) : (s.modGrp t g f).acyc = s.acyc := rfl
@[simp] theorem State.modGrp_agenda (s : State) (t g : Nat) (f : Group → Group) : (s.modGrp t g f).agenda = s.agenda := rfl
@[simp] theorem State.modGrp_teams (s : State) (t g : Nat) (f : Group → Group) : (s.modGrp t g f).teams = s.teams := rfl
@[simp] theorem State.modGrp_sets (s : State) (t g : Nat) (f : Group → Group) : (s.modGrp t g f).sets = s.sets := rfl
@[simp] theorem State.modGrp_threads (s : State) (t g : Nat) (f : Group → Group) : (s.modGrp t g f).threads = s.threads := rfl
@[simp] theorem State.modGrp_grids (s : State) (t g : Nat) (f : Group → Group) : (s.modGrp t g f).grids = s.grids := rfl
@[simp] theorem State.modGrp_clsh (s : State) (t g : Nat) (f : Group → Group) : (s.modGrp t g f).clsh = s.clsh := rfl
@[simp] theorem State.modGrp_left (s : State) (t g : Nat) (f : Group → Group) : (s.modGrp t g f).left = s.left := rfl
@[simp] theorem State.modGrp_pipes (s : State) (t g : Nat) (f : Group → Group) : (s.modGrp t g f).pipes = s.pipes := rfl
@[simp] theorem State.modGrp_slot (s : State) (t g : Nat) (f : Group → Group) : (s.modGrp t g f).slot = s.slot := rfl
@[simp] theorem State.modGrp_engAt (s : State) (t g : Nat) (f : Group → Group) : (s.modGrp t g f).engAt = s.engAt := rfl
@[simp] theorem State.modGrp_lsq (s : State) (t g : Nat) (f : Group → Group) : (s.modGrp t g f).lsq = s.lsq := rfl
@[simp] theorem State.modGrp_spanLast (s : State) (t g : Nat) (f : Group → Group) : (s.modGrp t g f).spanLast = s.spanLast := rfl
@[simp] theorem State.modGrp_failed (s : State) (t g : Nat) (f : Group → Group) : (s.modGrp t g f).failed = s.failed := rfl
@[simp] theorem State.modGrp_ctxs (s : State) (t g : Nat) (f : Group → Group) : (s.modGrp t g f).ctxs = s.ctxs := rfl
@[simp] theorem State.modGrp_rjto (s : State) (t g : Nat) (f : Group → Group) : (s.modGrp t g f).rjto = s.rjto := rfl
@[simp] theorem State.modGrp_lathi (s : State) (t g : Nat) (f : Group → Group) : (s.modGrp t g f).lathi = s.lathi := rfl
@[simp] theorem State.modGrp_latlo (s : State) (t g : Nat) (f : Group → Group) : (s.modGrp t g f).latlo = s.latlo := rfl
@[simp] theorem State.modGrp_mem (s : State) (t g : Nat) (f : Group → Group) : (s.modGrp t g f).mem = s.mem := rfl
@[simp] theorem State.modGrp_hmem (s : State) (t g : Nat) (f : Group → Group) : (s.modGrp t g f).hmem = s.hmem := rfl
@[simp] theorem State.modGrp_oldCode (s : State) (t g : Nat) (f : Group → Group) : (s.modGrp t g f).oldCode = s.oldCode := rfl
@[simp] theorem State.modGrp_bad (s : State) (t g : Nat) (f : Group → Group) : (s.modGrp t g f).bad = s.bad := rfl
@[simp] theorem State.modGrp_sbad (s : State) (t g : Nat) (f : Group → Group) : (s.modGrp t g f).sbad = s.sbad := rfl
@[simp] theorem State.modGrp_crossed (s : State) (t g : Nat) (f : Group → Group) : (s.modGrp t g f).crossed = s.crossed := rfl
@[simp] theorem State.modGrp_nextId (s : State) (t g : Nat) (f : Group → Group) : (s.modGrp t g f).nextId = s.nextId := rfl
@[simp] theorem State.modGrp_accs (s : State) (t g : Nat) (f : Group → Group) : (s.modGrp t g f).accs = s.accs := rfl
@[simp] theorem State.modGrp_tracks (s : State) (t g : Nat) (f : Group → Group) : (s.modGrp t g f).tracks = s.tracks := rfl
@[simp] theorem State.modGrp_wcs (s : State) (t g : Nat) (f : Group → Group) : (s.modGrp t g f).wcs = s.wcs := rfl
@[simp] theorem State.modGrp_l1 (s : State) (t g : Nat) (f : Group → Group) : (s.modGrp t g f).l1 = s.l1 := rfl
@[simp] theorem State.modGrp_slices (s : State) (t g : Nat) (f : Group → Group) : (s.modGrp t g f).slices = s.slices := rfl
@[simp] theorem State.modGrp_trees (s : State) (t g : Nat) (f : Group → Group) : (s.modGrp t g f).trees = s.trees := rfl
@[simp] theorem State.modGrp_msgs (s : State) (t g : Nat) (f : Group → Group) : (s.modGrp t g f).msgs = s.msgs := rfl
@[simp] theorem State.modGrp_combs (s : State) (t g : Nat) (f : Group → Group) : (s.modGrp t g f).combs = s.combs := rfl
@[simp] theorem State.modGrp_combSent (s : State) (t g : Nat) (f : Group → Group) : (s.modGrp t g f).combSent = s.combSent := rfl
@[simp] theorem State.modGrp_ords (s : State) (t g : Nat) (f : Group → Group) : (s.modGrp t g f).ords = s.ords := rfl
@[simp] theorem State.modGrp_ordHeld (s : State) (t g : Nat) (f : Group → Group) : (s.modGrp t g f).ordHeld = s.ordHeld := rfl
@[simp] theorem State.modGrp_plc (s : State) (t g : Nat) (f : Group → Group) : (s.modGrp t g f).plc = s.plc := rfl
@[simp] theorem State.modGrp_atc (s : State) (t g : Nat) (f : Group → Group) : (s.modGrp t g f).atc = s.atc := rfl
@[simp] theorem State.modGrp_tlb (s : State) (t g : Nat) (f : Group → Group) : (s.modGrp t g f).tlb = s.tlb := rfl
@[simp] theorem State.modGrp_maps (s : State) (t g : Nat) (f : Group → Group) : (s.modGrp t g f).maps = s.maps := rfl
@[simp] theorem State.modGrp_walks (s : State) (t g : Nat) (f : Group → Group) : (s.modGrp t g f).walks = s.walks := rfl
@[simp] theorem State.modGrp_zeroing (s : State) (t g : Nat) (f : Group → Group) : (s.modGrp t g f).zeroing = s.zeroing := rfl
@[simp] theorem State.modGrp_xlogs (s : State) (t g : Nat) (f : Group → Group) : (s.modGrp t g f).xlogs = s.xlogs := rfl
@[simp] theorem State.modGrp_hsect (s : State) (t g : Nat) (f : Group → Group) : (s.modGrp t g f).hsect = s.hsect := rfl
@[simp] theorem State.modGrp_objs (s : State) (t g : Nat) (f : Group → Group) : (s.modGrp t g f).objs = s.objs := rfl
@[simp] theorem State.modGrp_xfers (s : State) (t g : Nat) (f : Group → Group) : (s.modGrp t g f).xfers = s.xfers := rfl
@[simp] theorem State.modGrp_putxs (s : State) (t g : Nat) (f : Group → Group) : (s.modGrp t g f).putxs = s.putxs := rfl
@[simp] theorem State.modGrp_flips (s : State) (t g : Nat) (f : Group → Group) : (s.modGrp t g f).flips = s.flips := rfl
@[simp] theorem State.modGrp_bays (s : State) (t g : Nat) (f : Group → Group) : (s.modGrp t g f).bays = s.bays := rfl
@[simp] theorem State.modGrp_regs (s : State) (t g : Nat) (f : Group → Group) : (s.modGrp t g f).regs = s.regs := rfl
@[simp] theorem State.modGrp_ident (s : State) (t g : Nat) (f : Group → Group) : (s.modGrp t g f).ident = s.ident := rfl
@[simp] theorem State.modGrp_ops (s : State) (t g : Nat) (f : Group → Group) : (s.modGrp t g f).ops = s.ops := rfl
@[simp] theorem State.modGrp_doneOps (s : State) (t g : Nat) (f : Group → Group) : (s.modGrp t g f).doneOps = s.doneOps := rfl
@[simp] theorem State.modGrp_timed (s : State) (t g : Nat) (f : Group → Group) : (s.modGrp t g f).timed = s.timed := rfl
@[simp] theorem State.modGrp_firkin (s : State) (t g : Nat) (f : Group → Group) : (s.modGrp t g f).firkin = s.firkin := rfl
@[simp] theorem State.modGrp_arrays (s : State) (t g : Nat) (f : Group → Group) : (s.modGrp t g f).arrays = s.arrays := rfl
@[simp] theorem State.modGrp_runs (s : State) (t g : Nat) (f : Group → Group) : (s.modGrp t g f).runs = s.runs := rfl
@[simp] theorem State.modGrp_tasks (s : State) (t g : Nat) (f : Group → Group) : (s.modGrp t g f).tasks = s.tasks := rfl
@[simp] theorem State.modGrp_ptrs (s : State) (t g : Nat) (f : Group → Group) : (s.modGrp t g f).ptrs = s.ptrs := rfl
@[simp] theorem State.modGrp_coreTemp (s : State) (t g : Nat) (f : Group → Group) : (s.modGrp t g f).coreTemp = s.coreTemp := rfl
@[simp] theorem State.modGrp_coreDroop (s : State) (t g : Nat) (f : Group → Group) : (s.modGrp t g f).coreDroop = s.coreDroop := rfl
@[simp] theorem State.modGrp_spadUsers (s : State) (t g : Nat) (f : Group → Group) : (s.modGrp t g f).spadUsers = s.spadUsers := rfl
@[simp] theorem State.modGrp_notices (s : State) (t g : Nat) (f : Group → Group) : (s.modGrp t g f).notices = s.notices := rfl
@[simp] theorem State.modGrp_posted (s : State) (t g : Nat) (f : Group → Group) : (s.modGrp t g f).posted = s.posted := rfl
@[simp] theorem State.modGrp_upsets (s : State) (t g : Nat) (f : Group → Group) : (s.modGrp t g f).upsets = s.upsets := rfl

/-! ### State.modTeam -/

@[simp] theorem State.modTeam_cur (s : State) (t : Nat) (f : Team → Team) : (s.modTeam t f).cur = s.cur := rfl
@[simp] theorem State.modTeam_ev (s : State) (t : Nat) (f : Team → Team) : (s.modTeam t f).ev = s.ev := rfl
@[simp] theorem State.modTeam_evKey (s : State) (t : Nat) (f : Team → Team) : (s.modTeam t f).evKey = s.evKey := rfl
@[simp] theorem State.modTeam_tick (s : State) (t : Nat) (f : Team → Team) : (s.modTeam t f).tick = s.tick := rfl
@[simp] theorem State.modTeam_ncyc (s : State) (t : Nat) (f : Team → Team) : (s.modTeam t f).ncyc = s.ncyc := rfl
@[simp] theorem State.modTeam_acyc (s : State) (t : Nat) (f : Team → Team) : (s.modTeam t f).acyc = s.acyc := rfl
@[simp] theorem State.modTeam_agenda (s : State) (t : Nat) (f : Team → Team) : (s.modTeam t f).agenda = s.agenda := rfl
@[simp] theorem State.modTeam_sets (s : State) (t : Nat) (f : Team → Team) : (s.modTeam t f).sets = s.sets := rfl
@[simp] theorem State.modTeam_groups (s : State) (t : Nat) (f : Team → Team) : (s.modTeam t f).groups = s.groups := rfl
@[simp] theorem State.modTeam_threads (s : State) (t : Nat) (f : Team → Team) : (s.modTeam t f).threads = s.threads := rfl
@[simp] theorem State.modTeam_grids (s : State) (t : Nat) (f : Team → Team) : (s.modTeam t f).grids = s.grids := rfl
@[simp] theorem State.modTeam_clsh (s : State) (t : Nat) (f : Team → Team) : (s.modTeam t f).clsh = s.clsh := rfl
@[simp] theorem State.modTeam_left (s : State) (t : Nat) (f : Team → Team) : (s.modTeam t f).left = s.left := rfl
@[simp] theorem State.modTeam_pipes (s : State) (t : Nat) (f : Team → Team) : (s.modTeam t f).pipes = s.pipes := rfl
@[simp] theorem State.modTeam_slot (s : State) (t : Nat) (f : Team → Team) : (s.modTeam t f).slot = s.slot := rfl
@[simp] theorem State.modTeam_engAt (s : State) (t : Nat) (f : Team → Team) : (s.modTeam t f).engAt = s.engAt := rfl
@[simp] theorem State.modTeam_lsq (s : State) (t : Nat) (f : Team → Team) : (s.modTeam t f).lsq = s.lsq := rfl
@[simp] theorem State.modTeam_spanLast (s : State) (t : Nat) (f : Team → Team) : (s.modTeam t f).spanLast = s.spanLast := rfl
@[simp] theorem State.modTeam_failed (s : State) (t : Nat) (f : Team → Team) : (s.modTeam t f).failed = s.failed := rfl
@[simp] theorem State.modTeam_ctxs (s : State) (t : Nat) (f : Team → Team) : (s.modTeam t f).ctxs = s.ctxs := rfl
@[simp] theorem State.modTeam_rjto (s : State) (t : Nat) (f : Team → Team) : (s.modTeam t f).rjto = s.rjto := rfl
@[simp] theorem State.modTeam_lathi (s : State) (t : Nat) (f : Team → Team) : (s.modTeam t f).lathi = s.lathi := rfl
@[simp] theorem State.modTeam_latlo (s : State) (t : Nat) (f : Team → Team) : (s.modTeam t f).latlo = s.latlo := rfl
@[simp] theorem State.modTeam_mem (s : State) (t : Nat) (f : Team → Team) : (s.modTeam t f).mem = s.mem := rfl
@[simp] theorem State.modTeam_hmem (s : State) (t : Nat) (f : Team → Team) : (s.modTeam t f).hmem = s.hmem := rfl
@[simp] theorem State.modTeam_oldCode (s : State) (t : Nat) (f : Team → Team) : (s.modTeam t f).oldCode = s.oldCode := rfl
@[simp] theorem State.modTeam_bad (s : State) (t : Nat) (f : Team → Team) : (s.modTeam t f).bad = s.bad := rfl
@[simp] theorem State.modTeam_sbad (s : State) (t : Nat) (f : Team → Team) : (s.modTeam t f).sbad = s.sbad := rfl
@[simp] theorem State.modTeam_crossed (s : State) (t : Nat) (f : Team → Team) : (s.modTeam t f).crossed = s.crossed := rfl
@[simp] theorem State.modTeam_nextId (s : State) (t : Nat) (f : Team → Team) : (s.modTeam t f).nextId = s.nextId := rfl
@[simp] theorem State.modTeam_accs (s : State) (t : Nat) (f : Team → Team) : (s.modTeam t f).accs = s.accs := rfl
@[simp] theorem State.modTeam_tracks (s : State) (t : Nat) (f : Team → Team) : (s.modTeam t f).tracks = s.tracks := rfl
@[simp] theorem State.modTeam_wcs (s : State) (t : Nat) (f : Team → Team) : (s.modTeam t f).wcs = s.wcs := rfl
@[simp] theorem State.modTeam_l1 (s : State) (t : Nat) (f : Team → Team) : (s.modTeam t f).l1 = s.l1 := rfl
@[simp] theorem State.modTeam_slices (s : State) (t : Nat) (f : Team → Team) : (s.modTeam t f).slices = s.slices := rfl
@[simp] theorem State.modTeam_trees (s : State) (t : Nat) (f : Team → Team) : (s.modTeam t f).trees = s.trees := rfl
@[simp] theorem State.modTeam_msgs (s : State) (t : Nat) (f : Team → Team) : (s.modTeam t f).msgs = s.msgs := rfl
@[simp] theorem State.modTeam_combs (s : State) (t : Nat) (f : Team → Team) : (s.modTeam t f).combs = s.combs := rfl
@[simp] theorem State.modTeam_combSent (s : State) (t : Nat) (f : Team → Team) : (s.modTeam t f).combSent = s.combSent := rfl
@[simp] theorem State.modTeam_ords (s : State) (t : Nat) (f : Team → Team) : (s.modTeam t f).ords = s.ords := rfl
@[simp] theorem State.modTeam_ordHeld (s : State) (t : Nat) (f : Team → Team) : (s.modTeam t f).ordHeld = s.ordHeld := rfl
@[simp] theorem State.modTeam_plc (s : State) (t : Nat) (f : Team → Team) : (s.modTeam t f).plc = s.plc := rfl
@[simp] theorem State.modTeam_atc (s : State) (t : Nat) (f : Team → Team) : (s.modTeam t f).atc = s.atc := rfl
@[simp] theorem State.modTeam_tlb (s : State) (t : Nat) (f : Team → Team) : (s.modTeam t f).tlb = s.tlb := rfl
@[simp] theorem State.modTeam_maps (s : State) (t : Nat) (f : Team → Team) : (s.modTeam t f).maps = s.maps := rfl
@[simp] theorem State.modTeam_walks (s : State) (t : Nat) (f : Team → Team) : (s.modTeam t f).walks = s.walks := rfl
@[simp] theorem State.modTeam_zeroing (s : State) (t : Nat) (f : Team → Team) : (s.modTeam t f).zeroing = s.zeroing := rfl
@[simp] theorem State.modTeam_xlogs (s : State) (t : Nat) (f : Team → Team) : (s.modTeam t f).xlogs = s.xlogs := rfl
@[simp] theorem State.modTeam_hsect (s : State) (t : Nat) (f : Team → Team) : (s.modTeam t f).hsect = s.hsect := rfl
@[simp] theorem State.modTeam_objs (s : State) (t : Nat) (f : Team → Team) : (s.modTeam t f).objs = s.objs := rfl
@[simp] theorem State.modTeam_xfers (s : State) (t : Nat) (f : Team → Team) : (s.modTeam t f).xfers = s.xfers := rfl
@[simp] theorem State.modTeam_putxs (s : State) (t : Nat) (f : Team → Team) : (s.modTeam t f).putxs = s.putxs := rfl
@[simp] theorem State.modTeam_flips (s : State) (t : Nat) (f : Team → Team) : (s.modTeam t f).flips = s.flips := rfl
@[simp] theorem State.modTeam_bays (s : State) (t : Nat) (f : Team → Team) : (s.modTeam t f).bays = s.bays := rfl
@[simp] theorem State.modTeam_regs (s : State) (t : Nat) (f : Team → Team) : (s.modTeam t f).regs = s.regs := rfl
@[simp] theorem State.modTeam_ident (s : State) (t : Nat) (f : Team → Team) : (s.modTeam t f).ident = s.ident := rfl
@[simp] theorem State.modTeam_ops (s : State) (t : Nat) (f : Team → Team) : (s.modTeam t f).ops = s.ops := rfl
@[simp] theorem State.modTeam_doneOps (s : State) (t : Nat) (f : Team → Team) : (s.modTeam t f).doneOps = s.doneOps := rfl
@[simp] theorem State.modTeam_timed (s : State) (t : Nat) (f : Team → Team) : (s.modTeam t f).timed = s.timed := rfl
@[simp] theorem State.modTeam_firkin (s : State) (t : Nat) (f : Team → Team) : (s.modTeam t f).firkin = s.firkin := rfl
@[simp] theorem State.modTeam_arrays (s : State) (t : Nat) (f : Team → Team) : (s.modTeam t f).arrays = s.arrays := rfl
@[simp] theorem State.modTeam_runs (s : State) (t : Nat) (f : Team → Team) : (s.modTeam t f).runs = s.runs := rfl
@[simp] theorem State.modTeam_tasks (s : State) (t : Nat) (f : Team → Team) : (s.modTeam t f).tasks = s.tasks := rfl
@[simp] theorem State.modTeam_ptrs (s : State) (t : Nat) (f : Team → Team) : (s.modTeam t f).ptrs = s.ptrs := rfl
@[simp] theorem State.modTeam_coreTemp (s : State) (t : Nat) (f : Team → Team) : (s.modTeam t f).coreTemp = s.coreTemp := rfl
@[simp] theorem State.modTeam_coreDroop (s : State) (t : Nat) (f : Team → Team) : (s.modTeam t f).coreDroop = s.coreDroop := rfl
@[simp] theorem State.modTeam_spadUsers (s : State) (t : Nat) (f : Team → Team) : (s.modTeam t f).spadUsers = s.spadUsers := rfl
@[simp] theorem State.modTeam_notices (s : State) (t : Nat) (f : Team → Team) : (s.modTeam t f).notices = s.notices := rfl
@[simp] theorem State.modTeam_posted (s : State) (t : Nat) (f : Team → Team) : (s.modTeam t f).posted = s.posted := rfl
@[simp] theorem State.modTeam_upsets (s : State) (t : Nat) (f : Team → Team) : (s.modTeam t f).upsets = s.upsets := rfl

/-! ### State.modSet -/

@[simp] theorem State.modSet_cur (s : State) (t n : Nat) (f : GSet → GSet) : (s.modSet t n f).cur = s.cur := rfl
@[simp] theorem State.modSet_ev (s : State) (t n : Nat) (f : GSet → GSet) : (s.modSet t n f).ev = s.ev := rfl
@[simp] theorem State.modSet_evKey (s : State) (t n : Nat) (f : GSet → GSet) : (s.modSet t n f).evKey = s.evKey := rfl
@[simp] theorem State.modSet_tick (s : State) (t n : Nat) (f : GSet → GSet) : (s.modSet t n f).tick = s.tick := rfl
@[simp] theorem State.modSet_ncyc (s : State) (t n : Nat) (f : GSet → GSet) : (s.modSet t n f).ncyc = s.ncyc := rfl
@[simp] theorem State.modSet_acyc (s : State) (t n : Nat) (f : GSet → GSet) : (s.modSet t n f).acyc = s.acyc := rfl
@[simp] theorem State.modSet_agenda (s : State) (t n : Nat) (f : GSet → GSet) : (s.modSet t n f).agenda = s.agenda := rfl
@[simp] theorem State.modSet_teams (s : State) (t n : Nat) (f : GSet → GSet) : (s.modSet t n f).teams = s.teams := rfl
@[simp] theorem State.modSet_groups (s : State) (t n : Nat) (f : GSet → GSet) : (s.modSet t n f).groups = s.groups := rfl
@[simp] theorem State.modSet_threads (s : State) (t n : Nat) (f : GSet → GSet) : (s.modSet t n f).threads = s.threads := rfl
@[simp] theorem State.modSet_grids (s : State) (t n : Nat) (f : GSet → GSet) : (s.modSet t n f).grids = s.grids := rfl
@[simp] theorem State.modSet_clsh (s : State) (t n : Nat) (f : GSet → GSet) : (s.modSet t n f).clsh = s.clsh := rfl
@[simp] theorem State.modSet_left (s : State) (t n : Nat) (f : GSet → GSet) : (s.modSet t n f).left = s.left := rfl
@[simp] theorem State.modSet_pipes (s : State) (t n : Nat) (f : GSet → GSet) : (s.modSet t n f).pipes = s.pipes := rfl
@[simp] theorem State.modSet_slot (s : State) (t n : Nat) (f : GSet → GSet) : (s.modSet t n f).slot = s.slot := rfl
@[simp] theorem State.modSet_engAt (s : State) (t n : Nat) (f : GSet → GSet) : (s.modSet t n f).engAt = s.engAt := rfl
@[simp] theorem State.modSet_lsq (s : State) (t n : Nat) (f : GSet → GSet) : (s.modSet t n f).lsq = s.lsq := rfl
@[simp] theorem State.modSet_spanLast (s : State) (t n : Nat) (f : GSet → GSet) : (s.modSet t n f).spanLast = s.spanLast := rfl
@[simp] theorem State.modSet_failed (s : State) (t n : Nat) (f : GSet → GSet) : (s.modSet t n f).failed = s.failed := rfl
@[simp] theorem State.modSet_ctxs (s : State) (t n : Nat) (f : GSet → GSet) : (s.modSet t n f).ctxs = s.ctxs := rfl
@[simp] theorem State.modSet_rjto (s : State) (t n : Nat) (f : GSet → GSet) : (s.modSet t n f).rjto = s.rjto := rfl
@[simp] theorem State.modSet_lathi (s : State) (t n : Nat) (f : GSet → GSet) : (s.modSet t n f).lathi = s.lathi := rfl
@[simp] theorem State.modSet_latlo (s : State) (t n : Nat) (f : GSet → GSet) : (s.modSet t n f).latlo = s.latlo := rfl
@[simp] theorem State.modSet_mem (s : State) (t n : Nat) (f : GSet → GSet) : (s.modSet t n f).mem = s.mem := rfl
@[simp] theorem State.modSet_hmem (s : State) (t n : Nat) (f : GSet → GSet) : (s.modSet t n f).hmem = s.hmem := rfl
@[simp] theorem State.modSet_oldCode (s : State) (t n : Nat) (f : GSet → GSet) : (s.modSet t n f).oldCode = s.oldCode := rfl
@[simp] theorem State.modSet_bad (s : State) (t n : Nat) (f : GSet → GSet) : (s.modSet t n f).bad = s.bad := rfl
@[simp] theorem State.modSet_sbad (s : State) (t n : Nat) (f : GSet → GSet) : (s.modSet t n f).sbad = s.sbad := rfl
@[simp] theorem State.modSet_crossed (s : State) (t n : Nat) (f : GSet → GSet) : (s.modSet t n f).crossed = s.crossed := rfl
@[simp] theorem State.modSet_nextId (s : State) (t n : Nat) (f : GSet → GSet) : (s.modSet t n f).nextId = s.nextId := rfl
@[simp] theorem State.modSet_accs (s : State) (t n : Nat) (f : GSet → GSet) : (s.modSet t n f).accs = s.accs := rfl
@[simp] theorem State.modSet_tracks (s : State) (t n : Nat) (f : GSet → GSet) : (s.modSet t n f).tracks = s.tracks := rfl
@[simp] theorem State.modSet_wcs (s : State) (t n : Nat) (f : GSet → GSet) : (s.modSet t n f).wcs = s.wcs := rfl
@[simp] theorem State.modSet_l1 (s : State) (t n : Nat) (f : GSet → GSet) : (s.modSet t n f).l1 = s.l1 := rfl
@[simp] theorem State.modSet_slices (s : State) (t n : Nat) (f : GSet → GSet) : (s.modSet t n f).slices = s.slices := rfl
@[simp] theorem State.modSet_trees (s : State) (t n : Nat) (f : GSet → GSet) : (s.modSet t n f).trees = s.trees := rfl
@[simp] theorem State.modSet_msgs (s : State) (t n : Nat) (f : GSet → GSet) : (s.modSet t n f).msgs = s.msgs := rfl
@[simp] theorem State.modSet_combs (s : State) (t n : Nat) (f : GSet → GSet) : (s.modSet t n f).combs = s.combs := rfl
@[simp] theorem State.modSet_combSent (s : State) (t n : Nat) (f : GSet → GSet) : (s.modSet t n f).combSent = s.combSent := rfl
@[simp] theorem State.modSet_ords (s : State) (t n : Nat) (f : GSet → GSet) : (s.modSet t n f).ords = s.ords := rfl
@[simp] theorem State.modSet_ordHeld (s : State) (t n : Nat) (f : GSet → GSet) : (s.modSet t n f).ordHeld = s.ordHeld := rfl
@[simp] theorem State.modSet_plc (s : State) (t n : Nat) (f : GSet → GSet) : (s.modSet t n f).plc = s.plc := rfl
@[simp] theorem State.modSet_atc (s : State) (t n : Nat) (f : GSet → GSet) : (s.modSet t n f).atc = s.atc := rfl
@[simp] theorem State.modSet_tlb (s : State) (t n : Nat) (f : GSet → GSet) : (s.modSet t n f).tlb = s.tlb := rfl
@[simp] theorem State.modSet_maps (s : State) (t n : Nat) (f : GSet → GSet) : (s.modSet t n f).maps = s.maps := rfl
@[simp] theorem State.modSet_walks (s : State) (t n : Nat) (f : GSet → GSet) : (s.modSet t n f).walks = s.walks := rfl
@[simp] theorem State.modSet_zeroing (s : State) (t n : Nat) (f : GSet → GSet) : (s.modSet t n f).zeroing = s.zeroing := rfl
@[simp] theorem State.modSet_xlogs (s : State) (t n : Nat) (f : GSet → GSet) : (s.modSet t n f).xlogs = s.xlogs := rfl
@[simp] theorem State.modSet_hsect (s : State) (t n : Nat) (f : GSet → GSet) : (s.modSet t n f).hsect = s.hsect := rfl
@[simp] theorem State.modSet_objs (s : State) (t n : Nat) (f : GSet → GSet) : (s.modSet t n f).objs = s.objs := rfl
@[simp] theorem State.modSet_xfers (s : State) (t n : Nat) (f : GSet → GSet) : (s.modSet t n f).xfers = s.xfers := rfl
@[simp] theorem State.modSet_putxs (s : State) (t n : Nat) (f : GSet → GSet) : (s.modSet t n f).putxs = s.putxs := rfl
@[simp] theorem State.modSet_flips (s : State) (t n : Nat) (f : GSet → GSet) : (s.modSet t n f).flips = s.flips := rfl
@[simp] theorem State.modSet_bays (s : State) (t n : Nat) (f : GSet → GSet) : (s.modSet t n f).bays = s.bays := rfl
@[simp] theorem State.modSet_regs (s : State) (t n : Nat) (f : GSet → GSet) : (s.modSet t n f).regs = s.regs := rfl
@[simp] theorem State.modSet_ident (s : State) (t n : Nat) (f : GSet → GSet) : (s.modSet t n f).ident = s.ident := rfl
@[simp] theorem State.modSet_ops (s : State) (t n : Nat) (f : GSet → GSet) : (s.modSet t n f).ops = s.ops := rfl
@[simp] theorem State.modSet_doneOps (s : State) (t n : Nat) (f : GSet → GSet) : (s.modSet t n f).doneOps = s.doneOps := rfl
@[simp] theorem State.modSet_timed (s : State) (t n : Nat) (f : GSet → GSet) : (s.modSet t n f).timed = s.timed := rfl
@[simp] theorem State.modSet_firkin (s : State) (t n : Nat) (f : GSet → GSet) : (s.modSet t n f).firkin = s.firkin := rfl
@[simp] theorem State.modSet_arrays (s : State) (t n : Nat) (f : GSet → GSet) : (s.modSet t n f).arrays = s.arrays := rfl
@[simp] theorem State.modSet_runs (s : State) (t n : Nat) (f : GSet → GSet) : (s.modSet t n f).runs = s.runs := rfl
@[simp] theorem State.modSet_tasks (s : State) (t n : Nat) (f : GSet → GSet) : (s.modSet t n f).tasks = s.tasks := rfl
@[simp] theorem State.modSet_ptrs (s : State) (t n : Nat) (f : GSet → GSet) : (s.modSet t n f).ptrs = s.ptrs := rfl
@[simp] theorem State.modSet_coreTemp (s : State) (t n : Nat) (f : GSet → GSet) : (s.modSet t n f).coreTemp = s.coreTemp := rfl
@[simp] theorem State.modSet_coreDroop (s : State) (t n : Nat) (f : GSet → GSet) : (s.modSet t n f).coreDroop = s.coreDroop := rfl
@[simp] theorem State.modSet_spadUsers (s : State) (t n : Nat) (f : GSet → GSet) : (s.modSet t n f).spadUsers = s.spadUsers := rfl
@[simp] theorem State.modSet_notices (s : State) (t n : Nat) (f : GSet → GSet) : (s.modSet t n f).notices = s.notices := rfl
@[simp] theorem State.modSet_posted (s : State) (t n : Nat) (f : GSet → GSet) : (s.modSet t n f).posted = s.posted := rfl
@[simp] theorem State.modSet_upsets (s : State) (t n : Nat) (f : GSet → GSet) : (s.modSet t n f).upsets = s.upsets := rfl

/-! ### State.setS -/

@[simp] theorem State.setS_cur (s : State) (t g n v : Nat) : (s.setS t g n v).cur = s.cur := rfl
@[simp] theorem State.setS_ev (s : State) (t g n v : Nat) : (s.setS t g n v).ev = s.ev := rfl
@[simp] theorem State.setS_evKey (s : State) (t g n v : Nat) : (s.setS t g n v).evKey = s.evKey := rfl
@[simp] theorem State.setS_tick (s : State) (t g n v : Nat) : (s.setS t g n v).tick = s.tick := rfl
@[simp] theorem State.setS_ncyc (s : State) (t g n v : Nat) : (s.setS t g n v).ncyc = s.ncyc := rfl
@[simp] theorem State.setS_acyc (s : State) (t g n v : Nat) : (s.setS t g n v).acyc = s.acyc := rfl
@[simp] theorem State.setS_agenda (s : State) (t g n v : Nat) : (s.setS t g n v).agenda = s.agenda := rfl
@[simp] theorem State.setS_teams (s : State) (t g n v : Nat) : (s.setS t g n v).teams = s.teams := rfl
@[simp] theorem State.setS_sets (s : State) (t g n v : Nat) : (s.setS t g n v).sets = s.sets := rfl
@[simp] theorem State.setS_threads (s : State) (t g n v : Nat) : (s.setS t g n v).threads = s.threads := rfl
@[simp] theorem State.setS_grids (s : State) (t g n v : Nat) : (s.setS t g n v).grids = s.grids := rfl
@[simp] theorem State.setS_clsh (s : State) (t g n v : Nat) : (s.setS t g n v).clsh = s.clsh := rfl
@[simp] theorem State.setS_left (s : State) (t g n v : Nat) : (s.setS t g n v).left = s.left := rfl
@[simp] theorem State.setS_pipes (s : State) (t g n v : Nat) : (s.setS t g n v).pipes = s.pipes := rfl
@[simp] theorem State.setS_slot (s : State) (t g n v : Nat) : (s.setS t g n v).slot = s.slot := rfl
@[simp] theorem State.setS_engAt (s : State) (t g n v : Nat) : (s.setS t g n v).engAt = s.engAt := rfl
@[simp] theorem State.setS_lsq (s : State) (t g n v : Nat) : (s.setS t g n v).lsq = s.lsq := rfl
@[simp] theorem State.setS_spanLast (s : State) (t g n v : Nat) : (s.setS t g n v).spanLast = s.spanLast := rfl
@[simp] theorem State.setS_failed (s : State) (t g n v : Nat) : (s.setS t g n v).failed = s.failed := rfl
@[simp] theorem State.setS_ctxs (s : State) (t g n v : Nat) : (s.setS t g n v).ctxs = s.ctxs := rfl
@[simp] theorem State.setS_rjto (s : State) (t g n v : Nat) : (s.setS t g n v).rjto = s.rjto := rfl
@[simp] theorem State.setS_lathi (s : State) (t g n v : Nat) : (s.setS t g n v).lathi = s.lathi := rfl
@[simp] theorem State.setS_latlo (s : State) (t g n v : Nat) : (s.setS t g n v).latlo = s.latlo := rfl
@[simp] theorem State.setS_mem (s : State) (t g n v : Nat) : (s.setS t g n v).mem = s.mem := rfl
@[simp] theorem State.setS_hmem (s : State) (t g n v : Nat) : (s.setS t g n v).hmem = s.hmem := rfl
@[simp] theorem State.setS_oldCode (s : State) (t g n v : Nat) : (s.setS t g n v).oldCode = s.oldCode := rfl
@[simp] theorem State.setS_bad (s : State) (t g n v : Nat) : (s.setS t g n v).bad = s.bad := rfl
@[simp] theorem State.setS_sbad (s : State) (t g n v : Nat) : (s.setS t g n v).sbad = s.sbad := rfl
@[simp] theorem State.setS_crossed (s : State) (t g n v : Nat) : (s.setS t g n v).crossed = s.crossed := rfl
@[simp] theorem State.setS_nextId (s : State) (t g n v : Nat) : (s.setS t g n v).nextId = s.nextId := rfl
@[simp] theorem State.setS_accs (s : State) (t g n v : Nat) : (s.setS t g n v).accs = s.accs := rfl
@[simp] theorem State.setS_tracks (s : State) (t g n v : Nat) : (s.setS t g n v).tracks = s.tracks := rfl
@[simp] theorem State.setS_wcs (s : State) (t g n v : Nat) : (s.setS t g n v).wcs = s.wcs := rfl
@[simp] theorem State.setS_l1 (s : State) (t g n v : Nat) : (s.setS t g n v).l1 = s.l1 := rfl
@[simp] theorem State.setS_slices (s : State) (t g n v : Nat) : (s.setS t g n v).slices = s.slices := rfl
@[simp] theorem State.setS_trees (s : State) (t g n v : Nat) : (s.setS t g n v).trees = s.trees := rfl
@[simp] theorem State.setS_msgs (s : State) (t g n v : Nat) : (s.setS t g n v).msgs = s.msgs := rfl
@[simp] theorem State.setS_combs (s : State) (t g n v : Nat) : (s.setS t g n v).combs = s.combs := rfl
@[simp] theorem State.setS_combSent (s : State) (t g n v : Nat) : (s.setS t g n v).combSent = s.combSent := rfl
@[simp] theorem State.setS_ords (s : State) (t g n v : Nat) : (s.setS t g n v).ords = s.ords := rfl
@[simp] theorem State.setS_ordHeld (s : State) (t g n v : Nat) : (s.setS t g n v).ordHeld = s.ordHeld := rfl
@[simp] theorem State.setS_plc (s : State) (t g n v : Nat) : (s.setS t g n v).plc = s.plc := rfl
@[simp] theorem State.setS_atc (s : State) (t g n v : Nat) : (s.setS t g n v).atc = s.atc := rfl
@[simp] theorem State.setS_tlb (s : State) (t g n v : Nat) : (s.setS t g n v).tlb = s.tlb := rfl
@[simp] theorem State.setS_maps (s : State) (t g n v : Nat) : (s.setS t g n v).maps = s.maps := rfl
@[simp] theorem State.setS_walks (s : State) (t g n v : Nat) : (s.setS t g n v).walks = s.walks := rfl
@[simp] theorem State.setS_zeroing (s : State) (t g n v : Nat) : (s.setS t g n v).zeroing = s.zeroing := rfl
@[simp] theorem State.setS_xlogs (s : State) (t g n v : Nat) : (s.setS t g n v).xlogs = s.xlogs := rfl
@[simp] theorem State.setS_hsect (s : State) (t g n v : Nat) : (s.setS t g n v).hsect = s.hsect := rfl
@[simp] theorem State.setS_objs (s : State) (t g n v : Nat) : (s.setS t g n v).objs = s.objs := rfl
@[simp] theorem State.setS_xfers (s : State) (t g n v : Nat) : (s.setS t g n v).xfers = s.xfers := rfl
@[simp] theorem State.setS_putxs (s : State) (t g n v : Nat) : (s.setS t g n v).putxs = s.putxs := rfl
@[simp] theorem State.setS_flips (s : State) (t g n v : Nat) : (s.setS t g n v).flips = s.flips := rfl
@[simp] theorem State.setS_bays (s : State) (t g n v : Nat) : (s.setS t g n v).bays = s.bays := rfl
@[simp] theorem State.setS_regs (s : State) (t g n v : Nat) : (s.setS t g n v).regs = s.regs := rfl
@[simp] theorem State.setS_ident (s : State) (t g n v : Nat) : (s.setS t g n v).ident = s.ident := rfl
@[simp] theorem State.setS_ops (s : State) (t g n v : Nat) : (s.setS t g n v).ops = s.ops := rfl
@[simp] theorem State.setS_doneOps (s : State) (t g n v : Nat) : (s.setS t g n v).doneOps = s.doneOps := rfl
@[simp] theorem State.setS_timed (s : State) (t g n v : Nat) : (s.setS t g n v).timed = s.timed := rfl
@[simp] theorem State.setS_firkin (s : State) (t g n v : Nat) : (s.setS t g n v).firkin = s.firkin := rfl
@[simp] theorem State.setS_arrays (s : State) (t g n v : Nat) : (s.setS t g n v).arrays = s.arrays := rfl
@[simp] theorem State.setS_runs (s : State) (t g n v : Nat) : (s.setS t g n v).runs = s.runs := rfl
@[simp] theorem State.setS_tasks (s : State) (t g n v : Nat) : (s.setS t g n v).tasks = s.tasks := rfl
@[simp] theorem State.setS_ptrs (s : State) (t g n v : Nat) : (s.setS t g n v).ptrs = s.ptrs := rfl
@[simp] theorem State.setS_coreTemp (s : State) (t g n v : Nat) : (s.setS t g n v).coreTemp = s.coreTemp := rfl
@[simp] theorem State.setS_coreDroop (s : State) (t g n v : Nat) : (s.setS t g n v).coreDroop = s.coreDroop := rfl
@[simp] theorem State.setS_spadUsers (s : State) (t g n v : Nat) : (s.setS t g n v).spadUsers = s.spadUsers := rfl
@[simp] theorem State.setS_notices (s : State) (t g n v : Nat) : (s.setS t g n v).notices = s.notices := rfl
@[simp] theorem State.setS_posted (s : State) (t g n v : Nat) : (s.setS t g n v).posted = s.posted := rfl
@[simp] theorem State.setS_upsets (s : State) (t g n v : Nat) : (s.setS t g n v).upsets = s.upsets := rfl

/-! ### The changed fields -/

@[simp] theorem State.fresh_tick (s : State) : s.fresh.tick = s.tick + 1 := rfl
@[simp] theorem State.push_agenda (s : State) (e : Instr) (a : EvArg) : (s.push e a).agenda = s.agenda ++ [⟨e, a, s.ncyc, 0⟩] := rfl
@[simp] theorem State.setThr_threads (s : State) (k : TKey) (t : Thread) : (s.setThr k t).threads = s.threads.set k t := rfl
theorem State.modThr_threads (s : State) (k : TKey) (f : Thread → Thread) : (s.modThr k f).threads = s.threads.set k (f (s.thr k)) := rfl
theorem State.modGrp_groups (s : State) (t g : Nat) (f : Group → Group) : (s.modGrp t g f).groups = s.groups.set (t, g) (f (s.grp t g)) := rfl
theorem State.modTeam_teams (s : State) (t : Nat) (f : Team → Team) : (s.modTeam t f).teams = s.teams.set t (f (s.team t)) := rfl
theorem State.modSet_sets (s : State) (t n : Nat) (f : GSet → GSet) : (s.modSet t n f).sets = s.sets.set (t, n) (f (s.gset t n)) := rfl

end Sys2Proof.Machine
end

