-- ==== Sys2Proof/Laws/Tables.lean ====
section
/-! SUPPORT. Keyed tables, and the threads, groups, teams and sets that a state holds in them: reading after writing. -/

namespace Sys2Proof.Machine

variable {κ α : Type} [DecidableEq κ]

/-- A key reads as it was written. -/
@[simp] theorem Tbl.get?_set_same (t : Tbl κ α) (k : κ) (v : α) : (Tbl.set t k v).get? k = some v := by
  induction t with
  | nil => simp [Tbl.set, Tbl.get?]
  | cons e t ih =>
    obtain ⟨k', w⟩ := e
    by_cases h : k' = k <;> simp [Tbl.set, Tbl.get?, h, ih]

/-- Writing one key leaves the others. -/
theorem Tbl.get?_set_other (t : Tbl κ α) {k q : κ} (v : α) (h : k ≠ q) : (Tbl.set t k v).get? q = t.get? q := by
  induction t with
  | nil => simp [Tbl.set, Tbl.get?, h]
  | cons e t ih =>
    obtain ⟨k', w⟩ := e
    by_cases h' : k' = k
    · subst h'
      simp [Tbl.set, Tbl.get?, h]
    · simp only [Tbl.set, if_neg h', Tbl.get?, ih]

@[simp] theorem Tbl.getD_set_same (t : Tbl κ α) (k : κ) (v d : α) : (Tbl.set t k v).getD k d = v := by
  simp [Tbl.getD]

theorem Tbl.getD_set_other (t : Tbl κ α) {k q : κ} (v d : α) (h : k ≠ q) : (Tbl.set t k v).getD q d = t.getD q d := by
  simp [Tbl.getD, Tbl.get?_set_other t v h]

/-! ### Threads, groups, teams and sets -/

@[simp] theorem State.thr_setThr_same (s : State) (k : TKey) (t : Thread) : (s.setThr k t).thr k = t := by
  simp [State.thr]

theorem State.thr_setThr_other (s : State) {k q : TKey} (t : Thread) (h : k ≠ q) : (s.setThr k t).thr q = s.thr q := by
  simp [State.thr, Tbl.getD_set_other _ _ _ h]

@[simp] theorem State.thr_modThr_same (s : State) (k : TKey) (f : Thread → Thread) : (s.modThr k f).thr k = f (s.thr k) := by
  simp [State.modThr]

theorem State.thr_modThr_other (s : State) {k q : TKey} (f : Thread → Thread) (h : k ≠ q) : (s.modThr k f).thr q = s.thr q := by
  simp [State.modThr, State.thr_setThr_other _ _ h]

@[simp] theorem State.thr_modGrp (s : State) (t g : Nat) (f : Group → Group) (k : TKey) : (s.modGrp t g f).thr k = s.thr k := rfl
@[simp] theorem State.grp_setThr (s : State) (k : TKey) (x : Thread) (t g : Nat) : (s.setThr k x).grp t g = s.grp t g := rfl
@[simp] theorem State.grp_modThr (s : State) (k : TKey) (f : Thread → Thread) (t g : Nat) : (s.modThr k f).grp t g = s.grp t g := rfl

@[simp] theorem State.grp_modGrp_same (s : State) (t g : Nat) (f : Group → Group) : (s.modGrp t g f).grp t g = f (s.grp t g) := by
  simp [State.grp, State.modGrp_groups]

theorem State.grp_modGrp_other (s : State) {t g t' g' : Nat} (f : Group → Group) (h : (t, g) ≠ (t', g')) :
    (s.modGrp t g f).grp t' g' = s.grp t' g' := by
  simp [State.grp, State.modGrp_groups, Tbl.getD_set_other _ _ _ h]

@[simp] theorem State.team_modTeam_same (s : State) (t : Nat) (f : Team → Team) : (s.modTeam t f).team t = f (s.team t) := by
  simp [State.team, State.modTeam_teams]

theorem State.team_modTeam_other (s : State) {t q : Nat} (f : Team → Team) (h : t ≠ q) : (s.modTeam t f).team q = s.team q := by
  simp [State.team, State.modTeam_teams, Tbl.getD_set_other _ _ _ h]

@[simp] theorem State.gset_modSet_same (s : State) (t n : Nat) (f : GSet → GSet) : (s.modSet t n f).gset t n = f (s.gset t n) := by
  simp [State.gset, State.modSet_sets]

theorem State.gset_modSet_other (s : State) {t n t' n' : Nat} (f : GSet → GSet) (h : (t, n) ≠ (t', n')) :
    (s.modSet t n f).gset t' n' = s.gset t' n' := by
  simp [State.gset, State.modSet_sets, Tbl.getD_set_other _ _ _ h]

/-! ### Registers of a thread -/

@[simp] theorem Thread.abs_setAbs_same (t : Thread) (n : Nat) (v : Word) (p : Bool) : (t.setAbs n v p).abs n = ⟨v, p⟩ := by
  simp [Thread.abs, Thread.setAbs]

/-- Absolute registers of different stack slots are different registers (R168). -/
theorem Thread.abs_setAbs_other (t : Thread) {n m : Nat} (v : Word) (p : Bool) (h : n % t.depth ≠ m % t.depth) :
    (t.setAbs n v p).abs m = t.abs m := by
  simp [Thread.abs, Thread.setAbs, Tbl.getD_set_other _ _ _ h]

/-- A thread with another program counter. -/
@[simp] theorem Thread.abs_pc (t : Thread) (p n : Nat) : ({ t with pc := p } : Thread).abs n = t.abs n := rfl

/-- Predicate p7 is always true (R172). -/
@[simp] theorem Thread.pred_seven (t : Thread) : t.pred 7 = true := rfl

/-- A write to p7 is ignored (R172). -/
@[simp] theorem Thread.setPred_seven (t : Thread) (b : Bool) : t.setPred 7 b = t := rfl

end Sys2Proof.Machine
end

