-- ==== Sys2Proof/Laws/Issue.lean ====
section
/-! SUPPORT. Issue at lane and group scope: an issue set that nothing holds has exactly its instruction's effect, after the bookkeeping of its slot. -/

namespace Sys2Proof.Machine

/-! ### Changing every thread of an issue set -/

theorem State.thr_modThrs_other (s : State) (t g : Nat) (l : List Nat) (f : Thread → Thread) {k : TKey}
    (h : ∀ i ∈ l, k ≠ (t, g, i)) : (s.modThrs t g l f).thr k = s.thr k := by
  induction l generalizing s with
  | nil => rfl
  | cons i l ih =>
    have hk : k ≠ (t, g, i) := h i List.mem_cons_self
    have : (s.modThrs t g (i :: l) f) = (s.modThr (t, g, i) f).modThrs t g l f := rfl
    rw [this, ih _ (fun j hj => h j (List.mem_cons_of_mem _ hj)), State.thr_modThr_other _ _ (Ne.symm hk)]

theorem State.thr_modThrs_mem (s : State) (t g : Nat) (l : List Nat) (f : Thread → Thread) (hn : l.Nodup) {i : Nat} (hi : i ∈ l) :
    (s.modThrs t g l f).thr (t, g, i) = f (s.thr (t, g, i)) := by
  induction l generalizing s with
  | nil => cases hi
  | cons j l ih =>
    have e : (s.modThrs t g (j :: l) f) = (s.modThr (t, g, j) f).modThrs t g l f := rfl
    obtain ⟨hj, hl⟩ := List.nodup_cons.1 hn
    rw [e]
    by_cases hij : i = j
    · subst hij
      rw [State.thr_modThrs_other _ _ _ _ _ (fun k hk h => hj (by simp only [Prod.mk.injEq, true_and] at h; exact h ▸ hk)),
        State.thr_modThr_same]
    · have hil : i ∈ l := (List.mem_cons.1 hi).resolve_left hij
      rw [ih _ hl hil, State.thr_modThr_other _ _ (by simp [Ne.symm hij])]

/-- Changing threads changes nothing else. -/
theorem State.modThrs_eq (s : State) (t g : Nat) (l : List Nat) (f : Thread → Thread) :
    s.modThrs t g l f = { s with threads := (s.modThrs t g l f).threads } := by
  induction l generalizing s with
  | nil => rfl
  | cons i l ih =>
    have e : (s.modThrs t g (i :: l) f) = (s.modThr (t, g, i) f).modThrs t g l f := rfl
    rw [e, ih]
    rfl

@[simp] theorem State.grp_modThrs (s : State) (t g : Nat) (l : List Nat) (f : Thread → Thread) (t' g' : Nat) :
    (s.modThrs t g l f).grp t' g' = s.grp t' g' := by
  rw [State.modThrs_eq]; rfl

/-! ### The bookkeeping of a slot -/

/-- What the bookkeeping of an issue may change: the groups, and what the engines of the core hold. -/
structure Booked (s t : State) : Prop where
  rest : t = { s with groups := t.groups, pipes := t.pipes, lsq := t.lsq, slot := t.slot, engAt := t.engAt }

theorem Booked.refl (s : State) : Booked s s := ⟨rfl⟩

theorem Booked.trans {s t u : State} (h : Booked s t) (h' : Booked t u) : Booked s u := ⟨by rw [h'.rest, h.rest]⟩

theorem Booked.thr {s t : State} (h : Booked s t) (k : TKey) : t.thr k = s.thr k := by rw [h.rest]; rfl

theorem Booked.modGrp (s : State) (t g : Nat) (f : Group → Group) : Booked s (s.modGrp t g f) := ⟨rfl⟩

theorem Booked.foldl {α : Type} (f : State → α → State) (hf : ∀ s a, Booked s (f s a)) (l : List α) (s : State) : Booked s (l.foldl f s) := by
  induction l generalizing s with
  | nil => exact .refl s
  | cons a l ih => exact (hf s a).trans (ih _)

theorem takeEngine_booked (c : Ctx) (gs : List Nat) (s : State) : Booked s (takeEngine c gs s) := by
  unfold takeEngine
  dsimp only
  split
  · exact ⟨rfl⟩
  · split <;> exact ⟨rfl⟩

@[simp] theorem takeEngine_groups (c : Ctx) (gs : List Nat) (s : State) : (takeEngine c gs s).groups = s.groups := by
  unfold takeEngine
  dsimp only
  split
  · rfl
  · split <;> rfl

@[simp] theorem grp_takeEngine (c : Ctx) (gs : List Nat) (s : State) (t g : Nat) : (takeEngine c gs s).grp t g = s.grp t g := by
  simp [State.grp]

theorem commitAll_booked (ms : List (Nat × List Nat)) (c : Ctx) (s : State) : Booked s (commitAll ms c s) := by
  unfold commitAll
  split
  · exact .refl s
  · exact (takeEngine_booked _ _ _).trans (.foldl _ (fun _ _ => .modGrp _ _ _ _) _ _)

theorem commit_booked (c : Ctx) (s : State) : Booked s (commit c s) := commitAll_booked _ c s

@[simp] theorem thr_commit (c : Ctx) (s : State) (k : TKey) : (commit c s).thr k = s.thr k := (commit_booked c s).thr k

theorem sigAt_booked (t : Nat) (gs : List Nat) (k due : Nat) (s : State) : Booked s (sigAt t gs k due s) := by
  unfold sigAt
  split
  · exact .refl s
  · exact .foldl _ (fun _ _ => .modGrp _ _ _ _) _ _

theorem signal_booked (l : Desc) (c : Ctx) (gs : List Nat) (s : State) : Booked s (signal l c gs s) := by
  unfold signal
  split
  · exact .refl s
  · exact sigAt_booked _ _ _ _ _

/-- A group's record after the bookkeeping of an issue: the stall and yield hints, AGE and its moment, the passes, the last pipe, the counters that are signalled, and the record of an earlier `.part` instance. -/
def Group.Booked (G H : Group) : Prop :=
  H = { G with stallUntil := H.stallUntil, skip := H.skip, passed := H.passed, age := H.age, ageAt := H.ageAt, lastPipe := H.lastPipe,
               sigDue := H.sigDue, part := H.part }

theorem Group.Booked.refl (G : Group) : G.Booked G := rfl

theorem Group.Booked.trans {G H K : Group} (h : G.Booked H) (h' : H.Booked K) : G.Booked K := by
  unfold Group.Booked at *
  rw [h', h]

theorem grp_modGrp_booked {f : Group → Group} (hf : ∀ G : Group, G.Booked (f G)) (s : State) (t g a b : Nat) :
    (s.grp a b).Booked ((s.modGrp t g f).grp a b) := by
  by_cases h : (t, g) = (a, b)
  · have h1 := h
    simp only [Prod.mk.injEq] at h1
    obtain ⟨rfl, rfl⟩ := h1
    rw [State.grp_modGrp_same]
    exact hf _
  · rw [State.grp_modGrp_other _ _ h]
    exact .refl _

theorem grp_foldl_booked {α : Type} (f : State → α → State) (hf : ∀ (s : State) x a b, (s.grp a b).Booked ((f s x).grp a b)) (l : List α) (s : State)
    (a b : Nat) : (s.grp a b).Booked ((l.foldl f s).grp a b) := by
  induction l generalizing s with
  | nil => exact .refl _
  | cons x l ih => exact (hf s x a b).trans (ih _)

theorem grp_commitAll (ms : List (Nat × List Nat)) (c : Ctx) (s : State) (a b : Nat) : (s.grp a b).Booked ((commitAll ms c s).grp a b) := by
  unfold commitAll
  split
  · exact .refl _
  · refine (grp_takeEngine c (ms.map Prod.fst) s a b ▸ grp_foldl_booked _ ?_ ms _ a b)
    intro s x a b
    exact grp_modGrp_booked (fun _ => by unfold Group.Booked; rfl) s _ _ a b

theorem grp_sigAt (t : Nat) (gs : List Nat) (k due : Nat) (s : State) (a b : Nat) : (s.grp a b).Booked ((sigAt t gs k due s).grp a b) := by
  unfold sigAt
  split
  · exact .refl _
  · exact grp_foldl_booked _ (fun s x a b => grp_modGrp_booked (fun _ => by unfold Group.Booked; rfl) s _ _ a b) _ _ a b

theorem grp_signal (l : Desc) (c : Ctx) (gs : List Nat) (s : State) (a b : Nat) : (s.grp a b).Booked ((signal l c gs s).grp a b) := by
  unfold signal
  split
  · exact .refl _
  · exact grp_sigAt _ _ _ _ _ a b

theorem grp_dropPart (c : Ctx) (s : State) (a b : Nat) : (s.grp a b).Booked ((dropPart c s).grp a b) := by
  unfold dropPart
  dsimp only
  split
  · exact .refl _
  · exact grp_modGrp_booked (fun _ => by unfold Group.Booked; rfl) s _ _ a b

theorem dropPart_booked (c : Ctx) (s : State) : Booked s (dropPart c s) := by
  unfold dropPart
  dsimp only
  split
  · exact .refl s
  · exact .modGrp _ _ _ _

/-- The state before the threads of the issue set move on. -/
theorem settled_pre (n : Sys2Proof.Need) (c : Ctx) (s : State) :
    Booked s (signal n.desc c [c.group] (commit c (if 2 ≤ c.h.scope then dropPart c s else s))) := by
  refine ((?_ : Booked s _).trans (commit_booked _ _)).trans (signal_booked _ _ _ _)
  split
  · exact dropPart_booked c s
  · exact .refl s

theorem settled_eq (n : Sys2Proof.Need) (c : Ctx) (s : State) :
    ∃ t, Booked s t ∧ Sys2Proof.settled n c s = { t with threads := (Sys2Proof.settled n c s).threads } := by
  refine ⟨_, settled_pre n c s, ?_⟩
  unfold Sys2Proof.settled advance
  rw [State.modThrs_eq]

theorem thr_settled_mem (n : Sys2Proof.Need) (c : Ctx) (s : State) (hn : c.set.Nodup) {l : Nat} (hl : l ∈ c.set) :
    (Sys2Proof.settled n c s).thr (c.key l) = { s.thr (c.key l) with pc := (c.pc + 12) % 2 ^ 64 } := by
  unfold Sys2Proof.settled advance Ctx.key
  rw [State.thr_modThrs_mem _ _ _ _ _ hn hl, (settled_pre n c s).thr]

theorem thr_settled_other (n : Sys2Proof.Need) (c : Ctx) (s : State) {k : TKey} (h : ∀ l ∈ c.set, k ≠ c.key l) :
    (Sys2Proof.settled n c s).thr k = s.thr k := by
  unfold Sys2Proof.settled advance
  rw [State.thr_modThrs_other _ _ _ _ _ h, (settled_pre n c s).thr]

theorem grp_settled (n : Sys2Proof.Need) (c : Ctx) (s : State) (a b : Nat) : (s.grp a b).Booked ((Sys2Proof.settled n c s).grp a b) := by
  unfold Sys2Proof.settled advance
  rw [State.grp_modThrs]
  refine ((?_ : (s.grp a b).Booked _).trans (grp_commitAll _ _ _ a b)).trans (grp_signal _ _ _ _ a b)
  split
  · exact grp_dropPart c s a b
  · exact .refl _

/-! ### Issue -/

/-- The scoreboard reads only the demands of a description. -/
theorem scoreboardHolds_desc (e : Nat) (d : Desc) (c : Ctx) (s : State) :
    scoreboardHolds c s (needOf e d).desc = scoreboardHolds c s d := rfl

/-- So do the counters. -/
theorem signal_desc (e : Nat) (d : Desc) (c : Ctx) (gs : List Nat) (s : State) : signal (needOf e d).desc c gs s = signal d c gs s := rfl

/-- A clear issue set passes the checks of the word, the set and the operand fields (R290). -/
theorem early_clear {i : Instr} {e : Nat} {d : Desc} {c : Ctx} {s : State} (h : Clear i (needOf e d) c s) : early i d c s = [] := by
  unfold early
  have hset : (c.h.scope == 2 && (s.setOf c.team c.group).isNone) = false := by
    by_cases h2 : c.h.scope = 2
    · have := h.inSet h2
      cases hs : s.setOf c.team c.group <;> simp_all
    · simp [h2]
  have hf : badField d.opds (s.setOf c.team c.group).isSome (c.h.scope == 2) = none := h.fields
  have hp : d.pre c s = [] := h.pre
  simp only [h.word, Bool.not_true, Bool.false_eq_true, if_false, hset, hf, hp]

/-- Nothing holds an issue set that is clear. -/
theorem held_clear {i : Instr} {e : Nat} {d : Desc} {c : Ctx} {s : State} (h : Clear i (needOf e d) c s) : held i d c s = false := by
  unfold held
  have h1 : c.set.any (fun i => (s.thr (c.key i)).wait != .none || !(s.thr (c.key i)).live) = false := by
    rw [List.any_eq_false]
    intro k hk
    simp [(h.awake k hk).1, (h.awake k hk).2]
  have h2 : ((s.grp c.team c.group).trap.active && !c.span && !c.set.all (fun i => (s.grp c.team c.group).handler.contains i)) = false := by
    cases ha : (s.grp c.team c.group).trap.active
    · rfl
    · cases hs : c.span
      · have := h.handler ha hs
        simp only [Bool.not_false, Bool.and_true, Bool.true_and, Bool.not_eq_false']
        simpa using this
      · rfl
  have h3 : (!c.span && hintsHold c s) = false := by
    cases hs : c.span
    · simp [h.hints hs]
    · rfl
  have h4 : (!c.nosb && scoreboardHolds c s d) = false := by
    cases hn : c.nosb
    · have := h.board hn
      rw [scoreboardHolds_desc] at this
      simp [this]
    · rfl
  have h5 : d.hold c s = false := h.free
  simp only [h1, h2, h3, h4, h5, Bool.and_false, Bool.or_self]

/-- An issue set that executes by itself takes no trap. -/
theorem localTraps_ready {i : Instr} {e : Nat} {d : Desc} {c : Ctx} {s : State} (h : Ready i (needOf e d) c s) :
    localTraps i d c s = [] := by
  unfold localTraps
  have hp : (if d.noPoison then [] else poisonTraps c s d.opds) = [] := by
    cases hn : d.noPoison
    · have h1 : poisonTraps c s d.opds = [] := h.clean hn
      simp [h1]
    · rfl
  have ha : (if d.full && !fullArrival c s then [c.trapAll 5 (absentCount c s)] else []) = [] := by
    cases hn : d.full
    · rfl
    · simp [h.all hn]
  have hc : d.chk c s = [] := h.passes
  have hv : (!c.span && c.h.scope ≤ 1 && (d.unif || usesS d.opds) && !uniformConverged c s) = false := by
    cases hs : c.span
    · by_cases h1 : c.h.scope ≤ 1
      · cases hu : (d.unif || usesS d.opds)
        · simp
        · have := h.conv hs h1 (by simpa [needOf] using hu)
          simp [this]
      · simp [h1]
    · simp
  simp only [early_clear h.toClear, hv, Bool.false_eq_true, if_false, ha, hp, hc, List.append_nil]

/-- An issue set that executes by itself issues: after the bookkeeping of its slot, the state is that of the instruction's effect. -/
theorem issue_ready {i : Instr} {e : Nat} {d : Desc} {c : Ctx} {s : State} (h : Ready i (needOf e d) c s) :
    issue i e d s = d.eff c (Sys2Proof.settled (needOf e d) c s) := by
  have hr : (c.span && (!legal i || recalls d c)) = false := by
    cases hs : c.span
    · rfl
    · obtain ⟨h0, hrec, ho⟩ := h.core hs
      have hrec : d.recalled = false := hrec
      have : recalls d c = false := by
        unfold recalls
        rw [hrec, h0]
        simp only [Bool.false_or, Nat.reduceLeDiff, decide_false]
        rw [List.any_eq_false]
        intro o hoin
        have h1 := ho o hoin
        rcases h1 with h1 | ⟨h1, h2, h3⟩
        · simp [h1]
        · simp only [Bool.and_eq_true, Bool.or_eq_true, Bool.not_eq_true', beq_iff_eq, decide_eq_true_eq, not_and, not_or]
          intro _
          refine ⟨⟨fun h4 => by simp [h1 h4], h2⟩, fun h4 => ?_⟩
          have := h3 h4
          omega
      simp [this, h.word]
  have hrd : (2 ≤ c.h.scope && !d.alone) = false := by
    rcases h.scope with h1 | h1
    · have : ¬ 2 ≤ c.h.scope := by omega
      simp [this]
    · have h1 : d.alone = true := h1
      simp [h1]
  have hctx : mkCtx i e s = some c := h.ctx
  unfold issue
  simp only [hctx, held_clear h.toClear, hr, hrd, Bool.false_eq_true, if_false]
  unfold issueLocal
  rw [localTraps_ready h]
  rfl

/-! ### Rendezvous -/

/-- What follows the effect at a rendezvous of an instance with `.part`: the lanes that were absent are let go, with the outcome they will take (R191). -/
def partEnd (d : Desc) (c : Ctx) (r : Rdv) (s0 s : State) : State :=
  if d.part then
    forEach r.arr (fun s a =>
      let absent := (s0.liveThr c.team a.group).filter (fun i => !a.act.contains i)
      let s := s.modThrs c.team a.group absent (fun t => if t.wait == .rdv (c.h.scope == 3) then { t with wait := .none } else t)
      s.modGrp c.team a.group (fun G =>
        { G with part := G.part.set (c.h.scope == 3) ⟨absent, r.pc, r.cd, true, absent.map (fun l => (l, d.out c s0 a.group l))⟩ })) s
  else s

theorem State.grp_modGrp_eq (s : State) (t g t' g' : Nat) (f : Group → Group) :
    (s.modGrp t g f).grp t' g' = if (t, g) = (t', g') then f (s.grp t g) else s.grp t' g' := by
  by_cases h : (t, g) = (t', g')
  · have h1 := h
    simp only [Prod.mk.injEq] at h1
    obtain ⟨rfl, rfl⟩ := h1
    simp
  · simp [State.grp_modGrp_other _ _ h, h]

/-- Dropping the outcome bits of an earlier `.part` instance changes the group's record of it only. -/
theorem dropPart_cases (c : Ctx) (s : State) :
    dropPart c s = s ∨ ∃ x : Group → Tbl Bool PartRec, dropPart c s = s.modGrp c.team c.group (fun G => { G with part := x G }) := by
  unfold dropPart
  dsimp only
  split
  · exact .inl rfl
  · exact .inr ⟨_, rfl⟩

theorem setOf_dropPart (c : Ctx) (s : State) (t g : Nat) : (dropPart c s).setOf t g = s.setOf t g := by
  rcases dropPart_cases c s with h | ⟨x, h⟩ <;> rw [h]
  unfold State.setOf
  rw [State.grp_modGrp_eq]
  split
  · rename_i h
    simp only [Prod.mk.injEq] at h
    obtain ⟨rfl, rfl⟩ := h
    rfl
  · rfl

theorem team_dropPart (c : Ctx) (s : State) (t : Nat) : (dropPart c s).team t = s.team t := by
  rcases dropPart_cases c s with h | ⟨x, h⟩ <;> rw [h]
  rfl

theorem gset_dropPart (c : Ctx) (s : State) (t n : Nat) : (dropPart c s).gset t n = s.gset t n := by
  rcases dropPart_cases c s with h | ⟨x, h⟩ <;> rw [h]
  rfl

theorem getRdv_dropPart (c : Ctx) (s : State) : getRdv c (dropPart c s) = getRdv c s := by
  unfold getRdv
  simp only [team_dropPart, setOf_dropPart, gset_dropPart]

/-- The rendezvous stands at the arriving group's own instruction. -/
theorem arrivals_pc {i : Instr} {n : Need} {c : Ctx} {s : State} (h : Joined i n c s) : (arrivals c (dropPart c s)).pc = c.pc := by
  unfold arrivals
  rw [getRdv_dropPart]
  cases hr : getRdv c s with
  | none => rfl
  | some r => exact (h.same r hr).1

/-- A completed rendezvous issues once for every member. -/
theorem issue_joined {i : Instr} {e : Nat} {d : Desc} {c0 : Ctx} {s : State} (h : Joined i (needOf e d) c0 s) :
    issue i e d s = partEnd d (joinCtx c0 (arrivals c0 (dropPart c0 s))) (arrivals c0 (dropPart c0 s)) (gathered (needOf e d) c0 s)
      (d.eff (joinCtx c0 (arrivals c0 (dropPart c0 s))) (gathered (needOf e d) c0 s)) := by
  have hctx : mkCtx i e s = some c0 := h.ctx
  have halone : d.alone = false := h.meets
  have hcore := h.core
  have h2 : (2 ≤ c0.h.scope && !d.alone) = true := by simp [halone, h.scope]
  have ha : (if !d.part && !fullArrival c0 s then [c0.trapAll 5 (absentCount c0 s)] else []) = [] := by
    cases hn : d.part
    · simp [h.full hn]
    · rfl
  have hat : arrivalTraps d c0 s = [] := by
    unfold arrivalTraps
    simp only [ha, List.nil_append]
    cases hr : getRdv c0 s with
    | none => rfl
    | some r =>
      obtain ⟨h1, h3⟩ := h.same r hr
      simp [h1, h3]
  have hm : memberTraps d c0 (arrivals c0 (dropPart c0 s)) (dropPart c0 s) = [] := by
    unfold memberTraps
    have h3 : d.chk (joinCtx c0 (arrivals c0 (dropPart c0 s))) (dropPart c0 s) = [] := h.passes
    have h4 : d.noPoison = false → poisonTraps (joinCtx c0 (arrivals c0 (dropPart c0 s))) (dropPart c0 s) d.opds = [] := h.clean
    simp only [h3, List.append_nil]
    cases hn : d.noPoison
    · simp only [Bool.false_eq_true, if_false]
      exact h4 hn
    · rfl
  have hlast : rdvComplete c0.team (rdvSet c0 (dropPart c0 s)) (arrivals c0 (dropPart c0 s)) (dropPart c0 s) = true := h.last
  have hlead : (arrivals c0 (dropPart c0 s)).arr.head?.any (fun a => a.word != c0.word) = false := by
    cases hh : (arrivals c0 (dropPart c0 s)).arr.head? with
    | none => rfl
    | some a => simp [h.lead a hh]
  have e1 : issueRdv i d c0 s = rdvIssue d c0 (arrivals c0 (dropPart c0 s)) (dropPart c0 s) := by
    unfold issueRdv
    rw [early_clear h.toClear]
    simp only [lowest, h.late]
    rw [hat]
    simp only [lowest]
    change (if rdvComplete c0.team (rdvSet c0 (dropPart c0 s)) (arrivals c0 (dropPart c0 s)) (dropPart c0 s) = true
      then meet d c0 (arrivals c0 (dropPart c0 s)) (dropPart c0 s) else _) = _
    rw [if_pos hlast]
    unfold meet
    rw [hlead, if_neg (by decide), hm]
    rfl
  unfold issue
  simp only [hctx, held_clear h.toClear, hcore, Bool.false_and, Bool.false_eq_true, if_false, h2, if_true]
  rw [e1]
  rfl

/-! ### What an instruction leaves, alone or at a rendezvous -/

/-- An instruction that executes leaves its effect, when it is not a `.part` instance at a rendezvous. -/
theorem issue_runs {i : Instr} {e : Nat} {d : Desc} {s : State} {c : Ctx} {s1 : State} (h : Runs i (needOf e d) s c s1)
    (hp : d.part = false ∨ c.h.scope ≤ 1) : issue i e d s = d.eff c s1 := by
  obtain ⟨⟨h1, rfl⟩ | ⟨c0, h1, rfl, rfl⟩, -⟩ := h
  · exact issue_ready h1
  · have hs : 2 ≤ c0.h.scope := h1.scope
    have hp : d.part = false := hp.resolve_right (by change ¬ c0.h.scope ≤ 1; omega)
    rw [issue_joined h1]
    unfold partEnd
    simp [hp]

/-- The end of a `.part` instance changes nothing of a state but groups' records of it and what absent lanes wait for. -/
theorem partEnd_eq (d : Desc) (c : Ctx) (r : Rdv) (s0 s : State) :
    partEnd d c r s0 s = { s with threads := (partEnd d c r s0 s).threads, groups := (partEnd d c r s0 s).groups } := by
  unfold partEnd
  cases d.part
  · rfl
  · simp only [if_true]
    generalize r.arr = l
    unfold forEach
    induction l generalizing s with
    | nil => rfl
    | cons a l ih =>
      simp only [List.foldl_cons]
      rw [ih]
      rw [State.modThrs_eq]
      rfl

end Sys2Proof.Machine
end

