-- ==== Sys2Proof/Laws/Lane.lean ====
section
/-! SUPPORT. Writing results: what putting a value in a lane, in every lane, in a predicate and in an s register leaves, said once for each. -/

namespace Sys2Proof.Machine

/-! ### Bits of a replaced field -/

theorem upFrom_zero (lo : Nat) : upFrom lo 0 = [] := rfl

theorem mem_upFrom {lo n k : Nat} : k ∈ upFrom lo n ↔ lo ≤ k ∧ k < lo + n := by
  induction n generalizing lo with
  | zero => simp [upFrom]
  | succ n ih => simp only [upFrom, List.mem_cons, ih]; omega

/-- A replaced field reads as it was written. -/
theorem bits_setBits_same (x lo w v : Nat) (hw : 0 < w) : bits (setBits x (lo + w - 1) lo v) (lo + w - 1) lo = v % 2 ^ w := by
  have e : lo + w - 1 + 1 - lo = w := by omega
  simp only [bits, setBits, e]
  have hp : 0 < 2 ^ lo := Nat.two_pow_pos lo
  have hq : 0 < 2 ^ w := Nat.two_pow_pos w
  have h1 : x = 2 ^ lo * (x / 2 ^ lo) + x % 2 ^ lo := (Nat.div_add_mod x (2 ^ lo)).symm
  have h2 : x / 2 ^ lo = 2 ^ w * (x / 2 ^ lo / 2 ^ w) + x / 2 ^ lo % 2 ^ w := (Nat.div_add_mod _ _).symm
  generalize hA : x / 2 ^ lo / 2 ^ w = A at h2
  generalize hB : x / 2 ^ lo % 2 ^ w = B at h2 ⊢
  generalize hC : x % 2 ^ lo = C at h1
  have hC' : C < 2 ^ lo := hC ▸ Nat.mod_lt _ hp
  have h3 : x - B * 2 ^ lo + v % 2 ^ w * 2 ^ lo = 2 ^ lo * (2 ^ w * A + v % 2 ^ w) + C := by
    rw [h1, h2, Nat.mul_comm B]
    have : 2 ^ lo * (2 ^ w * A + B) + C - 2 ^ lo * B = 2 ^ lo * (2 ^ w * A) + C := by
      rw [Nat.mul_add]; omega
    rw [this, Nat.mul_comm (v % 2 ^ w), Nat.mul_add]
    omega
  rw [h3, Nat.mul_add_div hp, Nat.div_eq_of_lt hC', Nat.add_zero, Nat.mul_add_mod, Nat.mod_mod]

/-- The other bits stay. -/
theorem bit_setBits_other (x lo w v b : Nat) (hw : 0 < w) (h : b < lo ∨ lo + w ≤ b) :
    bit (setBits x (lo + w - 1) lo v) b = bit x b := by
  have e : lo + w - 1 + 1 - lo = w := by omega
  simp only [bit, bits, setBits, e]
  have hp : 0 < 2 ^ lo := Nat.two_pow_pos lo
  have hq : 0 < 2 ^ w := Nat.two_pow_pos w
  have h1 : x = 2 ^ lo * (x / 2 ^ lo) + x % 2 ^ lo := (Nat.div_add_mod x (2 ^ lo)).symm
  have h2 : x / 2 ^ lo = 2 ^ w * (x / 2 ^ lo / 2 ^ w) + x / 2 ^ lo % 2 ^ w := (Nat.div_add_mod _ _).symm
  generalize hA : x / 2 ^ lo / 2 ^ w = A at h2
  generalize hB : x / 2 ^ lo % 2 ^ w = B at h2 ⊢
  generalize hC : x % 2 ^ lo = C at h1
  have hC' : C < 2 ^ lo := hC ▸ Nat.mod_lt _ hp
  have hB' : B < 2 ^ w := hB ▸ Nat.mod_lt _ hq
  have hV' : v % 2 ^ w < 2 ^ w := Nat.mod_lt _ hq
  generalize v % 2 ^ w = V at hV' ⊢
  have hx : x = 2 ^ lo * (2 ^ w * A + B) + C := by rw [← h2]; exact h1
  have h3 : x - B * 2 ^ lo + V * 2 ^ lo = 2 ^ lo * (2 ^ w * A + V) + C := by
    rw [hx, Nat.mul_comm B]
    have : 2 ^ lo * (2 ^ w * A + B) + C - 2 ^ lo * B = 2 ^ lo * (2 ^ w * A) + C := by
      rw [Nat.mul_add]; omega
    rw [this, Nat.mul_comm V, Nat.mul_add]
    omega
  rw [h3, hx]
  rcases h with h | h
  · obtain ⟨d, rfl⟩ := Nat.exists_eq_add_of_lt h
    have h5 : 2 ^ (b + d + 1) = 2 ^ b * (2 * 2 ^ d) := by rw [Nat.pow_succ, Nat.pow_add]; rw [Nat.mul_assoc, Nat.mul_comm (2 ^ d)]
    have key : ∀ y, (2 ^ (b + d + 1) * y + C) / 2 ^ b % 2 = C / 2 ^ b % 2 := by
      intro y
      rw [h5, Nat.mul_assoc, Nat.mul_add_div (Nat.two_pow_pos b), Nat.mul_assoc, Nat.mul_add_mod]
    rw [key, key]
  · obtain ⟨d, rfl⟩ := Nat.exists_eq_add_of_le h
    have key : ∀ y, y < 2 ^ w → (2 ^ lo * (2 ^ w * A + y) + C) / 2 ^ (lo + w + d) = A / 2 ^ d := by
      intro y hy
      rw [Nat.pow_add, Nat.pow_add, ← Nat.div_div_eq_div_mul, ← Nat.div_div_eq_div_mul, Nat.mul_add_div hp, Nat.div_eq_of_lt hC',
        Nat.add_zero, Nat.mul_add_div hq, Nat.div_eq_of_lt hy, Nat.add_zero]
    rw [key V hV', key B hB']

/-- A field of 32 bits stays in 32 bits. -/
theorem setBits_lt (x lo w v : Nat) (hx : x < 2 ^ 32) (hw : 0 < w) (h : lo + w ≤ 32) : setBits x (lo + w - 1) lo v < 2 ^ 32 := by
  have e : lo + w - 1 + 1 - lo = w := by omega
  simp only [bits, setBits, e]
  have hp : 0 < 2 ^ lo := Nat.two_pow_pos lo
  have hq : 0 < 2 ^ w := Nat.two_pow_pos w
  have h1 : x = 2 ^ lo * (x / 2 ^ lo) + x % 2 ^ lo := (Nat.div_add_mod x (2 ^ lo)).symm
  have h2 : x / 2 ^ lo = 2 ^ w * (x / 2 ^ lo / 2 ^ w) + x / 2 ^ lo % 2 ^ w := (Nat.div_add_mod _ _).symm
  generalize hA : x / 2 ^ lo / 2 ^ w = A at h2
  generalize hB : x / 2 ^ lo % 2 ^ w = B at h2 ⊢
  generalize hC : x % 2 ^ lo = C at h1
  have hC' : C < 2 ^ lo := hC ▸ Nat.mod_lt _ hp
  have hV' : v % 2 ^ w < 2 ^ w := Nat.mod_lt _ hq
  generalize v % 2 ^ w = V at hV' ⊢
  have hxe : x = 2 ^ lo * (2 ^ w * A + B) + C := by rw [← h2]; exact h1
  have hA' : 2 ^ lo * 2 ^ w * A < 2 ^ lo * 2 ^ w * 2 ^ (32 - lo - w) := by
    have : 2 ^ lo * 2 ^ w * 2 ^ (32 - lo - w) = 2 ^ 32 := by rw [← Nat.pow_add, ← Nat.pow_add]; congr 1; omega
    rw [this]
    have : 2 ^ lo * 2 ^ w * A ≤ x := by rw [hxe, Nat.mul_add, ← Nat.mul_assoc]; omega
    omega
  have hA2 : A < 2 ^ (32 - lo - w) := Nat.lt_of_mul_lt_mul_left hA'
  have h3 : x - B * 2 ^ lo + V * 2 ^ lo = 2 ^ lo * (2 ^ w * A + V) + C := by
    rw [hxe, Nat.mul_comm B]
    have : 2 ^ lo * (2 ^ w * A + B) + C - 2 ^ lo * B = 2 ^ lo * (2 ^ w * A) + C := by
      rw [Nat.mul_add]; omega
    rw [this, Nat.mul_comm V, Nat.mul_add]
    omega
  rw [h3]
  have h4 : 2 ^ w * A + V + 1 ≤ 2 ^ w * 2 ^ (32 - lo - w) := by
    have : 2 ^ w * (A + 1) ≤ 2 ^ w * 2 ^ (32 - lo - w) := Nat.mul_le_mul_left _ hA2
    rw [Nat.mul_add] at this
    omega
  have h5 : 2 ^ lo * (2 ^ w * A + V + 1) ≤ 2 ^ lo * (2 ^ w * 2 ^ (32 - lo - w)) := Nat.mul_le_mul_left _ h4
  have h6 : 2 ^ lo * (2 ^ w * 2 ^ (32 - lo - w)) = 2 ^ 32 := by rw [← Nat.pow_add, ← Nat.pow_add]; congr 1; omega
  rw [h6, Nat.mul_add] at h5
  omega

/-! ### One lane -/

/-- How one thread holds another's values: what is in flight and what is owed aside, `regs` and the rest as given. -/
structure Wrote (t u : Thread) (reg : Nat → Option PWord) : Prop where
  kept : u = { t with regs := u.regs, inflight := u.inflight, pend := u.pend }
  regs : ∀ n, u.abs n = (reg (n % t.depth)).getD (t.abs n)

theorem thr_putV (c : Ctx) (g lane k v : Nat) (s : State) (q : TKey) :
    (putV c g lane k v s).thr q = if q = (c.team, g, lane) then
      (putV c g lane k v s).thr (c.team, g, lane) else s.thr q := by
  split
  · rename_i h; rw [h]
  · rename_i h
    unfold putV
    rw [State.thr_modThr_other _ _ (Ne.symm h)]

theorem putV_eq (c : Ctx) (g lane k v : Nat) (s : State) : putV c g lane k v s = { s with threads := (putV c g lane k v s).threads } := rfl

/-- No write in flight clashes when each is of another register or has come. -/
theorem clashes_false {c : Ctx} {now n : Nat} {l : List InFlight} (h : ∀ f ∈ l, f.reg ≠ n ∨ f.due ≤ now) : clashes c now n l = false := by
  unfold clashes
  rw [List.any_eq_false]
  intro f hf
  rcases h f hf with h | h
  · simp [h]
  · simp [Nat.not_lt.2 h]

/-- Writing a register that nothing in flight concerns. -/
theorem putV_wrote (c : Ctx) (g lane k v : Nat) (s : State)
    (hf : ∀ f ∈ (s.thr (c.team, g, lane)).inflight, f.reg ≠ (s.thr (c.team, g, lane)).wb + k ∨ f.due ≤ s.now c.team) :
    Wrote (s.thr (c.team, g, lane)) ((putV c g lane k v s).thr (c.team, g, lane))
      (fun n => if n = ((s.thr (c.team, g, lane)).wb + k) % (s.thr (c.team, g, lane)).depth then some ⟨BitVec.ofNat 32 v, false⟩ else none)
    ∧ ∀ f ∈ ((putV c g lane k v s).thr (c.team, g, lane)).inflight,
        f ∈ (s.thr (c.team, g, lane)).inflight ∨ f.reg = (s.thr (c.team, g, lane)).wb + k := by
  generalize ht : s.thr (c.team, g, lane) = t at *
  have hc : clashes c (s.now c.team) (t.wb + k) t.inflight = false := clashes_false hf
  have e : (putV c g lane k v s).thr (c.team, g, lane) =
      { t.setAbs (t.wb + k) (BitVec.ofNat 32 v) false with
        inflight := fly c (s.now c.team) (t.wb + k) (t.abs (t.wb + k)) t.inflight
        pend := outlast c s.tick (laneIx (512 + lane) (t.wb + k)) (fun r => r % t.depth == (t.wb + k) % t.depth) t.pend } := by
    unfold putV
    rw [State.thr_modThr_same, ht]
    simp only [hc, Bool.false_and, Bool.false_eq_true, if_false]
  rw [e]
  refine ⟨⟨rfl, fun n => ?_⟩, fun f hfm => ?_⟩
  · by_cases h : n % t.depth = (t.wb + k) % t.depth
    · simp only [Thread.setAbs, Thread.abs, h, Tbl.getD_set_same, if_true, Option.getD_some]
    · simp only [Thread.setAbs, Thread.abs, Tbl.getD_set_other _ _ _ (Ne.symm h), h, if_false, Option.getD_none]
  · rcases List.mem_cons.1 hfm with rfl | h
    · exact .inr rfl
    · exact .inl (List.mem_filter.1 h).1

/-- A thread that holds a value in consecutive registers of its window, without poison, and is otherwise as before. -/
structure PutRegs (t u : Thread) (k n v : Nat) : Prop where
  kept : u = { t with regs := u.regs, inflight := u.inflight, pend := u.pend }
  vals : ∀ j, j < n → u.v (k + j) = ⟨BitVec.ofNat 32 (v / 2 ^ (32 * j)), false⟩
  rest : ∀ m, (∀ j, j < n → m % t.depth ≠ (t.wb + (k + j)) % t.depth) → u.abs m = t.abs m

theorem mod_ne {d a i j : Nat} (h : i < d) (h' : j < d) (hne : i ≠ j) : (a + i) % d ≠ (a + j) % d := by
  intro he
  have : i % d = j % d := Nat.ModEq.add_left_cancel' a he
  rw [Nat.mod_eq_of_lt h, Nat.mod_eq_of_lt h'] at this
  exact hne this

theorem putVs_other (c : Ctx) (g lane k n v : Nat) (s : State) {q : TKey} (h : q ≠ (c.team, g, lane)) :
    (putVs c g lane k n v s).thr q = s.thr q := by
  induction n generalizing k v s with
  | zero => rfl
  | succ n ih => simp only [putVs]; rw [ih, thr_putV, if_neg h]

theorem putVs_eq (c : Ctx) (g lane k n v : Nat) (s : State) :
    putVs c g lane k n v s = { s with threads := (putVs c g lane k n v s).threads } := by
  induction n generalizing k v s with
  | zero => rfl
  | succ n ih => simp only [putVs]; rw [ih, putV_eq]

/-- Writing consecutive registers of the window. -/
theorem putVs_put (c : Ctx) (g lane k n v : Nat) (s : State) (hn : k + n ≤ (s.thr (c.team, g, lane)).depth)
    (hf : ∀ f ∈ (s.thr (c.team, g, lane)).inflight, ∀ j, j < n → f.reg ≠ (s.thr (c.team, g, lane)).wb + (k + j) ∨ f.due ≤ s.now c.team) :
    PutRegs (s.thr (c.team, g, lane)) ((putVs c g lane k n v s).thr (c.team, g, lane)) k n v := by
  induction n generalizing k v s with
  | zero => exact ⟨rfl, fun j hj => by omega, fun m _ => rfl⟩
  | succ n ih =>
    simp only [putVs]
    obtain ⟨⟨hk, hr⟩, hi⟩ := putV_wrote c g lane k (v % 2 ^ 32) s (fun f h => hf f h 0 (by omega))
    generalize hu : (putV c g lane k (v % 2 ^ 32) s).thr (c.team, g, lane) = u at *
    generalize ht : s.thr (c.team, g, lane) = t at *
    have hd : u.depth = t.depth := by rw [hk]
    have hw : u.wb = t.wb := by rw [hk]
    have := ih (k + 1) (v / 2 ^ 32) (putV c g lane k (v % 2 ^ 32) s) (by rw [hu, hd]; omega) (by
      rw [hu, hw]
      intro f hfm j hj
      rcases hi f hfm with h | h
      · rcases hf f h (j + 1) (by omega) with h | h
        · exact .inl (by omega)
        · exact .inr h
      · exact .inl (by omega))
    rw [hu] at this
    obtain ⟨k2, v2, r2⟩ := this
    generalize (putVs c g lane (k + 1) n (v / 2 ^ 32) (putV c g lane k (v % 2 ^ 32) s)).thr (c.team, g, lane) = w at *
    rw [hd, hw] at r2
    have hwb : w.wb = t.wb := by rw [k2]; exact hw
    refine ⟨by rw [k2, hk], fun j hj => ?_, fun m hm => ?_⟩
    · cases j with
      | zero =>
        have h1 : w.v (k + 0) = u.abs (t.wb + k) := by
          unfold Thread.v
          rw [hwb]
          apply r2
          intro j hj
          have := mod_ne (a := t.wb) (i := k) (j := k + 1 + j) (d := t.depth) (by omega) (by omega) (by omega)
          exact this
        rw [h1, hr]
        simp only [if_true, Option.getD_some, Nat.mul_zero, Nat.pow_zero, Nat.div_one, PWord.mk.injEq, and_true]
        apply BitVec.eq_of_toNat_eq
        simp
      | succ j =>
        have h1 := v2 j (by omega)
        have e1 : k + 1 + j = k + (j + 1) := by omega
        rw [e1] at h1
        rw [h1]
        have e2 : v / 2 ^ 32 / 2 ^ (32 * j) = v / 2 ^ (32 * (j + 1)) := by
          rw [Nat.div_div_eq_div_mul, ← Nat.pow_add]; congr 2; omega
        rw [e2]
    · rw [r2 m (fun j hj => by
        have := hm (j + 1) (by omega)
        have e1 : k + 1 + j = k + (j + 1) := by omega
        rw [e1]; exact this), hr]
      have := hm 0 (by omega)
      simp only [Nat.add_zero] at this
      simp only [this, if_false, Option.getD_none]

/-- Consecutive registers read back as the value that was put in them. -/
theorem readRegs_put {f : Nat → PWord} {n k v : Nat} (h : ∀ j, j < n → f (k + j) = ⟨BitVec.ofNat 32 (v / 2 ^ (32 * j)), false⟩) :
    readRegs f n k = ⟨v % 2 ^ (32 * n), false⟩ := by
  induction n generalizing k v with
  | zero => simp [readRegs, Nat.mod_one]
  | succ n ih =>
    have h0 := h 0 (by omega)
    have h1 : ∀ j, j < n → f (k + 1 + j) = ⟨BitVec.ofNat 32 (v / 2 ^ 32 / 2 ^ (32 * j)), false⟩ := by
      intro j hj
      have := h (j + 1) (by omega)
      have e1 : k + 1 + j = k + (j + 1) := by omega
      have e2 : v / 2 ^ 32 / 2 ^ (32 * j) = v / 2 ^ (32 * (j + 1)) := by
        rw [Nat.div_div_eq_div_mul, ← Nat.pow_add]; congr 2; omega
      rw [e1, e2, this]
    simp only [readRegs]
    simp only [Nat.add_zero, Nat.mul_zero, Nat.pow_zero, Nat.div_one] at h0
    rw [ih h1, h0]
    simp only [BitVec.toNat_ofNat, Bool.or_self, RVal.mk.injEq, and_true]
    have e3 : 2 ^ (32 * (n + 1)) = 2 ^ 32 * 2 ^ (32 * n) := by rw [← Nat.pow_add]; congr 1; omega
    rw [e3, Nat.mod_mul]

/-- A thread that has taken a result of a lane instruction. -/
structure PutLane (t u : Thread) (dsel : Nat) (fl : Fill) (v : Nat) : Prop where
  kept : u = { t with regs := u.regs, l0 := u.l0, l1 := u.l1, l2 := u.l2, latPipe := u.latPipe, latN := u.latN, pend := u.pend, inflight := u.inflight }
  latch : u.l0 = BitVec.ofNat 64 v ∧ u.l1 = t.l0 ∧ u.l2 = t.l1
  dest : isSwb dsel = false → destOf fl u (idx dsel) = v % 2 ^ fillBits fl ∧ ∀ k ∈ destRegs fl (idx dsel), (u.v k).p = false
  regs : ∀ n, (isSwb dsel = true ∨ ∀ k ∈ destRegs fl (idx dsel), n % t.depth ≠ (t.wb + k) % t.depth) → u.abs n = t.abs n
  bits : ∀ lo w, fl = .part lo w → isSwb dsel = false → ∀ b, b < 32 → (b < lo ∨ lo + w ≤ b) →
    bit (u.v (idx dsel)).v.toNat b = bit (t.v (idx dsel)).v.toNat b

theorem shiftLatch_thr (c : Ctx) (g lane v : Nat) (s : State) :
    (shiftLatch c g lane v s).thr (c.team, g, lane) = { s.thr (c.team, g, lane) with
      l2 := (s.thr (c.team, g, lane)).l1, l1 := (s.thr (c.team, g, lane)).l0, l0 := BitVec.ofNat 64 v,
      latPipe := ((shiftLatch c g lane v s).thr (c.team, g, lane)).latPipe, latN := ((shiftLatch c g lane v s).thr (c.team, g, lane)).latN } := by
  unfold shiftLatch
  rw [State.thr_modThr_same]

theorem shiftLatch_other (c : Ctx) (g lane v : Nat) (s : State) {q : TKey} (h : q ≠ (c.team, g, lane)) :
    (shiftLatch c g lane v s).thr q = s.thr q := by
  unfold shiftLatch
  rw [State.thr_modThr_other _ _ (Ne.symm h)]

theorem putLane_other (c : Ctx) (g lane dsel v : Nat) (fl : Fill) (s : State) {q : TKey} (h : q ≠ (c.team, g, lane)) :
    (putLane c g lane dsel fl v s).thr q = s.thr q := by
  unfold putLane
  rw [shiftLatch_other _ _ _ _ _ h]
  cases hs : isSwb dsel
  · cases fl with
    | regs n => simp only [Bool.false_eq_true, if_false]; exact putVs_other _ _ _ _ _ _ _ h
    | part lo w => simp only [Bool.false_eq_true, if_false]; rw [thr_putV, if_neg h]
  · rfl

theorem putLane_eq (c : Ctx) (g lane dsel v : Nat) (fl : Fill) (s : State) :
    putLane c g lane dsel fl v s = { s with threads := (putLane c g lane dsel fl v s).threads } := by
  unfold putLane
  cases hs : isSwb dsel
  · cases fl with
    | regs n =>
      simp only [Bool.false_eq_true, if_false]
      generalize hx : shiftLatch c g lane v (putVs c g lane (idx dsel) n v s) = x
      have : x = { putVs c g lane (idx dsel) n v s with threads := x.threads } := by rw [← hx]; rfl
      rw [this, putVs_eq]
    | part lo w => rfl
  · rfl

/-- Putting a result in a lane. -/
theorem putLane_put (c : Ctx) (g lane dsel v : Nat) (fl : Fill) (s : State) (hok : isSwb dsel = false → Sys2Proof.fillOk fl (idx dsel))
    (hd : 64 ≤ (s.thr (c.team, g, lane)).depth) (hf : ∀ f ∈ (s.thr (c.team, g, lane)).inflight, f.due ≤ s.now c.team) :
    PutLane (s.thr (c.team, g, lane)) ((putLane c g lane dsel fl v s).thr (c.team, g, lane)) dsel fl v := by
  unfold putLane
  rw [shiftLatch_thr]
  cases hs : isSwb dsel
  · have hok := hok hs
    cases fl with
    | regs n =>
      simp only [Sys2Proof.fillOk] at hok
      simp only [Bool.false_eq_true, if_false]
      obtain ⟨hk, hv, hr⟩ := putVs_put c g lane (idx dsel) n v s (by omega) (fun f h _ _ => .inr (hf f h))
      generalize (putVs c g lane (idx dsel) n v s).thr (c.team, g, lane) = u at *
      generalize s.thr (c.team, g, lane) = t at *
      refine ⟨by rw [hk], ⟨rfl, by rw [hk], by rw [hk]⟩, fun _ => ⟨?_, ?_⟩, fun m hm => ?_, fun lo w h => by cases h⟩
      · simp only [destOf, fillBits]
        have := readRegs_put (f := u.v) hv
        exact congrArg RVal.v this
      · intro k hkm
        simp only [destRegs, mem_upFrom] at hkm
        obtain ⟨j, rfl⟩ := Nat.exists_eq_add_of_le hkm.1
        have := hv j (by omega)
        exact congrArg PWord.p this
      · rcases hm with hm | hm
        · cases hm.symm.trans hs
        · exact hr m (fun j hj => hm _ (by simp only [destRegs, mem_upFrom]; omega))
    | part lo w =>
      simp only [Sys2Proof.fillOk] at hok
      obtain ⟨h1, h2, h3⟩ := hok
      simp only [Bool.false_eq_true, if_false]
      generalize hx : setBits ((s.thr (c.team, g, lane)).v (idx dsel)).v.toNat (lo + w - 1) lo v = x
      obtain ⟨⟨hk, hr⟩, -⟩ := putV_wrote c g lane (idx dsel) x s (fun f h => .inr (hf f h))
      generalize (putV c g lane (idx dsel) x s).thr (c.team, g, lane) = u at *
      generalize s.thr (c.team, g, lane) = t at *
      have hb : u.wb = t.wb := by rw [hk]
      have hxl : x < 2 ^ 32 := by rw [← hx]; exact setBits_lt _ _ _ _ (BitVec.isLt _) h3 h2
      have hv : u.v (idx dsel) = ⟨BitVec.ofNat 32 x, false⟩ := by
        unfold Thread.v
        rw [hb, hr]
        simp
      have hv2 : (u.v (idx dsel)).v.toNat = x := by rw [hv, BitVec.toNat_ofNat, Nat.mod_eq_of_lt hxl]
      refine ⟨by rw [hk], ⟨rfl, by rw [hk], by rw [hk]⟩, fun _ => ⟨?_, ?_⟩, fun m hm => ?_, fun lo' w' h _ b hb1 hb2 => ?_⟩
      · change bits (u.v (idx dsel)).v.toNat (lo + w - 1) lo = v % 2 ^ w
        rw [hv2, ← hx, bits_setBits_same _ _ _ _ h3]
      · intro k hkm
        simp only [destRegs, List.mem_singleton] at hkm
        subst hkm
        change (u.v (idx dsel)).p = false
        rw [hv]
      · rcases hm with hm | hm
        · cases hm.symm.trans hs
        · have := hm (idx dsel) (by simp [destRegs])
          change u.abs m = _
          rw [hr]
          simp [this]
      · simp only [Fill.part.injEq] at h
        obtain ⟨rfl, rfl⟩ := h
        change bit (u.v (idx dsel)).v.toNat b = _
        rw [hv2, ← hx, bit_setBits_other _ _ _ _ _ h3 hb2]
  · simp only [if_true]
    refine ⟨rfl, ⟨rfl, rfl, rfl⟩, fun h => ?_, fun m _ => rfl, fun _ _ _ h => ?_⟩
    · exact absurd (hs.symm.trans h) Bool.noConfusion
    · exact absurd (hs.symm.trans h) Bool.noConfusion

/-! ### Every lane -/

/-- Every listed lane takes its result; nothing else changes. -/
theorem putLanes (c : Ctx) (dsel : Nat) (fl : Fill) (val : Nat → Nat → Nat) (l : List (Nat × Nat)) (s : State)
    (hn : l.Nodup) (hok : isSwb dsel = false → Sys2Proof.fillOk fl (idx dsel))
    (hd : ∀ m ∈ l, 64 ≤ (s.thr (c.team, m.1, m.2)).depth) (hf : ∀ m ∈ l, ∀ f ∈ (s.thr (c.team, m.1, m.2)).inflight, f.due ≤ s.now c.team) :
    (∀ m ∈ l, PutLane (s.thr (c.team, m.1, m.2))
        ((l.foldl (fun s' m => putLane c m.1 m.2 dsel fl (val m.1 m.2) s') s).thr (c.team, m.1, m.2)) dsel fl (val m.1 m.2))
      ∧ (∀ q, (∀ m ∈ l, q ≠ (c.team, m.1, m.2)) →
        (l.foldl (fun s' m => putLane c m.1 m.2 dsel fl (val m.1 m.2) s') s).thr q = s.thr q)
      ∧ l.foldl (fun s' m => putLane c m.1 m.2 dsel fl (val m.1 m.2) s') s =
        { s with threads := (l.foldl (fun s' m => putLane c m.1 m.2 dsel fl (val m.1 m.2) s') s).threads } := by
  induction l generalizing s with
  | nil => exact ⟨fun m h => absurd h List.not_mem_nil, fun _ _ => rfl, rfl⟩
  | cons a l ih =>
    obtain ⟨ha, hl⟩ := List.nodup_cons.1 hn
    simp only [List.foldl_cons]
    have hne : ∀ m ∈ l, ((c.team, m.1, m.2) : TKey) ≠ (c.team, a.1, a.2) := by
      intro m hm h
      simp only [Prod.mk.injEq, true_and] at h
      exact ha (by rw [show a = m from Prod.ext h.1.symm h.2.symm]; exact hm)
    have ho : ∀ m ∈ l, (putLane c a.1 a.2 dsel fl (val a.1 a.2) s).thr (c.team, m.1, m.2) = s.thr (c.team, m.1, m.2) :=
      fun m hm => putLane_other _ _ _ _ _ _ _ (hne m hm)
    have hnow : (putLane c a.1 a.2 dsel fl (val a.1 a.2) s).now c.team = s.now c.team := by rw [putLane_eq]; rfl
    obtain ⟨i1, i2, i3⟩ := ih (putLane c a.1 a.2 dsel fl (val a.1 a.2) s) hl
      (fun m hm => by rw [ho m hm]; exact hd m (List.mem_cons_of_mem _ hm))
      (fun m hm => by rw [ho m hm, hnow]; exact hf m (List.mem_cons_of_mem _ hm))
    refine ⟨fun m hm => ?_, fun q hq => ?_, ?_⟩
    · rcases List.mem_cons.1 hm with rfl | hm
      · rw [i2 _ (fun m' hm' => (hne m' hm').symm)]
        exact putLane_put _ _ _ _ _ _ _ hok (hd _ List.mem_cons_self) (hf _ List.mem_cons_self)
      · have := i1 m hm
        rw [ho m hm] at this
        exact this
    · rw [i2 q (fun m hm => hq m (List.mem_cons_of_mem _ hm)), putLane_other _ _ _ _ _ _ _ (hq a List.mem_cons_self)]
    · rw [i3, putLane_eq]

/-- What a lane effect leaves: its results, and everything else as it was. -/
theorem laneEff_lands (dsel : Nat) (fl : Fill) (f : Ctx → State → Nat → Nat → Nat) (c : Ctx) (s : State)
    (h : Sys2Proof.Able c s) (hok : isSwb dsel = false → Sys2Proof.fillOk fl (idx dsel)) :
    Sys2Proof.LaneResult c s (laneEff dsel fl f c s) dsel fl (f c s) ∧ Sys2Proof.LaneFrame c s (laneEff dsel fl f c s) dsel fl := by
  obtain ⟨h1, h2, h3⟩ := putLanes c dsel fl (f c s) c.lanes s h.once hok h.deep h.still
  refine ⟨⟨fun hs m hm => (h1 m hm).dest hs, fun m hm => (h1 m hm).latch⟩, ⟨h3, h2, fun m hm => ⟨_, rfl, (h1 m hm).kept⟩,
    fun m hm => (h1 m hm).regs, fun lo w hfl hs m hm => (h1 m hm).bits lo w hfl hs⟩⟩

/-! ### Predicates (R172) -/

theorem bit_eq_testBit (x n : Nat) : bit x n = x.testBit n := by
  rw [Nat.testBit_eq_decide_div_mod_eq]
  rfl

/-- Bit `n` reads as it was set. -/
theorem bit_setBit_same (x n : Nat) (b : Bool) : bit (setBit x n b) n = b := by
  have := bits_setBits_same x n 1 (if b then 1 else 0) (by omega)
  simp only [bits, Nat.add_sub_cancel] at this
  have e : n + 1 - n = 1 := by omega
  rw [e] at this
  simp only [bit, setBit]
  simp only [Nat.pow_one] at this
  rw [this]
  cases b <;> rfl

theorem bit_setBit_other (x n j : Nat) (b : Bool) (h : j ≠ n) : bit (setBit x n b) j = bit x j := by
  have := bit_setBits_other x n 1 (if b then 1 else 0) j (by omega) (by omega)
  simpa [setBit] using this

theorem Thread.pred_setPred_same (t : Thread) (n : Nat) (b : Bool) (h : n < 7) : (t.setPred n b).pred n = b := by
  have h7 : (n == 7) = false := by simp; omega
  simp only [Thread.setPred, Thread.pred, h7, Bool.false_eq_true, if_false, Bool.false_or]
  rw [BitVec.getLsbD_ofNat, ← bit_eq_testBit, bit_setBit_same]
  simp; omega

theorem Thread.pred_setPred_other (t : Thread) (n j : Nat) (b : Bool) (h : j ≠ n) (hj : j < 8) : (t.setPred n b).pred j = t.pred j := by
  unfold Thread.setPred
  split
  · rfl
  · simp only [Thread.pred]
    rw [BitVec.getLsbD_ofNat, ← bit_eq_testBit, bit_setBit_other _ _ _ _ h, bit_eq_testBit, BitVec.testBit_toNat]
    simp [hj]

/-- A thread that has taken a value in a predicate. -/
structure PutPred (t u : Thread) (n : Nat) (b : Bool) : Prop where
  kept : u = { t with preds := u.preds, flyP := u.flyP }
  dest : n < 7 → u.pred n = b
  preds : ∀ j, j < 8 → j ≠ n → u.pred j = t.pred j

theorem putP_other (c : Ctx) (g lane n : Nat) (b : Bool) (s : State) {q : TKey} (h : q ≠ (c.team, g, lane)) :
    (putP c g lane n b s).thr q = s.thr q := by
  unfold putP
  rw [State.thr_modThr_other _ _ (Ne.symm h)]

theorem putP_eq (c : Ctx) (g lane n : Nat) (b : Bool) (s : State) : putP c g lane n b s = { s with threads := (putP c g lane n b s).threads } := rfl

theorem putP_put (c : Ctx) (g lane n : Nat) (b : Bool) (s : State)
    (hf : ∀ f ∈ (s.thr (c.team, g, lane)).flyP, f.due ≤ s.now c.team) :
    PutPred (s.thr (c.team, g, lane)) ((putP c g lane n b s).thr (c.team, g, lane)) n b := by
  unfold putP
  rw [State.thr_modThr_same]
  generalize s.thr (c.team, g, lane) = t at *
  by_cases h7 : n = 7
  · subst h7
    simp only [beq_self_eq_true, if_true]
    exact ⟨rfl, fun h => by omega, fun j _ _ => rfl⟩
  · have hc : clashes c (s.now c.team) n t.flyP = false := clashes_false (fun f h => .inr (hf f h))
    have h7' : (n == 7) = false := by simp [h7]
    simp only [h7', Bool.false_eq_true, if_false, hc, Bool.false_and]
    have hs : t.setPred n b = { t with preds := (t.setPred n b).preds } := by
      unfold Thread.setPred
      split <;> rfl
    refine ⟨?_, fun h => ?_, fun j hj hne => ?_⟩
    · rw [hs]
    · exact Thread.pred_setPred_same t n b h
    · exact Thread.pred_setPred_other t n j b hne hj

/-- Every listed lane takes its value; nothing else changes. -/
theorem putPreds (c : Ctx) (n : Nat) (val : Nat → Nat → Bool) (l : List (Nat × Nat)) (s : State)
    (hn : l.Nodup) (hf : ∀ m ∈ l, ∀ f ∈ (s.thr (c.team, m.1, m.2)).flyP, f.due ≤ s.now c.team) :
    (∀ m ∈ l, PutPred (s.thr (c.team, m.1, m.2))
        ((l.foldl (fun s' m => putP c m.1 m.2 n (val m.1 m.2) s') s).thr (c.team, m.1, m.2)) n (val m.1 m.2))
      ∧ (∀ q, (∀ m ∈ l, q ≠ (c.team, m.1, m.2)) → (l.foldl (fun s' m => putP c m.1 m.2 n (val m.1 m.2) s') s).thr q = s.thr q)
      ∧ l.foldl (fun s' m => putP c m.1 m.2 n (val m.1 m.2) s') s =
        { s with threads := (l.foldl (fun s' m => putP c m.1 m.2 n (val m.1 m.2) s') s).threads } := by
  induction l generalizing s with
  | nil => exact ⟨fun m h => absurd h List.not_mem_nil, fun _ _ => rfl, rfl⟩
  | cons a l ih =>
    obtain ⟨ha, hl⟩ := List.nodup_cons.1 hn
    simp only [List.foldl_cons]
    have hne : ∀ m ∈ l, ((c.team, m.1, m.2) : TKey) ≠ (c.team, a.1, a.2) := by
      intro m hm h
      simp only [Prod.mk.injEq, true_and] at h
      exact ha (by rw [show a = m from Prod.ext h.1.symm h.2.symm]; exact hm)
    have ho : ∀ m ∈ l, (putP c a.1 a.2 n (val a.1 a.2) s).thr (c.team, m.1, m.2) = s.thr (c.team, m.1, m.2) :=
      fun m hm => putP_other _ _ _ _ _ _ (hne m hm)
    have hnow : (putP c a.1 a.2 n (val a.1 a.2) s).now c.team = s.now c.team := rfl
    obtain ⟨i1, i2, i3⟩ := ih (putP c a.1 a.2 n (val a.1 a.2) s) hl
      (fun m hm => by rw [ho m hm, hnow]; exact hf m (List.mem_cons_of_mem _ hm))
    refine ⟨fun m hm => ?_, fun q hq => ?_, ?_⟩
    · rcases List.mem_cons.1 hm with rfl | hm
      · rw [i2 _ (fun m' hm' => (hne m' hm').symm)]
        exact putP_put _ _ _ _ _ _ (hf _ List.mem_cons_self)
      · have := i1 m hm
        rw [ho m hm] at this
        exact this
    · rw [i2 q (fun m hm => hq m (List.mem_cons_of_mem _ hm)), putP_other _ _ _ _ _ _ (hq a List.mem_cons_self)]
    · rw [i3, putP_eq]

/-- What a predicate effect leaves. -/
theorem predEff_lands (dsel : Nat) (f : Ctx → State → Nat → Nat → Bool) (c : Ctx) (s : State) (h : Sys2Proof.Able c s) :
    Sys2Proof.PredResult c s (predEff dsel f c s) (idx dsel) (f c s) ∧ Sys2Proof.PredFrame c s (predEff dsel f c s) (idx dsel) := by
  obtain ⟨h1, h2, h3⟩ := putPreds c (idx dsel) (f c s) c.lanes s h.once h.stillP
  refine ⟨⟨fun m hm hn => (h1 m hm).dest hn, fun _ => rfl⟩, ⟨h3, h2, fun m hm => ⟨_, rfl, (h1 m hm).kept⟩, fun k j hj hne => ?_⟩⟩
  by_cases hk : ∀ m ∈ c.lanes, k ≠ (c.team, m.1, m.2)
  · exact congrArg (Thread.pred · j) (h2 k hk)
  · simp only [not_forall, not_not] at hk
    obtain ⟨m, hm, rfl⟩ := hk
    exact (h1 m hm).preds j hj hne

/-! ### Uniform registers -/

/-- What a write of an s register leaves. -/
theorem putS_lands (c : Ctx) (s : State) (g n v : Nat) (hf : ∀ f ∈ (s.grp c.team g).inflightS, f.due ≤ s.now c.team) :
    Sys2Proof.SResult c s (putS c g n v s) g n v := by
  have e : (putS c g n v s).grp c.team g = { s.grp c.team g with
      sregs := (s.grp c.team g).sregs.set n ⟨BitVec.ofNat 64 v, false⟩
      inflightS := ((putS c g n v s).grp c.team g).inflightS
      pendS := ((putS c g n v s).grp c.team g).pendS } := by
    have hn : (s.grp c.team g).inflightS.filter (fun f => decide (s.now c.team < f.due)) = [] := by
      rw [List.filter_eq_nil_iff]
      intro f h
      simp [Nat.not_lt.2 (hf f h)]
    unfold putS
    rw [State.grp_modGrp_same, hn]
    simp
  refine ⟨?_, rfl, fun k hk => ?_, fun k hk => ?_, ⟨_, rfl, ?_⟩⟩
  · rw [e]
    simp [Group.s]
  · unfold putS
    rw [State.grp_modGrp_other _ _ (fun h => hk h.symm)]
  · rw [e]
    simp only [Group.s]
    rw [Tbl.getD_set_other _ _ _ (Ne.symm hk)]
  · rw [e]

/-! ### Lanes that were absent from a `.part` instance -/

theorem upFrom_nodup (n lo : Nat) : (upFrom lo n).Nodup := by
  induction n generalizing lo with
  | zero => exact List.nodup_nil
  | succ n ih =>
    simp only [upFrom, List.nodup_cons, mem_upFrom]
    exact ⟨by omega, ih _⟩

theorem leftOut_nodup (c : Ctx) (s : State) (m : Nat × List Nat) : (Sys2Proof.leftOut c s m).Nodup :=
  ((upFrom_nodup _ _).filter _).filter _

/-- One member's part of the end of a `.part` instance. -/
def letGoOf (d : Desc) (c : Ctx) (r : Rdv) (s1 s : State) (a : Arrival) : State :=
  (s.modThrs c.team a.group (Sys2Proof.leftOut c s1 (a.group, a.act))
      (fun t => if t.wait == .rdv (c.h.scope == 3) then { t with wait := .none } else t)).modGrp c.team a.group
    (fun G => { G with part := G.part.set (c.h.scope == 3) ⟨Sys2Proof.leftOut c s1 (a.group, a.act), r.pc, r.cd, true,
      (Sys2Proof.leftOut c s1 (a.group, a.act)).map (fun l => (l, d.out c s1 a.group l))⟩ })

theorem partEnd_fold (d : Desc) (c : Ctx) (r : Rdv) (s1 u : State) (h : d.part = true) :
    partEnd d c r s1 u = r.arr.foldl (letGoOf d c r s1) u := by
  unfold partEnd
  rw [if_pos h]
  rfl

theorem letGo_fold (d : Desc) (c : Ctx) (r : Rdv) (s1 : State) (l : List Arrival) (u : State) (hn : (l.map (·.group)).Nodup) :
    let t := l.foldl (letGoOf d c r s1) u
    t = { u with threads := t.threads, groups := t.groups }
      ∧ (∀ a ∈ l, t.grp c.team a.group = { u.grp c.team a.group with
          part := (u.grp c.team a.group).part.set (c.h.scope == 3) ⟨Sys2Proof.leftOut c s1 (a.group, a.act), r.pc, r.cd, true,
            (Sys2Proof.leftOut c s1 (a.group, a.act)).map (fun l => (l, d.out c s1 a.group l))⟩ })
      ∧ (∀ k : Nat × Nat, (∀ a ∈ l, k ≠ (c.team, a.group)) → t.grp k.1 k.2 = u.grp k.1 k.2)
      ∧ (∀ a ∈ l, ∀ i ∈ Sys2Proof.leftOut c s1 (a.group, a.act), t.thr (c.team, a.group, i) = { u.thr (c.team, a.group, i) with
          wait := if (u.thr (c.team, a.group, i)).wait = .rdv (c.h.scope == 3) then .none else (u.thr (c.team, a.group, i)).wait })
      ∧ ∀ k, (∀ a ∈ l, ∀ i ∈ Sys2Proof.leftOut c s1 (a.group, a.act), k ≠ (c.team, a.group, i)) → t.thr k = u.thr k := by
  induction l generalizing u with
  | nil => exact ⟨rfl, fun a h => (List.not_mem_nil h).elim, fun _ _ => rfl, fun a h => (List.not_mem_nil h).elim, fun _ _ => rfl⟩
  | cons b l ih =>
    obtain ⟨hb, hl⟩ := List.nodup_cons.1 hn
    have hne : ∀ a ∈ l, a.group ≠ b.group := fun a ha h => hb (List.mem_map.2 ⟨a, ha, h⟩)
    simp only [List.foldl_cons]
    obtain ⟨h1, h2, h3, h4, h5⟩ := ih (letGoOf d c r s1 u b) hl
    have e1 : letGoOf d c r s1 u b = { u with threads := (letGoOf d c r s1 u b).threads, groups := (letGoOf d c r s1 u b).groups } := by
      unfold letGoOf
      rw [State.modThrs_eq]
      rfl
    have eg : ∀ g, g ≠ b.group → (letGoOf d c r s1 u b).grp c.team g = u.grp c.team g := by
      intro g hg
      unfold letGoOf
      rw [State.grp_modGrp_other _ _ (by simp [Ne.symm hg]), State.grp_modThrs]
    have et : ∀ k : TKey, (∀ i ∈ Sys2Proof.leftOut c s1 (b.group, b.act), k ≠ (c.team, b.group, i)) → (letGoOf d c r s1 u b).thr k = u.thr k := by
      intro k hk
      unfold letGoOf
      rw [State.thr_modGrp, State.thr_modThrs_other _ _ _ _ _ hk]
    refine ⟨by rw [h1, e1], fun a ha => ?_, fun k hk => ?_, fun a ha i hi => ?_, fun k hk => ?_⟩
    · rcases List.mem_cons.1 ha with rfl | ha
      · rw [h3 (c.team, a.group) (fun b' hb' h => hne b' hb' (by simpa using h.symm))]
        unfold letGoOf
        rw [State.grp_modGrp_same, State.grp_modThrs]
      · rw [h2 a ha, eg _ (hne a ha)]
    · rw [h3 k (fun a ha => hk a (List.mem_cons_of_mem _ ha))]
      unfold letGoOf
      rw [State.grp_modGrp_other _ _ (fun h => hk b List.mem_cons_self h.symm), State.grp_modThrs]
    · rcases List.mem_cons.1 ha with rfl | ha
      · rw [h5 _ (fun a' ha' i' _ h => hne a' ha' (by simp only [Prod.mk.injEq] at h; exact h.2.1.symm))]
        unfold letGoOf
        rw [State.thr_modGrp, State.thr_modThrs_mem _ _ _ _ _ (leftOut_nodup _ _ _) hi]
        by_cases hw : (u.thr (c.team, a.group, i)).wait = .rdv (c.h.scope == 3)
        · simp [hw]
        · simp [hw]
      · rw [h4 a ha i hi, et _ (fun i' _ h => hne a ha (by simp only [Prod.mk.injEq] at h; exact h.2.1))]
    · rw [h5 k (fun a ha => hk a (List.mem_cons_of_mem _ ha)), et k (hk b List.mem_cons_self)]

/-- The end of a `.part` instance, said through the members of its context. -/
theorem partEnd_letGo (d : Desc) (c : Ctx) (r : Rdv) (s1 u : State) (h : d.part = true) (hm : c.mem = r.arr.map (fun a => (a.group, a.act)))
    (hp : c.pc = r.pc) (hc : c.cd = r.cd) (hn : (c.mem.map Prod.fst).Nodup) :
    Sys2Proof.LetGo c s1 u (partEnd d c r s1 u) (d.out c s1) := by
  have hn' : (r.arr.map (·.group)).Nodup := by
    rw [hm, List.map_map] at hn
    exact hn
  rw [partEnd_fold d c r s1 u h]
  obtain ⟨h1, h2, h3, h4, h5⟩ := letGo_fold d c r s1 r.arr u hn'
  have hmem : ∀ {m : Nat × List Nat}, m ∈ c.mem → ∃ a ∈ r.arr, (a.group, a.act) = m := by
    intro m h
    rw [hm] at h
    exact List.mem_map.1 h
  have hback : ∀ a ∈ r.arr, (a.group, a.act) ∈ c.mem := fun a ha => by rw [hm]; exact List.mem_map.2 ⟨a, ha, rfl⟩
  refine ⟨h1, fun m hm => ?_, fun k hk => ?_, fun m hm l hl => ?_, fun k hk => ?_⟩
  · obtain ⟨a, ha, rfl⟩ := hmem hm
    rw [hp, hc]
    exact h2 a ha
  · exact h3 k (fun a ha => hk _ (hback a ha))
  · obtain ⟨a, ha, rfl⟩ := hmem hm
    exact h4 a ha l hl
  · exact h5 k (fun a ha => hk _ (hback a ha))

/-- A `.part` instance at a rendezvous has its effect, and lets the lanes go that it left out (R191). -/
theorem issue_letGo {i : Instr} {e : Nat} {d : Desc} {s : State} {c : Ctx} {s1 : State} (h : Sys2Proof.Runs i (Sys2Proof.needOf e d) s c s1)
    (hp : d.part = true) (ha : d.alone = false) (hs : 2 ≤ c.h.scope) : Sys2Proof.LetGo c s1 (d.eff c s1) (issue i e d s) (d.out c s1) := by
  obtain ⟨⟨h1, -⟩ | ⟨c0, h1, rfl, rfl⟩, able⟩ := h
  · rcases h1.scope with h2 | h2
    · omega
    · have h2 : d.alone = true := h2
      rw [ha] at h2
      cases h2
  · rw [issue_joined h1]
    exact partEnd_letGo _ _ _ _ _ hp rfl rfl rfl able.groups

/-- An instruction that executes, `.part` instances too: up to what absent lanes wait for, the threads are those of its effect. -/
theorem issue_runs_part {i : Instr} {e : Nat} {d : Desc} {s : State} {c : Ctx} {s1 : State} (h : Sys2Proof.Runs i (Sys2Proof.needOf e d) s c s1) :
    ∀ k, ∃ w, (issue i e d s).thr k = { (d.eff c s1).thr k with wait := w } := by
  intro k
  by_cases hp : d.part = false ∨ c.h.scope ≤ 1
  · rw [issue_runs h hp]
    exact ⟨_, rfl⟩
  · simp only [not_or, Bool.not_eq_false] at hp
    by_cases ha : d.alone = true
    · obtain ⟨⟨h1, rfl⟩ | ⟨c0, h1, -, -⟩, -⟩ := h
      · rw [issue_ready h1]
        exact ⟨_, rfl⟩
      · have h2 : d.alone = false := h1.meets
        rw [ha] at h2
        cases h2
    · have hl := issue_letGo h hp.1 (by simpa using ha) (by omega)
      by_cases hk : ∀ m ∈ c.mem, ∀ l ∈ Sys2Proof.leftOut c s1 m, k ≠ (c.team, m.1, l)
      · rw [hl.others k hk]
        exact ⟨_, rfl⟩
      · simp only [not_forall, not_not] at hk
        obtain ⟨m, hm, l, hl', rfl⟩ := hk
        rw [hl.goOn m hm l hl']
        exact ⟨_, rfl⟩

/-- Results in lanes do not depend on what threads wait for. -/
theorem LaneResult_part {c : Ctx} {s1 t u : State} {dsel : Nat} {fl : Fill} {val : Nat → Nat → Nat}
    (h : Sys2Proof.LaneResult c s1 t dsel fl val) (hu : ∀ k, ∃ w, u.thr k = { t.thr k with wait := w }) :
    Sys2Proof.LaneResult c s1 u dsel fl val := by
  refine ⟨fun hs m hm => ?_, fun m hm => ?_⟩ <;> obtain ⟨w, hw⟩ := hu (c.team, m.1, m.2) <;> rw [hw]
  · exact h.dest hs m hm
  · exact h.latch m hm

theorem PredResult_part {c : Ctx} {s1 t u : State} {n : Nat} {val : Nat → Nat → Bool}
    (h : Sys2Proof.PredResult c s1 t n val) (hu : ∀ k, ∃ w, u.thr k = { t.thr k with wait := w }) :
    Sys2Proof.PredResult c s1 u n val := by
  refine ⟨fun m hm hn => ?_, fun _ => rfl⟩
  obtain ⟨w, hw⟩ := hu (c.team, m.1, m.2)
  rw [hw]
  exact h.dest m hm hn

/-! ### From a row to its statements -/

/-- An instruction that executes has a legal word, operand fields that it accepts, and conditions of its own that raise nothing. -/
theorem runs_facts {i : Instr} {n : Sys2Proof.Need} {s : State} {c : Ctx} {s1 : State} (h : Sys2Proof.Runs i n s c s1) :
    legal i = true ∧ (∃ a b, badField n.opds a b = none) ∧ ∃ c' s', n.chk c' s' = [] := by
  obtain ⟨⟨h1, -⟩ | ⟨c0, h1, -, -⟩, -⟩ := h
  · exact ⟨h1.word, ⟨_, _, h1.fields⟩, _, _, h1.passes⟩
  · exact ⟨h1.word, ⟨_, _, h1.fields⟩, _, _, h1.passes⟩

theorem Opd.ok_of_badField {o : Opd} {l : List Opd} {a b : Bool} (h : badField (o :: l) a b = none) : o.ok a b = true := by
  unfold badField at h
  split at h
  · assumption
  · cases h

/-- An accepted destination of class 0 lies in the window. -/
theorem dst_fits {sel n : Nat} {a b : Bool} {allow : List Nat} {f : Nat} {sw : Bool} (hc : allow = [0])
    (h : (⟨f, sel, allow, n, true, sw⟩ : Opd).ok a b = true) (hs : isSwb sel = false) : idx sel + n ≤ 64 := by
  subst hc
  unfold Opd.ok at h
  simp only [hs, Bool.false_eq_true, if_false] at h
  have hc0 : cls sel = 0 := by
    simp only [Bool.and_eq_true] at h
    have := h.1.2
    unfold clsOk at this
    by_cases h6 : cls sel = 6
    · simp [h6] at this
    · by_cases h2 : cls sel = 2
      · simp [h2] at this
      · simp [h6, h2] at this
        exact this
  simp only [hc0, idxOk, Bool.and_eq_true, decide_eq_true_eq] at h
  exact h.1.1.2

theorem tyBits_cases (ty : Nat) : tyBits ty = 4 ∨ tyBits ty = 8 ∨ tyBits ty = 16 ∨ tyBits ty = 32 ∨ tyBits ty = 64 := by
  unfold tyBits intTy
  split <;> (split at * <;> simp_all)
  split <;> simp

/-- The destination of a type lies in the window when its registers do. -/
theorem fillOf_ok {ty k : Nat} (h : k + regsOf ty ≤ 64) : Sys2Proof.fillOk (fillOf ty) k := by
  rcases tyBits_cases ty with e | e | e | e | e <;> simp [regsOf, fillOf, e, Sys2Proof.fillOk] at h ⊢ <;> omega

theorem LaneRow_of {r : Sys2Proof.LaneRow} {e : Nat} {d : Desc} {f : Ctx → State → Nat → Nat → Nat}
    (hx : ∀ s, exec r.instr s = .next (issue r.instr e d s))
    (hn : r.need = Sys2Proof.needOf e d) (hd : d.eff = laneEff r.dsel r.fill f) (hv : ∀ c s g l, f c s g l = r.val c s g l)
    (hok : ∀ s c s1, Sys2Proof.Runs r.instr r.need s c s1 → isSwb r.dsel = false → Sys2Proof.fillOk r.fill (idx r.dsel)) :
    r.Lands ∧ r.Keeps := by
  have hf : f = r.val := by funext c s g l; exact hv c s g l
  subst hf
  refine ⟨fun s c s1 h => ⟨_, hx s, ?_⟩, fun s c s1 h hp => ⟨_, hx s, ?_⟩⟩
  · have hl := (laneEff_lands r.dsel r.fill r.val c s1 h.2 (hok s c s1 h)).1
    rw [hn] at h
    rw [← congrFun (congrFun hd c) s1] at hl
    exact LaneResult_part hl (issue_runs_part h)
  · have hl := (laneEff_lands r.dsel r.fill r.val c s1 h.2 (hok s c s1 h)).2
    rw [hn] at h hp
    rw [← congrFun (congrFun hd c) s1] at hl
    rw [issue_runs h hp]
    exact hl

theorem PredRow_of {r : Sys2Proof.PredRow} {e : Nat} {d : Desc} {f : Ctx → State → Nat → Nat → Bool}
    (hx : ∀ s, exec r.instr s = .next (issue r.instr e d s))
    (hn : r.need = Sys2Proof.needOf e d) (hd : d.eff = predEff r.dsel f) (hv : ∀ c s g l, f c s g l = r.val c s g l) :
    r.Lands ∧ r.Keeps := by
  have hf : f = r.val := by funext c s g l; exact hv c s g l
  subst hf
  refine ⟨fun s c s1 h => ⟨_, hx s, ?_⟩, fun s c s1 h hp => ⟨_, hx s, ?_⟩⟩
  · have hl := (predEff_lands r.dsel r.val c s1 h.2).1
    rw [hn] at h
    rw [← congrFun (congrFun hd c) s1] at hl
    exact PredResult_part hl (issue_runs_part h)
  · have hl := (predEff_lands r.dsel r.val c s1 h.2).2
    rw [hn] at h hp
    rw [← congrFun (congrFun hd c) s1] at hl
    rw [issue_runs h hp]
    exact hl

theorem ScalRow_of {r : Sys2Proof.ScalRow} {e : Nat} {d : Desc} {f : Ctx → State → Nat}
    (hx : ∀ s, exec r.instr s = .next (issue r.instr e d s))
    (hn : r.need = Sys2Proof.needOf e d) (hp : d.part = false) (hd : d.eff = sEff r.dsel f)
    (hv : ∀ c s, f c s = r.val c s) : r.Lands := by
  have hf : f = r.val := by funext c s; exact hv c s
  subst hf
  intro s c s1 h
  have ha := h.2
  rw [hn] at h
  refine ⟨_, hx s, ?_⟩
  rw [issue_runs h (.inl hp), hd]
  unfold sEff
  refine ⟨fun hne => ?_, fun he => by simp [he]⟩
  have : c.act.isEmpty = false := by cases hc : c.act <;> simp_all
  simp only [this, Bool.false_eq_true, if_false]
  exact putS_lands _ _ _ _ _ (ha.stillS _)

/-! ### Values of sources -/

theorem srcV_lt (c : Ctx) (s : State) (g l sel ty : Nat) : srcV c s g l sel ty < 2 ^ tyBits ty := Nat.mod_lt _ (Nat.two_pow_pos _)

theorem uVal_lt (c : Ctx) (s : State) (sel ty : Nat) : uVal c s sel ty < 2 ^ tyBits ty := Nat.mod_lt _ (Nat.two_pow_pos _)

theorem notN_of_lt {n a : Nat} (h : a < 2 ^ n) : notN n a = 2 ^ n - 1 - a := by
  unfold notN
  rw [Nat.mod_eq_of_lt h]

/-- `shr` of the tables is the quotient by a power of two, rounded down. -/
theorem shrOp_eq {ty a b : Nat} (h : a < 2 ^ tyBits ty) : shrOp ty a b = Sys2Proof.shiftRight ty a b := by
  unfold shrOp Sys2Proof.shiftRight intVal
  cases tySigned ty
  · simp only [Bool.false_eq_true, if_false]
    unfold wrapN
    rw [Nat.mod_eq_of_lt h]
    rw [Int.fdiv_eq_ediv_of_nonneg _ (Int.natCast_nonneg _), ← Int.natCast_ediv]
    have : a / 2 ^ (b % 256) < 2 ^ tyBits ty := Nat.lt_of_le_of_lt (Nat.div_le_self _ _) h
    rw [← Int.natCast_emod, Int.toNat_natCast, Nat.mod_eq_of_lt this]
  · rfl

theorem upFrom_shift (n lo : Nat) : upFrom (lo + 1) n = (upFrom lo n).map (· + 1) := by
  induction n generalizing lo with
  | zero => rfl
  | succ n ih => simp only [upFrom, List.map_cons, ih]

/-- `popc` counts the set bits. -/
theorem popcount_eq (n a : Nat) : popcount n a = ((upFrom 0 n).filter (bit a)).length := by
  induction n generalizing a with
  | zero => rfl
  | succ n ih =>
    simp only [popcount, upFrom, Nat.zero_add]
    rw [upFrom_shift n 0, List.filter_cons, List.filter_map, ih (a / 2)]
    have e : (bit a ∘ fun x => x + 1) = bit (a / 2) := by
      funext k
      simp only [Function.comp, bit, Nat.div_div_eq_div_mul]
      rw [Nat.pow_succ, Nat.mul_comm]
    rw [e]
    by_cases h : a % 2 = 1
    · simp [bit, h]; omega
    · have : a % 2 = 0 := by omega
      simp [bit, this]

/-- The integer operations of the tables are those of R348. -/
theorem intOp_eq (op : IOp) (ty pol a b x : Nat) :
    intOp op ty pol a b x = Sys2Proof.underPol ty pol (match op with
      | .add => Sys2Proof.asInt ty a + Sys2Proof.asInt ty b
      | .sub => Sys2Proof.asInt ty a - Sys2Proof.asInt ty b
      | .mul => Sys2Proof.asInt ty a * Sys2Proof.asInt ty b
      | .mulhi => Int.fdiv (Sys2Proof.asInt ty a * Sys2Proof.asInt ty b) ((2 ^ tyBits ty : Nat) : Int)
      | .mad => Sys2Proof.asInt ty a * Sys2Proof.asInt ty b + Sys2Proof.asInt ty x
      | .div => Sys2Proof.quot ty (Sys2Proof.asInt ty a) (Sys2Proof.asInt ty b)
      | .rem => Sys2Proof.remn (Sys2Proof.asInt ty a) (Sys2Proof.asInt ty b)
      | .min => if Sys2Proof.asInt ty b < Sys2Proof.asInt ty a then Sys2Proof.asInt ty b else Sys2Proof.asInt ty a
      | .max => if Sys2Proof.asInt ty a < Sys2Proof.asInt ty b then Sys2Proof.asInt ty b else Sys2Proof.asInt ty a
      | .abs => ((Sys2Proof.asInt ty a).natAbs : Int)
      | .neg => -(Sys2Proof.asInt ty a)) := by
  unfold intOp Sys2Proof.underPol Sys2Proof.asInt Sys2Proof.quot tySigned tyBits
  cases intTy ty with
  | none => rfl
  | some p => cases op <;> rfl

/-- An accepted destination that may suppress its write-back lies in the window. -/
theorem dstSwb_fits {n : Sys2Proof.Need} {sel k : Nat} {l : List Opd} (hl : n.opds = dstSwb sel k :: l) {i : Instr} {s : State} {c : Ctx}
    {s1 : State} (h : Sys2Proof.Runs i n s c s1) (hs : isSwb sel = false) : idx sel + k ≤ 64 := by
  obtain ⟨-, ⟨a, b, hf⟩, -⟩ := runs_facts h
  rw [hl] at hf
  exact dst_fits rfl (Opd.ok_of_badField hf) hs

end Sys2Proof.Machine
end

