-- ==== Sys2Proof/Laws/Control.lean ====
section
/-! SUPPORT. Instructions whose next state is given outright, and those that change each active thread. -/

namespace Sys2Proof.Machine

/-- An instruction without `.part` completes with its effect. -/
theorem exec_runs {i : Instr} {e : Nat} {d : Desc} {s : State} {c : Ctx} {s1 : State} (he : exec i s = .next (issue i e d s))
    (h : Sys2Proof.Runs i (Sys2Proof.needOf e d) s c s1) (hp : d.part = false ∨ c.h.scope ≤ 1) : exec i s = .next (d.eff c s1) := by
  rw [he, issue_runs h hp]

theorem EffRow_of {i : Instr} {e : Nat} {d : Desc} {f : Ctx → State → State} (he : ∀ s, exec i s = .next (issue i e d s)) (hf : ∀ c s, d.eff c s = f c s) :
    Sys2Proof.EffRow.Lands ⟨i, Sys2Proof.needOf e d, f⟩ :=
  fun s _ _ h hp => by rw [exec_runs (he s) h hp, hf]

/-- The same of a `.part` instance at a rendezvous. -/
theorem EffRow_part {i : Instr} {e : Nat} {d : Desc} {f : Ctx → State → State} {out : Ctx → State → Nat → Nat → Nat}
    (he : ∀ s, exec i s = .next (issue i e d s)) (hf : ∀ c s, d.eff c s = f c s) (ho : ∀ c s, d.out c s = out c s) :
    Sys2Proof.EffRow.LandsPart ⟨i, Sys2Proof.needOf e d, f⟩ out := by
  intro s c s1 h hp ha hs
  refine ⟨_, he s, ?_⟩
  have := issue_letGo h hp ha hs
  rw [hf, ho] at this
  exact this

/-- The issue set and the active lanes have no repeats. -/
theorem runs_nodup {i : Instr} {n : Sys2Proof.Need} {s : State} {c : Ctx} {s1 : State} (h : Sys2Proof.Runs i n s c s1) :
    c.set.Nodup ∧ c.act.Nodup ∧ ∀ l ∈ c.act, l ∈ c.set := by
  have key : ∀ c0, Sys2Proof.Clear i n c0 s → c0.set.Nodup ∧ c0.act.Nodup ∧ ∀ l ∈ c0.act, l ∈ c0.set := by
    intro c0 hc
    have hm := hc.ctx
    unfold mkCtx at hm
    split at hm
    · simp only [Option.some.injEq] at hm
      have hs := hc.once
      subst hm
      exact ⟨hs, hs.filter _, fun l hl => (List.mem_filter.1 hl).1⟩
    · cases hm
  rcases h.1 with ⟨hr, _⟩ | ⟨c0, hj, rfl, _⟩
  · exact key c hr.toClear
  · change (joinCtx c0 (arrivals c0 (dropPart c0 s))).set.Nodup ∧ (joinCtx c0 (arrivals c0 (dropPart c0 s))).act.Nodup
      ∧ ∀ l ∈ (joinCtx c0 (arrivals c0 (dropPart c0 s))).act, l ∈ (joinCtx c0 (arrivals c0 (dropPart c0 s))).set
    unfold joinCtx
    have hs := hj.sound
    cases ha : (arrivals c0 (dropPart c0 s)).arr with
    | nil => exact key c0 hj.toClear
    | cons a l => exact hs a (by rw [ha]; exact List.mem_cons_self)

theorem key_ne {c : Ctx} {l m : Nat} (h : l ≠ m) : c.key l ≠ c.key m := by
  intro q; exact h (by simpa [Ctx.key] using q)

/-- A change of each listed thread touches exactly those. -/
theorem forEach_modThr (c : Ctx) (s1 : State) (f : Nat → Thread → Thread) (l : List Nat) (hn : l.Nodup) :
    (forEach l (fun s' i => s'.modThr (c.key i) (f i)) s1) = { s1 with threads := (forEach l (fun s' i => s'.modThr (c.key i) (f i)) s1).threads } ∧
    (∀ k, (∀ i ∈ l, k ≠ c.key i) → (forEach l (fun s' i => s'.modThr (c.key i) (f i)) s1).thr k = s1.thr k) ∧
    (∀ i ∈ l, (forEach l (fun s' i => s'.modThr (c.key i) (f i)) s1).thr (c.key i) = f i (s1.thr (c.key i))) := by
  induction l generalizing s1 with
  | nil => simp [forEach]
  | cons a l ih =>
    have hn' := List.nodup_cons.1 hn
    obtain ⟨a1, a2, a3⟩ := ih (s1.modThr (c.key a) (f a)) hn'.2
    simp only [forEach, List.foldl_cons] at *
    refine ⟨a1, ?_, ?_⟩
    · intro k hk
      rw [a2 k (fun i hi => hk i (List.mem_cons_of_mem _ hi)), State.thr_modThr_other]
      exact (hk a (List.mem_cons_self ..)).symm
    · intro i hi
      rcases List.mem_cons.1 hi with rfl | hi
      · rw [a2 _ (fun j hj => key_ne (fun q => hn'.1 (by rw [q]; exact hj))), State.thr_modThr_same]
      · rw [a3 i hi, State.thr_modThr_other]
        exact key_ne (fun q => hn'.1 (by rw [q]; exact hi))

theorem threadsBecome {c : Ctx} {s1 : State} {f : Nat → Thread → Thread} (hn : c.act.Nodup) :
    Sys2Proof.ThreadsBecome c s1 (forEach c.act (fun s' i => s'.modThr (c.key i) (f i)) s1) f :=
  ⟨(forEach_modThr c s1 f _ hn).1, (forEach_modThr c s1 f _ hn).2.1, (forEach_modThr c s1 f _ hn).2.2⟩

end Sys2Proof.Machine
end

