-- ==== Sys2Proof/Laws/Encoding.lean ====
section
/-! SUPPORT. Every field of an encoded word reads back, layout by layout (Tables enc-1 and enc-4). -/

namespace Sys2Proof.Laws

open Sys2Proof.Machine

/-- The header's 20 bits. -/
theorem encodeHdr_lt (h : Hdr) (hf : fitsHdr h = true) : encodeHdr h < 2 ^ 20 := by
  obtain ⟨sc, gn, gu, wm, sg, st, nb, yi⟩ := h
  simp only [fitsHdr, Bool.and_eq_true, decide_eq_true_eq] at hf
  simp only [encodeHdr, b2n, Nat.reducePow]
  cases gn <;> cases nb <;> cases yi <;> simp <;> omega

/-- The operand region's 60 bits. -/
theorem encodeOps_lt (o : Opnds) (hf : fitsOps o = true) : encodeOps o < 2 ^ 60 := by
  cases o <;> simp only [fitsOps, Bool.and_eq_true, decide_eq_true_eq, Nat.reducePow] at hf <;>
    simp only [encodeOps, Nat.reducePow] <;> omega

/-- The header of an encoded word. -/
theorem hdrOf_encode (op : Nat) (h : Hdr) (x : Nat) (hf : fitsHdr h = true) (hx : x < 2 ^ 60) :
    hdrOf (op * 2 ^ 80 + encodeHdr h * 2 ^ 60 + x) = h := by
  obtain ⟨sc, gn, gu, wm, sg, st, nb, yi⟩ := h
  simp only [fitsHdr, Bool.and_eq_true, decide_eq_true_eq] at hf
  simp only [hdrOf, encodeHdr, bits, bit, b2n, Nat.reducePow, Nat.reduceSub, Nat.reduceAdd, Hdr.mk.injEq] at *
  refine ⟨?_, ?_, ?_, ?_, ?_, ?_, ?_, ?_⟩ <;> cases gn <;> cases nb <;> cases yi <;> simp <;> omega

/-- Layout G of an encoded word. -/
theorem opGOf_encode (y : Nat) (o : OpG) (hf : fitsOps (.g o) = true) : opGOf (y * 2 ^ 60 + encodeOps (.g o)) = o := by
  obtain ⟨d, a, b, c, ty, rnd, pol, fl⟩ := o
  simp only [fitsOps, Bool.and_eq_true, decide_eq_true_eq] at hf
  simp only [opGOf, encodeOps, bits, Nat.reducePow, Nat.reduceSub, Nat.reduceAdd, OpG.mk.injEq]
  refine ⟨?_, ?_, ?_, ?_, ?_, ?_, ?_, ?_⟩ <;> omega

/-- Layout I of an encoded word. -/
theorem opIOf_encode (y : Nat) (o : OpI) (hf : fitsOps (.i o) = true) : opIOf (y * 2 ^ 60 + encodeOps (.i o)) = o := by
  obtain ⟨d, a, imm, m⟩ := o
  simp only [fitsOps, Bool.and_eq_true, decide_eq_true_eq, Nat.reducePow] at hf
  simp only [opIOf, encodeOps, bits, Nat.reducePow, Nat.reduceSub, Nat.reduceAdd, OpI.mk.injEq]
  refine ⟨?_, ?_, ?_, ?_⟩ <;> omega

/-- Layout M of an encoded word. -/
theorem opMOf_encode (y : Nat) (o : OpM) (hf : fitsOps (.m o) = true) : opMOf (y * 2 ^ 60 + encodeOps (.m o)) = o := by
  obtain ⟨d, a, b, msc, ord, ty, off, vec, m⟩ := o
  simp only [fitsOps, Bool.and_eq_true, decide_eq_true_eq, Nat.reducePow] at hf
  simp only [opMOf, encodeOps, bits, Nat.reducePow, Nat.reduceSub, Nat.reduceAdd, OpM.mk.injEq]
  refine ⟨?_, ?_, ?_, ?_, ?_, ?_, ?_, ?_, ?_⟩ <;> omega

/-- Layout T of an encoded word. -/
theorem opTOf_encode (y : Nat) (o : OpT) (hf : fitsOps (.t o) = true) : opTOf (y * 2 ^ 60 + encodeOps (.t o)) = o := by
  obtain ⟨d, co, nc, hs, msc, ord, ty, vec, m⟩ := o
  simp only [fitsOps, Bool.and_eq_true, decide_eq_true_eq, Nat.reducePow] at hf
  simp only [opTOf, encodeOps, bits, Nat.reducePow, Nat.reduceSub, Nat.reduceAdd, OpT.mk.injEq]
  refine ⟨?_, ?_, ?_, ?_, ?_, ?_, ?_, ?_, ?_⟩ <;> omega

/-- Layout E of an encoded word. -/
theorem opEOf_encode (y : Nat) (o : OpE) (hf : fitsOps (.e o) = true) : opEOf (y * 2 ^ 60 + encodeOps (.e o)) = o := by
  obtain ⟨a, b, c, pdx, pdy, msc, m⟩ := o
  simp only [fitsOps, Bool.and_eq_true, decide_eq_true_eq, Nat.reducePow] at hf
  simp only [opEOf, encodeOps, bits, Nat.reducePow, Nat.reduceSub, Nat.reduceAdd, OpE.mk.injEq]
  refine ⟨?_, ?_, ?_, ?_, ?_, ?_, ?_⟩ <;> omega

/-- The opcode of an encoded word. -/
theorem opcode_encode (a z : Nat) (hz : z < 2 ^ 80) : (a * 2 ^ 80 + z) / 2 ^ 80 = a := by
  rw [Nat.mul_comm, Nat.mul_add_div (by positivity), Nat.div_eq_of_lt hz, Nat.add_zero]

/-- Header and operands fit below the opcode. -/
theorem below_opcode (y x : Nat) (hy : y < 2 ^ 20) (hx : x < 2 ^ 60) : y * 2 ^ 60 + x < 2 ^ 80 := by
  simp only [Nat.reducePow] at *
  omega

/-- The major of an encoded word. -/
theorem major_encode (m n y x : Nat) (hm : m < 256) (hn : n < 256) (hy : y < 2 ^ 20) (hx : x < 2 ^ 60) :
    bits ((256 * m + n) * 2 ^ 80 + y * 2 ^ 60 + x) 95 88 = m := by
  rw [bits, Nat.add_assoc, show (2 : Nat) ^ 88 = 2 ^ 80 * 256 by norm_num, ← Nat.div_div_eq_div_mul,
    opcode_encode _ _ (below_opcode y x hy hx)]
  omega

/-- The minor of an encoded word. -/
theorem minor_encode (m n y x : Nat) (hn : n < 256) (hy : y < 2 ^ 20) (hx : x < 2 ^ 60) :
    bits ((256 * m + n) * 2 ^ 80 + y * 2 ^ 60 + x) 87 80 = n := by
  rw [bits, Nat.add_assoc, opcode_encode _ _ (below_opcode y x hy hx)]
  omega

end Sys2Proof.Laws
end

