-- ==== Sys2Proof/Laws/Memory.lean ====
section
/-! SUPPORT. The listed bytes of a memory: reading after writing, and every operation keeps the canonical form. -/

namespace Sys2Proof.Machine

/-! ### The canonical form as a proposition -/

/-- All addresses lie above a bound. -/
def cellsAbove (lo : Nat) (m : List Host.Cell) : Prop := ∀ e ∈ m, lo < e.1

theorem memWf_cons {a : Nat} {b : Byte} {m : List Host.Cell} :
    memWf ((a, b) :: m) = true ↔ b ≠ 0 ∧ cellsAbove a m ∧ memWf m = true := by
  induction m generalizing a b with
  | nil => simp [memWf, cellsAbove]
  | cons e m ih =>
    obtain ⟨c, d⟩ := e
    have hm := ih (a := c) (b := d)
    constructor
    · intro h
      simp only [memWf, Bool.and_eq_true, bne_iff_ne, ne_eq, decide_eq_true_eq] at h
      obtain ⟨⟨hb, hac⟩, hw⟩ := h
      refine ⟨hb, ?_, hw⟩
      intro e he
      rcases List.mem_cons.1 he with rfl | he
      · exact hac
      · exact Nat.lt_trans hac ((hm.1 hw).2.1 e he)
    · rintro ⟨hb, ha, hw⟩
      simp only [memWf, Bool.and_eq_true, bne_iff_ne, ne_eq, decide_eq_true_eq]
      exact ⟨⟨hb, ha (c, d) List.mem_cons_self⟩, hw⟩

theorem cellsAbove_put {lo x : Nat} {v : Byte} {m : List Host.Cell} (h : cellsAbove lo m) (hx : lo < x) :
    cellsAbove lo (cellPut m x v) := by
  induction m with
  | nil => intro e he; simp only [cellPut, List.mem_singleton] at he; subst he; exact hx
  | cons c m ih =>
    obtain ⟨a, b⟩ := c
    have ha : lo < a := h (a, b) List.mem_cons_self
    have hm : cellsAbove lo m := fun e he => h e (List.mem_cons_of_mem _ he)
    simp only [cellPut]
    intro e he
    split at he
    · rcases List.mem_cons.1 he with rfl | he
      · exact hx
      · exact h e he
    · split at he
      · rcases List.mem_cons.1 he with rfl | he
        · exact ha
        · exact hm e he
      · rcases List.mem_cons.1 he with rfl | he
        · exact ha
        · exact ih hm e he

theorem cellsAbove_drop {lo x : Nat} {m : List Host.Cell} (h : cellsAbove lo m) : cellsAbove lo (cellDrop m x) := by
  induction m with
  | nil => exact h
  | cons c m ih =>
    obtain ⟨a, b⟩ := c
    have hm : cellsAbove lo m := fun e he => h e (List.mem_cons_of_mem _ he)
    simp only [cellDrop]
    intro e he
    split at he
    · exact h e he
    · split at he
      · exact hm e he
      · rcases List.mem_cons.1 he with rfl | he
        · exact h (a, b) List.mem_cons_self
        · exact ih hm e he

theorem memWf_cellPut {x : Nat} {v : Byte} {m : List Host.Cell} (h : memWf m = true) (hv : v ≠ 0) : memWf (cellPut m x v) = true := by
  induction m with
  | nil => simpa [cellPut, memWf] using hv
  | cons c m ih =>
    obtain ⟨a, b⟩ := c
    obtain ⟨hb, ha, hm⟩ := memWf_cons.1 h
    simp only [cellPut]
    split
    · rename_i hlt
      refine memWf_cons.2 ⟨hv, ?_, h⟩
      intro e he
      rcases List.mem_cons.1 he with rfl | he
      · exact hlt
      · exact Nat.lt_trans hlt (ha e he)
    · rename_i hge
      split
      · exact memWf_cons.2 ⟨hv, ha, hm⟩
      · rename_i hne
        exact memWf_cons.2 ⟨hb, cellsAbove_put ha (by omega), ih hm⟩

theorem memWf_cellDrop {x : Nat} {m : List Host.Cell} (h : memWf m = true) : memWf (cellDrop m x) = true := by
  induction m with
  | nil => exact h
  | cons c m ih =>
    obtain ⟨a, b⟩ := c
    obtain ⟨hb, ha, hm⟩ := memWf_cons.1 h
    simp only [cellDrop]
    split
    · exact h
    · split
      · exact hm
      · exact memWf_cons.2 ⟨hb, cellsAbove_drop ha, ih hm⟩

/-- Writing a byte keeps the canonical form. -/
theorem memWf_memPut {a : Nat} {b : Byte} {m : List Host.Cell} (h : memWf m = true) : memWf (memPut m a b) = true := by
  unfold memPut
  split
  · exact memWf_cellDrop h
  · rename_i hb
    exact memWf_cellPut h (by simpa using hb)

/-- Writing bytes keeps the canonical form. -/
theorem memWf_memPuts {a : Nat} {l : List Byte} {m : List Host.Cell} (h : memWf m = true) : memWf (memPuts m a l) = true := by
  induction l generalizing a m with
  | nil => exact h
  | cons b l ih => exact ih (memWf_memPut h)

/-! ### Reading after writing -/

theorem cellAt_above {x : Nat} {m : List Host.Cell} (h : cellsAbove x m) : cellAt m x = none := by
  cases m with
  | nil => rfl
  | cons c m =>
    obtain ⟨a, b⟩ := c
    have : x < a := h (a, b) List.mem_cons_self
    simp [cellAt, Nat.ne_of_lt this, this]

theorem cellAt_cellPut_same {x : Nat} {v : Byte} {m : List Host.Cell} : cellAt (cellPut m x v) x = some v := by
  induction m with
  | nil => simp [cellPut, cellAt]
  | cons c m ih =>
    obtain ⟨a, b⟩ := c
    simp only [cellPut]
    split
    · simp [cellAt]
    · split
      · rename_i h; subst h; simp [cellAt]
      · rename_i h1 h2
        simp [cellAt, h1, h2, ih]

theorem cellAt_cellPut_other {x y : Nat} {v : Byte} {m : List Host.Cell} (hxy : x ≠ y) :
    cellAt (cellPut m x v) y = cellAt m y := by
  induction m with
  | nil => simp [cellPut, cellAt, Ne.symm hxy]
  | cons c m ih =>
    obtain ⟨a, b⟩ := c
    simp only [cellPut]
    split
    · rename_i hlt
      by_cases hya : y = a
      · subst hya; simp [cellAt, Ne.symm hxy, show ¬ y < x by omega]
      · by_cases hyx : y < x
        · simp [cellAt, Ne.symm hxy, hyx, hya, show y < a by omega]
        · simp [cellAt, Ne.symm hxy, hyx]
    · split
      · rename_i h2; subst h2
        simp [cellAt, Ne.symm hxy]
      · simp only [cellAt, ih]

theorem cellAt_cellDrop_same {x : Nat} {m : List Host.Cell} (h : memWf m = true) : cellAt (cellDrop m x) x = none := by
  induction m with
  | nil => rfl
  | cons c m ih =>
    obtain ⟨a, b⟩ := c
    obtain ⟨_, ha, hm⟩ := memWf_cons.1 h
    simp only [cellDrop]
    split
    · rename_i hlt; simp [cellAt, Nat.ne_of_lt hlt, hlt]
    · split
      · rename_i h2; subst h2; exact cellAt_above ha
      · rename_i h1 h2; simp [cellAt, h1, h2, ih hm]

theorem cellAt_cellDrop_other {x y : Nat} {m : List Host.Cell} (h : memWf m = true) (hxy : x ≠ y) :
    cellAt (cellDrop m x) y = cellAt m y := by
  induction m with
  | nil => rfl
  | cons c m ih =>
    obtain ⟨a, b⟩ := c
    obtain ⟨_, ha, hm⟩ := memWf_cons.1 h
    simp only [cellDrop]
    split
    · rfl
    · split
      · rename_i h2; subst h2
        by_cases hya : y < x
        · have : cellsAbove y m := fun e he => Nat.lt_trans hya (ha e he)
          simp [cellAt, Ne.symm hxy, hya, cellAt_above this]
        · simp [cellAt, Ne.symm hxy, hya]
      · simp only [cellAt, ih hm]

/-- A byte reads as it was written. -/
theorem memByte_memPut_same {a : Nat} {b : Byte} {m : List Host.Cell} (h : memWf m = true) : memByte (memPut m a b) a = b := by
  unfold memPut memByte
  split
  · rename_i hb; rw [cellAt_cellDrop_same h]; exact (by simpa using hb : b = 0).symm
  · rw [cellAt_cellPut_same]; rfl

/-- Writing a byte leaves every other byte. -/
theorem memByte_memPut_other {a x : Nat} {b : Byte} {m : List Host.Cell} (h : memWf m = true) (hx : a ≠ x) :
    memByte (memPut m a b) x = memByte m x := by
  unfold memPut memByte
  split
  · rw [cellAt_cellDrop_other h hx]
  · rw [cellAt_cellPut_other hx]

/-- Writing bytes leaves every byte outside them. -/
theorem memByte_memPuts_outside {a x : Nat} {l : List Byte} {m : List Host.Cell} (h : memWf m = true)
    (hx : x < a ∨ a + l.length ≤ x) : memByte (memPuts m a l) x = memByte m x := by
  induction l generalizing a m with
  | nil => rfl
  | cons b l ih =>
    simp only [List.length_cons] at hx
    rw [memPuts, ih (memWf_memPut h) (by omega), memByte_memPut_other h (by omega)]

/-- Written bytes read back. -/
theorem memByte_memPuts_inside {a i : Nat} {l : List Byte} {m : List Host.Cell} (h : memWf m = true) (hi : i < l.length) :
    memByte (memPuts m a l) (a + i) = l.getD i 0 := by
  induction l generalizing a m i with
  | nil => simp at hi
  | cons b l ih =>
    cases i with
    | zero => rw [memPuts, memByte_memPuts_outside (memWf_memPut h) (by omega)]; simpa using memByte_memPut_same h
    | succ i =>
      simp only [List.length_cons, Nat.add_lt_add_iff_right] at hi
      rw [memPuts, show a + (i + 1) = a + 1 + i by omega, ih (memWf_memPut h) hi]
      simp

/-! ### The two memories of a state -/

/-- `State.wr` keeps the form of both memories. -/
theorem State.wr_wf (s : State) (host : Bool) (a : Nat) (l : List Byte) (h : memWf s.mem = true) (h' : memWf s.hmem = true) :
    memWf (s.wr host a l).mem = true ∧ memWf (s.wr host a l).hmem = true := by
  cases host
  · exact ⟨memWf_memPuts h, h'⟩
  · exact ⟨h, memWf_memPuts h'⟩

end Sys2Proof.Machine
end

