-- ==== Sys2Proof/Laws/PerInstr.lean ====
section
/-! SUPPORT. The encoding statement for each constructor of Instr. -/

namespace Sys2Proof.Laws

open Sys2Proof.Machine

/-- Encoding and decoding agree on an instruction: every operand at every value that the encoding admits comes back. -/
def RoundTrip.Statement (i : Instr) : Prop := wellFormed i = true → ∀ w, encode i = some w → decodeWord w = .ok i

/-- The shared step: the row of the opcode table and the layout settle it. -/
theorem roundTrip_of (i : Instr) (m n : Nat) (h : Hdr) (o : Opnds) (hp : parts i = some (256 * m + n, h, o))
    (hm : m < 256) (hn : n < 256)
    (hd : fitsHdr h = true → fitsOps o = true → byOpcode ((256 * m + n) * 2 ^ 80 + encodeHdr h * 2 ^ 60 + encodeOps o) = some i) :
    RoundTrip.Statement i := by
  intro hw w he
  simp only [wellFormed, hp, Bool.and_eq_true] at hw
  simp only [encode, hp, Option.some.injEq] at he
  subst he
  rw [decodeWord, hd hw.1.1 hw.1.2]
  exact if_pos hw.2


/-- The step for layout G. -/
theorem roundTrip_g (mk : Hdr → OpG → Instr) (m n : Nat) (h : Hdr) (o : OpG)
    (hp : parts (mk h o) = some (256 * m + n, h, .g o)) (hm : m < 256) (hn : n < 256)
    (hd : ∀ w, bits w 95 88 = m → bits w 87 80 = n → byOpcode w = some (mk (hdrOf w) (opGOf w))) :
    RoundTrip.Statement (mk h o) := by
  refine roundTrip_of _ m n h (.g o) hp hm hn (fun h1 h2 => ?_)
  have hy := encodeHdr_lt h h1
  have hx := encodeOps_lt _ h2
  rw [hd _ (major_encode m n _ _ hm hn hy hx) (minor_encode m n _ _ hn hy hx), hdrOf_encode _ h _ h1 hx]
  have e : (256 * m + n) * 2 ^ 80 + encodeHdr h * 2 ^ 60 + encodeOps (.g o) = ((256 * m + n) * 2 ^ 20 + encodeHdr h) * 2 ^ 60 + encodeOps (.g o) := by
    ring
  rw [e, opGOf_encode _ o h2]

/-- The step for layout I. -/
theorem roundTrip_i (mk : Hdr → OpI → Instr) (m n : Nat) (h : Hdr) (o : OpI)
    (hp : parts (mk h o) = some (256 * m + n, h, .i o)) (hm : m < 256) (hn : n < 256)
    (hd : ∀ w, bits w 95 88 = m → bits w 87 80 = n → byOpcode w = some (mk (hdrOf w) (opIOf w))) :
    RoundTrip.Statement (mk h o) := by
  refine roundTrip_of _ m n h (.i o) hp hm hn (fun h1 h2 => ?_)
  have hy := encodeHdr_lt h h1
  have hx := encodeOps_lt _ h2
  rw [hd _ (major_encode m n _ _ hm hn hy hx) (minor_encode m n _ _ hn hy hx), hdrOf_encode _ h _ h1 hx]
  have e : (256 * m + n) * 2 ^ 80 + encodeHdr h * 2 ^ 60 + encodeOps (.i o) = ((256 * m + n) * 2 ^ 20 + encodeHdr h) * 2 ^ 60 + encodeOps (.i o) := by
    ring
  rw [e, opIOf_encode _ o h2]

/-- The step for layout M. -/
theorem roundTrip_m (mk : Hdr → OpM → Instr) (m n : Nat) (h : Hdr) (o : OpM)
    (hp : parts (mk h o) = some (256 * m + n, h, .m o)) (hm : m < 256) (hn : n < 256)
    (hd : ∀ w, bits w 95 88 = m → bits w 87 80 = n → byOpcode w = some (mk (hdrOf w) (opMOf w))) :
    RoundTrip.Statement (mk h o) := by
  refine roundTrip_of _ m n h (.m o) hp hm hn (fun h1 h2 => ?_)
  have hy := encodeHdr_lt h h1
  have hx := encodeOps_lt _ h2
  rw [hd _ (major_encode m n _ _ hm hn hy hx) (minor_encode m n _ _ hn hy hx), hdrOf_encode _ h _ h1 hx]
  have e : (256 * m + n) * 2 ^ 80 + encodeHdr h * 2 ^ 60 + encodeOps (.m o) = ((256 * m + n) * 2 ^ 20 + encodeHdr h) * 2 ^ 60 + encodeOps (.m o) := by
    ring
  rw [e, opMOf_encode _ o h2]

/-- The step for layout T. -/
theorem roundTrip_t (mk : Hdr → OpT → Instr) (m n : Nat) (h : Hdr) (o : OpT)
    (hp : parts (mk h o) = some (256 * m + n, h, .t o)) (hm : m < 256) (hn : n < 256)
    (hd : ∀ w, bits w 95 88 = m → bits w 87 80 = n → byOpcode w = some (mk (hdrOf w) (opTOf w))) :
    RoundTrip.Statement (mk h o) := by
  refine roundTrip_of _ m n h (.t o) hp hm hn (fun h1 h2 => ?_)
  have hy := encodeHdr_lt h h1
  have hx := encodeOps_lt _ h2
  rw [hd _ (major_encode m n _ _ hm hn hy hx) (minor_encode m n _ _ hn hy hx), hdrOf_encode _ h _ h1 hx]
  have e : (256 * m + n) * 2 ^ 80 + encodeHdr h * 2 ^ 60 + encodeOps (.t o) = ((256 * m + n) * 2 ^ 20 + encodeHdr h) * 2 ^ 60 + encodeOps (.t o) := by
    ring
  rw [e, opTOf_encode _ o h2]

/-- The step for layout E. -/
theorem roundTrip_e (mk : Hdr → OpE → Instr) (m n : Nat) (h : Hdr) (o : OpE)
    (hp : parts (mk h o) = some (256 * m + n, h, .e o)) (hm : m < 256) (hn : n < 256)
    (hd : ∀ w, bits w 95 88 = m → bits w 87 80 = n → byOpcode w = some (mk (hdrOf w) (opEOf w))) :
    RoundTrip.Statement (mk h o) := by
  refine roundTrip_of _ m n h (.e o) hp hm hn (fun h1 h2 => ?_)
  have hy := encodeHdr_lt h h1
  have hx := encodeOps_lt _ h2
  rw [hd _ (major_encode m n _ _ hm hn hy hx) (minor_encode m n _ _ hn hy hx), hdrOf_encode _ h _ h1 hx]
  have e : (256 * m + n) * 2 ^ 80 + encodeHdr h * 2 ^ 60 + encodeOps (.e o) = ((256 * m + n) * 2 ^ 20 + encodeHdr h) * 2 ^ 60 + encodeOps (.e o) := by
    ring
  rw [e, opEOf_encode _ o h2]

/-- An event has no word. -/
theorem roundTrip_event (i : Instr) (hp : parts i = none) : RoundTrip.Statement i := by
  intro _ w he
  simp [encode, hp] at he

theorem RoundTrip.nop (h : Hdr) (o : OpI) : RoundTrip.Statement (.nop h o) :=
  roundTrip_i .nop 1 0 h o rfl (by decide) (by decide) (fun w h1 h2 => by simp only [byOpcode, h1, h2, major01])
theorem RoundTrip.bra (h : Hdr) (o : OpI) : RoundTrip.Statement (.bra h o) :=
  roundTrip_i .bra 1 1 h o rfl (by decide) (by decide) (fun w h1 h2 => by simp only [byOpcode, h1, h2, major01])
theorem RoundTrip.brx (h : Hdr) (o : OpI) : RoundTrip.Statement (.brx h o) :=
  roundTrip_i .brx 1 2 h o rfl (by decide) (by decide) (fun w h1 h2 => by simp only [byOpcode, h1, h2, major01])
theorem RoundTrip.call (h : Hdr) (o : OpI) : RoundTrip.Statement (.call h o) :=
  roundTrip_i .call 1 3 h o rfl (by decide) (by decide) (fun w h1 h2 => by simp only [byOpcode, h1, h2, major01])
theorem RoundTrip.callx (h : Hdr) (o : OpI) : RoundTrip.Statement (.callx h o) :=
  roundTrip_i .callx 1 4 h o rfl (by decide) (by decide) (fun w h1 h2 => by simp only [byOpcode, h1, h2, major01])
theorem RoundTrip.ret (h : Hdr) (o : OpI) : RoundTrip.Statement (.ret h o) :=
  roundTrip_i .ret 1 5 h o rfl (by decide) (by decide) (fun w h1 h2 => by simp only [byOpcode, h1, h2, major01])
theorem RoundTrip.exit (h : Hdr) (o : OpI) : RoundTrip.Statement (.exit h o) :=
  roundTrip_i .exit 1 6 h o rfl (by decide) (by decide) (fun w h1 h2 => by simp only [byOpcode, h1, h2, major01])
theorem RoundTrip.kill (h : Hdr) (o : OpI) : RoundTrip.Statement (.kill h o) :=
  roundTrip_i .kill 1 7 h o rfl (by decide) (by decide) (fun w h1 h2 => by simp only [byOpcode, h1, h2, major01])
theorem RoundTrip.rejoin (h : Hdr) (o : OpI) : RoundTrip.Statement (.rejoin h o) :=
  roundTrip_i .rejoin 1 8 h o rfl (by decide) (by decide) (fun w h1 h2 => by simp only [byOpcode, h1, h2, major01])
theorem RoundTrip.trap (h : Hdr) (o : OpI) : RoundTrip.Statement (.trap h o) :=
  roundTrip_i .trap 1 9 h o rfl (by decide) (by decide) (fun w h1 h2 => by simp only [byOpcode, h1, h2, major01])
theorem RoundTrip.tret (h : Hdr) (o : OpI) : RoundTrip.Statement (.tret h o) :=
  roundTrip_i .tret 1 10 h o rfl (by decide) (by decide) (fun w h1 h2 => by simp only [byOpcode, h1, h2, major01])
theorem RoundTrip.wspill (h : Hdr) (o : OpI) : RoundTrip.Statement (.wspill h o) :=
  roundTrip_i .wspill 1 11 h o rfl (by decide) (by decide) (fun w h1 h2 => by simp only [byOpcode, h1, h2, major01])
theorem RoundTrip.wfill (h : Hdr) (o : OpI) : RoundTrip.Statement (.wfill h o) :=
  roundTrip_i .wfill 1 12 h o rfl (by decide) (by decide) (fun w h1 h2 => by simp only [byOpcode, h1, h2, major01])
theorem RoundTrip.pchk (h : Hdr) (o : OpI) : RoundTrip.Statement (.pchk h o) :=
  roundTrip_i .pchk 1 13 h o rfl (by decide) (by decide) (fun w h1 h2 => by simp only [byOpcode, h1, h2, major01])
theorem RoundTrip.mjoin (h : Hdr) (o : OpG) : RoundTrip.Statement (.mjoin h o) :=
  roundTrip_g .mjoin 2 0 h o rfl (by decide) (by decide) (fun w h1 h2 => by simp only [byOpcode, h1, h2, major02])
theorem RoundTrip.mleave (h : Hdr) (o : OpG) : RoundTrip.Statement (.mleave h o) :=
  roundTrip_g .mleave 2 1 h o rfl (by decide) (by decide) (fun w h1 h2 => by simp only [byOpcode, h1, h2, major02])
theorem RoundTrip.mwait (h : Hdr) (o : OpG) : RoundTrip.Statement (.mwait h o) :=
  roundTrip_g .mwait 2 2 h o rfl (by decide) (by decide) (fun w h1 h2 => by simp only [byOpcode, h1, h2, major02])
theorem RoundTrip.mget (h : Hdr) (o : OpG) : RoundTrip.Statement (.mget h o) :=
  roundTrip_g .mget 2 3 h o rfl (by decide) (by decide) (fun w h1 h2 => by simp only [byOpcode, h1, h2, major02])
theorem RoundTrip.bar (h : Hdr) (o : OpG) : RoundTrip.Statement (.bar h o) :=
  roundTrip_g .bar 2 4 h o rfl (by decide) (by decide) (fun w h1 h2 => by simp only [byOpcode, h1, h2, major02])
theorem RoundTrip.arrive (h : Hdr) (o : OpG) : RoundTrip.Statement (.arrive h o) :=
  roundTrip_g .arrive 2 5 h o rfl (by decide) (by decide) (fun w h1 h2 => by simp only [byOpcode, h1, h2, major02])
theorem RoundTrip.bwait (h : Hdr) (o : OpG) : RoundTrip.Statement (.bwait h o) :=
  roundTrip_g .bwait 2 6 h o rfl (by decide) (by decide) (fun w h1 h2 => by simp only [byOpcode, h1, h2, major02])
theorem RoundTrip.rdv (h : Hdr) (o : OpG) : RoundTrip.Statement (.rdv h o) :=
  roundTrip_g .rdv 2 7 h o rfl (by decide) (by decide) (fun w h1 h2 => by simp only [byOpcode, h1, h2, major02])
theorem RoundTrip.tokgive (h : Hdr) (o : OpG) : RoundTrip.Statement (.tokgive h o) :=
  roundTrip_g .tokgive 2 8 h o rfl (by decide) (by decide) (fun w h1 h2 => by simp only [byOpcode, h1, h2, major02])
theorem RoundTrip.toktake (h : Hdr) (o : OpG) : RoundTrip.Statement (.toktake h o) :=
  roundTrip_g .toktake 2 9 h o rfl (by decide) (by decide) (fun w h1 h2 => by simp only [byOpcode, h1, h2, major02])
theorem RoundTrip.fence (h : Hdr) (o : OpG) : RoundTrip.Statement (.fence h o) :=
  roundTrip_g .fence 2 10 h o rfl (by decide) (by decide) (fun w h1 h2 => by simp only [byOpcode, h1, h2, major02])
theorem RoundTrip.clock (h : Hdr) (o : OpG) : RoundTrip.Statement (.clock h o) :=
  roundTrip_g .clock 3 0 h o rfl (by decide) (by decide) (fun w h1 h2 => by simp only [byOpcode, h1, h2, major03])
theorem RoundTrip.place (h : Hdr) (o : OpG) : RoundTrip.Statement (.place h o) :=
  roundTrip_g .place 3 1 h o rfl (by decide) (by decide) (fun w h1 h2 => by simp only [byOpcode, h1, h2, major03])
theorem RoundTrip.sysrd (h : Hdr) (o : OpG) : RoundTrip.Statement (.sysrd h o) :=
  roundTrip_g .sysrd 3 2 h o rfl (by decide) (by decide) (fun w h1 h2 => by simp only [byOpcode, h1, h2, major03])
theorem RoundTrip.syswr (h : Hdr) (o : OpG) : RoundTrip.Statement (.syswr h o) :=
  roundTrip_g .syswr 3 3 h o rfl (by decide) (by decide) (fun w h1 h2 => by simp only [byOpcode, h1, h2, major03])
theorem RoundTrip.addInt (h : Hdr) (o : OpG) : RoundTrip.Statement (.addInt h o) :=
  roundTrip_g .addInt 16 0 h o rfl (by decide) (by decide) (fun w h1 h2 => by simp only [byOpcode, h1, h2, major10])
theorem RoundTrip.subInt (h : Hdr) (o : OpG) : RoundTrip.Statement (.subInt h o) :=
  roundTrip_g .subInt 16 1 h o rfl (by decide) (by decide) (fun w h1 h2 => by simp only [byOpcode, h1, h2, major10])
theorem RoundTrip.mulInt (h : Hdr) (o : OpG) : RoundTrip.Statement (.mulInt h o) :=
  roundTrip_g .mulInt 16 2 h o rfl (by decide) (by decide) (fun w h1 h2 => by simp only [byOpcode, h1, h2, major10])
theorem RoundTrip.mulhi (h : Hdr) (o : OpG) : RoundTrip.Statement (.mulhi h o) :=
  roundTrip_g .mulhi 16 3 h o rfl (by decide) (by decide) (fun w h1 h2 => by simp only [byOpcode, h1, h2, major10])
theorem RoundTrip.mad (h : Hdr) (o : OpG) : RoundTrip.Statement (.mad h o) :=
  roundTrip_g .mad 16 4 h o rfl (by decide) (by decide) (fun w h1 h2 => by simp only [byOpcode, h1, h2, major10])
theorem RoundTrip.divInt (h : Hdr) (o : OpG) : RoundTrip.Statement (.divInt h o) :=
  roundTrip_g .divInt 16 5 h o rfl (by decide) (by decide) (fun w h1 h2 => by simp only [byOpcode, h1, h2, major10])
theorem RoundTrip.rem (h : Hdr) (o : OpG) : RoundTrip.Statement (.rem h o) :=
  roundTrip_g .rem 16 6 h o rfl (by decide) (by decide) (fun w h1 h2 => by simp only [byOpcode, h1, h2, major10])
theorem RoundTrip.minInt (h : Hdr) (o : OpG) : RoundTrip.Statement (.minInt h o) :=
  roundTrip_g .minInt 16 7 h o rfl (by decide) (by decide) (fun w h1 h2 => by simp only [byOpcode, h1, h2, major10])
theorem RoundTrip.maxInt (h : Hdr) (o : OpG) : RoundTrip.Statement (.maxInt h o) :=
  roundTrip_g .maxInt 16 8 h o rfl (by decide) (by decide) (fun w h1 h2 => by simp only [byOpcode, h1, h2, major10])
theorem RoundTrip.absInt (h : Hdr) (o : OpG) : RoundTrip.Statement (.absInt h o) :=
  roundTrip_g .absInt 16 9 h o rfl (by decide) (by decide) (fun w h1 h2 => by simp only [byOpcode, h1, h2, major10])
theorem RoundTrip.negInt (h : Hdr) (o : OpG) : RoundTrip.Statement (.negInt h o) :=
  roundTrip_g .negInt 16 10 h o rfl (by decide) (by decide) (fun w h1 h2 => by simp only [byOpcode, h1, h2, major10])
theorem RoundTrip.lea (h : Hdr) (o : OpG) : RoundTrip.Statement (.lea h o) :=
  roundTrip_g .lea 16 11 h o rfl (by decide) (by decide) (fun w h1 h2 => by simp only [byOpcode, h1, h2, major10])
theorem RoundTrip.addIntImm (h : Hdr) (o : OpI) : RoundTrip.Statement (.addIntImm h o) :=
  roundTrip_i .addIntImm 16 128 h o rfl (by decide) (by decide) (fun w h1 h2 => by simp only [byOpcode, h1, h2, major10])
theorem RoundTrip.subIntImm (h : Hdr) (o : OpI) : RoundTrip.Statement (.subIntImm h o) :=
  roundTrip_i .subIntImm 16 129 h o rfl (by decide) (by decide) (fun w h1 h2 => by simp only [byOpcode, h1, h2, major10])
theorem RoundTrip.mulIntImm (h : Hdr) (o : OpI) : RoundTrip.Statement (.mulIntImm h o) :=
  roundTrip_i .mulIntImm 16 130 h o rfl (by decide) (by decide) (fun w h1 h2 => by simp only [byOpcode, h1, h2, major10])
theorem RoundTrip.mulhiImm (h : Hdr) (o : OpI) : RoundTrip.Statement (.mulhiImm h o) :=
  roundTrip_i .mulhiImm 16 131 h o rfl (by decide) (by decide) (fun w h1 h2 => by simp only [byOpcode, h1, h2, major10])
theorem RoundTrip.divIntImm (h : Hdr) (o : OpI) : RoundTrip.Statement (.divIntImm h o) :=
  roundTrip_i .divIntImm 16 133 h o rfl (by decide) (by decide) (fun w h1 h2 => by simp only [byOpcode, h1, h2, major10])
theorem RoundTrip.remImm (h : Hdr) (o : OpI) : RoundTrip.Statement (.remImm h o) :=
  roundTrip_i .remImm 16 134 h o rfl (by decide) (by decide) (fun w h1 h2 => by simp only [byOpcode, h1, h2, major10])
theorem RoundTrip.minIntImm (h : Hdr) (o : OpI) : RoundTrip.Statement (.minIntImm h o) :=
  roundTrip_i .minIntImm 16 135 h o rfl (by decide) (by decide) (fun w h1 h2 => by simp only [byOpcode, h1, h2, major10])
theorem RoundTrip.maxIntImm (h : Hdr) (o : OpI) : RoundTrip.Statement (.maxIntImm h o) :=
  roundTrip_i .maxIntImm 16 136 h o rfl (by decide) (by decide) (fun w h1 h2 => by simp only [byOpcode, h1, h2, major10])
theorem RoundTrip.leaImm (h : Hdr) (o : OpI) : RoundTrip.Statement (.leaImm h o) :=
  roundTrip_i .leaImm 16 139 h o rfl (by decide) (by decide) (fun w h1 h2 => by simp only [byOpcode, h1, h2, major10])
theorem RoundTrip.andL (h : Hdr) (o : OpG) : RoundTrip.Statement (.andL h o) :=
  roundTrip_g .andL 17 0 h o rfl (by decide) (by decide) (fun w h1 h2 => by simp only [byOpcode, h1, h2, major11])
theorem RoundTrip.orL (h : Hdr) (o : OpG) : RoundTrip.Statement (.orL h o) :=
  roundTrip_g .orL 17 1 h o rfl (by decide) (by decide) (fun w h1 h2 => by simp only [byOpcode, h1, h2, major11])
theorem RoundTrip.xorL (h : Hdr) (o : OpG) : RoundTrip.Statement (.xorL h o) :=
  roundTrip_g .xorL 17 2 h o rfl (by decide) (by decide) (fun w h1 h2 => by simp only [byOpcode, h1, h2, major11])
theorem RoundTrip.notL (h : Hdr) (o : OpG) : RoundTrip.Statement (.notL h o) :=
  roundTrip_g .notL 17 3 h o rfl (by decide) (by decide) (fun w h1 h2 => by simp only [byOpcode, h1, h2, major11])
theorem RoundTrip.shl (h : Hdr) (o : OpG) : RoundTrip.Statement (.shl h o) :=
  roundTrip_g .shl 17 4 h o rfl (by decide) (by decide) (fun w h1 h2 => by simp only [byOpcode, h1, h2, major11])
theorem RoundTrip.shr (h : Hdr) (o : OpG) : RoundTrip.Statement (.shr h o) :=
  roundTrip_g .shr 17 5 h o rfl (by decide) (by decide) (fun w h1 h2 => by simp only [byOpcode, h1, h2, major11])
theorem RoundTrip.rotl (h : Hdr) (o : OpG) : RoundTrip.Statement (.rotl h o) :=
  roundTrip_g .rotl 17 6 h o rfl (by decide) (by decide) (fun w h1 h2 => by simp only [byOpcode, h1, h2, major11])
theorem RoundTrip.popc (h : Hdr) (o : OpG) : RoundTrip.Statement (.popc h o) :=
  roundTrip_g .popc 17 7 h o rfl (by decide) (by decide) (fun w h1 h2 => by simp only [byOpcode, h1, h2, major11])
theorem RoundTrip.clz (h : Hdr) (o : OpG) : RoundTrip.Statement (.clz h o) :=
  roundTrip_g .clz 17 8 h o rfl (by decide) (by decide) (fun w h1 h2 => by simp only [byOpcode, h1, h2, major11])
theorem RoundTrip.ctz (h : Hdr) (o : OpG) : RoundTrip.Statement (.ctz h o) :=
  roundTrip_g .ctz 17 9 h o rfl (by decide) (by decide) (fun w h1 h2 => by simp only [byOpcode, h1, h2, major11])
theorem RoundTrip.brev (h : Hdr) (o : OpG) : RoundTrip.Statement (.brev h o) :=
  roundTrip_g .brev 17 10 h o rfl (by decide) (by decide) (fun w h1 h2 => by simp only [byOpcode, h1, h2, major11])
theorem RoundTrip.bfe (h : Hdr) (o : OpG) : RoundTrip.Statement (.bfe h o) :=
  roundTrip_g .bfe 17 11 h o rfl (by decide) (by decide) (fun w h1 h2 => by simp only [byOpcode, h1, h2, major11])
theorem RoundTrip.bfi (h : Hdr) (o : OpG) : RoundTrip.Statement (.bfi h o) :=
  roundTrip_g .bfi 17 12 h o rfl (by decide) (by decide) (fun w h1 h2 => by simp only [byOpcode, h1, h2, major11])
theorem RoundTrip.lop3 (h : Hdr) (o : OpG) : RoundTrip.Statement (.lop3 h o) :=
  roundTrip_g .lop3 17 13 h o rfl (by decide) (by decide) (fun w h1 h2 => by simp only [byOpcode, h1, h2, major11])
theorem RoundTrip.sel (h : Hdr) (o : OpG) : RoundTrip.Statement (.sel h o) :=
  roundTrip_g .sel 17 14 h o rfl (by decide) (by decide) (fun w h1 h2 => by simp only [byOpcode, h1, h2, major11])
theorem RoundTrip.andImm (h : Hdr) (o : OpI) : RoundTrip.Statement (.andImm h o) :=
  roundTrip_i .andImm 17 128 h o rfl (by decide) (by decide) (fun w h1 h2 => by simp only [byOpcode, h1, h2, major11])
theorem RoundTrip.orImm (h : Hdr) (o : OpI) : RoundTrip.Statement (.orImm h o) :=
  roundTrip_i .orImm 17 129 h o rfl (by decide) (by decide) (fun w h1 h2 => by simp only [byOpcode, h1, h2, major11])
theorem RoundTrip.xorImm (h : Hdr) (o : OpI) : RoundTrip.Statement (.xorImm h o) :=
  roundTrip_i .xorImm 17 130 h o rfl (by decide) (by decide) (fun w h1 h2 => by simp only [byOpcode, h1, h2, major11])
theorem RoundTrip.shlImm (h : Hdr) (o : OpI) : RoundTrip.Statement (.shlImm h o) :=
  roundTrip_i .shlImm 17 132 h o rfl (by decide) (by decide) (fun w h1 h2 => by simp only [byOpcode, h1, h2, major11])
theorem RoundTrip.shrImm (h : Hdr) (o : OpI) : RoundTrip.Statement (.shrImm h o) :=
  roundTrip_i .shrImm 17 133 h o rfl (by decide) (by decide) (fun w h1 h2 => by simp only [byOpcode, h1, h2, major11])
theorem RoundTrip.rotlImm (h : Hdr) (o : OpI) : RoundTrip.Statement (.rotlImm h o) :=
  roundTrip_i .rotlImm 17 134 h o rfl (by decide) (by decide) (fun w h1 h2 => by simp only [byOpcode, h1, h2, major11])
theorem RoundTrip.bfeImm (h : Hdr) (o : OpI) : RoundTrip.Statement (.bfeImm h o) :=
  roundTrip_i .bfeImm 17 139 h o rfl (by decide) (by decide) (fun w h1 h2 => by simp only [byOpcode, h1, h2, major11])
theorem RoundTrip.addFloat (h : Hdr) (o : OpG) : RoundTrip.Statement (.addFloat h o) :=
  roundTrip_g .addFloat 18 0 h o rfl (by decide) (by decide) (fun w h1 h2 => by simp only [byOpcode, h1, h2, major12])
theorem RoundTrip.subFloat (h : Hdr) (o : OpG) : RoundTrip.Statement (.subFloat h o) :=
  roundTrip_g .subFloat 18 1 h o rfl (by decide) (by decide) (fun w h1 h2 => by simp only [byOpcode, h1, h2, major12])
theorem RoundTrip.mulFloat (h : Hdr) (o : OpG) : RoundTrip.Statement (.mulFloat h o) :=
  roundTrip_g .mulFloat 18 2 h o rfl (by decide) (by decide) (fun w h1 h2 => by simp only [byOpcode, h1, h2, major12])
theorem RoundTrip.fma (h : Hdr) (o : OpG) : RoundTrip.Statement (.fma h o) :=
  roundTrip_g .fma 18 3 h o rfl (by decide) (by decide) (fun w h1 h2 => by simp only [byOpcode, h1, h2, major12])
theorem RoundTrip.minFloat (h : Hdr) (o : OpG) : RoundTrip.Statement (.minFloat h o) :=
  roundTrip_g .minFloat 18 4 h o rfl (by decide) (by decide) (fun w h1 h2 => by simp only [byOpcode, h1, h2, major12])
theorem RoundTrip.maxFloat (h : Hdr) (o : OpG) : RoundTrip.Statement (.maxFloat h o) :=
  roundTrip_g .maxFloat 18 5 h o rfl (by decide) (by decide) (fun w h1 h2 => by simp only [byOpcode, h1, h2, major12])
theorem RoundTrip.absFloat (h : Hdr) (o : OpG) : RoundTrip.Statement (.absFloat h o) :=
  roundTrip_g .absFloat 18 6 h o rfl (by decide) (by decide) (fun w h1 h2 => by simp only [byOpcode, h1, h2, major12])
theorem RoundTrip.negFloat (h : Hdr) (o : OpG) : RoundTrip.Statement (.negFloat h o) :=
  roundTrip_g .negFloat 18 7 h o rfl (by decide) (by decide) (fun w h1 h2 => by simp only [byOpcode, h1, h2, major12])
theorem RoundTrip.divFloat (h : Hdr) (o : OpG) : RoundTrip.Statement (.divFloat h o) :=
  roundTrip_g .divFloat 18 8 h o rfl (by decide) (by decide) (fun w h1 h2 => by simp only [byOpcode, h1, h2, major12])
theorem RoundTrip.sqrt (h : Hdr) (o : OpG) : RoundTrip.Statement (.sqrt h o) :=
  roundTrip_g .sqrt 18 9 h o rfl (by decide) (by decide) (fun w h1 h2 => by simp only [byOpcode, h1, h2, major12])
theorem RoundTrip.addFloatImm (h : Hdr) (o : OpI) : RoundTrip.Statement (.addFloatImm h o) :=
  roundTrip_i .addFloatImm 18 128 h o rfl (by decide) (by decide) (fun w h1 h2 => by simp only [byOpcode, h1, h2, major12])
theorem RoundTrip.subFloatImm (h : Hdr) (o : OpI) : RoundTrip.Statement (.subFloatImm h o) :=
  roundTrip_i .subFloatImm 18 129 h o rfl (by decide) (by decide) (fun w h1 h2 => by simp only [byOpcode, h1, h2, major12])
theorem RoundTrip.mulFloatImm (h : Hdr) (o : OpI) : RoundTrip.Statement (.mulFloatImm h o) :=
  roundTrip_i .mulFloatImm 18 130 h o rfl (by decide) (by decide) (fun w h1 h2 => by simp only [byOpcode, h1, h2, major12])
theorem RoundTrip.minFloatImm (h : Hdr) (o : OpI) : RoundTrip.Statement (.minFloatImm h o) :=
  roundTrip_i .minFloatImm 18 132 h o rfl (by decide) (by decide) (fun w h1 h2 => by simp only [byOpcode, h1, h2, major12])
theorem RoundTrip.maxFloatImm (h : Hdr) (o : OpI) : RoundTrip.Statement (.maxFloatImm h o) :=
  roundTrip_i .maxFloatImm 18 133 h o rfl (by decide) (by decide) (fun w h1 h2 => by simp only [byOpcode, h1, h2, major12])
theorem RoundTrip.divFloatImm (h : Hdr) (o : OpI) : RoundTrip.Statement (.divFloatImm h o) :=
  roundTrip_i .divFloatImm 18 136 h o rfl (by decide) (by decide) (fun w h1 h2 => by simp only [byOpcode, h1, h2, major12])
theorem RoundTrip.ex2 (h : Hdr) (o : OpG) : RoundTrip.Statement (.ex2 h o) :=
  roundTrip_g .ex2 19 0 h o rfl (by decide) (by decide) (fun w h1 h2 => by simp only [byOpcode, h1, h2, major13])
theorem RoundTrip.lg2 (h : Hdr) (o : OpG) : RoundTrip.Statement (.lg2 h o) :=
  roundTrip_g .lg2 19 1 h o rfl (by decide) (by decide) (fun w h1 h2 => by simp only [byOpcode, h1, h2, major13])
theorem RoundTrip.rcp (h : Hdr) (o : OpG) : RoundTrip.Statement (.rcp h o) :=
  roundTrip_g .rcp 19 2 h o rfl (by decide) (by decide) (fun w h1 h2 => by simp only [byOpcode, h1, h2, major13])
theorem RoundTrip.rsqrt (h : Hdr) (o : OpG) : RoundTrip.Statement (.rsqrt h o) :=
  roundTrip_g .rsqrt 19 3 h o rfl (by decide) (by decide) (fun w h1 h2 => by simp only [byOpcode, h1, h2, major13])
theorem RoundTrip.sin (h : Hdr) (o : OpG) : RoundTrip.Statement (.sin h o) :=
  roundTrip_g .sin 19 4 h o rfl (by decide) (by decide) (fun w h1 h2 => by simp only [byOpcode, h1, h2, major13])
theorem RoundTrip.cos (h : Hdr) (o : OpG) : RoundTrip.Statement (.cos h o) :=
  roundTrip_g .cos 19 5 h o rfl (by decide) (by decide) (fun w h1 h2 => by simp only [byOpcode, h1, h2, major13])
theorem RoundTrip.tanh (h : Hdr) (o : OpG) : RoundTrip.Statement (.tanh h o) :=
  roundTrip_g .tanh 19 6 h o rfl (by decide) (by decide) (fun w h1 h2 => by simp only [byOpcode, h1, h2, major13])
theorem RoundTrip.exp (h : Hdr) (o : OpG) : RoundTrip.Statement (.exp h o) :=
  roundTrip_g .exp 19 7 h o rfl (by decide) (by decide) (fun w h1 h2 => by simp only [byOpcode, h1, h2, major13])
theorem RoundTrip.add2 (h : Hdr) (o : OpG) : RoundTrip.Statement (.add2 h o) :=
  roundTrip_g .add2 20 0 h o rfl (by decide) (by decide) (fun w h1 h2 => by simp only [byOpcode, h1, h2, major14])
theorem RoundTrip.sub2 (h : Hdr) (o : OpG) : RoundTrip.Statement (.sub2 h o) :=
  roundTrip_g .sub2 20 1 h o rfl (by decide) (by decide) (fun w h1 h2 => by simp only [byOpcode, h1, h2, major14])
theorem RoundTrip.mul2 (h : Hdr) (o : OpG) : RoundTrip.Statement (.mul2 h o) :=
  roundTrip_g .mul2 20 2 h o rfl (by decide) (by decide) (fun w h1 h2 => by simp only [byOpcode, h1, h2, major14])
theorem RoundTrip.fma2 (h : Hdr) (o : OpG) : RoundTrip.Statement (.fma2 h o) :=
  roundTrip_g .fma2 20 3 h o rfl (by decide) (by decide) (fun w h1 h2 => by simp only [byOpcode, h1, h2, major14])
theorem RoundTrip.min2 (h : Hdr) (o : OpG) : RoundTrip.Statement (.min2 h o) :=
  roundTrip_g .min2 20 4 h o rfl (by decide) (by decide) (fun w h1 h2 => by simp only [byOpcode, h1, h2, major14])
theorem RoundTrip.max2 (h : Hdr) (o : OpG) : RoundTrip.Statement (.max2 h o) :=
  roundTrip_g .max2 20 5 h o rfl (by decide) (by decide) (fun w h1 h2 => by simp only [byOpcode, h1, h2, major14])
theorem RoundTrip.setp (h : Hdr) (o : OpG) : RoundTrip.Statement (.setp h o) :=
  roundTrip_g .setp 21 0 h o rfl (by decide) (by decide) (fun w h1 h2 => by simp only [byOpcode, h1, h2, major15])
theorem RoundTrip.selp (h : Hdr) (o : OpG) : RoundTrip.Statement (.selp h o) :=
  roundTrip_g .selp 21 1 h o rfl (by decide) (by decide) (fun w h1 h2 => by simp only [byOpcode, h1, h2, major15])
theorem RoundTrip.pand (h : Hdr) (o : OpG) : RoundTrip.Statement (.pand h o) :=
  roundTrip_g .pand 21 2 h o rfl (by decide) (by decide) (fun w h1 h2 => by simp only [byOpcode, h1, h2, major15])
theorem RoundTrip.por (h : Hdr) (o : OpG) : RoundTrip.Statement (.por h o) :=
  roundTrip_g .por 21 3 h o rfl (by decide) (by decide) (fun w h1 h2 => by simp only [byOpcode, h1, h2, major15])
theorem RoundTrip.pxor (h : Hdr) (o : OpG) : RoundTrip.Statement (.pxor h o) :=
  roundTrip_g .pxor 21 4 h o rfl (by decide) (by decide) (fun w h1 h2 => by simp only [byOpcode, h1, h2, major15])
theorem RoundTrip.pnot (h : Hdr) (o : OpG) : RoundTrip.Statement (.pnot h o) :=
  roundTrip_g .pnot 21 5 h o rfl (by decide) (by decide) (fun w h1 h2 => by simp only [byOpcode, h1, h2, major15])
theorem RoundTrip.pmov (h : Hdr) (o : OpG) : RoundTrip.Statement (.pmov h o) :=
  roundTrip_g .pmov 21 6 h o rfl (by decide) (by decide) (fun w h1 h2 => by simp only [byOpcode, h1, h2, major15])
theorem RoundTrip.cvt (h : Hdr) (o : OpG) : RoundTrip.Statement (.cvt h o) :=
  roundTrip_g .cvt 22 0 h o rfl (by decide) (by decide) (fun w h1 h2 => by simp only [byOpcode, h1, h2, major16])
theorem RoundTrip.pack (h : Hdr) (o : OpG) : RoundTrip.Statement (.pack h o) :=
  roundTrip_g .pack 22 1 h o rfl (by decide) (by decide) (fun w h1 h2 => by simp only [byOpcode, h1, h2, major16])
theorem RoundTrip.unpack (h : Hdr) (o : OpG) : RoundTrip.Statement (.unpack h o) :=
  roundTrip_g .unpack 22 2 h o rfl (by decide) (by decide) (fun w h1 h2 => by simp only [byOpcode, h1, h2, major16])
theorem RoundTrip.qnt4 (h : Hdr) (o : OpG) : RoundTrip.Statement (.qnt4 h o) :=
  roundTrip_g .qnt4 22 3 h o rfl (by decide) (by decide) (fun w h1 h2 => by simp only [byOpcode, h1, h2, major16])
theorem RoundTrip.dq4 (h : Hdr) (o : OpG) : RoundTrip.Statement (.dq4 h o) :=
  roundTrip_g .dq4 22 4 h o rfl (by decide) (by decide) (fun w h1 h2 => by simp only [byOpcode, h1, h2, major16])
theorem RoundTrip.shfl (h : Hdr) (o : OpG) : RoundTrip.Statement (.shfl h o) :=
  roundTrip_g .shfl 23 0 h o rfl (by decide) (by decide) (fun w h1 h2 => by simp only [byOpcode, h1, h2, major17])
theorem RoundTrip.vote (h : Hdr) (o : OpG) : RoundTrip.Statement (.vote h o) :=
  roundTrip_g .vote 23 1 h o rfl (by decide) (by decide) (fun w h1 h2 => by simp only [byOpcode, h1, h2, major17])
theorem RoundTrip.rdxOp (h : Hdr) (o : OpG) : RoundTrip.Statement (.rdxOp h o) :=
  roundTrip_g .rdxOp 23 2 h o rfl (by decide) (by decide) (fun w h1 h2 => by simp only [byOpcode, h1, h2, major17])
theorem RoundTrip.scan (h : Hdr) (o : OpG) : RoundTrip.Statement (.scan h o) :=
  roundTrip_g .scan 23 3 h o rfl (by decide) (by decide) (fun w h1 h2 => by simp only [byOpcode, h1, h2, major17])
theorem RoundTrip.bcast (h : Hdr) (o : OpG) : RoundTrip.Statement (.bcast h o) :=
  roundTrip_g .bcast 23 4 h o rfl (by decide) (by decide) (fun w h1 h2 => by simp only [byOpcode, h1, h2, major17])
theorem RoundTrip.matchV (h : Hdr) (o : OpG) : RoundTrip.Statement (.matchV h o) :=
  roundTrip_g .matchV 23 5 h o rfl (by decide) (by decide) (fun w h1 h2 => by simp only [byOpcode, h1, h2, major17])
theorem RoundTrip.sadd (h : Hdr) (o : OpG) : RoundTrip.Statement (.sadd h o) :=
  roundTrip_g .sadd 24 0 h o rfl (by decide) (by decide) (fun w h1 h2 => by simp only [byOpcode, h1, h2, major18])
theorem RoundTrip.ssub (h : Hdr) (o : OpG) : RoundTrip.Statement (.ssub h o) :=
  roundTrip_g .ssub 24 1 h o rfl (by decide) (by decide) (fun w h1 h2 => by simp only [byOpcode, h1, h2, major18])
theorem RoundTrip.smul (h : Hdr) (o : OpG) : RoundTrip.Statement (.smul h o) :=
  roundTrip_g .smul 24 2 h o rfl (by decide) (by decide) (fun w h1 h2 => by simp only [byOpcode, h1, h2, major18])
theorem RoundTrip.smin (h : Hdr) (o : OpG) : RoundTrip.Statement (.smin h o) :=
  roundTrip_g .smin 24 3 h o rfl (by decide) (by decide) (fun w h1 h2 => by simp only [byOpcode, h1, h2, major18])
theorem RoundTrip.smax (h : Hdr) (o : OpG) : RoundTrip.Statement (.smax h o) :=
  roundTrip_g .smax 24 4 h o rfl (by decide) (by decide) (fun w h1 h2 => by simp only [byOpcode, h1, h2, major18])
theorem RoundTrip.sand (h : Hdr) (o : OpG) : RoundTrip.Statement (.sand h o) :=
  roundTrip_g .sand 24 5 h o rfl (by decide) (by decide) (fun w h1 h2 => by simp only [byOpcode, h1, h2, major18])
theorem RoundTrip.sor (h : Hdr) (o : OpG) : RoundTrip.Statement (.sor h o) :=
  roundTrip_g .sor 24 6 h o rfl (by decide) (by decide) (fun w h1 h2 => by simp only [byOpcode, h1, h2, major18])
theorem RoundTrip.sxor (h : Hdr) (o : OpG) : RoundTrip.Statement (.sxor h o) :=
  roundTrip_g .sxor 24 7 h o rfl (by decide) (by decide) (fun w h1 h2 => by simp only [byOpcode, h1, h2, major18])
theorem RoundTrip.sshl (h : Hdr) (o : OpG) : RoundTrip.Statement (.sshl h o) :=
  roundTrip_g .sshl 24 8 h o rfl (by decide) (by decide) (fun w h1 h2 => by simp only [byOpcode, h1, h2, major18])
theorem RoundTrip.sshr (h : Hdr) (o : OpG) : RoundTrip.Statement (.sshr h o) :=
  roundTrip_g .sshr 24 9 h o rfl (by decide) (by decide) (fun w h1 h2 => by simp only [byOpcode, h1, h2, major18])
theorem RoundTrip.smov (h : Hdr) (o : OpG) : RoundTrip.Statement (.smov h o) :=
  roundTrip_g .smov 24 10 h o rfl (by decide) (by decide) (fun w h1 h2 => by simp only [byOpcode, h1, h2, major18])
theorem RoundTrip.ssetp (h : Hdr) (o : OpG) : RoundTrip.Statement (.ssetp h o) :=
  roundTrip_g .ssetp 24 11 h o rfl (by decide) (by decide) (fun w h1 h2 => by simp only [byOpcode, h1, h2, major18])
theorem RoundTrip.saddImm (h : Hdr) (o : OpI) : RoundTrip.Statement (.saddImm h o) :=
  roundTrip_i .saddImm 24 128 h o rfl (by decide) (by decide) (fun w h1 h2 => by simp only [byOpcode, h1, h2, major18])
theorem RoundTrip.ssubImm (h : Hdr) (o : OpI) : RoundTrip.Statement (.ssubImm h o) :=
  roundTrip_i .ssubImm 24 129 h o rfl (by decide) (by decide) (fun w h1 h2 => by simp only [byOpcode, h1, h2, major18])
theorem RoundTrip.smulImm (h : Hdr) (o : OpI) : RoundTrip.Statement (.smulImm h o) :=
  roundTrip_i .smulImm 24 130 h o rfl (by decide) (by decide) (fun w h1 h2 => by simp only [byOpcode, h1, h2, major18])
theorem RoundTrip.sminImm (h : Hdr) (o : OpI) : RoundTrip.Statement (.sminImm h o) :=
  roundTrip_i .sminImm 24 131 h o rfl (by decide) (by decide) (fun w h1 h2 => by simp only [byOpcode, h1, h2, major18])
theorem RoundTrip.smaxImm (h : Hdr) (o : OpI) : RoundTrip.Statement (.smaxImm h o) :=
  roundTrip_i .smaxImm 24 132 h o rfl (by decide) (by decide) (fun w h1 h2 => by simp only [byOpcode, h1, h2, major18])
theorem RoundTrip.sandImm (h : Hdr) (o : OpI) : RoundTrip.Statement (.sandImm h o) :=
  roundTrip_i .sandImm 24 133 h o rfl (by decide) (by decide) (fun w h1 h2 => by simp only [byOpcode, h1, h2, major18])
theorem RoundTrip.sorImm (h : Hdr) (o : OpI) : RoundTrip.Statement (.sorImm h o) :=
  roundTrip_i .sorImm 24 134 h o rfl (by decide) (by decide) (fun w h1 h2 => by simp only [byOpcode, h1, h2, major18])
theorem RoundTrip.sxorImm (h : Hdr) (o : OpI) : RoundTrip.Statement (.sxorImm h o) :=
  roundTrip_i .sxorImm 24 135 h o rfl (by decide) (by decide) (fun w h1 h2 => by simp only [byOpcode, h1, h2, major18])
theorem RoundTrip.sshlImm (h : Hdr) (o : OpI) : RoundTrip.Statement (.sshlImm h o) :=
  roundTrip_i .sshlImm 24 136 h o rfl (by decide) (by decide) (fun w h1 h2 => by simp only [byOpcode, h1, h2, major18])
theorem RoundTrip.sshrImm (h : Hdr) (o : OpI) : RoundTrip.Statement (.sshrImm h o) :=
  roundTrip_i .sshrImm 24 137 h o rfl (by decide) (by decide) (fun w h1 h2 => by simp only [byOpcode, h1, h2, major18])
theorem RoundTrip.smovImm (h : Hdr) (o : OpI) : RoundTrip.Statement (.smovImm h o) :=
  roundTrip_i .smovImm 24 138 h o rfl (by decide) (by decide) (fun w h1 h2 => by simp only [byOpcode, h1, h2, major18])
theorem RoundTrip.mov (h : Hdr) (o : OpG) : RoundTrip.Statement (.mov h o) :=
  roundTrip_g .mov 25 0 h o rfl (by decide) (by decide) (fun w h1 h2 => by simp only [byOpcode, h1, h2, major19])
theorem RoundTrip.movi (h : Hdr) (o : OpI) : RoundTrip.Statement (.movi h o) :=
  roundTrip_i .movi 25 1 h o rfl (by decide) (by decide) (fun w h1 h2 => by simp only [byOpcode, h1, h2, major19])
theorem RoundTrip.ld (h : Hdr) (o : OpM) : RoundTrip.Statement (.ld h o) :=
  roundTrip_m .ld 32 0 h o rfl (by decide) (by decide) (fun w h1 h2 => by simp only [byOpcode, h1, h2, major20])
theorem RoundTrip.st (h : Hdr) (o : OpM) : RoundTrip.Statement (.st h o) :=
  roundTrip_m .st 32 1 h o rfl (by decide) (by decide) (fun w h1 h2 => by simp only [byOpcode, h1, h2, major20])
theorem RoundTrip.sld (h : Hdr) (o : OpM) : RoundTrip.Statement (.sld h o) :=
  roundTrip_m .sld 32 2 h o rfl (by decide) (by decide) (fun w h1 h2 => by simp only [byOpcode, h1, h2, major20])
theorem RoundTrip.lds (h : Hdr) (o : OpM) : RoundTrip.Statement (.lds h o) :=
  roundTrip_m .lds 33 0 h o rfl (by decide) (by decide) (fun w h1 h2 => by simp only [byOpcode, h1, h2, major21])
theorem RoundTrip.sts (h : Hdr) (o : OpM) : RoundTrip.Statement (.sts h o) :=
  roundTrip_m .sts 33 1 h o rfl (by decide) (by decide) (fun w h1 h2 => by simp only [byOpcode, h1, h2, major21])
theorem RoundTrip.ldc (h : Hdr) (o : OpM) : RoundTrip.Statement (.ldc h o) :=
  roundTrip_m .ldc 33 2 h o rfl (by decide) (by decide) (fun w h1 h2 => by simp only [byOpcode, h1, h2, major21])
theorem RoundTrip.stc (h : Hdr) (o : OpM) : RoundTrip.Statement (.stc h o) :=
  roundTrip_m .stc 33 3 h o rfl (by decide) (by decide) (fun w h1 h2 => by simp only [byOpcode, h1, h2, major21])
theorem RoundTrip.ldpr (h : Hdr) (o : OpM) : RoundTrip.Statement (.ldpr h o) :=
  roundTrip_m .ldpr 33 4 h o rfl (by decide) (by decide) (fun w h1 h2 => by simp only [byOpcode, h1, h2, major21])
theorem RoundTrip.stpr (h : Hdr) (o : OpM) : RoundTrip.Statement (.stpr h o) :=
  roundTrip_m .stpr 33 5 h o rfl (by decide) (by decide) (fun w h1 h2 => by simp only [byOpcode, h1, h2, major21])
theorem RoundTrip.ldg (h : Hdr) (o : OpM) : RoundTrip.Statement (.ldg h o) :=
  roundTrip_m .ldg 33 6 h o rfl (by decide) (by decide) (fun w h1 h2 => by simp only [byOpcode, h1, h2, major21])
theorem RoundTrip.stg (h : Hdr) (o : OpM) : RoundTrip.Statement (.stg h o) :=
  roundTrip_m .stg 33 7 h o rfl (by decide) (by decide) (fun w h1 h2 => by simp only [byOpcode, h1, h2, major21])
theorem RoundTrip.atomAdd (h : Hdr) (o : OpM) : RoundTrip.Statement (.atomAdd h o) :=
  roundTrip_m .atomAdd 34 0 h o rfl (by decide) (by decide) (fun w h1 h2 => by simp only [byOpcode, h1, h2, major22])
theorem RoundTrip.atomMin (h : Hdr) (o : OpM) : RoundTrip.Statement (.atomMin h o) :=
  roundTrip_m .atomMin 34 1 h o rfl (by decide) (by decide) (fun w h1 h2 => by simp only [byOpcode, h1, h2, major22])
theorem RoundTrip.atomMax (h : Hdr) (o : OpM) : RoundTrip.Statement (.atomMax h o) :=
  roundTrip_m .atomMax 34 2 h o rfl (by decide) (by decide) (fun w h1 h2 => by simp only [byOpcode, h1, h2, major22])
theorem RoundTrip.atomAnd (h : Hdr) (o : OpM) : RoundTrip.Statement (.atomAnd h o) :=
  roundTrip_m .atomAnd 34 3 h o rfl (by decide) (by decide) (fun w h1 h2 => by simp only [byOpcode, h1, h2, major22])
theorem RoundTrip.atomOr (h : Hdr) (o : OpM) : RoundTrip.Statement (.atomOr h o) :=
  roundTrip_m .atomOr 34 4 h o rfl (by decide) (by decide) (fun w h1 h2 => by simp only [byOpcode, h1, h2, major22])
theorem RoundTrip.atomXor (h : Hdr) (o : OpM) : RoundTrip.Statement (.atomXor h o) :=
  roundTrip_m .atomXor 34 5 h o rfl (by decide) (by decide) (fun w h1 h2 => by simp only [byOpcode, h1, h2, major22])
theorem RoundTrip.atomExch (h : Hdr) (o : OpM) : RoundTrip.Statement (.atomExch h o) :=
  roundTrip_m .atomExch 34 6 h o rfl (by decide) (by decide) (fun w h1 h2 => by simp only [byOpcode, h1, h2, major22])
theorem RoundTrip.atomCas (h : Hdr) (o : OpM) : RoundTrip.Statement (.atomCas h o) :=
  roundTrip_m .atomCas 34 7 h o rfl (by decide) (by decide) (fun w h1 h2 => by simp only [byOpcode, h1, h2, major22])
theorem RoundTrip.redAdd (h : Hdr) (o : OpM) : RoundTrip.Statement (.redAdd h o) :=
  roundTrip_m .redAdd 35 0 h o rfl (by decide) (by decide) (fun w h1 h2 => by simp only [byOpcode, h1, h2, major23])
theorem RoundTrip.redMin (h : Hdr) (o : OpM) : RoundTrip.Statement (.redMin h o) :=
  roundTrip_m .redMin 35 1 h o rfl (by decide) (by decide) (fun w h1 h2 => by simp only [byOpcode, h1, h2, major23])
theorem RoundTrip.redMax (h : Hdr) (o : OpM) : RoundTrip.Statement (.redMax h o) :=
  roundTrip_m .redMax 35 2 h o rfl (by decide) (by decide) (fun w h1 h2 => by simp only [byOpcode, h1, h2, major23])
theorem RoundTrip.redAnd (h : Hdr) (o : OpM) : RoundTrip.Statement (.redAnd h o) :=
  roundTrip_m .redAnd 35 3 h o rfl (by decide) (by decide) (fun w h1 h2 => by simp only [byOpcode, h1, h2, major23])
theorem RoundTrip.redOr (h : Hdr) (o : OpM) : RoundTrip.Statement (.redOr h o) :=
  roundTrip_m .redOr 35 4 h o rfl (by decide) (by decide) (fun w h1 h2 => by simp only [byOpcode, h1, h2, major23])
theorem RoundTrip.redXor (h : Hdr) (o : OpM) : RoundTrip.Statement (.redXor h o) :=
  roundTrip_m .redXor 35 5 h o rfl (by decide) (by decide) (fun w h1 h2 => by simp only [byOpcode, h1, h2, major23])
theorem RoundTrip.tld (h : Hdr) (o : OpT) : RoundTrip.Statement (.tld h o) :=
  roundTrip_t .tld 36 0 h o rfl (by decide) (by decide) (fun w h1 h2 => by simp only [byOpcode, h1, h2, major24])
theorem RoundTrip.tst (h : Hdr) (o : OpT) : RoundTrip.Statement (.tst h o) :=
  roundTrip_t .tst 36 1 h o rfl (by decide) (by decide) (fun w h1 h2 => by simp only [byOpcode, h1, h2, major24])
theorem RoundTrip.hld (h : Hdr) (o : OpT) : RoundTrip.Statement (.hld h o) :=
  roundTrip_t .hld 36 2 h o rfl (by decide) (by decide) (fun w h1 h2 => by simp only [byOpcode, h1, h2, major24])
theorem RoundTrip.hclr (h : Hdr) (o : OpT) : RoundTrip.Statement (.hclr h o) :=
  roundTrip_t .hclr 36 3 h o rfl (by decide) (by decide) (fun w h1 h2 => by simp only [byOpcode, h1, h2, major24])
theorem RoundTrip.spt (h : Hdr) (o : OpG) : RoundTrip.Statement (.spt h o) :=
  roundTrip_g .spt 37 0 h o rfl (by decide) (by decide) (fun w h1 h2 => by simp only [byOpcode, h1, h2, major25])
theorem RoundTrip.cvta (h : Hdr) (o : OpG) : RoundTrip.Statement (.cvta h o) :=
  roundTrip_g .cvta 37 1 h o rfl (by decide) (by decide) (fun w h1 h2 => by simp only [byOpcode, h1, h2, major25])
theorem RoundTrip.cvts (h : Hdr) (o : OpG) : RoundTrip.Statement (.cvts h o) :=
  roundTrip_g .cvts 37 2 h o rfl (by decide) (by decide) (fun w h1 h2 => by simp only [byOpcode, h1, h2, major25])
theorem RoundTrip.pf (h : Hdr) (o : OpM) : RoundTrip.Statement (.pf h o) :=
  roundTrip_m .pf 38 0 h o rfl (by decide) (by decide) (fun w h1 h2 => by simp only [byOpcode, h1, h2, major26])
theorem RoundTrip.flush (h : Hdr) (o : OpM) : RoundTrip.Statement (.flush h o) :=
  roundTrip_m .flush 38 1 h o rfl (by decide) (by decide) (fun w h1 h2 => by simp only [byOpcode, h1, h2, major26])
theorem RoundTrip.disc (h : Hdr) (o : OpM) : RoundTrip.Statement (.disc h o) :=
  roundTrip_m .disc 38 2 h o rfl (by decide) (by decide) (fun w h1 h2 => by simp only [byOpcode, h1, h2, major26])
theorem RoundTrip.syncwait (h : Hdr) (o : OpM) : RoundTrip.Statement (.syncwait h o) :=
  roundTrip_m .syncwait 39 0 h o rfl (by decide) (by decide) (fun w h1 h2 => by simp only [byOpcode, h1, h2, major27])
theorem RoundTrip.syncadd (h : Hdr) (o : OpM) : RoundTrip.Statement (.syncadd h o) :=
  roundTrip_m .syncadd 39 1 h o rfl (by decide) (by decide) (fun w h1 h2 => by simp only [byOpcode, h1, h2, major27])
theorem RoundTrip.copy (h : Hdr) (o : OpE) : RoundTrip.Statement (.copy h o) :=
  roundTrip_e .copy 40 0 h o rfl (by decide) (by decide) (fun w h1 h2 => by simp only [byOpcode, h1, h2, major28])
theorem RoundTrip.tcopy (h : Hdr) (o : OpE) : RoundTrip.Statement (.tcopy h o) :=
  roundTrip_e .tcopy 40 1 h o rfl (by decide) (by decide) (fun w h1 h2 => by simp only [byOpcode, h1, h2, major28])
theorem RoundTrip.fktab (h : Hdr) (o : OpE) : RoundTrip.Statement (.fktab h o) :=
  roundTrip_e .fktab 40 2 h o rfl (by decide) (by decide) (fun w h1 h2 => by simp only [byOpcode, h1, h2, major28])
theorem RoundTrip.fkdec (h : Hdr) (o : OpE) : RoundTrip.Statement (.fkdec h o) :=
  roundTrip_e .fkdec 40 3 h o rfl (by decide) (by decide) (fun w h1 h2 => by simp only [byOpcode, h1, h2, major28])
theorem RoundTrip.mapset (h : Hdr) (o : OpE) : RoundTrip.Statement (.mapset h o) :=
  roundTrip_e .mapset 48 0 h o rfl (by decide) (by decide) (fun w h1 h2 => by simp only [byOpcode, h1, h2, major30])
theorem RoundTrip.wload (h : Hdr) (o : OpE) : RoundTrip.Statement (.wload h o) :=
  roundTrip_e .wload 48 1 h o rfl (by decide) (by decide) (fun w h1 h2 => by simp only [byOpcode, h1, h2, major30])
theorem RoundTrip.mmul (h : Hdr) (o : OpE) : RoundTrip.Statement (.mmul h o) :=
  roundTrip_e .mmul 48 2 h o rfl (by decide) (by decide) (fun w h1 h2 => by simp only [byOpcode, h1, h2, major30])
theorem RoundTrip.aclr (h : Hdr) (o : OpE) : RoundTrip.Statement (.aclr h o) :=
  roundTrip_e .aclr 48 3 h o rfl (by decide) (by decide) (fun w h1 h2 => by simp only [byOpcode, h1, h2, major30])
theorem RoundTrip.aread (h : Hdr) (o : OpE) : RoundTrip.Statement (.aread h o) :=
  roundTrip_e .aread 48 4 h o rfl (by decide) (by decide) (fun w h1 h2 => by simp only [byOpcode, h1, h2, major30])
theorem RoundTrip.ofence (h : Hdr) (o : OpE) : RoundTrip.Statement (.ofence h o) :=
  roundTrip_e .ofence 48 5 h o rfl (by decide) (by decide) (fun w h1 h2 => by simp only [byOpcode, h1, h2, major30])
theorem RoundTrip.rsend (h : Hdr) (o : OpE) : RoundTrip.Statement (.rsend h o) :=
  roundTrip_e .rsend 48 6 h o rfl (by decide) (by decide) (fun w h1 h2 => by simp only [byOpcode, h1, h2, major30])
theorem RoundTrip.rrecv (h : Hdr) (o : OpE) : RoundTrip.Statement (.rrecv h o) :=
  roundTrip_e .rrecv 48 7 h o rfl (by decide) (by decide) (fun w h1 h2 => by simp only [byOpcode, h1, h2, major30])
theorem RoundTrip.smv (h : Hdr) (o : OpE) : RoundTrip.Statement (.smv h o) :=
  roundTrip_e .smv 49 0 h o rfl (by decide) (by decide) (fun w h1 h2 => by simp only [byOpcode, h1, h2, major31])
theorem RoundTrip.qrot (h : Hdr) (o : OpE) : RoundTrip.Statement (.qrot h o) :=
  roundTrip_e .qrot 49 1 h o rfl (by decide) (by decide) (fun w h1 h2 => by simp only [byOpcode, h1, h2, major31])
theorem RoundTrip.bput (h : Hdr) (o : OpE) : RoundTrip.Statement (.bput h o) :=
  roundTrip_e .bput 49 2 h o rfl (by decide) (by decide) (fun w h1 h2 => by simp only [byOpcode, h1, h2, major31])
theorem RoundTrip.bfork (h : Hdr) (o : OpE) : RoundTrip.Statement (.bfork h o) :=
  roundTrip_e .bfork 49 3 h o rfl (by decide) (by decide) (fun w h1 h2 => by simp only [byOpcode, h1, h2, major31])
theorem RoundTrip.bdrop (h : Hdr) (o : OpE) : RoundTrip.Statement (.bdrop h o) :=
  roundTrip_e .bdrop 49 4 h o rfl (by decide) (by decide) (fun w h1 h2 => by simp only [byOpcode, h1, h2, major31])
theorem RoundTrip.attn (h : Hdr) (o : OpE) : RoundTrip.Statement (.attn h o) :=
  roundTrip_e .attn 49 5 h o rfl (by decide) (by decide) (fun w h1 h2 => by simp only [byOpcode, h1, h2, major31])
theorem RoundTrip.bringUp : RoundTrip.Statement .bringUp := roundTrip_event _ rfl
theorem RoundTrip.securityVersionRaise : RoundTrip.Statement .securityVersionRaise := roundTrip_event _ rfl
theorem RoundTrip.measurementExtend : RoundTrip.Statement .measurementExtend := roundTrip_event _ rfl
theorem RoundTrip.quoteRequest : RoundTrip.Statement .quoteRequest := roundTrip_event _ rfl
theorem RoundTrip.certificateRequest : RoundTrip.Statement .certificateRequest := roundTrip_event _ rfl
theorem RoundTrip.vfLoopStep : RoundTrip.Statement .vfLoopStep := roundTrip_event _ rfl
theorem RoundTrip.droopEvent : RoundTrip.Statement .droopEvent := roundTrip_event _ rfl
theorem RoundTrip.droopRecovery : RoundTrip.Statement .droopRecovery := roundTrip_event _ rfl
theorem RoundTrip.thermalStateChange : RoundTrip.Statement .thermalStateChange := roundTrip_event _ rfl
theorem RoundTrip.thermalTrip : RoundTrip.Statement .thermalTrip := roundTrip_event _ rfl
theorem RoundTrip.powerLimitExceeded : RoundTrip.Statement .powerLimitExceeded := roundTrip_event _ rfl
theorem RoundTrip.vflimWrite : RoundTrip.Statement .vflimWrite := roundTrip_event _ rfl
theorem RoundTrip.pwrcapWrite : RoundTrip.Statement .pwrcapWrite := roundTrip_event _ rfl
theorem RoundTrip.combwinWrite : RoundTrip.Statement .combwinWrite := roundTrip_event _ rfl
theorem RoundTrip.schedCfgWrite : RoundTrip.Statement .schedCfgWrite := roundTrip_event _ rfl
theorem RoundTrip.simtCfgWrite : RoundTrip.Statement .simtCfgWrite := roundTrip_event _ rfl
theorem RoundTrip.matrixCfgWrite : RoundTrip.Statement .matrixCfgWrite := roundTrip_event _ rfl
theorem RoundTrip.adminptrTailWrite : RoundTrip.Statement .adminptrTailWrite := roundTrip_event _ rfl
theorem RoundTrip.doorbellWrite : RoundTrip.Statement .doorbellWrite := roundTrip_event _ rfl
theorem RoundTrip.errlogOvfClear : RoundTrip.Statement .errlogOvfClear := roundTrip_event _ rfl
theorem RoundTrip.errentValidClear : RoundTrip.Statement .errentValidClear := roundTrip_event _ rfl
theorem RoundTrip.frameRingTailWrite : RoundTrip.Statement .frameRingTailWrite := roundTrip_event _ rfl
theorem RoundTrip.frameRing3HeadWrite : RoundTrip.Statement .frameRing3HeadWrite := roundTrip_event _ rfl
theorem RoundTrip.evictReclaim : RoundTrip.Statement .evictReclaim := roundTrip_event _ rfl
theorem RoundTrip.evictDirectedBacking : RoundTrip.Statement .evictDirectedBacking := roundTrip_event _ rfl
theorem RoundTrip.evictDirectedDiscard : RoundTrip.Statement .evictDirectedDiscard := roundTrip_event _ rfl
theorem RoundTrip.bushelEnable : RoundTrip.Statement .bushelEnable := roundTrip_event _ rfl
theorem RoundTrip.bushelDisable : RoundTrip.Statement .bushelDisable := roundTrip_event _ rfl
theorem RoundTrip.reg128LowWrite : RoundTrip.Statement .reg128LowWrite := roundTrip_event _ rfl
theorem RoundTrip.reg128LowRead : RoundTrip.Statement .reg128LowRead := roundTrip_event _ rfl
theorem RoundTrip.registerWrite : RoundTrip.Statement .registerWrite := roundTrip_event _ rfl
theorem RoundTrip.flitReceived : RoundTrip.Statement .flitReceived := roundTrip_event _ rfl
theorem RoundTrip.replayRequest : RoundTrip.Statement .replayRequest := roundTrip_event _ rfl
theorem RoundTrip.linkRetrainDone : RoundTrip.Statement .linkRetrainDone := roundTrip_event _ rfl
theorem RoundTrip.equalisationStep : RoundTrip.Statement .equalisationStep := roundTrip_event _ rfl
theorem RoundTrip.snpdata : RoundTrip.Statement .snpdata := roundTrip_event _ rfl
theorem RoundTrip.snpinv : RoundTrip.Statement .snpinv := roundTrip_event _ rfl
theorem RoundTrip.snpcur : RoundTrip.Statement .snpcur := roundTrip_event _ rfl
theorem RoundTrip.hostSectorFetch : RoundTrip.Statement .hostSectorFetch := roundTrip_event _ rfl
theorem RoundTrip.itomwrCompletion : RoundTrip.Statement .itomwrCompletion := roundTrip_event _ rfl
theorem RoundTrip.barMemoryRead : RoundTrip.Statement .barMemoryRead := roundTrip_event _ rfl
theorem RoundTrip.barMemoryWrite : RoundTrip.Statement .barMemoryWrite := roundTrip_event _ rfl
theorem RoundTrip.gets : RoundTrip.Statement .gets := roundTrip_event _ rfl
theorem RoundTrip.getx : RoundTrip.Statement .getx := roundTrip_event _ rfl
theorem RoundTrip.granuleRecall : RoundTrip.Statement .granuleRecall := roundTrip_event _ rfl
theorem RoundTrip.granuleGrant : RoundTrip.Statement .granuleGrant := roundTrip_event _ rfl
theorem RoundTrip.putx : RoundTrip.Statement .putx := roundTrip_event _ rfl
theorem RoundTrip.rds : RoundTrip.Statement .rds := roundTrip_event _ rfl
theorem RoundTrip.rdx : RoundTrip.Statement .rdx := roundTrip_event _ rfl
theorem RoundTrip.upg : RoundTrip.Statement .upg := roundTrip_event _ rfl
theorem RoundTrip.rdu : RoundTrip.Statement .rdu := roundTrip_event _ rfl
theorem RoundTrip.wru : RoundTrip.Statement .wru := roundTrip_event _ rfl
theorem RoundTrip.atom : RoundTrip.Statement .atom := roundTrip_event _ rfl
theorem RoundTrip.fwd : RoundTrip.Statement .fwd := roundTrip_event _ rfl
theorem RoundTrip.inv : RoundTrip.Statement .inv := roundTrip_event _ rfl
theorem RoundTrip.graft : RoundTrip.Statement .graft := roundTrip_event _ rfl
theorem RoundTrip.pruneack : RoundTrip.Statement .pruneack := roundTrip_event _ rfl
theorem RoundTrip.wback : RoundTrip.Statement .wback := roundTrip_event _ rfl
theorem RoundTrip.pathRelease : RoundTrip.Statement .pathRelease := roundTrip_event _ rfl
theorem RoundTrip.invack : RoundTrip.Statement .invack := roundTrip_event _ rfl
theorem RoundTrip.prune : RoundTrip.Statement .prune := roundTrip_event _ rfl
theorem RoundTrip.wbd : RoundTrip.Statement .wbd := roundTrip_event _ rfl
theorem RoundTrip.data : RoundTrip.Statement .data := roundTrip_event _ rfl
theorem RoundTrip.grant : RoundTrip.Statement .grant := roundTrip_event _ rfl
theorem RoundTrip.err : RoundTrip.Statement .err := roundTrip_event _ rfl
theorem RoundTrip.wrack : RoundTrip.Statement .wrack := roundTrip_event _ rfl
theorem RoundTrip.atomack : RoundTrip.Statement .atomack := roundTrip_event _ rfl
theorem RoundTrip.redack : RoundTrip.Statement .redack := roundTrip_event _ rfl
theorem RoundTrip.syncCountUpdate : RoundTrip.Statement .syncCountUpdate := roundTrip_event _ rfl
theorem RoundTrip.red : RoundTrip.Statement .red := roundTrip_event _ rfl
theorem RoundTrip.redp : RoundTrip.Statement .redp := roundTrip_event _ rfl
theorem RoundTrip.combineWindowExpiry : RoundTrip.Statement .combineWindowExpiry := roundTrip_event _ rfl
theorem RoundTrip.ordContributionResend : RoundTrip.Statement .ordContributionResend := roundTrip_event _ rfl
theorem RoundTrip.attributeQuery : RoundTrip.Statement .attributeQuery := roundTrip_event _ rfl
theorem RoundTrip.placementLookup : RoundTrip.Statement .placementLookup := roundTrip_event _ rfl
theorem RoundTrip.translationWalk : RoundTrip.Statement .translationWalk := roundTrip_event _ rfl
theorem RoundTrip.frameZeroingComplete : RoundTrip.Statement .frameZeroingComplete := roundTrip_event _ rfl
theorem RoundTrip.treeCacheEccFatal : RoundTrip.Statement .treeCacheEccFatal := roundTrip_event _ rfl
theorem RoundTrip.wcsEviction : RoundTrip.Statement .wcsEviction := roundTrip_event _ rfl
theorem RoundTrip.ctxCreate : RoundTrip.Statement .ctxCreate := roundTrip_event _ rfl
theorem RoundTrip.ctxDestroy : RoundTrip.Statement .ctxDestroy := roundTrip_event _ rfl
theorem RoundTrip.ctxSuspend : RoundTrip.Statement .ctxSuspend := roundTrip_event _ rfl
theorem RoundTrip.ctxSuspendComplete : RoundTrip.Statement .ctxSuspendComplete := roundTrip_event _ rfl
theorem RoundTrip.ctxResume : RoundTrip.Statement .ctxResume := roundTrip_event _ rfl
theorem RoundTrip.objDeclare : RoundTrip.Statement .objDeclare := roundTrip_event _ rfl
theorem RoundTrip.objClear : RoundTrip.Statement .objClear := roundTrip_event _ rfl
theorem RoundTrip.biasFlip : RoundTrip.Statement .biasFlip := roundTrip_event _ rfl
theorem RoundTrip.biasFlipComplete : RoundTrip.Statement .biasFlipComplete := roundTrip_event _ rfl
theorem RoundTrip.queueResume : RoundTrip.Statement .queueResume := roundTrip_event _ rfl
theorem RoundTrip.xlateInval : RoundTrip.Statement .xlateInval := roundTrip_event _ rfl
theorem RoundTrip.adminUnknownOpcode : RoundTrip.Statement .adminUnknownOpcode := roundTrip_event _ rfl
theorem RoundTrip.adminCommandReadError : RoundTrip.Statement .adminCommandReadError := roundTrip_event _ rfl
theorem RoundTrip.userNop : RoundTrip.Statement .userNop := roundTrip_event _ rfl
theorem RoundTrip.graphLaunch : RoundTrip.Statement .graphLaunch := roundTrip_event _ rfl
theorem RoundTrip.userUnknownOp : RoundTrip.Statement .userUnknownOp := roundTrip_event _ rfl
theorem RoundTrip.userCommandReadError : RoundTrip.Statement .userCommandReadError := roundTrip_event _ rfl
theorem RoundTrip.nodeNop : RoundTrip.Statement .nodeNop := roundTrip_event _ rfl
theorem RoundTrip.nodeKernel : RoundTrip.Statement .nodeKernel := roundTrip_event _ rfl
theorem RoundTrip.nodeCopy : RoundTrip.Statement .nodeCopy := roundTrip_event _ rfl
theorem RoundTrip.nodeSignal : RoundTrip.Statement .nodeSignal := roundTrip_event _ rfl
theorem RoundTrip.nodeWait : RoundTrip.Statement .nodeWait := roundTrip_event _ rfl
theorem RoundTrip.waitReread : RoundTrip.Statement .waitReread := roundTrip_event _ rfl
theorem RoundTrip.waitTimeout : RoundTrip.Statement .waitTimeout := roundTrip_event _ rfl
theorem RoundTrip.nodeCond : RoundTrip.Statement .nodeCond := roundTrip_event _ rfl
theorem RoundTrip.nodeWhile : RoundTrip.Statement .nodeWhile := roundTrip_event _ rfl
theorem RoundTrip.nodeComplete : RoundTrip.Statement .nodeComplete := roundTrip_event _ rfl
theorem RoundTrip.faultVectorRaise : RoundTrip.Statement .faultVectorRaise := roundTrip_event _ rfl
theorem RoundTrip.teamPlacement : RoundTrip.Statement .teamPlacement := roundTrip_event _ rfl
theorem RoundTrip.preemptionTrigger : RoundTrip.Statement .preemptionTrigger := roundTrip_event _ rfl
theorem RoundTrip.haltComplete : RoundTrip.Statement .haltComplete := roundTrip_event _ rfl
theorem RoundTrip.contextSave : RoundTrip.Statement .contextSave := roundTrip_event _ rfl
theorem RoundTrip.accumulatorSave : RoundTrip.Statement .accumulatorSave := roundTrip_event _ rfl
theorem RoundTrip.contextResumeAuto : RoundTrip.Statement .contextResumeAuto := roundTrip_event _ rfl
theorem RoundTrip.teamExit : RoundTrip.Statement .teamExit := roundTrip_event _ rfl
theorem RoundTrip.ejectionHandoverComplete : RoundTrip.Statement .ejectionHandoverComplete := roundTrip_event _ rfl
theorem RoundTrip.threadRecall : RoundTrip.Statement .threadRecall := roundTrip_event _ rfl
theorem RoundTrip.rejoinTimeout : RoundTrip.Statement .rejoinTimeout := roundTrip_event _ rfl
theorem RoundTrip.ejectionWindowEnd : RoundTrip.Statement .ejectionWindowEnd := roundTrip_event _ rfl
theorem RoundTrip.copyCommandAccept : RoundTrip.Statement .copyCommandAccept := roundTrip_event _ rfl
theorem RoundTrip.copyCountStep : RoundTrip.Statement .copyCountStep := roundTrip_event _ rfl
theorem RoundTrip.firkinTableLoadComplete : RoundTrip.Statement .firkinTableLoadComplete := roundTrip_event _ rfl
theorem RoundTrip.firkinDecodeComplete : RoundTrip.Statement .firkinDecodeComplete := roundTrip_event _ rfl
theorem RoundTrip.syncUpdate : RoundTrip.Statement .syncUpdate := roundTrip_event _ rfl
theorem RoundTrip.syncTimerTick : RoundTrip.Statement .syncTimerTick := roundTrip_event _ rfl
theorem RoundTrip.rodPairing : RoundTrip.Statement .rodPairing := roundTrip_event _ rfl
theorem RoundTrip.rodTimeout : RoundTrip.Statement .rodTimeout := roundTrip_event _ rfl
theorem RoundTrip.asyncOperationComplete : RoundTrip.Statement .asyncOperationComplete := roundTrip_event _ rfl
theorem RoundTrip.partReset : RoundTrip.Statement .partReset := roundTrip_event _ rfl
theorem RoundTrip.portWriteAcknowledgement : RoundTrip.Statement .portWriteAcknowledgement := roundTrip_event _ rfl

end Sys2Proof.Laws
end

