-- ==== Sys2Proof/Tests/Slice0.lean ====
section
/-! SUPPORT. Tests: words written out from the encoding tables, ill-formed instructions that are refused, and for the statements with hypotheses, states and operands that meet them. -/

open Sys2Proof Sys2Proof.Machine

namespace Sys2Proof.Tests

-- One proof at a time: each of these is a kernel evaluation, and many at once would hold many stacks.
set_option Elab.async false

/-! ### Decoding: words put together field by field from Tables enc-1 to enc-4 and the opcode map (Table enc-7) -/

theorem test_decode_control :
    decodeWord 0x0101280E000000FFFFFFFD01 = .ok (.bra ⟨0, true, 2, 0, 7, 0, false, false⟩ ⟨0, 0, 4294967293, 1⟩)
    ∧ decodeWord 0x01085C0E0000000000000000 = .ok (.rejoin ⟨1, false, 7, 0, 7, 0, false, false⟩ ⟨0, 0, 0, 0⟩)
    ∧ decodeWord 0x01071C0E00010B0000000000 = .ok (.kill ⟨0, false, 7, 0, 7, 0, false, false⟩ ⟨0, 267, 0, 0⟩)
    ∧ decodeWord 0x01091E1BF00000DEADBEEF00 = .ok (.trap ⟨0, false, 7, 33, 5, 7, true, true⟩ ⟨0, 0, 3735928559, 0⟩) := by decide +kernel

theorem test_decode_masks :
    decodeWord 0x02005C0E040C000000000000 = .ok (.mjoin ⟨1, false, 7, 0, 7, 0, false, false⟩ ⟨259, 0, 0, 0, 0, 0, 0, 0⟩)
    ∧ decodeWord 0x0204DC0E0000000000000101 = .ok (.bar ⟨3, false, 7, 0, 7, 0, false, false⟩ ⟨0, 0, 0, 0, 0, 0, 0, 257⟩)
    ∧ decodeWord 0x02059C0E02100000000000A6 = .ok (.arrive ⟨2, false, 7, 0, 7, 0, false, false⟩ ⟨132, 0, 0, 0, 0, 0, 0, 166⟩)
    ∧ decodeWord 0x020A1C0E0000000000000283 = .ok (.fence ⟨0, false, 7, 0, 7, 0, false, false⟩ ⟨0, 0, 0, 0, 0, 0, 0, 643⟩) := by decide +kernel

theorem test_decode_system :
    decodeWord 0x03001C0E0008000000000001 = .ok (.clock ⟨0, false, 7, 0, 7, 0, false, false⟩ ⟨2, 0, 0, 0, 0, 0, 0, 1⟩)
    ∧ decodeWord 0x03035C0E000085000000000A = .ok (.syswr ⟨1, false, 7, 0, 7, 0, false, false⟩ ⟨0, 133, 0, 0, 0, 0, 0, 10⟩) := by decide +kernel

theorem test_decode_integer :
    decodeWord 0x10041C0E00040200C04B8400 = .ok (.mad ⟨0, false, 7, 0, 7, 0, false, false⟩ ⟨1, 2, 3, 4, 46, 0, 1, 0⟩)
    ∧ decodeWord 0x10815C0E00040200000007BC = .ok (.subIntImm ⟨1, false, 7, 0, 7, 0, false, false⟩ ⟨1, 2, 7, 188⟩) := by decide +kernel

theorem test_decode_logic :
    decodeWord 0x110D1C0E00000100803BC0E8 = .ok (.lop3 ⟨0, false, 7, 0, 7, 0, false, false⟩ ⟨0, 1, 2, 3, 47, 0, 0, 232⟩) := by decide +kernel

theorem test_decode_float :
    decodeWord 0x12031C0E00240A02C0CA3000 = .ok (.fma ⟨0, false, 7, 0, 7, 0, false, false⟩ ⟨9, 10, 11, 12, 40, 3, 0, 0⟩) := by decide +kernel

theorem test_decode_transc :
    decodeWord 0x13021C0E00180700000A0000 = .ok (.rcp ⟨0, false, 7, 0, 7, 0, false, false⟩ ⟨6, 7, 0, 0, 40, 0, 0, 0⟩) := by decide +kernel

theorem test_decode_packed :
    decodeWord 0x14021C0E00040200C0080000 = .ok (.mul2 ⟨0, false, 7, 0, 7, 0, false, false⟩ ⟨1, 2, 3, 0, 32, 0, 0, 0⟩) := by decide +kernel

theorem test_decode_predicate :
    decodeWord 0x15021C0E0304C230C0000001 = .ok (.pand ⟨0, false, 7, 0, 7, 0, false, false⟩ ⟨193, 194, 195, 0, 0, 0, 0, 1⟩) := by decide +kernel

theorem test_decode_convert :
    decodeWord 0x16001C0E000C0100000A0020 = .ok (.cvt ⟨0, false, 7, 0, 7, 0, false, false⟩ ⟨3, 1, 0, 0, 40, 0, 0, 32⟩) := by decide +kernel

theorem test_decode_lanes :
    decodeWord 0x17005C0E0004027FC00BC018 = .ok (.shfl ⟨1, false, 7, 0, 7, 0, false, false⟩ ⟨1, 2, 511, 0, 47, 0, 0, 24⟩)
    ∧ decodeWord 0x17015C0E0208C00000000018 = .ok (.vote ⟨1, false, 7, 0, 7, 0, false, false⟩ ⟨130, 192, 0, 0, 0, 0, 0, 24⟩) := by decide +kernel

theorem test_decode_scalar :
    decodeWord 0x18005C0E02048271400C0000 = .ok (.sadd ⟨1, false, 7, 0, 7, 0, false, false⟩ ⟨129, 130, 453, 0, 48, 0, 0, 0⟩) := by decide +kernel

theorem test_decode_moves :
    decodeWord 0x19001C0E00048300000BC000 = .ok (.mov ⟨0, false, 7, 0, 7, 0, false, false⟩ ⟨1, 131, 0, 0, 47, 0, 0, 0⟩) := by decide +kernel

theorem test_decode_memory :
    decodeWord 0x20001C0E00100200237FFF11 = .ok (.ld ⟨0, false, 7, 0, 7, 0, false, false⟩ ⟨4, 2, 0, 4, 1, 47, 16376, 2, 1⟩)
    ∧ decodeWord 0x21011C0E0000010081780200 = .ok (.sts ⟨0, false, 7, 0, 7, 0, false, false⟩ ⟨0, 1, 2, 0, 0, 47, 16, 0, 0⟩) := by decide +kernel

theorem test_decode_atomics :
    decodeWord 0x22071C0E0004020101780000 = .ok (.atomCas ⟨0, false, 7, 0, 7, 0, false, false⟩ ⟨1, 2, 4, 0, 0, 47, 0, 0, 0⟩)
    ∧ decodeWord 0x23001C0E0000020101400000 = .ok (.redAdd ⟨0, false, 7, 0, 7, 0, false, false⟩ ⟨0, 2, 4, 0, 0, 40, 0, 0, 0⟩) := by decide +kernel

theorem test_decode_tensor :
    decodeWord 0x24001C0E000404460A000000 = .ok (.tld ⟨0, false, 7, 0, 7, 0, false, false⟩ ⟨1, 4, 2, 3, 0, 0, 40, 0, 0⟩) := by decide +kernel

theorem test_decode_pointers :
    decodeWord 0x25011C0E0008040000000000 = .ok (.cvta ⟨0, false, 7, 0, 7, 0, false, false⟩ ⟨2, 4, 0, 0, 0, 0, 0, 0⟩) := by decide +kernel

theorem test_decode_cache :
    decodeWord 0x26011C0E0000020000000000 = .ok (.flush ⟨0, false, 7, 0, 7, 0, false, false⟩ ⟨0, 2, 0, 0, 0, 0, 0, 0, 0⟩) := by decide +kernel

theorem test_decode_sync :
    decodeWord 0x27001C0E001C00705A000200 = .ok (.syncwait ⟨0, false, 7, 0, 7, 0, false, false⟩ ⟨7, 0, 449, 3, 1, 0, 16, 0, 0⟩) := by decide +kernel

theorem test_decode_commands :
    decodeWord 0x28035C0E0208842180100000 = .ok (.fkdec ⟨1, false, 7, 0, 7, 0, false, false⟩ ⟨130, 132, 134, 0, 0, 2, 0⟩) := by decide +kernel

theorem test_decode_matrix :
    decodeWord 0x30019C0E0210000004900000 = .ok (.wload ⟨2, false, 7, 0, 7, 0, false, false⟩ ⟨132, 0, 0, 1, 2, 2, 0⟩)
    ∧ decodeWord 0x30055C0E0000000000000000 = .ok (.ofence ⟨1, false, 7, 0, 7, 0, false, false⟩ ⟨0, 0, 0, 0, 0, 0, 0⟩) := by decide +kernel

theorem test_decode_stacks :
    decodeWord 0x31055C0E0210860000100000 = .ok (.attn ⟨1, false, 7, 0, 7, 0, false, false⟩ ⟨132, 134, 0, 0, 0, 2, 0⟩) := by decide +kernel

/-! ### Ill-formed instructions, one for each check -/

/-- A header at lane scope without a guard, hints or counters. -/
def lane : Hdr := ⟨0, false, 7, 0, 7, 0, false, false⟩
/-- The same at group, set and team scope. -/
def group : Hdr := ⟨1, false, 7, 0, 7, 0, false, false⟩
def setH : Hdr := ⟨2, false, 7, 0, 7, 0, false, false⟩
def teamH : Hdr := ⟨3, false, 7, 0, 7, 0, false, false⟩
/-- Guarded by p0. -/
def guarded : Hdr := ⟨0, false, 0, 0, 7, 0, false, false⟩

/-- One of each layout is well-formed (R290, R320, R347, Tables ctl-1, comp-1, mem-2). -/
theorem test_wellFormed : ([.bra guarded ⟨0, 0, 2 ^ 32 - 1, 1⟩, .addInt lane ⟨1, 2, 3, 0, 0x2E, 0, 1, 0⟩, .ld lane ⟨4, 2, 0, 4, 1, 0x2F, 16383, 2, 1⟩,
    .tld lane ⟨1, 4, 7, 15, 0, 0, 0x28, 0, 1⟩, .mmul setH ⟨132, 133, 0, 1, 0, 1, 0x210⟩, .bringUp] : List Instr).all wellFormed = true := by decide +kernel

/-- A header field beyond its bits (Table enc-1). -/
theorem test_refuses_wide_header : ([⟨4, false, 7, 0, 7, 0, false, false⟩, ⟨0, false, 8, 0, 7, 0, false, false⟩, ⟨0, false, 7, 64, 7, 0, false, false⟩,
    ⟨0, false, 7, 0, 8, 0, false, false⟩, ⟨0, false, 7, 0, 7, 8, false, false⟩] : List Hdr).all (fun h => !wellFormed (.nop h ⟨0, 0, 0, 0⟩)) = true := by decide +kernel

/-- SIG 6, and GNEG with GUARD 7 (R290). -/
theorem test_refuses_header_codes : ([⟨0, false, 7, 0, 6, 0, false, false⟩, ⟨0, true, 7, 0, 7, 0, false, false⟩] : List Hdr).all
    (fun h => !wellFormed (.nop h ⟨0, 0, 0, 0⟩)) = true := by decide +kernel

/-- An operand field beyond its bits (Table enc-4), in each field of each layout. -/
theorem test_refuses_wide_operands :
    (([⟨1024, 2, 3, 4, 0x2E, 0, 0, 0⟩, ⟨1, 1024, 3, 4, 0x2E, 0, 0, 0⟩, ⟨1, 2, 1024, 4, 0x2E, 0, 0, 0⟩, ⟨1, 2, 3, 1024, 0x2E, 0, 0, 0⟩,
        ⟨1, 2, 3, 4, 64, 0, 0, 0⟩, ⟨1, 2, 3, 4, 0x28, 4, 0, 0⟩, ⟨1, 2, 3, 4, 0x28, 0, 4, 0⟩, ⟨1, 2, 3, 4, 0x28, 0, 0, 1024⟩] : List OpG).all (fun o => !fitsOps (.g o))
      && ([⟨1024, 0, 0, 0⟩, ⟨0, 1024, 0, 0⟩, ⟨0, 0, 2 ^ 32, 0⟩, ⟨0, 0, 0, 256⟩] : List OpI).all (fun o => !fitsOps (.i o))
      && ([⟨1024, 0, 0, 0, 0, 0, 0, 0, 0⟩, ⟨0, 1024, 0, 0, 0, 0, 0, 0, 0⟩, ⟨0, 0, 1024, 0, 0, 0, 0, 0, 0⟩, ⟨0, 0, 0, 8, 0, 0, 0, 0, 0⟩,
        ⟨0, 0, 0, 0, 4, 0, 0, 0, 0⟩, ⟨0, 0, 0, 0, 0, 64, 0, 0, 0⟩, ⟨0, 0, 0, 0, 0, 0, 2 ^ 14, 0, 0⟩, ⟨0, 0, 0, 0, 0, 0, 0, 4, 0⟩,
        ⟨0, 0, 0, 0, 0, 0, 0, 0, 8⟩] : List OpM).all (fun o => !fitsOps (.m o))
      && ([⟨1024, 0, 0, 0, 0, 0, 0, 0, 0⟩, ⟨0, 1024, 0, 0, 0, 0, 0, 0, 0⟩, ⟨0, 0, 8, 0, 0, 0, 0, 0, 0⟩, ⟨0, 0, 0, 16, 0, 0, 0, 0, 0⟩,
        ⟨0, 0, 0, 0, 8, 0, 0, 0, 0⟩, ⟨0, 0, 0, 0, 0, 4, 0, 0, 0⟩, ⟨0, 0, 0, 0, 0, 0, 64, 0, 0⟩, ⟨0, 0, 0, 0, 0, 0, 0, 4, 0⟩,
        ⟨0, 0, 0, 0, 0, 0, 0, 0, 2 ^ 20⟩] : List OpT).all (fun o => !fitsOps (.t o))
      && ([⟨1024, 0, 0, 0, 0, 0, 0⟩, ⟨0, 1024, 0, 0, 0, 0, 0⟩, ⟨0, 0, 1024, 0, 0, 0, 0⟩, ⟨0, 0, 0, 16, 0, 0, 0⟩, ⟨0, 0, 0, 0, 16, 0, 0⟩,
        ⟨0, 0, 0, 0, 0, 8, 0⟩, ⟨0, 0, 0, 0, 0, 0, 2 ^ 19⟩] : List OpE).all (fun o => !fitsOps (.e o))) = true := by decide +kernel

/-- A scope that the instruction does not accept: set scope of `mad`, lane scope of `bar`, group scope of `ld`, set scope of `tokgive`. -/
theorem test_refuses_scopes : ([.mad setH ⟨1, 2, 3, 4, 0x2E, 0, 0, 0⟩, .bar lane ⟨0, 0, 0, 0, 0, 0, 0, 256⟩, .ld group ⟨4, 2, 0, 0, 0, 0x2F, 0, 0, 0⟩,
    .tokgive setH ⟨0, 448, 0, 0, 0, 0, 0, 0⟩] : List Instr).all (fun i => !wellFormed i) = true := by decide +kernel

/-- A type, rounding or policy that the instruction does not accept: `addInt` on f32, `and` on i32, a rounding of `mad`, policy 2 of `mulInt`, a fold by code 6, an immediate of a 4-bit type, a narrow `mov`. -/
theorem test_refuses_types : ([.addInt lane ⟨1, 2, 3, 0, 0x28, 0, 0, 0⟩, .andL lane ⟨1, 2, 3, 0, 0x2E, 0, 0, 0⟩, .mad lane ⟨1, 2, 3, 4, 0x2E, 1, 0, 0⟩,
    .mulInt lane ⟨1, 2, 3, 0, 0x2E, 0, 2, 0⟩, .rdxOp group ⟨1, 2, 0, 0, 0x2F, 0, 0, 6⟩, .movi lane ⟨1, 0, 5, 4 * 0x26⟩,
    .mov lane ⟨1, 2, 0, 0, 0x2C, 0, 0, 0⟩] : List Instr).all (fun i => !wellFormed i) = true := by decide +kernel

/-- A comparison code that the type has not (R355), MSC below the scope (R319), an order without its instruction and one with a scope for a weak access (Table mem-2), VEC 3, NC 0. -/
theorem test_refuses_codes : ([.setp lane ⟨193, 2, 3, 0, 0x2E, 0, 0, 6⟩, .setp lane ⟨193, 2, 3, 0, 0x28, 0, 0, 14⟩, .bar teamH ⟨0, 0, 0, 0, 0, 0, 0, 128⟩,
    .ld lane ⟨4, 2, 0, 1, 2, 0x2F, 0, 0, 0⟩, .ld lane ⟨4, 2, 0, 1, 0, 0x2F, 0, 0, 0⟩, .ld lane ⟨4, 2, 0, 0, 0, 0x2F, 0, 3, 0⟩,
    .tld lane ⟨1, 4, 0, 3, 0, 0, 0x28, 0, 0⟩] : List Instr).all (fun i => !wellFormed i) = true := by decide +kernel

/-- An unused field or a reserved bit that is not 0, a place where none is named, `.part` at group scope, a guarded `tret`, a return of 0 registers. -/
theorem test_refuses_unused : ([.addInt lane ⟨1, 2, 3, 1, 0x2E, 0, 0, 0⟩, .addInt lane ⟨1, 2, 3, 0, 0x2E, 0, 0, 1⟩, .st lane ⟨1, 2, 4, 0, 0, 0x2F, 0, 0, 0⟩,
    .setp lane ⟨193, 2, 3, 1, 0x2E, 0, 0, 0⟩, .copy group ⟨130, 132, 134, 1, 0, 2, 0⟩, .vote group ⟨193, 192, 0, 0, 0, 0, 0, 512⟩,
    .tret guarded ⟨0, 0, 0, 0⟩, .ret lane ⟨0, 8, 0, 0⟩, .bra lane ⟨0, 0, 0, 2⟩] : List Instr).all (fun i => !wellFormed i) = true := by decide +kernel

/-! ### A small state, and checks of the hypotheses of Safety -/

def word (n : Nat) : PWord := ⟨BitVec.ofNat 32 n, false⟩

/-- A thread with a few registers, at address 0. -/
def thread : Thread := { Thread.blank with live := true, depth := 96, regs := [(0, word 0x40), (1, word 3), (2, word 5), (4, word 0x40)] }

def launch : Launch := { Launch.blank with handler := 0x1000, spad := 4096, cshared := 4096, privSize := 256, arrw := 1, arrh := 1, ejmax := 16 }

/-- A record of 16 elements of n32 in one dimension, at address 0 of the global space (Table enc-6). -/
def shape : Nat := 0x2F * 2 ^ 442 + 2 ^ 439 + 16 * 2 ^ 260

/-- One team of one group of 16 threads with two of them live, in set 0, on core 0 of cluster 0. -/
def base : State := { State.reset with
  cur := ⟨1, 0, [0, 1]⟩
  teams := [(1, { Team.blank with ctx := 1, grid := 1, ox := 7, spad := ⟨[(0x80 + 54, 0x80), (0x80 + 55, 0xBC)], [], none⟩ })]
  ctxs := [(1, { ctxOfRec 0 [] 0 with spanmax := 32 })]
  grids := [(1, { Grid.blank with ctx := 1, launch := launch })]
  groups := [((1, 0), { Group.blank with 
    setNo := some 0
    sregs := [(2, ⟨0x40, false⟩), (4, ⟨0x40, false⟩), (8, ⟨0x1FFF00000000000, false⟩), (9, ⟨0x1FFF00000000080, false⟩), (11, ⟨0x77, false⟩)]
    shapes := [(3, shape), (5, shape + 0x1FFF00000000000 * 2 ^ 448)] })]
  sets := [((1, 0), ⟨[0], [], [], none, []⟩)]
  threads := [((1, 0, 0), thread), ((1, 0, 1), thread)] }

/-- The hypotheses of `Clear` on a context of the instruction, as a check. -/
def readyNow (i : Instr) (n : Need) (c : Ctx) (s : State) : Bool :=
  decide (legal i = true
    ∧ ((s.grp c.team c.group).trap.active = true → c.span = false → ∀ k ∈ c.set, k ∈ (s.grp c.team c.group).handler)
    ∧ (∀ k ∈ c.set, (s.thr (c.key k)).live = true ∧ (s.thr (c.key k)).wait = .none) ∧ c.set.Nodup
    ∧ (c.span = false → hintsHold c s = false) ∧ (c.nosb = false → scoreboardHolds c s n.desc = false) ∧ n.hold c s = false
    ∧ (c.h.scope = 2 → (s.setOf c.team c.group).isSome = true) ∧ badField n.opds (s.setOf c.team c.group).isSome (c.h.scope == 2) = none ∧ n.pre c s = [])

def issuesNow (n : Need) (c : Ctx) (s : State) : Bool :=
  decide ((c.h.scope ≤ 1 ∨ n.alone = true)
    ∧ (c.span = true → c.h.scope = 0 ∧ n.recalled = false ∧
      ∀ o ∈ n.opds, isSwb o.sel = true ∨ ((cls o.sel = 2 → o.dst = false) ∧ cls o.sel ≠ 1 ∧ (cls o.sel = 6 → 22 ≤ idx o.sel)))
    ∧ (c.span = false → c.h.scope ≤ 1 → n.unif = true ∨ usesS n.opds = true → uniformConverged c s = true)
    ∧ (n.full = true → fullArrival c s = true) ∧ (n.noPoison = false → poisonTraps c s n.opds = []) ∧ n.chk c s = [])

def ableNow (c : Ctx) (s : State) : Bool :=
  decide (c.lanes.Nodup ∧ (∀ m ∈ c.lanes, 64 ≤ (s.thr (c.team, m.1, m.2)).depth)
    ∧ (∀ m ∈ c.lanes, (s.thr (c.team, m.1, m.2)).inflight = [] ∧ (s.thr (c.team, m.1, m.2)).flyP = []) ∧ (∀ e ∈ s.groups, e.2.inflightS = [] ∧ e.2.inflightM = [])
    ∧ (∀ e ∈ s.sets, e.2.flyX = []) ∧ (c.mem.map Prod.fst).Nodup)

theorem clear_of (i n c s) (h1 : mkCtx i n.eng s = some c) (h : readyNow i n c s = true) : Clear i n c s := by
  obtain ⟨h2, h3, h4, h5, h6, h7, h8, h9, h10, h11⟩ := of_decide_eq_true h
  exact ⟨h1, h2, h3, h4, h5, h6, h7, h8, h9, h10, h11⟩

theorem ready_of (i n c s) (hc : mkCtx i n.eng s = some c) (h : readyNow i n c s = true) (hi : issuesNow n c s = true) : Ready i n c s := by
  obtain ⟨h1, h2, h3, h4, h5, h6⟩ := of_decide_eq_true hi
  exact ⟨clear_of i n c s hc h, h1, h2, h3, h4, h5, h6⟩

theorem getD_mem {κ α : Type} [DecidableEq κ] (l : Tbl κ α) (k : κ) (d : α) : l.getD k d = d ∨ ∃ e ∈ l, e.2 = l.getD k d := by
  induction l with
  | nil => exact .inl rfl
  | cons e r ih =>
    obtain ⟨q, v⟩ := e
    by_cases h : q = k
    · exact .inr ⟨(q, v), List.mem_cons_self, by simp [Tbl.getD, Tbl.get?, h]⟩
    · have he : Tbl.getD ((q, v) :: r) k d = Tbl.getD r k d := by simp [Tbl.getD, Tbl.get?, h]
      rcases ih with g | ⟨e, he', g⟩
      · exact .inl (he.trans g)
      · exact .inr ⟨e, List.mem_cons_of_mem _ he', by rw [he, g]⟩

theorem able_of (c s) (h : ableNow c s = true) : Able c s := by
  obtain ⟨h1, h2, h3, h4, h5, h6⟩ := of_decide_eq_true h
  have quiet : ∀ g, (s.grp c.team g).inflightS = [] ∧ (s.grp c.team g).inflightM = [] := fun g => by
    rcases getD_mem s.groups (c.team, g) Group.blank with q | ⟨e, he, q⟩
    · show (s.groups.getD (c.team, g) .blank).inflightS = [] ∧ (s.groups.getD (c.team, g) .blank).inflightM = []
      rw [q]; exact ⟨rfl, rfl⟩
    · show (s.groups.getD (c.team, g) .blank).inflightS = [] ∧ (s.groups.getD (c.team, g) .blank).inflightM = []
      rw [← q]; exact h4 e he
  have still : ∀ n, (s.gset c.team n).flyX = [] := fun n => by
    rcases getD_mem s.sets (c.team, n) ⟨[], [], [], none, []⟩ with q | ⟨e, he, q⟩
    · show (s.sets.getD (c.team, n) ⟨[], [], [], none, []⟩).flyX = []
      rw [q]
    · show (s.sets.getD (c.team, n) ⟨[], [], [], none, []⟩).flyX = []
      rw [← q]; exact h5 e he
  exact ⟨h1, h2, fun m hm f hf => by simp [(h3 m hm).1] at hf, fun m hm f hf => by simp [(h3 m hm).2] at hf, fun g f hf => by simp [(quiet g).1] at hf,
    fun g f hf => by simp [(quiet g).2] at hf, fun n f hf => by simp [still n] at hf, h6⟩

/-- The instruction runs in a state. -/
def runsNow (i : Instr) (n : Need) (s : State) : Bool :=
  match mkCtx i n.eng s with
  | some c => readyNow i n c s && issuesNow n c s && ableNow c (settled n c s)
  | none => false

theorem runs_of (i n s) (h : runsNow i n s = true) : ∃ c, Runs i n s c (settled n c s) := by
  unfold runsNow at h
  split at h
  · rename_i c hc
    simp only [Bool.and_eq_true] at h
    exact ⟨c, .inl ⟨ready_of i n c s hc h.1.1 h.1.2, rfl⟩, able_of _ _ h.2⟩
  · cases h

/-- Every row of a table runs in a state with some of the given operands. -/
def tableRuns {α : Type} (rows : α → List (Instr × Need)) (os : List α) (s : State) : Bool :=
  (upFrom 0 ((os.map (fun o => (rows o).length)).headD 0)).all (fun k =>
    os.any (fun o => (((rows o)[k]?).map (fun r => runsNow r.1 r.2 s)).getD false))

theorem table_runs {α : Type} (rows : α → List (Instr × Need)) (os : List α) (s : State) (h : tableRuns rows os s = true) :
    ∀ k ∈ upFrom 0 ((os.map (fun o => (rows o).length)).headD 0), ∃ o ∈ os, ∃ r, (rows o)[k]? = some r ∧ ∃ c, Runs r.1 r.2 s c (settled r.2 c s) := by
  intro k hk
  have h' := List.all_eq_true.1 h k hk
  obtain ⟨o, ho, hr⟩ := List.any_eq_true.1 h'
  refine ⟨o, ho, ?_⟩
  cases hq : (rows o)[k]? with
  | none => rw [hq] at hr; cases hr
  | some r => rw [hq] at hr; exact ⟨r, rfl, runs_of _ _ _ hr⟩

def ofLane (l : List LaneRow) : List (Instr × Need) := l.map (fun r => (r.instr, r.need))
def ofPred (l : List PredRow) : List (Instr × Need) := l.map (fun r => (r.instr, r.need))
def ofScal (l : List ScalRow) : List (Instr × Need) := l.map (fun r => (r.instr, r.need))
def ofEff (l : List EffRow) : List (Instr × Need) := l.map (fun r => (r.instr, r.need))
def ofSend (l : List SendRow) : List (Instr × Need) := l.map (fun r => (r.instr, r.need))

/-- The hypotheses of `Joined` beyond those of `Clear`, as a check. -/
def meetsNow (n : Need) (c : Ctx) (s : State) : Bool :=
  decide (2 ≤ c.h.scope ∧ n.alone = false ∧ c.span = false ∧ (n.part = false → fullArrival c s = true)
    ∧ (getRdv c s).all (fun r => decide (r.pc = c.pc ∧ r.cd = c.cd)) = true ∧ partLanes c s = []
    ∧ rdvComplete c.team (rdvSet c (dropPart c s)) (arrivals c (dropPart c s)) (dropPart c s) = true
    ∧ (∀ a ∈ (arrivals c (dropPart c s)).arr, a.set.Nodup ∧ a.act.Nodup ∧ ∀ l ∈ a.act, l ∈ a.set)
    ∧ ((arrivals c (dropPart c s)).arr.head?.all (fun a => a.word == c.word)) = true
    ∧ (n.noPoison = false → poisonTraps (joinCtx c (arrivals c (dropPart c s))) (dropPart c s) n.opds = [])
    ∧ n.chk (joinCtx c (arrivals c (dropPart c s))) (dropPart c s) = [])

theorem joined_of (i n c s) (hc : mkCtx i n.eng s = some c) (h : readyNow i n c s = true) (hm : meetsNow n c s = true) : Joined i n c s := by
  obtain ⟨h1, h2, h3, h4, h5, h6, h7, hs, hl, h8, h9⟩ := of_decide_eq_true hm
  refine ⟨clear_of i n c s hc h, h1, h2, h3, h4, fun r hr => ?_, h6, h7, hs, fun a ha => ?_, h8, h9⟩
  · rw [hr] at h5
    exact of_decide_eq_true (by simpa using h5)
  · rw [ha] at hl
    simpa using hl

/-- The instruction runs at a rendezvous that it completes. -/
def joinsNow (i : Instr) (n : Need) (s : State) : Bool :=
  match mkCtx i n.eng s with
  | some c => readyNow i n c s && meetsNow n c s && ableNow (joinCtx c (arrivals c (dropPart c s))) (gathered n c s)
  | none => false

theorem runs_joined (i n s) (h : joinsNow i n s = true) : ∃ c s1, Runs i n s c s1 := by
  unfold joinsNow at h
  split at h
  · rename_i c hc
    simp only [Bool.and_eq_true] at h
    exact ⟨_, _, .inr ⟨c, joined_of i n c s hc h.1.1 h.1.2, rfl, rfl⟩, able_of _ _ h.2⟩
  · cases h

/-- A check of the context in which an instruction runs by itself, and of the state in which it reads. -/
def runsWith (i : Instr) (n : Need) (s : State) (p : Ctx → State → Bool) : Bool :=
  runsNow i n s && ((mkCtx i n.eng s).map (fun c => p c (settled n c s))).getD false


def o0 : OpG := ⟨0, 0, 0, 0, 0, 0, 0, 0⟩
def m0 : OpM := ⟨6, 0, 0, 0, 0, 0x2F, 0, 0, 0⟩
/-! ### Every row of the tables of Safety runs in the small state -/

/-- Hypotheses of IntegerLogicAndConversions, LaneOperationFrame. -/
theorem test_hyp_intRows :
    tableRuns (fun o => ofLane (intRows lane o)) [⟨6, 1, 2, 0, 0x2E, 0, 0, 0⟩, ⟨6, 1, 2, 4, 0x2E, 0, 1, 0⟩, ⟨6, 1, 0, 0, 0x2E, 0, 0, 0⟩,
    ⟨6, 0, 2, 0, 0x2F, 0, 0, 7⟩, ⟨6, 0, 2, 0, 0x2F, 0, 0, 4⟩] base = true := by decide +kernel
/-- Hypotheses of IntegerLogicAndConversions. -/
theorem test_hyp_intImmRows :
    tableRuns (fun o => ofLane (intImmRows group o)) [⟨6, 1, 77, 4 * 0x2E⟩, ⟨6, 0, 77, 4 * 0x31⟩, ⟨6, 0, 77, 4 * 0x2F⟩] base = true := by decide +kernel
/-- Hypotheses of IntegerLogicAndConversions. -/
theorem test_hyp_logicRows :
    tableRuns (fun o => ofLane (logicRows lane o)) [⟨6, 1, 2, 0, 0x2F, 0, 0, 0⟩, ⟨6, 1, 2, 4, 0x2F, 0, 0, 0xE8⟩, ⟨6, 1, 2, 4, 0x2F, 0, 0, 0⟩, ⟨6, 1, 0, 0, 0x2F, 0, 0, 0⟩,
    ⟨6, 1, 2, 0, 0x2E, 0, 0, 0⟩] base = true := by decide +kernel
/-- Hypotheses of IntegerLogicAndConversions. -/
theorem test_hyp_logicImmRows :
    tableRuns (fun o => ofLane (logicImmRows lane o)) [⟨6, 1, 77, 4 * 0x2E⟩, ⟨6, 0, 77, 4 * 0x2F⟩] base = true := by decide +kernel
/-- Hypotheses of IntegerLogicAndConversions. -/
theorem test_hyp_moveRows :
    tableRuns (fun o => ofLane (moveRows lane o)) [⟨6, 1, 0, 0, 0x28, 0, 0, 0x2E⟩, ⟨6, 1, 2, 0, 0x20, 0, 0, 0x28⟩, ⟨6, 1, 0, 0, 0x20, 0, 0, 0x28⟩,
    ⟨6, 1, 2, 0, 0x26, 0, 0, 0x28⟩, ⟨6, 1, 2, 193, 0x2F, 0, 0, 0⟩] base = true := by decide +kernel
/-- Hypotheses of FloatOperations. -/
theorem test_hyp_floatRows :
    tableRuns (fun o => ofLane (floatRows lane o)) [⟨6, 1, 2, 0, 0x28, 0, 0, 0⟩, ⟨6, 1, 2, 4, 0x28, 3, 2, 0⟩, ⟨6, 1, 0, 0, 0x28, 0, 0, 0⟩] base = true := by decide +kernel
/-- Hypotheses of FloatOperations. -/
theorem test_hyp_floatImmRows :
    tableRuns (fun o => ofLane (floatImmRows lane o)) [⟨6, 1, 2, 4 * 0x28⟩] base = true := by decide +kernel
/-- Hypotheses of TranscendentalPackedAndGroupOperations. -/
theorem test_hyp_transRows :
    tableRuns (fun o => ofLane (transRows lane o)) [⟨6, 1, 0, 0, 0x28, 0, 0, 0⟩] base = true := by decide +kernel
/-- Hypotheses of TranscendentalPackedAndGroupOperations. -/
theorem test_hyp_packedRows :
    tableRuns (fun o => ofLane (packedRows lane o)) [⟨6, 1, 2, 0, 0x2C, 0, 0, 0⟩, ⟨6, 1, 2, 4, 0x20, 0, 0, 0⟩] base = true := by decide +kernel
/-- Hypotheses of TranscendentalPackedAndGroupOperations. -/
theorem test_hyp_groupRows :
    tableRuns (fun o => ofLane (groupRows group o)) [⟨6, 1, 2, 0, 0x2F, 0, 0, 8⟩, ⟨6, 1, 0, 0, 0x2F, 0, 0, 32⟩, ⟨8, 1, 0, 0, 0x2F, 0, 0, 0⟩] base = true := by decide +kernel
/-- Hypotheses of PredicateOperations. -/
theorem test_hyp_predRows :
    tableRuns (fun o => ofPred (predRows group o)) [⟨193, 1, 2, 0, 0x2F, 0, 0, 5⟩, ⟨193, 192, 194, 0, 0, 0, 0, 0⟩, ⟨193, 192, 0, 0, 0, 0, 0, 0⟩, ⟨199, 129, 130, 0, 0x2F, 0, 0, 5⟩] base = true := by decide +kernel
/-- Hypotheses of ScalarAndBitOperations. -/
theorem test_hyp_scalRows :
    tableRuns (fun o => ofScal (scalRows group o)) [⟨129, 130, 131, 0, 0x2F, 0, 0, 0⟩, ⟨129, 0, 131, 0, 0x2F, 0, 0, 0⟩] base = true := by decide +kernel
/-- Hypotheses of ScalarAndBitOperations. -/
theorem test_hyp_scalImmRows :
    tableRuns (fun o => ofScal (scalImmRows group o)) [⟨129, 130, 131, 4 * 0x2F⟩, ⟨129, 0, 131, 4 * 0x2F⟩] base = true := by decide +kernel

/-- Hypotheses of MovesByClass. -/
theorem test_hyp_moves : (runsNow (.mov lane ⟨6, 1, 0, 0, 0x2F, 0, 0, 0⟩) (need lane 0 [dstSwb 6 1, src 1 1 1 aluCls]) base
 && runsNow (.mov group ⟨129, 130, 0, 0, 0x2F, 0, 0, 0⟩) (need group 0 [dst 0 129 1 [2], src 1 130 1 sCls]) base
 && runsNow (.movi lane ⟨6, 0, 9, 4 * 0x2F⟩) (need lane 0 [⟨0, 6, [0, 2], 1, true, true⟩]) base
 && runsNow (.movi group ⟨129, 0, 9, 4 * 0x20⟩) (need group 0 [⟨0, 129, [0, 2], 1, true, true⟩]) base
 && runsNow (.pmov lane ⟨6, 193, 0, 0, 0x2F, 0, 0, 0⟩) (need lane 0 [⟨0, 6, [0], 1, true, true⟩, src 1 193 1 [3]]) base
 && runsNow (.pmov lane ⟨193, 1, 0, 0, 0x2F, 0, 0, 0⟩) (need lane 0 [⟨0, 193, [3], 1, true, false⟩, src 1 1 1 [0, 2, 7]]) base
 && runsNow (.pchk lane ⟨193, 1, 0, 0⟩) { eng := 0, opds := [dst 0 193 1 [3], src 1 1 1 [0, 1, 2]], noPoison := true } base) = true := by decide +kernel
/-- Hypotheses of VotesAndSharedResults. -/
theorem test_hyp_votes_and_shared_results : (runsNow (.vote group ⟨193, 192, 0, 0, 0, 0, 0, 0⟩) { eng := 0, opds := [dst 0 193 1 [3], src 1 192 1 [3]] } base
 && runsNow (.vote group ⟨130, 192, 0, 0, 0, 0, 0, 24⟩) { eng := 0, opds := [dst 0 130 1 [22], src 1 192 1 [3]] } base
 && joinsNow (.vote teamH ⟨193, 192, 0, 0, 0, 0, 0, 512⟩) { eng := 0, opds := [dst 0 193 1 [3], src 1 192 1 [3]], part := true } base
 && runsNow (.rdxOp group ⟨6, 1, 0, 0, 0x2F, 0, 0, 0⟩) { eng := 0, opds := [⟨0, 6, [0, 1, 2], 1, true, true⟩, src 1 1 1 aluCls] } base
 && joinsNow (.rdxOp teamH ⟨129, 1, 0, 0, 0x2F, 0, 0, 0⟩) { eng := 0, opds := [⟨0, 129, [0, 1, 2], 1, true, true⟩, src 1 1 1 aluCls] } base
 && joinsNow (.rdxOp setH ⟨64 + 3, 1, 0, 0, 0x2F, 0, 0, 0⟩) { eng := 0, opds := [⟨0, 64 + 3, [0, 1, 2], 1, true, true⟩, src 1 1 1 aluCls] } base
 && runsNow (.bcast group ⟨6, 1, 448, 0, 0x2F, 0, 0, 0⟩) { eng := 0, opds := [⟨0, 6, [0, 2], 1, true, true⟩, src 1 1 1 aluCls, src 2 448 1 [2, 7]] } base) = true := by decide +kernel
def called : State := base.modThrs 1 0 [0, 1] (fun t => { t with cd := 1, wb := 32, preds := 0x81#8 })
/-- three threads, the first with p0 -/
def three : State := { base with
  cur := ⟨1, 0, [0, 1, 2]⟩
  threads := [((1, 0, 0), { thread with preds := 0x81#8 }), ((1, 0, 1), thread), ((1, 0, 2), thread)]
  teams := base.teams.map (fun e => (e.1, { e.2 with ej := 1 })) }
/-- Hypotheses of BranchesReturnsAndEjection, Calls, EndOfThreadsAndTrapReturn. -/
theorem test_hyp_branches_and_calls : (runsWith (.bra guarded ⟨0, 0, 5, 0⟩) { eng := 0, opds := [] } three (fun c s => c.act == [0] && ejects c c.act s)
 && runsWith (.bra ⟨0, true, 0, 0, 7, 0, false, false⟩ ⟨0, 0, 5, 0⟩) { eng := 0, opds := [] } three (fun c s => c.act == [1, 2] && ejects c [0] s)
 && runsNow (.bra guarded ⟨0, 0, 2 ^ 32 - 1, 1⟩) { eng := 0, opds := [] } three
 && runsWith (.bra lane ⟨0, 0, 5, 0⟩) { eng := 0, opds := [] } three (fun c s => !ejects c c.act s && !ejects c [] s)
 && runsNow (.brx lane ⟨0, 8, 0, 0⟩) { eng := 0, opds := [src 1 8 2 [0, 2]], chk := badTargets 8 } base
 && runsNow (.ret lane ⟨0, 8, 0, 4⟩) { eng := 0, opds := [src 1 8 2 [0, 2]], chk := fun c s => badTargets 8 c s ++ retTraps 32 c s } called
 && runsNow (.call lane ⟨0, 0, 3, 4⟩) { eng := 0, opds := [], also := fun x => upFrom (x.wb + 32 + 62) 2, chk := callTraps 32 } base
 && runsNow (.callx lane ⟨0, 8, 0, 4⟩) { eng := 0, opds := [src 1 8 2 [0, 2]], also := fun x => upFrom (x.wb + 32 + 62) 2, chk := fun c s => badTargets 8 c s ++ callTraps 32 c s } base
 && runsNow (.exit lane ⟨0, 0, 0, 0⟩) { eng := 0, opds := [] } base
 && runsNow (.kill lane ⟨0, 256, 0, 0⟩) { eng := 0, opds := [src 1 256 1 [4]] } base) = true := by decide +kernel
def inHandler (kind : Nat) : State := base.modGrp 1 0 (fun G => { G with trap := ⟨true, kind, 0, 0, 0, 0, 36, 0, 3⟩, handler := [0, 1] })
/-- In the handler of a trap of the team's rendezvous, at which thread 2 waits. -/
def suspended (kind : Nat) : State := { three with
  cur := ⟨1, 0, [0, 1]⟩
  teams := three.teams.map (fun e => (e.1, { e.2 with rdv := some ⟨36, 0, [⟨0, [0, 1, 2], [0, 1, 2], 0⟩], true⟩ }))
  groups := three.groups.map (fun e => (e.1, { e.2 with trap := ⟨true, kind, 3, 0, 0, 0, 36, 0, 7⟩, handler := [0, 1] }))
  threads := [((1, 0, 0), thread), ((1, 0, 1), thread), ((1, 0, 2), { thread with wait := .rdv true, pc := 36 })] }
/-- Hypotheses of EndOfThreadsAndTrapReturn: of lane and of team scope, with and without SKIP. -/
theorem test_hyp_trap_return : (runsNow (.tret lane ⟨0, 0, 0, 1⟩) { eng := 0, opds := [], chk := tretTraps } (inHandler 12)
 && runsNow (.tret lane ⟨0, 0, 0, 0⟩) { eng := 0, opds := [], chk := tretTraps } (inHandler 9)
 && runsNow (.tret lane ⟨0, 0, 0, 0⟩) { eng := 0, opds := [], chk := tretTraps } (inHandler 12)
 && runsWith (.tret lane ⟨0, 0, 0, 0⟩) { eng := 0, opds := [], chk := tretTraps } (suspended 9) (fun c s => (rdvOf 3 1 0 s).any (fun r => r.susp) && c.set == [0, 1])
 && runsWith (.tret lane ⟨0, 0, 0, 1⟩) { eng := 0, opds := [], chk := tretTraps } (suspended 12) (fun _ s => (rdvOf 3 1 0 s).any (fun r => r.susp)
      && (s.thr (1, 0, 2)).wait == .rdv true)) = true := by decide +kernel
/-- Hypotheses of UserTrap. -/
theorem test_hyp_user_trap : ([(mkCtx (.trap lane ⟨0, 0, 7, 0⟩) 0 base).any (fun c => readyNow (.trap lane ⟨0, 0, 7, 0⟩) { eng := 0, opds := [] } c base
      && decide (c.act ≠ [] ∧ c.h.scope ≤ 1 ∧ c.span = false ∧ (base.grp 1 0).trap.active = false ∧ base.handlerEntry c.team = some 0x1000)),
   (mkCtx (.trap guarded ⟨0, 0, 7, 0⟩) 0 base).any (fun c => readyNow (.trap guarded ⟨0, 0, 7, 0⟩) { eng := 0, opds := [] } c base && c.act == [])] : List Bool).all id = true := by decide +kernel
def masked : State := base.modGrp 1 0 (fun G => { G with masks := [(3, ⟨3#128, 0⟩)] })
/-- Mask 3 holds threads 0 and 2; thread 2 waits on it, or has not come yet. -/
def masks (waits : Bool) : State := { three with
  cur := ⟨1, 0, [0, 1]⟩
  groups := three.groups.map (fun e => (e.1, { e.2 with masks := [(3, ⟨5#128, 0⟩)] }))
  threads := [((1, 0, 0), thread), ((1, 0, 1), thread), ((1, 0, 2), { thread with pc := 24, wait := if waits then .mask 3 else .none })] }
def mwaitNeed : Need :=
  { eng := 0, opds := [src 1 259 1 [4]]
    hold := fun c s => relHolds 0 { c with act := c.act.filter (laneIn (s.readM c.team c.group 3 c.nosb).bits) } s
    chk := fun c s =>
      let r := s.readM c.team c.group 3 c.nosb
      if r.tag != c.cd then depthTrap c 3 r (c.act.filter (laneIn r.bits)) else [] }
/-- Hypotheses of MaskInstructions: a join to an empty mask and to one of another depth with no active lane, and waits that end and that do not, with an active thread outside the mask. -/
theorem test_hyp_masks : (runsNow (.mjoin group { o0 with d := 256 + 11 }) { eng := 0, opds := [dst 0 (256 + 11) 1 [4]], chk := (mjoinDesc { o0 with d := 256 + 11 }).chk } base
 && runsWith (.mjoin ⟨1, false, 0, 0, 7, 0, false, false⟩ { o0 with d := 259 }) { eng := 0, opds := [dst 0 259 1 [4]], chk := (mjoinDesc { o0 with d := 259 }).chk } masked (fun c _ => c.act == [])
 && runsNow (.mleave group { o0 with d := 259 }) { eng := 0, opds := [dst 0 259 1 [4]] } masked
 && runsNow (.mget group { o0 with d := 129, a := 259, flags := 1 }) { eng := 0, opds := [dst 0 129 1 [2], src 1 259 1 [4]] } masked
 && runsNow (.mget group { o0 with d := 150, a := 259 }) { eng := 0, opds := [dst 0 150 1 [22], src 1 259 1 [4]] } masked
 && runsNow (.mwait group { o0 with a := 259 }) mwaitNeed masked
 && runsWith (.mwait group { o0 with a := 259 }) mwaitNeed (masks true) (fun c s => c.act == [0, 1] && maskThreads 1 0 3 s == [0, 2] && maskWaiters 1 0 3 s == [2])
 && runsWith (.mwait group { o0 with a := 259 }) mwaitNeed (masks false) (fun _ s => maskWaiters 1 0 3 s == [])
 && !(maskThreads 1 0 3 (masks true)).all (fun l => (maskWaiters 1 0 3 (masks true)).contains l)
 && maskThreads 1 0 3 ((masks true).modThr (1, 0, 0) (fun t => { t with wait := .mask 3 })) == [0, 2]
 && maskWaiters 1 0 3 ((masks true).modThr (1, 0, 0) (fun t => { t with wait := .mask 3 })) == [0, 2]) = true := by decide +kernel
/-- Hypotheses of NoEffectInstructions, RendezvousBarriersAndTokens. -/
theorem test_hyp_no_effect : (runsNow (.nop lane ⟨0, 0, 0, 0⟩) { eng := 0, opds := [] } base && runsNow (.rejoin group ⟨0, 0, 0, 0⟩) { eng := 0, opds := [] } base
  && runsNow (.fence lane { o0 with flags := 5 * 128 + 3 }) (needOf 0 (fenceDesc { o0 with flags := 5 * 128 + 3 })) base) = true := by decide +kernel
/-- Two groups in the team and in the set, of which the other has not arrived. -/
def two : State := { base with
  grids := [(1, { Grid.blank with ctx := 1, launch := { launch with groups := 2 } })]
  groups := base.groups ++ [((1, 1), { Group.blank with setNo := some 0 })]
  sets := [((1, 0), ⟨[0, 1], [], [], none, []⟩)]
  threads := base.threads ++ [((1, 1, 0), thread)] }
def holding (g : Nat) : State := base.modTeam 1 (fun T => { T with token := some g })
/-- Hypotheses of RendezvousBarriersAndTokens. -/
theorem test_hyp_barriers_and_tokens : (let f := { o0 with flags := 2 * 128 }
  let a := { o0 with d := 129, flags := 2 * 128 + 7 }
  let w := { o0 with a := 448 + 1, flags := 2 * 128 + 7 }
  let v := { o0 with a := 448, flags := 2 * 128 + 7 }
  joinsNow (.bar teamH f) (needOf 0 (barDesc f)) base
  && joinsNow (.rdv teamH { f with d := 129, a := 130 }) (needOf 0 (rdvDesc { f with d := 129, a := 130 })) base
  && runsWith (.arrive teamH a) (needOf 0 (arriveDesc a)) base (fun c s => expectedGroups c.team (bankOf c s) 0 s == [0])
  && runsWith (.arrive teamH a) (needOf 0 (arriveDesc a)) two (fun c s => expectedGroups c.team (bankOf c s) 0 s == [0, 1])
  && runsNow (.bwait teamH w) (needOf 0 (bwaitDesc w)) base && runsNow (.bwait teamH v) (needOf 0 (bwaitDesc v)) base
  && runsNow (.tokgive group { o0 with a := 448 }) (needOf 0 (tokgiveDesc { o0 with a := 448 })) base
  && runsNow (.tokgive group { o0 with a := 448 }) (needOf 0 (tokgiveDesc { o0 with a := 448 })) (holding 0)
  && runsNow (.toktake group { o0 with d := 129 }) (needOf 0 (toktakeDesc { o0 with d := 129 })) base
  && runsNow (.toktake group { o0 with d := 129 }) (needOf 0 (toktakeDesc { o0 with d := 129 })) (holding 1)) = true := by decide +kernel
/-- Hypotheses of SystemRegisters. -/
theorem test_hyp_system_registers : (runsNow (.clock lane { o0 with d := 6 }) (needOf 0 (clockDesc { o0 with d := 6 })) base
  && runsNow (.place lane { o0 with d := 6, flags := 3 }) (needOf 0 (placeDesc { o0 with d := 6, flags := 3 })) base
  && runsNow (.sysrd lane { o0 with d := 8, flags := 13 }) (needOf 0 (sysrdDesc { o0 with d := 8, flags := 13 })) base
  && runsNow (.syswr group { o0 with a := 130, flags := 10 }) (needOf 0 (syswrDesc { o0 with a := 130, flags := 10 })) base) = true := by decide +kernel
/-- Hypotheses of LoadsAndStoresComplete, ScratchpadLoadValue. -/
theorem test_hyp_loads : tableRuns (fun m : OpM => [(.ld lane m, loadNeed .generic m), (.lds lane m, loadNeed (.space .spad) m),
   (.ldc lane m, loadNeed (.space .clsh) m), (.ldpr lane m, loadNeed (.space .priv) m), (.ldg lane m, loadNeed .global m),
   (.sld group { m with a := 130, d := 134 }, sldNeed { m with a := 130, d := 134 })]) [{ m0 with a := 8 }] base = true := by decide +kernel
/-- A generic pointer to a private word in s8. -/
def privPtr : State := base.modGrp 1 0 (fun G => { G with sregs := [(8, ⟨0x1FFF20000000040, false⟩)] })
/-- The same while a store of the core to that line is on its way. -/
def privBusy : State := { privPtr with accs := [(9, Acc.new .store 0 1 8 1 [⟨0, 0, 0, 4, 6, false, 0x2F, none, 3, 0⟩] 0)] }
/-- Hypotheses of LoadsAndStoresComplete, ScratchpadLoadValue: local words that lanes and the group load, a uniform load of a private word, and one without an active lane. -/
theorem test_hyp_local_loads : (let u : OpM := { m0 with a := 136, d := 134 }
  runsWith (.lds lane m0) (loadNeed (.space .spad) m0) base (fun c s => c.act.all (fun l => (s.thr (c.key l)).pend.isEmpty
      && decide (addrOf c s c.group l (.space .spad) 0 0 4 = .ok (.spad, 0x40))))
  && runsWith (.sld group u) (sldNeed u) base (fun c s => c.act == [0, 1] && (s.grp 1 0).pendS.isEmpty && decide (addrOf c s 0 0 .generic 136 0 4 = .ok (.spad, 0)))
  && runsWith (.sld group u) (sldNeed u) privPtr (fun c s => decide (addrOf c s 0 0 .generic 136 0 4 = .ok (.priv, 0x40)))
  && runsWith (.sld ⟨1, false, 0, 0, 7, 0, false, false⟩ u) (sldNeed u) base (fun c _ => c.act == [])) = true := by decide +kernel
/-- Hypotheses of LoadsAndStoresComplete. -/
theorem test_hyp_stores : tableRuns (fun m : OpM => [(.st lane m, storeNeed .generic m), (.sts lane m, storeNeed (.space .spad) m),
   (.stc lane m, storeNeed (.space .clsh) m), (.stpr lane m, storeNeed (.space .priv) m), (.stg lane m, storeNeed .global m)]) [{ m0 with d := 0, a := 8, b := 2 }] base = true := by decide +kernel
/-- Hypotheses of ScratchpadStores. -/
theorem test_hyp_scratchpad_store : runsWith (.sts guarded { m0 with d := 0, b := 2 }) (storeNeed (.space .spad) { m0 with d := 0, b := 2 }) three
   (fun c s => c.act == [0] && s.ops == [] && s.doneOps == [] && s.groups.all (fun e => e.2.waits.isEmpty) && addrOf c s c.group 0 (.space .spad) 0 0 4 == .ok (.spad, 0x40)) = true := by decide +kernel

def at0 : AddrForm → OpM → Ctx → State → Bool := fun f m c s =>
  !(locErrs c.act (fun l => addrOf c s c.group l f m.a m.off (2 ^ m.vec * tySize m.ty)) (fun l => addrShown c s c.group l f m.a m.off)).isEmpty
def mBad : OpM := { m0 with a := 2 }
def trapsAt (i : Instr) (f : AddrForm) (d : Desc) : Bool :=
  ((mkCtx i 2 base).map (fun c => readyNow i (needOf 2 d) c base && at0 f mBad c base && decide (c.h.scope ≤ 1 ∧ c.span = false
    ∧ (usesS d.opds = true → uniformConverged c base = true) ∧ poisonTraps c base d.opds = []))).getD false
/-- Hypotheses of GenericPointersAndAddressTraps. -/
theorem test_hyp_load_traps : ([trapsAt (.ld lane mBad) .generic (loadDesc .generic mBad), trapsAt (.lds lane mBad) (.space .spad) (loadDesc (.space .spad) mBad),
  trapsAt (.ldc lane mBad) (.space .clsh) (loadDesc (.space .clsh) mBad),trapsAt (.ldpr lane mBad) (.space .priv) (loadDesc (.space .priv) mBad),trapsAt (.ldg lane mBad) .global (loadDesc .global mBad)] : List Bool)  = [true, true, true, true, true] := by decide +kernel
def mBadSt : OpM := { mBad with d := 0 }
/-- Hypotheses of GenericPointersAndAddressTraps. -/
theorem test_hyp_store_traps : ([trapsAt (.st lane mBadSt) .generic (storeDesc .generic mBadSt), trapsAt (.sts lane mBadSt) (.space .spad) (storeDesc (.space .spad) mBadSt),
  trapsAt (.stc lane mBadSt) (.space .clsh) (storeDesc (.space .clsh) mBadSt),trapsAt (.stpr lane mBadSt) (.space .priv) (storeDesc (.space .priv) mBadSt),trapsAt (.stg lane mBadSt) .global (storeDesc .global mBadSt)] : List Bool)  = [true, true, true, true, true] := by decide +kernel
def atoms (m : OpM) : List (Instr × Need) :=
  ([(.atomAdd lane m, 0), (.atomMin lane m, 1), (.atomMax lane m, 2), (.atomAnd lane m, 3), (.atomOr lane m, 4), (.atomXor lane m, 5),
      (.atomExch lane m, 6), (.atomCas lane m, 7)] : List (Instr × Nat)).map (fun x => (x.1, atomNeed x.2 lane m))
def reds (m : OpM) : List (Instr × Need) :=
  ([(.redAdd lane m, 0), (.redMin lane m, 1), (.redMax lane m, 2), (.redAnd lane m, 3), (.redOr lane m, 4), (.redXor lane m, 5)] : List (Instr × Nat)).map (fun x => (x.1, redNeed lane m))
/-- Hypotheses of AtomicsAndReductionsComplete. -/
theorem test_hyp_atomics : tableRuns atoms [{ m0 with a := 8, b := 2 }] base = true := by decide +kernel
/-- Hypotheses of AtomicsAndReductionsComplete. -/
theorem test_hyp_reductions : tableRuns reds [{ m0 with d := 0, a := 8, b := 2 }] base = true := by decide +kernel
def atomOne (i : Instr) (n : Need) (m : OpM) : Bool :=
  runsWith i n { three with threads := three.threads.map (fun e => (e.1, { e.2 with regs := [(2, word 5), (9, word 0x1FFF000)] })) } (fun c s => c.lanes == [(0, 0)] && s.ops == []
    && s.doneOps == [] && s.groups.all (fun e => e.2.waits.isEmpty) && (s.thr (1, 0, 0)).pend == []
    && addrOf c s c.group 0 .generic m.a m.off 4 == .ok (.spad, 0) && !(s.team 1).spad.bad 0 4)

/-- Hypotheses of ScratchpadAtomicValue. -/
theorem test_hyp_scratchpad_atomics : (let m : OpM := { m0 with a := 8, b := 2 }
  let r : OpM := { m with d := 0 }
  ([atomOne (.atomAdd guarded m) (atomNeed 0 guarded m) m, atomOne (.atomExch guarded m) (atomNeed 6 guarded m) m, atomOne (.atomCas guarded m) (atomNeed 7 guarded m) m,
    atomOne (.redXor guarded r) (redNeed guarded r) r] : List Bool)) = [true, true, true, true] := by decide +kernel
def windowed : State := base.modThrs 1 0 [0, 1] (fun t => { t with wb := 32, lo := 8 })
/-- Hypotheses of WindowSpillAndFill. -/
theorem test_hyp_window : runsNow (.wspill lane ⟨0, 448 + 8, 0, 0⟩) (windowNeed false ⟨0, 448 + 8, 0, 0⟩) windowed = true := by decide +kernel
/-- Hypotheses of WindowSpillAndFill. -/
theorem test_hyp_window_fill : runsNow (.wfill lane ⟨0, 448 + 8, 0, 0⟩) (windowNeed true ⟨0, 448 + 8, 0, 0⟩) windowed = true := by decide +kernel
def tt : OpT := ⟨6, 2, 1, 3, 0, 0, 0x2F, 0, 0⟩
/-- Hypotheses of TensorAndPointerInstructions. -/
theorem test_hyp_tensor : (let o : OpT := ⟨0, 137, 1, 4, 0, 0, 0, 0, 0⟩
   let p : OpT := ⟨0, 136, 1, 4, 0, 0, 0, 0, 0⟩
   let n := fun (o : OpT) => ({ eng := 2, opds := [src 1 o.coord 1 [2]], unif := true, recalled := true, hold := acqHolds, chk := hldChk o } : Need)
   ([runsWith (.tld lane tt) (tldNeed tt) base (fun c s => (slotOf c s 3).isSome),
   runsWith (.tst lane tt) (tstNeed tt) base (fun c s => (slotOf c s 3).isSome),
   runsWith (.hld group o) (n o) base (fun c s => decide (decodeGeneric s c.team (readS c s 0 9).v.toNat 64 = .ok (.spad, 0x80))
     && !(s.team 1).spad.bad 0x80 64 && (match readThrough c c.group .spad 0x80 64 s with | (_, .ok _) => true | _ => false)),
   runsWith (.hld group p) (n p) privBusy (fun c s => decide (decodeGeneric s c.team (readS c s 0 8).v.toNat 64 = .ok (.priv, 0x40))
     && (match readThrough c c.group .priv 0x40 64 s with | (_, .error 255) => true | _ => false)),
   runsNow (.hclr group ⟨0, 0, 1, 3, 0, 0, 0, 0, 0⟩) { eng := 2, opds := [], unif := true, recalled := true } base] : List Bool)) = [true, true, true, true, true] := by decide +kernel
def og (d a fl : Nat) : OpG := { o0 with d := d, a := a, flags := fl }
/-- Hypotheses of TensorAndPointerInstructions. -/
theorem test_hyp_pointers : ([runsNow (.spt lane (og 6 8 0)) (needOf 2 (sptDesc (og 6 8 0))) base,
   runsWith (.cvta lane (og 6 0 1)) (needOf 2 (cvtaDesc (og 6 0 1))) base (fun c s => c.act.all (fun l => decide (toGeneric s 1 1 (cvtaSrc (og 6 0 1) c s l) = .ok 0x1FFF00000000040))),
   runsWith (.cvts lane (og 6 136 1)) (needOf 2 (cvtsDesc (og 6 136 1))) base (fun c s => c.act.all (fun l => decide (window s 1 (readSel c s 0 l 136 2 0x31).v = .ok (.spad, 0))))] : List Bool) = [true, true, true] := by decide +kernel
def mp : OpM := { m0 with d := 0, a := 8, ty := 0 }
def ms (b : Nat) : OpM := ⟨6, 0, b, 3, 1, 0, 0, 0, 0⟩
/-- Hypotheses of CacheAndSyncInstructions. -/
theorem test_hyp_cache_and_sync : ([runsNow (.pf lane mp) { eng := 2, opds := [src 1 8 2 [0, 2, 60]], noPoison := true, hold := acqHolds } base,
   runsNow (.flush lane mp) { eng := 2, opds := [src 1 8 2 [0, 2, 60]], hold := acqHolds, chk := addrChk .generic 8 0 1 } base,
   runsNow (.disc lane mp) { eng := 2, opds := [src 1 8 2 [0, 2, 60]], hold := acqHolds, chk := (discDesc mp).chk } base,
   runsWith (.syncwait lane (ms 448)) (syncwaitNeed lane (ms 448)) base (fun c s => c.act.any (fun l => !(syncAt s 1 (syncOff (ms 448) c s l)).sat 0)),
   runsWith (.syncwait lane (ms 449)) (syncwaitNeed lane (ms 449)) base (fun c s => c.act.all (fun l => (syncAt s 1 (syncOff (ms 449) c s l)).sat 1)),
   runsWith (.syncwait group { ms 449 with d := 134, a := 130 }) (syncwaitNeed group { ms 449 with d := 134, a := 130 }) base (fun c s =>
     (c.act.take 1).all (fun l => (syncAt s 1 (syncOff { ms 449 with a := 130 } c s l)).sat 1)),
   runsNow (.syncadd lane { ms 449 with d := 0, ord := 2 }) (syncaddNeed lane { ms 449 with d := 0, ord := 2 }) base] : List Bool)
   = List.replicate 7 true := by decide +kernel
def oe (a b c : Nat) : OpE := ⟨a, b, c, 0, 0, 2, 0⟩
/-- Hypotheses of CommandsAndOperationsSent. -/
theorem test_hyp_commands : ([runsWith (.copy group (oe 136 128 128)) (needOf 4 (copyDesc (oe 136 128 128))) base (fun c s => decide (engLoc s 1 (sReg c s 136 0) = .ok (.spad, 0) ∧ engLoc s 1 (sReg c s 128 0) = .ok (.glob, 0))),
   runsNow (.tcopy group (oe 387 389 136)) (needOf 4 (tcopyDesc (oe 387 389 136))) base,
   runsNow (.fktab group (oe 128 0 0)) (needOf 4 (fktabDesc (oe 128 0 0))) base,
   runsNow (.fkdec group (oe 136 128 128)) (needOf 4 (fkdecDesc (oe 136 128 128))) base] : List Bool) = [true, true, true, true] := by decide +kernel
/-- Hypotheses of CommandsAndOperationsSent, MapsetAndOperandFence. -/
theorem test_hyp_matrix_and_stacks : ([runsNow (.wload group (oe 130 0 0)) (needOf 3 (wloadDesc (oe 130 0 0))) base,
   runsNow (.mmul group (oe 130 128 0)) (needOf 3 (mmulDesc (oe 130 128 0))) base,
   runsNow (.aclr group (oe 128 0 0)) (needOf 3 (aclrDesc (oe 128 0 0))) base,
   runsNow (.aread group (oe 130 128 416)) (needOf 3 (areadDesc (oe 130 128 416))) base,
   runsNow (.rsend group (oe 128 0 0)) (needOf 3 (rodDesc 0x3006 (oe 128 0 0))) base,
   runsNow (.rrecv group (oe 128 0 0)) (needOf 3 (rodDesc 0x3007 (oe 128 0 0))) base,
   runsNow (.smv group (oe 128 128 128)) (needOf 3 (smvDesc (oe 128 128 128))) base,
   runsNow (.qrot group (oe 128 0 0)) (needOf 3 (qrotDesc (oe 128 0 0))) base,
   runsNow (.bput group (oe 128 0 0)) (needOf 3 (bushelDesc 0x3102 (oe 128 0 0))) base,
   runsNow (.bfork group (oe 128 0 0)) (needOf 3 (bushelDesc 0x3103 (oe 128 0 0))) base,
   runsNow (.bdrop group (oe 128 0 0)) (needOf 3 (bushelDesc 0x3104 (oe 128 0 0))) base,
   runsNow (.attn group (oe 128 128 0)) (needOf 3 (bushelDesc 0x3105 (oe 128 128 0))) base,
   runsNow (.mapset group ⟨128, 132, 0, 0, 0, 0, 0⟩) (mapsetNeed ⟨128, 132, 0, 0, 0, 0, 0⟩) base,
   runsNow (.ofence group ⟨0, 0, 0, 0, 0, 0, 0⟩) (needOf 3 ofenceDesc) base] : List Bool) = List.replicate 14 true := by decide +kernel

/-! ### Steps, traps and arrivals -/

/-- A `nop` with header fields as in Table enc-1. -/
def nopWord : Nat := 0x01001C0E0000000000000000
def fetched : State := State.reset.withFetchWord 96 nopWord
def eventDue : State := { State.reset with agenda := [⟨.droopRecovery, ⟨3, 0, 0, []⟩, 0, 0⟩] }
def upsetDue : State := { State.reset with upsets := [(0, .corrected 3)] }
def stepsTo (s : State) : Bool := match step s with | .next _ => true | _ => false
/-- The issue sets of core 0 of cluster 0. -/
def turns (s : State) : List Cur := (coreGroups s (0, 0)).flatMap (fun g => groupTurn (canIssue runWord s) s g.1 g.2)
/-- A step would be core 0's, with one issue set, whose word is given; `ok` tells whether its engine accepts. -/
def fetches (s : State) (w : Nat) (ok : Bool) : Bool :=
  (dueUpset s.fresh).isNone && choose s.fresh == .core (0, 0) && (match turns s.fresh with
    | [c] => (match fetchWord { s.fresh with cur := c } with
      | (s', .word x) => x == w && accepts s' (0, 0) c.team (engineOf (bits w 95 80)) == ok && (match runIn runWord (s'.choosePipe c.team c.group 0) false c w s' with
        | .next t => entered t
        | _ => false)
      | _ => false)
    | _ => false)
/-- The pipes of core 0 are all busy. -/
def allBusy : State := { fetched with pipes := (upFrom 0 9).map (fun p => ((0, 0, p), ⟨[], [], 0, 1000⟩)) }
/-- Two groups of 16 threads stand at the same word. -/
def paired : State :=
  let s := { fetched with teams := [], groups := [], threads := [], agenda := [] }
  { startTeam 1 { Team.blank with ctx := 1, grid := 1 } fetchGrid { s with
      grids := [(1, { fetchGrid with launch := { fetchGrid.launch with groups := 2 } })] } with agenda := [] }
/-- The same with both groups made. -/
def pairUp : State := { paired with groups := paired.groups ++ paired.groups.map (fun e => ((1, 1), { e.2 with slot := 1 }))
                                    threads := paired.threads ++ paired.threads.map (fun e => ((1, 1, e.1.2.2), e.2)) }
/-- A thread on a Span core, and no other. -/
def onSpan : State := { fetched with threads := [((1, 0, 3), { fetched.thr (1, 0, 3) with span := some ⟨2, 0, 64, [], []⟩ })] }

theorem test_decode_nop : decodeWord nopWord = .ok (.nop lane ⟨0, 0, 0, 0⟩) := by decide +kernel
/-- Hypotheses of StepRunsDecodedInstruction: a slot that is accepted, and one that is not. -/
theorem test_hyp_step_instruction : (fetches fetched nopWord true && fetches allBusy nopWord false && stepsTo fetched) = true := by decide +kernel
/-- Hypotheses of StepRunsDecodedInstruction: two groups, of which one leads a slot. -/
theorem test_hyp_step_slot : (let s := pairUp.fresh
    (dueUpset s).isNone && choose s == .core (0, 0) && (turns s).length == 2 && (match (turns s).foldl (look runWord) (s, []) with
      | (s1, l) => (match leader s1 (0, 0) l with
        | some d => (match runSlot runWord (slotPipe s1 d.eng (slotWith s1 l d)) (slotWith s1 l d) s1 with
          | .next _ => (slotWith s1 l d).length == 2
          | _ => false)
        | none => false))) = true := by decide +kernel
/-- Hypotheses of StepRunsDecodedInstruction: a Span core with one thread. -/
theorem test_hyp_step_span : (let s := onSpan.fresh
    (dueUpset s).isNone && spanTurns s == [0] && spanThreads s 0 == [(2, (1, 0, 3))] && (match fetchWord { s with cur := ⟨1, 0, [3]⟩ } with
      | (s', .word w) => w == nopWord && (match exec (.nop lane ⟨0, 0, 0, 0⟩) s' with
        | .next t => (t.thr (1, 0, 3)).pc == 12 && (s.thr (1, 0, 3)).pc == 0
        | _ => false)
      | _ => false)) = true := by decide +kernel
/-- Its turn comes where the free choice says so. For StepRunsDecodedInstruction. -/
theorem test_hyp_step_span_turn (h : Config.freeChoice 1 (2 ^ 40) % 2 = 1) : choose onSpan.fresh = .span 0 := by
  have both : (dueEvents onSpan.fresh).map Pick.event ++ (coreTurns onSpan.fresh).map Pick.core ++ (spanTurns onSpan.fresh).map Pick.span
      = [.core (0, 0), .span 0] := by decide +kernel
  have tick : onSpan.fresh.tick = 1 := by decide +kernel
  unfold choose
  rw [both, tick]
  show [Pick.core (0, 0), .span 0].getD (Config.freeChoice 1 (2 ^ 40) % 2) _ = _
  rw [h]
  rfl
/-- Hypotheses of StepRunsDecodedInstruction. -/
theorem test_hyp_step_event : dueUpset eventDue.fresh = none ∧ choose eventDue.fresh = .event 0 ∧ (takeEvent 0 eventDue.fresh).isSome = true := by decide +kernel
/-- Hypotheses of StepRunsDecodedInstruction. -/
theorem test_hyp_step_upset : (dueUpset upsetDue.fresh).isSome = true := by decide +kernel
/-- Hypotheses of StepRunsDecodedInstruction. -/
theorem test_hyp_step_idle : dueUpset State.reset.fresh = none ∧ choose State.reset.fresh = .idle := by decide +kernel
/-- Hypotheses of StepKeepsInv, MemoryReadAfterWrite. -/
theorem test_hyp_inv : memWf fetched.mem = true ∧ memWf fetched.hmem = true ∧ stepsTo fetched = true := by decide +kernel

/-- The words of all zeros and all ones are no instructions (R292). -/
theorem test_undecoded : ([0, 2 ^ 96 - 1] : List Nat).all (fun w => match decodeWord w with | .ok _ => false | _ => true) = true := by decide +kernel
/-- Hypotheses of UndecodedWordsAndUnresolvedTraps. -/
theorem test_hyp_undecoded : (base.thr (1, 0, 0)).span = none ∧ bits 0 9 0 = 0 ∧ (hdrOf 0).waitm = 0 ∧ (base.grp 1 0).trap.active = false
    ∧ base.handlerEntry 1 = some 0x1000 ∧ base.cur.set.Nodup := by decide +kernel
/-- Hypotheses of UndecodedWordsAndUnresolvedTraps. -/
theorem test_hyp_unresolved : ((inHandler 9).grp 1 0).trap.active = true ∧ ((inHandler 9).grid 1).ended = false
    ∧ ((inHandler 9).grids.get? ((inHandler 9).team 1).grid).isSome = true ∧ ((inHandler 9).teams.get? 1).isSome = true := by decide +kernel

/-- A load whose address is no multiple of 4: code 13, address (Table core-3). -/
theorem test_lds_issues (m : OpM) (s : State) : exec (.lds lane m) s = .next (issue (.lds lane m) 2 (loadDesc (.space .spad) m) s) := rfl
/-- Hypotheses of TrapsEnterTheHandler. -/
theorem test_hyp_trap : ((mkCtx (.lds lane mBad) 2 base).map (fun c =>
    !held (.lds lane mBad) (loadDesc (.space .spad) mBad) c base && !c.span && c.h.scope == 0 && decide c.set.Nodup
      && (lowest (localTraps (.lds lane mBad) (loadDesc (.space .spad) mBad) c base)).any (fun t => t.kind == 13)
      && !(base.grp 1 0).trap.active && base.handlerEntry c.team == some 0x1000)) = some true := by decide +kernel

/-- The first arrival of a rendezvous, as a check. -/
def arrivesFirst (i : Instr) (n : Need) (s : State) : Bool :=
  match mkCtx i n.eng s with
  | some c => readyNow i n c s && decide (2 ≤ c.h.scope ∧ n.alone = false ∧ c.span = false ∧ n.part = false ∧ fullArrival c s = true
      ∧ (getRdv c s).isNone = true ∧ partLanes c s = []
      ∧ rdvComplete c.team (rdvSet c (dropPart c s)) (arrivals c (dropPart c s)) (dropPart c s) = false)
  | none => false
theorem test_bar_issues (h : Hdr) (o : OpG) (s : State) : exec (.bar h o) s = .next (issue (.bar h o) 0 (barDesc o) s) := rfl
/-- Hypotheses of IssueAndRendezvous. -/
theorem test_hyp_first_arrival : (arrivesFirst (.bar teamH { o0 with flags := 256 }) (needOf 0 (barDesc { o0 with flags := 256 })) two
    && arrivesFirst (.bar setH { o0 with flags := 128 }) (needOf 0 (barDesc { o0 with flags := 128 })) two) = true := by decide +kernel

/-- A lane whose latch the run of its group in pipe 0 holds, and a context there: the operands of each class read in it. -/
def latched : State := { base.modThrs 1 0 [0] (fun t => { t with preds := 0x81#8, l0 := 9#64, latPipe := some (0, 4), latN := 1 }) with
  pipes := [((0, 0, 0), ⟨[((1, 0), 4)], [], 4, 0⟩)] }
/-- Hypotheses of OperandReading. -/
theorem test_hyp_operands : ((mkCtx (.nop lane ⟨0, 0, 0, 0⟩) 0 latched).map (fun c => !c.span && (latched.thr (c.team, 0, 0)).inflight == [] && (latched.thr (c.team, 0, 0)).flyP == [] && (latched.thr (c.team, 0, 0)).latN == 1
    && (latched.grp c.team c.lead).inflightS == [] && latched.sets.all (fun e => e.2.flyX.isEmpty) && latched.setOf c.team 0 == some 0
    && (latched.thr (c.team, 0, 0)).latPipe == some (c.pipe, 4) && (latched.pipe c.team c.pipe).groups.get? (c.team, 0) == some 4)) = some true := by decide +kernel

/-! ### Events: states in which their own effects happen -/

/-- A state with the operands of an event. -/
def evAt (s : State) (k : Nat) (a : Nat := 0) (v : Nat := 0) (d : List Byte := []) : State := { s with ev := ⟨k, a, v, d⟩ }
/-- A state with the links of the part trained. -/
def linked (s : State) : State := { s with regs := { s.regs with run := true, stage := 8, khl := { s.regs.khl with state := 2, width := 16 } } }
/-- The running admin command. -/
def admin (s : State) (ctx arg addr len : Nat) : State :=
  { linked s with regs := { (linked s).regs with abusy := true, acmd := ctx * 2 ^ 492 + arg * 2 ^ 484 + addr * 2 ^ 384 + 0x20000 * 2 ^ 256 + len * 2 ^ 320 } }
/-- The page tables of context 1: a 1 GiB page at 0, and at 1 GiB a 64 KiB page of device memory and one of host memory. -/
def pages : List (Nat × Nat) := fetchTables ++ [(0x3008, 2 ^ 63 + 0x6000), (0x5008, 2 ^ 63 + 2 ^ 62), (0x6000, 2 ^ 63 + 0x7000),
  (0x7000, 2 ^ 63 + 2 ^ 62 + 2 ^ 61 + 2 ^ 60 + 2 ^ 31), (0x7008, 2 ^ 63 + 2 ^ 62 + 2 ^ 61 + 2 ^ 57 + 2 ^ 50 + 0x10000)]
/-- Context 1 with these tables and with queue 0. -/
def mapped : State := { pages.foldl (fun s e => s.wr false e.1 (leBytes 8 e.2)) State.reset with
  ctxs := [(1, { fetchCtx with faultcnt := 16, faultvec := 3, queues := [(0, ⟨0x100000, 0, 5, 0, 0, 0, false, true, 0, 0⟩)] })] }
/-- Whether all of a list hold. -/
def allOf (l : List Bool) : Bool := l.all id

/-- A flash whose images carry an empty signature and body, under the key that the fuses name. -/
def bootable : State := { State.reset with ident := { Identity.zero with rootDigest := sha3 [1#8], images := [([1#8], [], 0, []), ([1#8], [], 0, [])] } }
/-- Bring-up succeeds where the signature verifies. For BringUpAndReset. -/
theorem test_hyp_bringUp (h : Config.mlDsaVerify [1#8] (sha3 []) [] = true) : imageCheck bootable (imageOf bootable 0) = 0
    ∧ ∀ ts, imageCheck (putRemap ts (clearStacks (stageOne bootable))) (imageOf bootable 1) = 0 := by
  have key : ∀ s : State, s.ident.rootDigest = sha3 [1#8] → s.regs.svn = 0 → imageCheck s ([1#8], [], 0, []) = 0 := by
    intro s a b
    unfold imageCheck
    rw [a, b]
    simp only [bne_self_eq_false, h, Bool.not_true, Bool.false_eq_true, if_false, Nat.not_lt_zero]
  have same : ∀ (l : List (Nat × List Nat)) (s : State),
      (l.foldl (fun s x => s.modBay x.1 (fun B => { B with remap := (upFrom 0 112).zip x.2 })) s).ident = s.ident
        ∧ (l.foldl (fun s x => s.modBay x.1 (fun B => { B with remap := (upFrom 0 112).zip x.2 })) s).regs = s.regs := by
    intro l
    induction l with
    | nil => intro s; exact ⟨rfl, rfl⟩
    | cons x l ih => intro s; exact ⟨(ih _).1, (ih _).2⟩
  have digest : bootable.ident.rootDigest = sha3 [1#8] := by simp only [bootable]
  have keep : ∀ s : State, (clearStacks (stageOne s)).ident.rootDigest = s.ident.rootDigest := fun s => rfl
  refine ⟨key bootable digest rfl, fun ts => key _ ?_ ?_⟩
  · unfold putRemap
    rw [(same _ _).1]
    exact (keep bootable).trans digest
  · unfold putRemap
    rw [(same _ _).2]
    rfl
/-- No defects: every bay's table can be made; a defect with both spares defective: none can. For BringUpAndReset. -/
theorem test_hyp_remap : (remapAll (clearStacks State.reset)).isSome = true ∧ (remapWords (clearStacks State.reset) 7).isSome = true
    ∧ remapAll (clearStacks (stageOne { State.reset with ident := { Identity.zero with defects := [9, 64, 65] } })) = none := by decide +kernel
/-- Another root key stops bring-up with code 2. For BringUpAndReset. -/
theorem test_hyp_bringUp_stops : State.reset.regs.stage = 0 ∧ State.reset.regs.booterr = 0 ∧ imageCheck State.reset (imageOf State.reset 0) = 2 := by decide +kernel

/-- A command to raise the security version, under the root key that the fuses name. -/
def raised : State := { evAt State.reset 0 0 65535 (List.replicate 1312 0#8) with
  ident := { Identity.zero with seedLocked := true, rootDigest := sha3 (List.replicate 1312 0#8) } }
/-- Hypotheses of PackagePowerAndThermalEvents. -/
theorem test_hyp_raise : raised.ident.seedLocked = true ∧ raised.ev.v < 2 ^ 16 ∧ sha3 (raised.ev.data.take 1312) = raised.ident.rootDigest :=
  ⟨rfl, by decide, by simp only [raised, evAt, List.take_replicate, Nat.min_self]⟩
/-- Hypotheses of PackagePowerAndThermalEvents. -/
theorem test_hyp_package : (let s := { State.reset with ident := { Identity.zero with seedLocked := true } }
    let b : Bay := { Bay.zero with freq := 100, fmin := 80, fmax := 120 }
    allOf [s.ident.seedLocked, decide (2 ≤ (evAt s 7).ev.k ∧ (evAt s 7).ev.k < 8), (List.replicate 32 (0#8)).length == 32, decide ((s.bay 7).vfAt ≤ s.ncyc),
      decide ({ s with bays := [(7, { Bay.zero with vfAt := 1 })] }.ncyc < (({ s with bays := [(7, { Bay.zero with vfAt := 1 })] } : State).bay 7).vfAt),
      b.therm == 0, !b.overCap, decide (b.freq ≤ b.fmax ∧ b.fmin ≤ b.freq), decide ({ b with freq := 79 }.freq < b.fmin),
      decide (b.fmax < { b with freq := 121 }.freq)]) = true := by decide +kernel
/-- Each thermal state with a temperature at the edge of its clause. For PackagePowerAndThermalEvents. -/
theorem test_hyp_thermal : (let at_ := fun n => { State.reset with bays := [(0, { Bay.zero with therm := n })] }
    allOf [((at_ 0).bay 0).therm == 0, ((at_ 1).bay 0).therm == 1, ((at_ 2).bay 0).therm == 2, ((at_ 3).bay 0).therm == 3,
      decide (2999 ≤ State.reset.regs.pwrcap), decide (State.reset.regs.pwrcap < 3001), (upFrom 0 8).all (fun b => (State.reset.bay b).freq == 80)]) = true := by
  decide +kernel
/-- Hypotheses of RegisterWindow. -/
theorem test_hyp_registers : allOf [regAt 8 == some .pwrcap, WReg.pwrcap.bytes == 4, !WReg.pwrcap.wide, regAt 0x1000A0 == some (.bushelCfg 0),
    (WReg.bushelCfg 0).bytes == 8, (WReg.bushelCfg 0).wide, 0x1000A0 % 16 == 0, regAt 0x1000A8 == some (.bushelCfg 0), 0x1000A8 % 16 != 0, (regAt 4).isNone,
    decide (2 ≤ (linked State.reset).regs.khl.state), bit (2 ^ 63) 63] = true := by decide +kernel

/-- A context record for context 2 at 0x10000, with four queues described from 0x11000. -/
def recorded : State := (upFrom 0 4).foldl (fun s k => s.wr false (0x11000 + 32 * k) (leBytes 32 (0x100000 * 2 ^ 192 + 5 * 2 ^ 112)))
  (mapped.wr false 0x10000 (leBytes 64 (2 * 2 ^ 500 + 0x11000 * 2 ^ 256 + 16 * 2 ^ 176 + 3 * 2 ^ 160)))
def created (s : State) : Bool :=
  s.aAddr % 64 == 0 && (match cpNum s.aAddr 64 s with
    | (s1, .ok x) => recordOk_ x && (match readDescs (bits x 319 256) (4 * viewDevices (bits x 499 498)) 0 [] s1 with
      | (s2, .ok ds) => ds.all queueOk && (s2.ctxs.get? (bits x 511 500)).isNone && decide (s2.ctxs.length < 256)
      | _ => false)
    | _ => false)
/-- A declaration at 0x12000 of 256 by 2 elements of n64 in one granule, with its shape at 0x13000. -/
def declared : State := (mapped.wr false 0x12000 (leBytes 32 (2 ^ 255 + 2 ^ 240 + 2 ^ 192 + 0x14000 * 2 ^ 128 + 0x13000 * 2 ^ 64 + 0x8000))).wr false
  0x13000 (leBytes 64 (0x31 * 2 ^ 442 + 2 * 2 ^ 439 + 256 * 2 ^ 260 + 2 * 2 ^ 284 + 256 * 2 ^ 56 + 255 + 256))
def declares (s : State) : Bool :=
  decide (s.aLen < 4096) && (match cpNum s.aAddr 32 s with
    | (s1, .ok x) => (match cpNum (objOfImage x).shape 64 s1 with
      | (s2, .ok _) => objOk s2 (objOfImage x)
      | _ => false)
    | _ => false)
/-- Hypotheses of AdminCommandsAndDoorbells. -/
theorem test_hyp_ctxCreate : created (admin recorded 0 0 0x10000 0) = true := by decide +kernel
/-- Hypotheses of AdminCommandsAndDoorbells. -/
theorem test_hyp_objDeclare : declares (admin declared 1 0 0x12000 4095) = true := by decide +kernel
/-- Hypotheses of AdminCommandsAndDoorbells. -/
theorem test_hyp_admin : (let s := admin mapped 1 0 0x40010000 0x10000
    let t := { s with flips := [⟨1, 0x40010000, 0x10000, true, 0⟩] }
    allOf [s.aCtx == 1, s.aArg == 0, s.aAddr == 0x40010000, s.aLen == 0x10000, (s.ctxs.get? s.aCtx).isSome, flipPage s s.aCtx s.aAddr s.aLen,
      (admin mapped 1 0 0 4095).aLen == 4095, s.xfers.isEmpty, ((s.ctxs.get? 1).map (fun c => c.queues.get? s.aArg)).isSome, (resident s 1).isEmpty,
      t.flips.head?.any (fun f => flipHolds f { t with accs := [(1, { Acc.new .load 0 1 (0x40010000 / 128) 1 [] 0 with stage := Stage.sent })] }), State.reset.regs.khl.state == 0,
      (s.ctxs.get? 1).any (fun c => !c.inHalt && c.phase == 0 && !c.suspended),
      ({ s with ctxs := [(1, { fetchCtx with dying := true })] } : State).ctxs.any (fun e => e.2.dying), !ctxBusy s 1,
      decide (2 ≤ t.regs.khl.state), !flipHolds ⟨1, 0x40010000, 0x10000, true, 0⟩ { t with flips := [] },
      (admin mapped 2 0 0 0).ctxs.get? 2 == none]) = true := by decide +kernel
/-- Hypotheses of AdminCommandsAndDoorbells. -/
theorem test_hyp_doorbells : (let s := evAt mapped 1 0 3
    allOf [((s.ctxs.get? s.ev.k).bind (fun c => c.queues.get? s.ev.a)).isSome, ((mapped.ctxs.get? 1).bind (fun c => c.queues.get? 4)).isNone,
      (mapped.ctxs.get? 2).isNone]) = true := by decide +kernel

/-- A thread on its Span core, a mask waiter with its timer, and a wait on the word at 0x80, whose limit is 9. -/
def moving : State := base.modThr (1, 0, 1) (fun t => { t with span := some ⟨0, 0, 64, [], []⟩, wait := .moving })
def late : State := { (base.modThr (1, 0, 1) (fun t => { t with wait := .mask 3 })).modGrp 1 0 (fun G => { G with timers := [⟨3, 0, 0⟩] }) with acyc := [(0, base.rjto)] }
def wordWait : State := { (base.modTeam 1 (fun T => { T with spad := ⟨[(0x83, 9)], [], none⟩ })).modGrp 1 0 (fun G =>
  { G with waits := [⟨[0], [⟨0, 0x80, 0, false, 6⟩], none, false, 7⟩] }) with timed := [⟨1, 0x80, 0, 0⟩] }
/-- Hypotheses of ThreadEvents. -/
theorem test_hyp_threads : (let s := evAt moving 1 0 1
    let d := s.modThr (1, 0, 1) (fun t => { t with owl := 1 })
    let f := s.modThr (1, 0, 1) (fun t => { t with storeErr := [1] })
    let r := evAt late 1 0 3
    allOf [(s.thr (1, 0, 1)).live, (s.thr (1, 0, 1)).span.isSome, (s.thr (1, 0, 1)).wait == .moving, threadDrained (s.thr (1, 0, 1)), !threadDrained (d.thr (1, 0, 1)),
      (s.thr (1, 0, 1)).pend.isEmpty, (s.thr (1, 0, 1)).acq.isEmpty, !(s.thr (1, 0, 1)).storeErr.any (errCovered 3), !(s.team 1).halted,
      (f.thr (1, 0, 1)).storeErr.any (errCovered 3), !(f.grp 1 0).trap.active,
      ({ base with tracks := [(5, ⟨1, [0], 2, 1, 0⟩)] } : State).tracks.get? (leVal (leBytes 8 5)) == some ⟨1, [0], 2, 1, 0⟩, base.tracks.isEmpty,
      (s.teams.get? 1).isSome, decide (4096 ≤ (s.team 1).winCount + (({ s with acyc := [(0, 4096)] } : State).now 1 - (s.team 1).winStart)),
      ((finishCmd 3 s).teams.get? 1).isSome, leVal (leBytes 8 7) % 2 == 1, leVal (leBytes 8 6) % 2 == 0, leVal (leBytes 8 6) != 0,
      ((r.grp 1 0).timers.find? (fun x => x.mask == 3)) == some ⟨3, 0, 0⟩, decide (r.rjto ≤ r.now 1), maskWaiters 1 0 3 r == [1],
      !(r.grp 1 0).trap.active, r.handlerEntry 1 == some 0x1000]) = true := by decide +kernel
/-- A word whose unit of 1,024 a-cycles has passed, and has not; one whose limit the next count reaches, one without a limit, and one on which nothing waits. For ThreadEvents. -/
theorem test_hyp_words : (let w := { evAt wordWait 1 0x80 0 with acyc := [(0, 1024)] }
    let one := w.modTeam 1 (fun T => { T with spad := ⟨[(0x83, 1)], [], none⟩ })
    let none_ := w.modTeam 1 (fun T => { T with spad := ⟨[], [], none⟩ })
    allOf [w.timed.find? (fun y => y.team == 1 && y.off == 0x80) == some ⟨1, 0x80, 0, 0⟩, wordWaited w 1 0x80, (syncAt w 1 0x80).limit == 9,
      !(syncAt w 1 0x80).timeout, decide (1024 ≤ w.now 1), decide (({ w with acyc := [(0, 1023)] } : State).now 1 < 1024),
      decide (((syncAt w 1 0x80).elapsed + 1) % 2 ^ 16 < (syncAt w 1 0x80).limit), (syncAt one 1 0x80).limit == 1,
      decide ((syncAt one 1 0x80).limit ≤ ((syncAt one 1 0x80).elapsed + 1) % 2 ^ 16), (syncAt none_ 1 0x80).limit == 0,
      !wordWaited { base with timed := w.timed } 1 0x80]) = true := by decide +kernel

/-- A link that awaits flit 0 and receives one in sequence, one beyond its limits, and one out of sequence; retrains that end at each width; settings and a kept flit. For LinkEvents. -/
theorem test_hyp_links : (let s := linked State.reset
    let x : EqSet := ⟨3, 0, 7, 5⟩
    let l : LinkStat := { s.link 0 with eq := [x], buffer := [⟨1, 0, 4, 0, none⟩, ⟨1, 0, 5, 0, none⟩] }
    allOf [decide (2 ≤ (s.link 0).state), decide ((s.link 0).fails < 7), decide (7 ≤ { l with fails := 7 }.fails), bits (leVal [0#8, 0#8, 0#8, 0#8]) 23 12 == (s.link 0).next,
      bits (leVal [0#8, 0#8, 0#8, 0#8]) 31 28 != 2, bits (leVal [0#8, 0x10#8, 0#8, 0x40#8]) 31 28 == 4, bits (leVal [0#8, 0x10#8, 0#8, 0x20#8]) 31 28 == 2,
      bits (leVal [0#8, 0x10#8, 0#8, 0#8]) 23 12 != (s.link 0).next, bit 2 1, !bit 1 1, !(s.link 0).replaying, { l with replaying := true }.replaying,
      l.eq[0]? == some x, decide (s.ncyc < x.at_), decide ({ x with at_ := 0 }.at_ ≤ s.ncyc),
      !(s.link 0).training, { l with training := true }.training, decide (fullWidth 0 ≤ 16), decide (fullWidth 3 ≤ 32),
      decide (fullWidth 0 / 2 ≤ 8 ∧ 8 < fullWidth 0), decide (7 < fullWidth 0 / 2), decide ((s.link 0).bad < 2), decide (2 ≤ { l with bad := 2 }.bad),
      State.reset.regs.khl.state == 0, !State.reset.regs.khl.training, l.buffer == [⟨1, 0, 4, 0, none⟩] ++ ⟨1, 0, 5, 0, none⟩ :: [],
      noticeLink (.barData []) == some 0, (s.link 0).held.isEmpty, decide ((s.link 0).buffer.length < 512)]) = true := by decide +kernel

/-- Translations of the device page and of the host page of context 1, and the line at 1 GiB. -/
def devXl (home : Nat) : Xl := ⟨1, 0x40000000, ⟨home, true, true, false, 16⟩, 2 ^ 31, false, false, true, 0x7000⟩
def hostXl : Xl := ⟨1, 0x40010000, ⟨0, true, true, true, 16⟩, 0x10000, false, false, true, 0x7008⟩
def lineM : Nat := 0x800000
def homeM : Nat := homeOf 0 lineM
def part : APart := ⟨0, 0, 0, 4, 6, false, 0x2F, none, 3, 0⟩
def acc (k : AKind) : Acc := { Acc.new k 3 1 lineM 1 [part] 0 with stage := Stage.sent }
def msgTo (at_ dst : Nat) : Msg := { Msg.mk0 5 1 lineM at_ 15 dst 3 with seq := 9, inq := true }
/-- Hypotheses of HostMemoryEvents. -/
theorem test_hyp_hostMemory : (let s := { evAt (linked mapped) 1 (0x40010000 / 128) with tlb := [(128, hostXl)] }
    let h : HostSector := ⟨0x400, 1, 2 * lineM, .e⟩
    let t := { evAt (linked mapped) 0x400 with hsect := [h] }
    let n := lineHome t 1 lineM
    allOf [s.flips.isEmpty, decide (2 ≤ s.regs.khl.state), s.tlbFind 128 s.ev.k (s.ev.a * 128) == some hostXl, hostXl.attr.host, (s.slices.get? (s.ev.k, s.ev.a)).isNone,
      (victimsOf s s.ev.k ((upFrom 0 2).map (fun i => (hostXl.phys (s.ev.a * 128) / 64 + i, s.ev.a * 2 + i)))).isEmpty, (fetchArrives s).2,
      victimsOf { s with hsect := [⟨0x400, 1, 2 * lineM, .e⟩] } s.ev.k [(0x400, s.ev.a * 2)] == [(1, lineM)], lineQuiet s 1 lineM,
      !(fetchArrives { s with ev := { s.ev with v := 2 * 7 }, msgs := (upFrom 10 64).map (fun k => (k, { msgTo homeM 0 with seq := 0, from_ := 1 }))
          ++ [(7, { msgTo homeM 0 with seq := 0, from_ := 1, inq := false })] }).2,
      !(sectorsToAsk mapped (hostXl.phys (s.ev.a * 128)) false).isEmpty, mapped.regs.khl.state == 0,
      (({ s with accs := [(1, acc .store)] } : State).accs.get? 1).isSome, (s.hsect.find? (fun h => h.hs == s.ev.k)).isNone,
      t.hsect.find? (fun x => x.hs == t.ev.k) == some h, t.ev.a == 0, (t.trees.get? (n, 1, lineM)).isNone, t.msgs.isEmpty,
      lineQuiet { t with nextId := t.nextId + 2, msgs := t.msgs.set t.nextId { Msg.mk0 0 1 lineM n 15 n 2047 with vn := vnOf .snpinv, seq := t.nextId + 1 } } 1 lineM,
      !mapped.badLine false 0x7F 1, !mapped.badMerge false 0 128]) = true := by decide +kernel

def objAt (home : Nat) : ObjEnt := ⟨home, 1, 1, 0x14000, 0x13000, 0x8000⟩
/-- Hypotheses of GranuleEvents. -/
theorem test_hyp_granules : (let s := { evAt declared 4 0 0 with objs := [(4, objAt 7), (5, objAt 1)] }
    let t := s.wr false 0x14000 [2#8]
    let held := s.wr false 0x14000 [0x10#8]
    let away := { s with putxs := [⟨5, 0⟩] }
    allOf [s.objs.get? 4 == some (objAt 7), s.objs.get? 5 == some (objAt 1), granQuiet s (objAt 7) 0, granQuiet s (objAt 1) 0,
      !granQuiet { s with l1 := [((3, 1, 0x100), ⟨.w, ⟨0, true, true, false, 16⟩, 0x8000, 0, [], []⟩)] } (objAt 7) 0,
      !bit (granByte s (objAt 7) 0) 3, s.xfers.isEmpty, bits (granByte s (objAt 7) 0) 7 4 == 0, portsOf (bits (granByte held (objAt 7) 0) 7 4) == [0],
      bits (granByte t (objAt 1) 0) 1 0 == 2, bits (granByte s (objAt 1) 0) 1 0 == 0, away.putxs.contains ⟨5, 0⟩, !s.putxs.contains ⟨5, 0⟩,
      (({ s with objs := [(4, objAt 7)] } : State) |> fun u => (objOf u 1 0x100).any (fun x => x.1 == 4 && x.2.2 == 0)),
      objLost s (objAt 1), !objLost (s.setLink 2 { s.link 2 with state := 2 }) (objAt 1), !objLost s (objAt 7)]) = true := by
  decide +kernel

/-- A message whose turn it is at its home, as a check. -/
def turnNow (s : State) (m : Msg) : Bool :=
  decide (m.at_ = m.dst ∧ m.inq = true ∧ m.seq ≠ 0 ∧ (homeTurn s.ev.k m s).2.2 = true ∧ flipping s m.ctx (m.line * 128) = false
    ∧ s.trees.get? (m.at_, m.ctx, m.line) = none)
/-- The hypotheses of `Serves` and of `NeverCached` beyond the turn, as checks. -/
def servesNow (s : State) (m : Msg) (c : SliceLn) : Bool :=
  decide (s.slices.get? (m.ctx, m.line) = some c ∧ c.obj = false ∧ c.attr.w = true ∧ c.attr.home ≠ 3 ∧ s.badLine c.attr.host c.pa 128 = false
    ∧ (c.attr.host = true → hostHeld s c.pa 128 true = true))
def neverNow (s : State) (m : Msg) (x : Xl) : Bool :=
  decide (s.slices.get? (m.ctx, m.line) = none ∧ m.ctx ≠ 0 ∧ s.tlbFind m.at_ m.ctx (m.line * 128) = some x ∧ x.attr.home = 3 ∧ x.attr.w = true
    ∧ x.obj = false ∧ x.d = true ∧ s.badLine x.attr.host (x.phys (m.line * 128)) 128 = false ∧ (x.attr.host = true → 2 ≤ s.regs.khl.state))
theorem turn_of (s m) (h : turnNow s m = true) : HomeTurn s m s m := by
  obtain ⟨h1, h2, h3, h4, h5, h6⟩ := of_decide_eq_true h
  refine ⟨h1, ⟨m, by simp [enterPort, h2], ?_⟩, h5, h6⟩
  unfold homeTurn at h4 ⊢
  simp only [beq_iff_eq, h3, if_false] at h4 ⊢
  simp [h4]
theorem serves_of (s m c) (ht : turnNow s m = true) (h : servesNow s m c = true) : Serves s m c s m := by
  obtain ⟨h1, h2, h3, h4, h5, h6⟩ := of_decide_eq_true h
  exact ⟨turn_of s m ht, h1, h2, h3, h4, h5, h6⟩
theorem never_of (s m x) (ht : turnNow s m = true) (h : neverNow s m x = true) : NeverCached s m x s m := by
  obtain ⟨h1, h2, h3, h4, h5, h6, h7, h8, h9⟩ := of_decide_eq_true h
  exact ⟨turn_of s m ht, h1, h2, h3, h4, h5, h6, h7, h8, h9⟩
def sliceM : SliceLn := ⟨⟨0, true, true, false, 16⟩, 2 ^ 31, false, homeM, false⟩
def served : State := { evAt mapped 7 with msgs := [(7, msgTo homeM homeM)], slices := [((1, lineM), sliceM)], accs := [(5, acc .atom)], nextId := 10 }
def neverState : State := { served with slices := [], tlb := [(homeM, devXl 3)] }
/-- The same line of a host page whose sectors are held in E. -/
def servedHost : State := { linked served with
  slices := [((1, lineM), { sliceM with attr := hostXl.attr, pa := 0x10000 })], hsect := [⟨0x400, 1, 2 * lineM, .e⟩, ⟨0x401, 1, 2 * lineM + 1, .m⟩] }
theorem test_hyp_serves : (turnNow served (msgTo homeM homeM) && servesNow served (msgTo homeM homeM) sliceM && turnNow neverState (msgTo homeM homeM)
    && neverNow neverState (msgTo homeM homeM) (devXl 3) && turnNow servedHost (msgTo homeM homeM)
    && servesNow servedHost (msgTo homeM homeM) { sliceM with attr := hostXl.attr, pa := 0x10000 }) = true := by decide +kernel
/-- Hypotheses of RequestMessages. -/
theorem test_hyp_requests : (let u := { served with regs := { served.regs with combwin := 1 }, combSent := [(5, [6])], accs := [(5, acc .red), (6, acc .red)] }
    let m := msgTo homeM homeM
    allOf [served.msgs.get? 7 == some m, freeWay (treeSetOf served homeM 1 lineM) == some 0, (served.accs.get? 5).any (fun a => a.kind != AKind.pref true),
      neverState.msgs.get? 7 == some m, (neverState.accs.get? m.acc).isSome, !storeBadMerge neverState false (2 ^ 31) (acc .store),
      turnNow u { m with val := redVal (acc .red).op (acc .red).ty (acc .red).parts, cnt := 1 }, servesNow u m sliceM, !combOn u, (acc .red).otot == 0,
      (sentKey u 24 5).isSome]) = true := by decide +kernel

/-- A message at the home's router with an entry there, and one at the cache of unit 3. -/
def entry (st : TSt) : Tree := { Tree.building 0 4 true false 5 with st := st, links := [4, 5], pend := 2 }
def inTree (t : Tree) : State := { evAt mapped 7 with msgs := [(7, msgTo homeM homeM)], trees := [((homeM, 1, lineM), t)] }
def inCache (st : CSt) : State := { evAt mapped 7 with msgs := [(7, msgTo homeM homeM)], l1 := [((3, 1, lineM), ⟨st, ⟨0, true, true, false, 16⟩, 2 ^ 31, 0, [], []⟩)] }
/-- Hypotheses of TreeMessages. -/
theorem test_hyp_trees : (let m := msgTo homeM homeM
    let s := inTree (entry .tearing)
    allOf [(inCache .e).msgs.get? 7 == some m, m.unit != 2047, (fillPending (inCache .e) m.unit m.ctx m.line).isNone, ((inCache .e).l1.get? (m.unit, m.ctx, m.line)).isSome,
      m.val != 1, m.acc != 0, ((inCache .e).l1.get? (m.unit, m.ctx, m.line)).any (fun c => c.owners.isEmpty),
      ((inTree (entry .building)).trees.get? (homeM, m.ctx, m.line)) == some (entry .building),
      s.msgs.get? 7 == some m, s.trees.get? (m.at_, m.ctx, m.line) == some (entry .tearing), (entry .tearing).pend == 2, (entry .tearing).root, (entry .tearing).keep.isNone,
      (entry .stable).links != [m.from_], m.work != 1, s.slices.isEmpty, { m with acc := 0 }.acc == 0, { m with val := 1 }.val == 1, { m with unit := 2047 }.unit == 2047, (entry .pruning).keep.isNone,
      { entry .stable with keep := some 3, kreq := m.val }.keep.isSome, { entry .building with req := m.val }.req == m.val, { entry .tearing with pend := 1 }.pend == 1, lineHome (dropMsg 7 (inTree (entry .stable))) m.ctx m.line == m.at_, routeY m.at_ m.dst == [m.at_],
      (entry .building).req == 5, (inCache .w).trees.isEmpty, ((inCache .w).l1.get? (m.unit, m.ctx, m.line)).any (fun c => c.st == .w && c.owners.isEmpty)]) = true := by
  decide +kernel

def answered : State := { evAt mapped 5 with accs := [(5, { acc .load with graft := true, attr := some (devXl 3).attr })], tlb := [(homeM, devXl 0)], nextId := 10, teams := base.teams, grids := base.grids }
def zeroing : State := evAt (mapped.wr false 0x7000 (leBytes 8 (2 ^ 63 + 2 ^ 62 + 2 ^ 61 + 2 ^ 60 + 2 ^ 53 + 2 ^ 31))) 1 0x4000
/-- Hypotheses of AnswerEvents. -/
theorem test_hyp_answers : (let a := acc .load
    let w : Walk := ⟨homeM, 1, 0x4000, 16, false, 0, []⟩
    let s := { evAt mapped homeM 1 0x4000 with walks := [w] }
    allOf [(answered.accs.get? 5).any (fun a => a.graft && a.attr.any (fun x => x.home == 3) && a.kind == .load && a.heldMsgs.isEmpty), (List.replicate 128 (0#8)).length == 128,
      (({ answered with combSent := [(5, [6])] } : State).combSent.get? 5).isSome, (answered.combSent.get? 5).isNone, a.ctx != 0,
      answered.tlbFind (homeOf a.bay a.line) a.ctx (a.line * 128) == some (devXl 0),
      (match placeAt (niOf a.unit) a.ctx (a.line * 128) (answered.grid a.team).vdev (some (bayOf (niOf a.unit))) false answered with | (_, .ok b) => b == 0 | _ => false),
      (match place a.ctx (a.line * 128) 0 none false answered with | (_, .ok b) => b == 0 | _ => false), (answered.plc.get? (0, 1, 0x4000)).isNone,
      (({ answered with plc := [((0, 1, 0x4000), 3)] } : State).plc.get? (0, 1, 0x4000)) == some 3,
      (sentKey { answered with combSent := [(5, [6])], accs := [(6, acc .red)] } 24 5).isSome,
      s.walks.find? (fun w => w.port == s.ev.k && w.ctx == s.ev.a && w.page == s.ev.v) == some w,
      (match placedAt s w.ctx (w.page * 2 ^ 16) with | .bay b => b == 0 | _ => false),
      (match walkPage w.port 0 w.ctx (w.page * 2 ^ 16) w.vd w.wr s with | (_, .ok _) => true | _ => false),
      (match walkLeaf zeroing zeroing.ev.k (zeroing.ev.a * 2 ^ 16) with | .ok (_, e, _) => bit e 53 | _ => false),
      (answered.teams.get? 1).isSome, (answered.accs.get? 5).isSome, ([⟨5, 0, 1, 0, 0, 0x2F, none, 0, 1, []⟩] : List Comb).any (fun c => c.id == 5),
      (({ answered with wcs := [((3, 1, lineM), ⟨[], [], false⟩)] } : State).wcs.get? (3, 1, lineM)).any (fun e => !e.draining)]) = true := by decide +kernel

/-- A reclaim and a directed request of context 1 in bay 0, before GO and under way. -/
def reclaim : Nat := 2 ^ 113 + 2 ^ 99
def directed : Nat := 2 ^ 125 + 2 ^ 113 + 0x4000 * 2 ^ 58
def evicting (v : Nat) : State := { evAt mapped 0 1 v with bays := [(0, { Bay.zero with busy := true })] }
/-- The page under way, its PTE written with EVP, with frames that an aborted eviction left and with ring 3 full. -/
def page0 : Evict := ⟨1, 0x40000000, 16, 0x7000, 2 ^ 63 + 2 ^ 62 + 2 ^ 61 + 2 ^ 60 + 2 ^ 51 + 2 ^ 31, 2 ^ 31⟩
def tearing (v : Nat) (B : Bay) : State :=
  let s := (linked (evicting v)).wr false 0x7000 (leBytes 8 page0.e)
  { s with ev := { s.ev with a := 1 }, bays := [(0, { B with busy := true, evict := some page0 })] }
/-- Hypotheses of EvictionEvents, with a page under way. -/
theorem test_hyp_eviction_ends : (let v := directed + 2 ^ 125
    let s := tearing v Bay.zero
    let k := tearing directed { Bay.zero with spare := some (2 ^ 31 + 0x10000) }
    let full := tearing v { Bay.zero with rings := Bay.zero.rings.set 3 ⟨0x9000, 0, 0, 1023⟩ }
    let late := { s with accs := [(1, { Acc.new .load 3 1 lineM 1 [part] 0 with stage := Stage.sent })] }
    allOf [(s.bay 0).evict == some page0, evDrained s page0, evMode v == 2, !ring3Full (evTear page0 s) 0, ring3Full (evTear page0 full) 0,
      evMode directed == 1, decide (2 ≤ k.regs.khl.state), (takeBacking 0 (evTear page0 k)).2 == some (2 ^ 31 + 0x10000), (takeBacking 0 (evTear page0 s)).2.isNone,
      !evDrained late page0, mapped.regs.khl.state == 0, s.num false page0.pte 8 == page0.e, mapped.num false page0.pte 8 != page0.e]) = true := by decide +kernel
/-- Hypotheses of EvictionEvents. -/
theorem test_hyp_eviction : (let s := evAt mapped 0 0 (2 ^ 63)
    let e := evicting reclaim
    let f := evicting directed
    allOf [bit s.ev.v 63, decide (s.ev.v < 2 ^ 64), !(s.bay 0).busy, bits s.ev.v 62 61 != 3, (e.bay 0).busy, (e.bay 0).evict.isNone, evMode reclaim == 0,
      evCtx reclaim == 1, decide ((e.bay 0).evicted < evTarget reclaim), decide (evTarget (reclaim - 2 ^ 99) ≤ (e.bay 0).evicted),
      ((evictPages e 0 (evCtx reclaim)).find? (fun x => decide (0 ≤ x.1 / 2 ^ 16) && (!(e.bay 0).evWrap || decide (x.1 / 2 ^ 16 < (e.bay 0).evFrom)))).any
        (fun x => x.1 == 0x40000000 && !bit x.2.2 52 && !bit x.2.2 50),
      evMode directed == 1, evMode (directed + 2 ^ 125) == 2,
      (match walkLeaf f (evCtx directed) (evPage directed * 2 ^ 16) with | .ok (_, x, n) => n == 16 && evictable f 0 (evCtx directed) (evPage directed * 2 ^ 16) x && !bit x 52 | _ => false)]) = true := by
  decide +kernel

/-- A graph of one NOP node at VA 0x8000 of context 1, and one whose nodes follow each other at VA 0x4000; the words at VA 0x3000 and 0x3008 hold 0 and 7. -/
def graphs : State := [(0x8000, 2 ^ 496 + 2 ^ 488), (0x4000, 2 ^ 497 + 2 ^ 488), (0x4040, (2 ^ 121 + 1) * 2 ^ 384), (0x4080, 2 ^ 105 * 2 ^ 384)].foldl
  (fun s e => s.wr false (2 ^ 30 + e.1) (leBytes 64 e.2)) (mapped.wr false (2 ^ 30 + 0x3008) (leBytes 8 7))
def commanded (va : Nat) : State := { evAt graphs 1 0 with ctxs := graphs.ctxs.map (fun e => (e.1, { e.2 with
  toRaise := true
  queues := [(0, ⟨0x100000, 0, 5, 0, 0, 1, false, true, 0, va * 2 ^ 384 + 0x2000 * 2 ^ 320 + 5 * 2 ^ 256⟩)] })) }
/-- Hypotheses of UserCommands. -/
theorem test_hyp_userCommands : (let s := commanded 0x4000
    allOf [(s.ctxs.get? 1).any (fun c => !c.dying && !c.suspended && c.toRaise),
      (writeDone 1 (bits (s.queue 1 0).cmd 383 320) (bits (s.queue 1 0).cmd 319 256) 10 0 0 s).2,
      (startRun 1 0 (bits (s.queue 1 0).cmd 447 384) 1 none s).2 == 0, !s.regs.fatal, { s.regs with fatal := true }.fatal,
      (let f := commanded 0x4020
       match startRun 1 0 (bits (f.queue 1 0).cmd 447 384) 1 none f with
       | (u, code) => code != 0 && code != 255 && (userDone 1 0 code 0 1 (appendFault 1 (.plain code 0 0 1 (bits (f.queue 1 0).cmd 479 448)) u)).2)]) = true := by decide +kernel
/-- Hypotheses of AcceptedGraphsAreValid. -/
theorem test_hyp_graph : ((match readGraph 1 0x4000 4 graphs with | (_, .ok l) => l.length == 2 | _ => false)
    && (match readGraph 1 0x8000 1 graphs with | (_, .ok l) => l.length == 1 | _ => false)) = true := by decide +kernel

/-- A run of one node of a type, with its type part read. -/
def node (ty part : Nat) : NodeSt := { NodeSt.zero with ty := ty, phase := 2, part := part }
def run (N : NodeSt) : Run := ⟨1, 0, 0x8000, 1, none, [(0, N)], none⟩
def running (N : NodeSt) : State := { evAt graphs 3 0 with runs := [(3, run N)] }
theorem runs_node (N : NodeSt) (hp : N.phase = 2) : NodeRuns (running N) (run N) N (running N) :=
  ⟨rfl, ⟨_, rfl, rfl, rfl⟩, .inl ⟨by show (N.phase == 2 || N.phase == 4) = true; rw [hp]; rfl, rfl, rfl⟩⟩
/-- The same for a node whose type part is still to be read. For GraphNodes. -/
theorem test_hyp_node_starts : (let s := running { node 0 0 with phase := 5 }
    !(s.node 3 0).begun && (run (node 0 0)).fail.isNone && (match vaNum 1 (0x8000 + 64) 48 s with | (_, .ok _) => true | _ => false)) = true := by decide +kernel
def wordOk (s : State) (va : Nat) (p : Nat → Bool) : Bool := match readWord (run (node 0 0)) va s with | (_, .ok w) => p w | _ => false
/-- A launch description of one group at VA 0x5000 (Table enc-8). -/
def launchable : State := (running (node 1 (0x5000 * 2 ^ 256))).wr false (2 ^ 30 + 0x5000) (leBytes 128 (2 ^ 683 + 2 ^ 744 + 31 * 2 ^ 701))
/-- Hypotheses of GraphNodes. -/
theorem test_hyp_nodes : (let s := running (node 4 (0x3008 * 2 ^ 320 + 7 * 2 ^ 256))
    let two : NodeSt := { node 2 0 with count := 2 }
    let ends := { evAt (running { node 4 0 with succ := [0] }) 3 0 0 with grids := [] }
    allOf [(match signalWord (run (node 3 0)) 0x3008 1 5 s with | (_, none) => true | _ => false), 0x3008 % 8 == 0,
      wordOk s 0x3008 (fun w => waitHolds 0 w 7 && w != 0), wordOk s 0x3000 (fun w => waitHolds 2 w 7 && w == 0),
      (startRun 1 0 0x4000 2 (some (3, 0)) s).2 == 0, decide (2 ≤ two.count), (match vaNum 1 0x5000 128 launchable with | (_, .ok x) => launchOk x | _ => false),
      (match readRegions (run (node 1 0)) 0x6000 1 0 [] launchable with | (_, .ok l) => l.length == 1 || l.length == 0 | _ => false),
      (s.ctxs.get? 1).any (fun c => !c.paused), decide ((node 4 0).start + 2000 * 0 ≤ s.ncyc), (run (node 4 0)).fail.isNone, (s.node 3 0).ty == 4,
      (s.node 3 0).phase == 2, (ends.node 3 0).succ == [0], ends.ev.v == 0, { ends.ev with v := 5 }.data.isEmpty, bits (2 ^ 193) 255 192 != 0, bits (node 4 0).part 255 192 == 0]) = true := by
  decide +kernel

/-- A grid of context 1 that waits, and a context 2 of lower priority that runs a team. -/
def waiting : State := { running (node 1 0) with
  grids := [(1, { Grid.blank with ctx := 1, launch := launch, run := 3, node := 0 }), (2, { Grid.blank with ctx := 2, launch := launch })]
  teams := [(9, { Team.blank with ctx := 2, grid := 2 })]
  ctxs := [(1, { fetchCtx with prio := 1 }), (2, fetchCtx)]
  ncyc := 40000 }
/-- A context of higher priority whose saved team waits for a core. -/
def savedWait : State := { waiting with
  ev := ⟨1, 0, 1, []⟩
  teams := [(9, { Team.blank with ctx := 2, grid := 2 }), (8, { Team.blank with ctx := 1, grid := 1, saved := true })]
  ctxs := [(1, { fetchCtx with prio := 1, phase := 4, waitFrom := some 0 }), (2, fetchCtx)] }
/-- Hypotheses of DispatchEvents, of the waiting saved team, of a resume without room and of one that another's team still precedes. -/
theorem test_hyp_resume_waits : (let s := savedWait
    let z := { s with ev := ⟨1, 0, 0, []⟩ }
    let c := { fetchCtx with prio := 1, phase := 4, cause := some (2, 0) }
    allOf [savedWaits s 1 == [(0, none, some 8)], (s.ctxs.get? 1).any (fun c => c.phase == 4 && c.waitFrom == some 0), decide (0 + 40000 ≤ s.ncyc),
      (pickVictim (s.ctxs.filter (fun e => victimOk s 1 (viewBays (s.viewOf 1) 0) e.1 e.2))).any (fun v => v.1 == 2 && mayPreempt s v.1 0),
      Machine.settled z { c with cause := none },
      !roomFor_ 1 (savedClusters z 1) { z with grids := [(1, { Grid.blank with ctx := 1, launch := { launch with groups := 65 } })] }, !Machine.settled { z with ctxs := [(1, c)] } c]) = true := by decide +kernel
/-- Hypotheses of DispatchEvents. -/
theorem test_hyp_dispatch : (let s := { waiting with ev := ⟨0, 1, 0, []⟩ }
    let p := { waiting with ev := ⟨1, 0, 0, []⟩ }
    let done := { evAt base 1 with threads := [] }
    let ph := fun (n : Nat) (s : State) => { evAt s 1 with ctxs := [(1, { fetchCtx with phase := n })] }
    let h := ph 3 (base.modTeam 1 (fun T => { T with halted := true }))
    allOf [(tryGrids 0 s (serviceOrder s 0 1)).isSome, (done.teams.get? 1).any (fun T => !T.saved), (done.liveGroups 1).isEmpty, teamDone done 1,
      (p.grids.get? 1).any (fun G => !G.ended && G.next == 0 && placeable p G.ctx && decide (G.since + 40000 ≤ p.ncyc)
        && (pickVictim (p.ctxs.filter (fun e => victimOk p G.ctx (viewBays (p.viewOf G.ctx) G.vdev) e.1 e.2))).any (fun v => v.1 == 2 && mayPreempt p v.1 G.vdev)),
      ((ph 1 base).ctxs.get? 1).any (fun c => c.phase == 1), base.ops.isEmpty, contextQuiet (ph 2 base) 1,
      (h.teams.get? 1).any (fun T => T.halted && !T.saved && (h.ctxs.get? T.ctx).any (fun c => c.phase == 3)), (opsOf h 1).isEmpty, !countsPending h 1, !(h.liveGroups 1).isEmpty,
      ((ph 4 base).ctxs.get? 1).any (fun c => c.phase == 4 && !c.dying && !c.suspended && Machine.settled (ph 4 base) c && roomFor_ 1 (savedClusters (ph 4 base) 1) (ph 4 base)
        && (resumeAll 1 c (savedClusters (ph 4 base) 1) (ph 4 base)).2)]) = true := by decide +kernel
/-- Hypotheses of PlacedTeamsFit. -/
theorem test_hyp_fits : (tryGrid 0 1 { Grid.blank with ctx := 1, launch := launch, run := 3 } waiting).isSome = true := by decide +kernel

/-- An operation of team 1, in the queue or at its unit, with scratchpad offset 0 as its operands. -/
def op (opc stage : Nat) : AOp := { AOp.zero with opc := opc, stage := stage, team := 1, ctx := 1, a := [0x1FFF00000000000], b := [0x1FFF00000000200], c := [64] }
def opState (l : List (Nat × AOp)) : State := { evAt base 1 with ops := l }
/-- A Firkin table of one symbol, of length 1. -/
def tabled : State := (opState [(1, op 0x2802 1)]).modTeam 1 (fun T => { T with spad := ⟨[(0, 1), (32, 1), (64, 0x41)], [], none⟩ })
def rods : State := opState [(1, { op 0x3006 1 with c := [], place := 7 }), (2, { op 0x3007 1 with c := [], place := 0, cluster := 16, mode := 8 })]
/-- Hypotheses of EngineEvents. -/
theorem test_hyp_engines : (let q := opState [(1, op 0x2800 0)]
    let s := opState [(1, op 0x2800 1)]
    let long := { op 0x2800 1 with c := [8192] }
    let fk := { opState [(1, { op 0x2803 1 with c := [2 ^ 32 + 3] })] with firkin := [((0, 0), ⟨1, true, [(1, 0, 0x41)]⟩)] }
    allOf [(op 0x2800 0).stage == 0, atHead 1 q, !rodWaits (op 0x3001 0),
      (match copyChunk (op 0x2800 1) s with | (s1, some (_, _, n)) => decide (copyTotal s1 (op 0x2800 1) ≤ 0 + n) | _ => false),
      (match copyChunk long (opState [(1, long)]) with | (s1, some (_, _, n)) => decide (0 + n < copyTotal s1 long) | _ => false),
      firkinTurn 1 (op 0x2802 1) tabled, decide (engLoc tabled 1 0x1FFF00000000000 = .ok (.spad, 0)), (engRead (op 0x2802 1) (.spad, 0) 320 tabled).2.any
        (fun l => !l.any Prod.snd && tableValid (l.map Prod.fst)), !(op 0x2802 1).stirred,
      firkinTurn 1 (fk.op 1) fk, (fk.firkin.get? (0, slotBit 0)).any (fun f => f.valid && f.ctx == 1), decide (engLoc fk 1 0x1FFF00000000200 = .ok (.spad, 0x200)),
      (engRead (fk.op 1) (.spad, 0x200) (bits ((fk.op 1).c.getD 0 0) 63 32) fk).2.isSome,
      (decodeStream [(1, 0, 0x41)] 3 [false, false, false, true]).2, !opBlocked 1 (op 0x3001 1) (opState [(1, op 0x3001 1)]),
      !bushelBlocked 1 (op 0x3105 1) (opState [(1, op 0x3105 1)]), long.word.isNone, ({ long with word := some 0x80 } : AOp).word == some 0x80,
      ({ long with node := some (3, 0) } : AOp).node.isSome, long.node.isNone, ({ fk.op 1 with pos := 4 } : AOp).pos != 0, (fk.op 1).pos == 0, (s.op 1).sig.isNone,
      (s.op 1).stage == 1, (s.ops.get? 1).isSome]) = true := by decide +kernel
/-- Hypotheses of EngineEvents. -/
theorem test_hyp_rods : (allOf [rodFacing 0 7 (rodDir 0) == some (1, 0), (rodHead rods 0x3006 1 0 7 (rodDir 0)).any (fun x => x.1 == 1),
      (rodHead rods 0x3007 1 1 0 (rodBack (rodDir 0))).any (fun x => x.1 == 2), rodFacing 1 0 (rodDir 8) == some (0, 7), rodWaits (rods.op 1),
      decide ((rods.op 1).start + (rods.op 1).pos ≤ rods.now 1), rodWaits (rods.op 2)]) = true := by decide +kernel

/-! ### Values at the edges of the clauses, and results worked out by hand from the tables -/

/-- The space of a pointer at the edges of Table local-1: team 1 has index 0. -/
theorem test_window_edges : allOf [decide (window base 1 (2 ^ 57) = .error 1), decide (window base 1 (0x1FFF * 2 ^ 44 - 1) = .ok (.glob, 0x1FFF * 2 ^ 44 - 1)),
    decide (window base 1 (0x1FFF0 * 2 ^ 40 + 2 ^ 19) = .error 2), decide (window base 1 (0x1FFF0 * 2 ^ 40 + 2 ^ 20) = .error 4),
    decide (window base 1 (0x1FFF0 * 2 ^ 40 + 2 ^ 19 - 1) = .ok (.spad, 2 ^ 19 - 1)), decide (window base 1 (0x1FFF1 * 2 ^ 40 + 2 ^ 20) = .error 2),
    decide (window base 1 (0x1FFF1 * 2 ^ 40 + 2 ^ 20 - 1) = .ok (.clsh, 2 ^ 20 - 1)), decide (window base 1 (0x1FFF2 * 2 ^ 40 + 2 ^ 32) = .error 2),
    decide (window base 1 (0x1FFF2 * 2 ^ 40 + 2 ^ 32 - 1) = .ok (.priv, 2 ^ 32 - 1)), decide (window base 1 (2 ^ 57 - 1) = .error 2),
    decide (decodeGeneric base 1 (0x1FFF0 * 2 ^ 40 + 4092) 4 = .ok (.spad, 4092)), decide (decodeGeneric base 1 (0x1FFF0 * 2 ^ 40 + 4096) 4 = .error 3),
    decide (decodeGeneric base 1 (0x1FFF0 * 2 ^ 40 + 4090) 4 = .error 7)] = true := by decide +kernel

/-- Patterns of f32: NaNs, zeros of both signs, and numbers. For FloatOperations, PredicateOperations. -/
theorem test_hyp_floats : (let v := valueOf 0x28
    allOf [(v 0x7FC00000).isNan, (v 0xFFC00000).isNan, !(v 0x3F800000).isNan, (v 0x80000000).isZero, (v 0).isZero, (v 0x80000000).isNeg != (v 0).isNeg,
      decide (0xFFC00000 < 2 ^ tyBits 0x28), (intTy 0x28).isNone, intTy 0x2E == some (true, 32), intTy 0x2F == some (false, 32),
      wellFormed (.setp lane ⟨193, 2, 3, 0, 0x28, 0, 0, 13⟩), wellFormed (.setp lane ⟨193, 2, 3, 0, 0x2E, 0, 0, 5⟩)]) = true := by decide +kernel

/-- Lane 0 of the small state with a and b in v1 and v2. -/
def with2 (a b : Nat) : State := base.modThr (1, 0, 0) (fun t => { t with regs := [(1, word a), (2, word b)] })
/-- The word in v6 of lane 0 after an instruction. -/
def after (i : Instr) (s : State) : Nat := match exec i s with | .next t => ((t.thr (1, 0, 0)).v 6).v.toNat | _ => 0
def g12 (ty : Nat) (pol : Nat := 0) (fl : Nat := 0) (rnd : Nat := 0) : OpG := ⟨6, 1, 2, 0, ty, rnd, pol, fl⟩
/-- Integers of 32 bits: a sum wraps and saturates, a product's high half has the sign, quotients round toward zero, and a division by 0 gives −1 and the dividend. -/
theorem test_integers : ([after (.addInt lane (g12 0x2E)) (with2 0x7FFFFFFF 1), after (.addInt lane (g12 0x2E 1)) (with2 0x7FFFFFFF 1),
    after (.mulhi lane (g12 0x2E)) (with2 0xFFFFFFFF 2), after (.divInt lane (g12 0x2E)) (with2 0xFFFFFFF9 2), after (.rem lane (g12 0x2E)) (with2 0xFFFFFFF9 2),
    after (.divInt lane (g12 0x2E)) (with2 9 0), after (.rem lane (g12 0x2E)) (with2 9 0), after (.subInt lane (g12 0x2F 1)) (with2 3 5)]
    == [0x80000000, 0x7FFFFFFF, 0xFFFFFFFF, 0xFFFFFFFD, 0xFFFFFFFF, 0xFFFFFFFF, 9, 0]) = true := by decide +kernel
/-- Shifts by the width, a rotation, a bit field with its sign, and counts of a single bit. -/
theorem test_bits : ([after (.shl lane (g12 0x2F)) (with2 3 32), after (.shr lane (g12 0x2E)) (with2 0x80000000 40), after (.rotl lane (g12 0x2F)) (with2 0x80000001 4),
    after (.bfe lane (g12 0x2E)) (with2 0xF0 0x0404), after (.clz lane ⟨6, 1, 0, 0, 0x2F, 0, 0, 0⟩) (with2 0x10 0), after (.ctz lane ⟨6, 1, 0, 0, 0x2F, 0, 0, 0⟩) (with2 0x10 0),
    after (.popc lane ⟨6, 1, 0, 0, 0x2F, 0, 0, 0⟩) (with2 0xF1 0), after (.brev lane ⟨6, 1, 0, 0, 0x2F, 0, 0, 0⟩) (with2 1 0)]
    == [0, 0xFFFFFFFF, 0x18, 0xFFFFFFFF, 27, 4, 5, 0x80000000]) = true := by decide +kernel
/-- f32: 1 + 1, a tie that goes to even and the next number up, 1 / 3 to nearest, the root of 4, and the lesser of −0 and +0. -/
theorem test_floats : ([after (.addFloat lane (g12 0x28)) (with2 0x3F800000 0x3F800000), after (.addFloat lane (g12 0x28)) (with2 0x3F800000 0x33800000),
    after (.addFloat lane (g12 0x28)) (with2 0x3F800000 0x33800001), after (.divFloat lane (g12 0x28)) (with2 0x3F800000 0x40400000),
    after (.sqrt lane ⟨6, 1, 0, 0, 0x28, 0, 0, 0⟩) (with2 0x40800000 0), after (.minFloat lane (g12 0x28)) (with2 0 0x80000000), after (.mulFloat lane (g12 0x28)) (with2 0x40000000 0xC0400000)]
    == [0x40000000, 0x3F800000, 0x3F800001, 0x3EAAAAAB, 0x40000000, 0x80000000, 0xC0C00000]) = true := by decide +kernel
/-- A scratchpad store is read back in the bytes, lowest first. -/
theorem test_store : (match exec (.sts guarded { m0 with d := 0, b := 2 }) (three.modThr (1, 0, 0) (fun t => { t with regs := [(0, word 0x40), (2, word 0x11223344)] })) with
    | .next t => (upFrom 0x40 4).map (t.team 1).spad.byte | _ => []) = [0x44#8, 0x33#8, 0x22#8, 0x11#8] := by decide +kernel


/-! ### More of the hypotheses: rendezvous with left-out lanes, global memory, waits, links, held reads and results -/

/-- A context whose lanes were left out of its group's last `.part` instance, at its instruction. -/
def latesNow (i : Instr) (n : Need) (s : State) (p : PartRec) : Bool :=
  match mkCtx i n.eng s with
  | some c => readyNow i n c s && decide (2 ≤ c.h.scope ∧ n.alone = false ∧ c.span = false
      ∧ (s.grp c.team c.group).part.get? (c.h.scope == 3) = some p ∧ p.pc = c.pc ∧ p.cd = c.cd
      ∧ c.set.filter (fun i => p.absent.contains i) ≠ []
      ∧ (∀ k ∈ lateLanes c p, 64 ≤ (s.thr (c.key k)).depth ∧ (s.thr (c.key k)).inflight = [] ∧ (s.thr (c.key k)).flyP = []))
  | none => false
theorem late_of (i n s p) (h : latesNow i n s p = true) : ∃ c, Late i n c s p := by
  unfold latesNow at h
  split at h
  · rename_i c hc
    simp only [Bool.and_eq_true] at h
    obtain ⟨h1, h2, h3, h4, h5, h6, h7, _⟩ := of_decide_eq_true h.2
    exact ⟨c, clear_of i n c s hc h.1, h1, h2, h3, h4, ⟨h5, h6⟩, h7⟩
  · cases h
/-- Threads 0 and 1 were left out of a `.part` instance at address 0. -/
def leftOf (done : Bool) (s : State := base) : State := s.modGrp 1 0 (fun G => { G with part := [(true, ⟨[0, 1], 0, 0, done, [(0, 5), (1, 6)]⟩)] })
def late5 (done : Bool) : PartRec := ⟨[0, 1], 0, 0, done, [(0, 5), (1, 6)]⟩
/-- Hypotheses of IssueAndRendezvous, VotesAndSharedResults, RendezvousBarriersAndTokens and AtomicsAndReductionsComplete: lanes that a `.part` instance left out, and instances that leave thread 2 out. -/
theorem test_hyp_part : (let v : OpG := ⟨193, 192, 0, 0, 0, 0, 0, 512⟩
    let x : OpG := ⟨6, 1, 0, 0, 0x2F, 0, 0, 512⟩
    let b : OpG := { o0 with flags := 257 }
    let r : OpM := { m0 with d := 0, a := 8, b := 2, modm := 1 }
    let vn : Need := { eng := 0, opds := [dst 0 193 1 [3], src 1 192 1 [3]], part := true }
    let xn : Need := { eng := 0, opds := [⟨0, 6, [0, 1, 2], 1, true, true⟩, src 1 1 1 aluCls], part := true }
    let sn : Need := { eng := 0, opds := [dstSwb 6 1, src 1 1 1 aluCls], part := true }
    let bn := needOf 0 (barDesc b)
    let rn := redNeed teamH r
    let three2 := { three with cur := ⟨1, 0, [0, 1]⟩ }
    allOf [latesNow (.vote teamH v) vn (leftOf true) (late5 true), latesNow (.rdxOp teamH x) xn (leftOf true) (late5 true),
      latesNow (.scan teamH x) sn (leftOf true) (late5 true), latesNow (.bar teamH b) bn (leftOf true) (late5 true), latesNow (.bar teamH b) bn (leftOf false) (late5 false),
      latesNow (.redAdd teamH r) rn (leftOf true) (late5 true),
      joinsNow (.vote teamH v) vn three2, joinsNow (.rdxOp teamH x) xn three2, joinsNow (.scan teamH x) sn three2, joinsNow (.bar teamH b) bn three2,
      joinsNow (.redAdd teamH r) rn three2, bn.part, rn.part]) = true := by decide +kernel

/-- Thread 0 alone, with a global pointer in v8 and data in v2; the line's attributes and home are known in its unit, whose write-combining entry for it holds the word 0x11223344 at the pointer. -/
def global : State :=
  let s := { base with threads := [((1, 0, 0), { thread with regs := [(2, word 7), (8, word 0x40000010)] })], cur := ⟨1, 0, [0]⟩ }
  atcPut 0 1 0x40000000 ⟨0, true, true, false, 16⟩ { s with
    plc := [((0, 1, 0x4000), 0)]
    wcs := [((0, 1, 0x800000), ⟨[(16, 3, 0x44), (17, 3, 0x33), (18, 3, 0x22), (19, 3, 0x11)], [], false⟩)] }
/-- `LineAtHand`, as a check. -/
def atHand (s : State) (u ctx va : Nat) : Bool :=
  decide (ctx ≠ 0 ∧ (s.plc.get? (niOf u, ctx, va / 2 ^ 16)).isSome = true ∧ (atcFind s (niOf u) ctx (va / 128 * 128)).any (fun x => x.home != 3) = true
    ∧ flipping s ctx (va / 128 * 128) = false ∧ (∀ e ∈ s.accs, e.1 < s.nextId ∧ (e.2.ctx ≠ ctx ∨ e.2.line ≠ va / 128))
    ∧ (s.wcs.get? (u, ctx, va / 128)).all (fun w => w.cells.all (fun x => decide (x.2.1 ≤ 3))) = true)
theorem atHand_of (s u ctx va) (h : atHand s u ctx va = true) : LineAtHand s u ctx va := by
  obtain ⟨h1, h2, h3, h4, h5, h6⟩ := of_decide_eq_true h
  obtain ⟨x, hx, hn⟩ := Option.any_eq_true .. |>.1 h3
  refine ⟨h1, h2, ⟨x, hx, by simpa using hn⟩, h4, h5, fun w hw x hx => ?_⟩
  rw [hw] at h6
  exact of_decide_eq_true (List.all_eq_true.1 h6 x hx)
/-- Hypotheses of MemoryReadAfterWrite: a global store and a global load of a line at hand. -/
theorem test_hyp_global : (let m : OpM := { m0 with d := 0, a := 8, b := 2 }
    let l : OpM := { m0 with a := 8 }
    let ok := fun c s => c.act == [0] && issueUnit c c.group s == 0 && ctxOf c s == 1 && decide (addrOf c s c.group 0 .generic 8 0 4 = .ok (.glob, 0x40000010))
      && atHand s 0 1 0x40000010
    allOf [runsWith (.st lane m) (storeNeed .generic m) global ok, runsWith (.stg lane m) (storeNeed .global m) global ok,
      runsWith (.ld lane l) (loadNeed .generic l) global ok, runsWith (.ldg lane l) (loadNeed .global l) global ok,
      (global.threads.get? (1, 0, 0)).any (fun y => y.pend.isEmpty), ((global.wcs.get? (0, 1, 0x800000)).map (fun w => (upFrom 16 4).map w.cells.get?))
        == some ((leBytes 4 0x11223344).map (fun b => some (3, b)))]) = true := by decide +kernel
/-- A global load returns the word that stands at its address in its own core, lowest byte first, and a store puts one there. -/
theorem test_global : (after (.ldg lane { m0 with a := 8 }) global == 0x11223344 && (match exec (.stg lane { m0 with d := 0, a := 8, b := 2 }) global with
    | .next t => (t.wcs.get? (0, 1, 0x800000)).map (fun w => (upFrom 16 4).map w.cells.get?) == some ((leBytes 4 7).map (fun b => some (3, b)))
    | _ => false)) = true := by decide +kernel

/-- Element (1, 2) of a 4 by 4 scratchpad array of n32 with rows of 16 elements and SWZ 3, worked out from R287; of rank 1 the second coordinate plays no part; and a coordinate at its extent is outside. For TensorAndPointerInstructions. -/
theorem test_shape : (let h : Shape := ⟨0x1FFF00000000000, 0x2F, 2, 3, false, 0, [4, 4], [1, 16], []⟩
    allOf [shapeAddr base 1 h [1, 2] == .at_ .spad 148 0, shapeAddr base 1 { h with rank := 1 } [1, 2] == .at_ .spad 4 0,
      shapeAddr base 1 h [1, 4] == .oob, shapeAddr base 1 h [-1, 0] == .oob, shapeAddr base 1 { h with base := 0x4000 } [1, 2] == .at_ .glob (0x4000 + 132) 0,
      decide (window base 1 h.base = .ok (.spad, 0)), decide (1 ≤ h.rank)]) = true := by decide +kernel
/-- Three registers were asked for by the trap whose handler runs; the counts of R338, and the lanes of a tensor access that lie inside and outside its shape. For WindowSpillAndFill and TensorAndPointerInstructions. -/
theorem test_counts : (let s := (windowed.modGrp 1 0 (fun G => { G with trap := ⟨true, 9, 0, 0, 0, 3, 0, 0, 3⟩, handler := [0, 1] }))
    let auto : OpI := ⟨0, 0, 0, 1⟩
    let two : OpI := ⟨0, 448 + 2, 1, 0⟩
    let out := base.modThr (1, 0, 0) (fun t => { t with regs := [(2, word 16)] })
    let k := Shape.ofNat shape
    allOf [(mkCtx (.wspill lane auto) 0 s).any (fun c => windowCount false auto c s 0 == 3 && windowCount true auto c s 0 == 0 && windowCount false two c s 0 == 3
        && windowChk false two c s == [] && windowChk true two c s == []
        && (windowElems false two c s).map (fun e => (e.lane, e.off)) == [(0, 32), (0, 36), (0, 40), (1, 32), (1, 36), (1, 40)]
        && (windowElems true two c s).map (fun e => (e.lane, e.off)) == [(0, 20), (0, 24), (0, 28), (1, 20), (1, 24), (1, 28)]),
      (mkCtx (.tld lane tt) 2 out).any (fun c => (tensorElems tt false k c out).map (fun e => (e.lane, e.off)) == [(1, 20)]
        && ((tensorZero tt k c out out).thr (1, 0, 0)).v 6 == ⟨0, false⟩)]) = true := by decide +kernel

/-- A hand-over and a recall that wait for a store of a core-mate and for a read, a count below the last, and the looks at a timed word. For ThreadEvents. -/
theorem test_hyp_thread_waits : (let s := evAt moving 1 0 1
    let u := 16 * (s.team 1).cluster + (s.team 1).core
    let store := { s with accs := [(4, Acc.new .store u 1 5 1 [] 0)] }
    let read := { (s.modThr (1, 0, 1) (fun t => { t with pend := [⟨6, 4, 0, 0⟩] })) with accs := [(4, Acc.new .load u 1 5 1 [] 0)] }
    let failed := (s.modThr (1, 0, 1) (fun t => { t with storeErr := [1] }))
    let held := failed.modGrp 1 0 (fun G => { G with trap := { G.trap with active := true } })
    let far := { s with accs := [(4, Acc.new .store (unitOf s (1, 0, 1)) 1 5 1 [] 0)] }
    let w : SyncWord := ⟨5, 0, 3, false, false, false, 0, 0, (0, 0)⟩
    let z := { evAt wordWait 1 0x80 0 with acyc := [(0, 1024)] }
    let none_ := z.modTeam 1 (fun T => { T with spad := ⟨[], [], none⟩ })
    allOf [!coreStores u s, coreStores u store, (read.thr (1, 0, 1)).pend.any (fun p => (read.accs.get? p.access).any (fun a => a.kind == AKind.load)),
      !coreStores (unitOf s (1, 0, 1)) s, coreStores (unitOf s (1, 0, 1)) far, (held.thr (1, 0, 1)).storeErr.any (errCovered 3), (held.grp 1 0).trap.active,
      ({ base with tracks := [(5, ⟨1, [0], 2, 2, 0⟩)] } : State).tracks.any (fun x => decide (2 ≤ x.2.left)),
      !(z.team 1).halted, z.timed == [⟨1, 0x80, 0, 0⟩], wordWaited z 1 0x80, (syncAt z 1 0x80).limit != 0, !(syncAt z 1 0x80).timeout,
      (syncAt none_ 1 0x80).limit == 0, wordWaited none_ 1 0x80, !wordWaited { z with groups := base.groups } 1 0x80,
      ((inHandler 9).grp 1 0).trap.active,
      ({ w with target := 7 } : SyncWord).update 2 false == { w with target := 7, count := 0, gen := 4 }, w.update 2 true == { w with count := 7, error := true },
      (w.update (2 ^ 32) false).overF, syncAt (syncApply 1 0x80 4 false base) 1 0x80 == (syncAt base 1 0x80).update 4 false,
      base.ops.isEmpty, base.doneOps.isEmpty, base.groups.all (fun e => e.2.waits.isEmpty)]) = true := by decide +kernel
/-- Rejoin: thread 1 waits on mask 3, which also holds the ejected thread 0. For ThreadEvents. -/
theorem test_hyp_rejoin : (let r := (evAt late 1 0 3).modGrp 1 0 (fun G => { G with masks := [(3, ⟨3#128, 0⟩)] })
    let e := r.modThr (1, 0, 0) (fun t => { t with span := some ⟨0, 0, 64, [], []⟩ })
    allOf [(maskThreads 1 0 3 e).filter (fun i => (e.thr (1, 0, i)).span.isSome) == [0], maskWaiters 1 0 3 e == [1], !(e.team 1).halted,
      ((e.grp 1 0).timers.find? (fun x => x.mask == 3)) == some ⟨3, 0, 0⟩, decide (e.rjto ≤ 0 + (e.now 1 - 0)), e.handlerEntry 1 == some 0x1000]) = true := by decide +kernel

/-- Links: what is added to the clauses by replays, reserved types, the end of training and messages of more than one flit. For LinkEvents. -/
theorem test_hyp_link_messages : (let s := linked State.reset
    let down := (evAt s 1).setLink 1 { s.link 1 with state := 0, bad := 3, training := false }
    let busy := { down with objs := [(5, ⟨0, 1, 1, 0x14000, 0x13000, 0x8000⟩)], l1 := [((3, 1, 0x100), ⟨.w, ⟨0, true, true, false, 16⟩, 0x8000, 0, [], []⟩)] }
    let train := s.setLink 0 { s.link 0 with state := 1, training := true }
    let n : Notice := .barData (List.replicate 241 7)
    let g : Notice := .kfl 2 0 4 0 (List.replicate 480 1) []
    allOf [decide (3 < bits (leVal [0#8, 0#8, 0#8, 0x40#8]) 31 28), bits (leVal [0#8, 0#8, 0#8, 0x40#8]) 23 12 == (s.link 0).next,
      bits (leVal [0#8, 0#8, 0#8, 0#8]) 31 28 == 0, (s.link 0).state == 2, (train.link 0).training, train.regs.khl.training, !s.regs.khl.training, s.posted.isEmpty,
      (down.link 1).state == 0, (down.link 1).bad == 3, portQuiet 0 down, !portQuiet 0 busy, n.payloads.length == 2, g.payloads.length == 2, noticeLink n == some 0, noticeLink g == some 3,
      (n.payloads.map (fun x => match x with | .barData d => d.length | _ => 0)) == [240, 1], decide (2 ^ 40 ≤ 2 ^ 40 + 8), train.regs.khl.state == 1,
      decide ((train.link 0).state < 2), State.reset.regs.khl.state == 0, !State.reset.regs.khl.training]) = true := by decide +kernel

/-- A column sum, pairs, a rotation and a quantisation worked out by hand from R233, R310, R313 and R315: 1·1 + 2·3 = 7; 2^-30 stays in the low part; the sums and differences of (1, 2, 3, 4); and of (7, -3.5) the scale is 1 and the tie goes to the even code. For MatrixAndQuantiserResults. -/
theorem test_matrix_values : (let v := fun (n : Int) => Exact.ofInt n
    let one := 0x3F800000
    allOf [columnSum 0 [(v 1, v 1), (v 2, v 3)] == 0x40E00000, columnSum 0 [(f32 0x7FC00000, v 1)] == nanOf 0x28, pairAdd ⟨one, 0⟩ 0x30800000 == ⟨one, 0x30800000⟩,
      (f32 (pairAdd ⟨0x7F7FFFFF, 0⟩ 0x7F7FFFFF).h).isInf, hadamard 0 [v 1, v 2, v 3, v 4] == [0x41200000, 0xC0000000, 0xC0800000, 0],
      (hadamard 0 [f32 0x7FC00000, v 1]).all (· == nanOf 0x28), (quant4 [0x40E00000, 0xC0600000]).q == [7, 12], (quant4 [0x40E00000, 0xC0600000]).scale == 0x3C00,
      quant4 [0x7F800000, 0] == ⟨[0, 0], 0x7E00, true, false⟩, (softmaxBlock [0x7FC00000] 0xFF800000 Pair.zero 0x28).nan]) = true := by decide +kernel
/-- An operation of the matrix die at its unit, with its operand map: 1 row of 1 element of f32. -/
def mat (opc rows cols : Nat) : AOp := { op opc 1 with c := [], recs := [0x28 * 2 ^ 122 + rows * 2 ^ 109 + cols * 2 ^ 101], b := [1] }
/-- A bay whose quantiser is enabled for context 1, without pages placed. -/
def pooled : State := { base with bays := [(0, { Bay.zero with bushel := 2 ^ 127 + 2 ^ 115 + 2 ^ 48 })] }
/-- Hypotheses of MatrixAndQuantiserResults. -/
theorem test_hyp_matrix : (let p := mat 0x3002 1 1
    let m := OMap.ofNat (p.recs.getD 0 0)
    let s := opState [(1, p)]
    let full := modArray p (fun A => { A with planes := A.planes.set 0 ⟨0x28, [((0, 0), 0x3F800000)], false⟩ }) s
    let sick := s.modTeam 1 (fun T => { T with spad := T.spad.spoil 0 4 })
    let b : AOp := { op 0x3104 1 with a := [0], reads := [], c := [] }
    let g := bcfg pooled 0
    let d := Smv.ofNat (0x28 * 2 ^ 24 + 2 ^ 19) 0x40000000 (2 ^ 44 + 0x28 * 2 ^ 38 + 2 ^ 21 + 32) 0
    let evp := mapped.wr false 0x7000 (leBytes 8 (2 ^ 63 + 2 ^ 62 + 2 ^ 61 + 2 ^ 60 + 2 ^ 51 + 2 ^ 31))
    allOf [decide (m.rows = 1 ∧ m.cols = 1), (OMap.ofNat ((mat 0x3002 0 1).recs.getD 0 0)).rows == 0, (OMap.ofNat ((mat 0x3002 1 0).recs.getD 0 0)).cols == 0,
      (mapRow p s m 0).all (fun e => !e.stirred && !e.bad), (mapRow p sick m 0).all (·.bad), bits (p.b.getD 0 0) 7 0 == 1, bits (p.b.getD 0 0) 16 14 == 0,
      (s.array 0 0).planes.isEmpty, ((full.array 0 0).planes.get? 0).isSome, bit ({ p with mode := 16 } : AOp).mode 4, !bit p.mode 4,
      (smvEligible p d mapped).2 == some false, (smvEligible p d evp).2.isNone, !d.empty, { d with n := 0 }.empty,
      g.en, g.ctx == 1, decide (0 < 2 ^ g.logseq), (bseq pooled g 0).valid g, b.reads.isEmpty, !b.err, ({ b with err := true } : AOp).err, (bcfg base 0).en == false,
      opBad p sick 0 4, !({ bseq pooled g 0 with len := 1 } : BSeq).valid g]) = true := by decide +kernel

/-- The KHL in training. -/
def training (s : State) : State := { s with regs := { s.regs with khl := { s.regs.khl with state := 1, training := true } } }
/-- Commands whose operand the KHL's training holds, or cannot be read; a host address for the record. For AdminCommandsAndDoorbells, RegisterWindow and HostMemoryEvents. -/
theorem test_hyp_training : (let h := admin recorded 1 0 (2 ^ 40 + 64) 0
    let t := training h
    let lost := { h with regs := { h.regs with khl := { h.regs.khl with state := 0, training := false } } }
    let other := { waiting with ctxs := waiting.ctxs.set 1 { fetchCtx with phase := 1, unit := 8 }, teams := waiting.teams ++ [(8, { Team.blank with ctx := 1, grid := 1 })] }
    let held := fun (s : State) => match (cpNum s.aAddr 64 s).2 with | .error k => some k | _ => none
    let d := fun (s : State) => match (cpNum s.aAddr 32 s).2 with | .error k => some k | _ => none
    allOf [h.aAddr % 64 == 0, held t == some 255, held lost == some 7, held h == none, d t == some 255, d lost == some 7, decide (t.aLen < 4096), (t.ctxs.get? t.aCtx).isSome,
      t.regs.khl.state == 1, lost.regs.khl.state == 0, t.ev.data.isEmpty, ({ t.ev with data := [0] } : EvArg).data != [],
      !(resident waiting 2).isEmpty, mayPreempt (markSuspended 2 waiting) 2 8, !mayPreempt (markSuspended 2 other) 2 8,
      !(sectorsToAsk t (hostXl.phys (0x40010000)) false).isEmpty, t.hsect.isEmpty, victimsOf { t with hsect := [⟨9, 1, 2 * lineM, .e⟩] } 1 [(9, 2 * lineM)] == []]) = true := by decide +kernel
/-- Granules: a home with its port up and one that trains; a recall behind a grant that has come; a gate for each state. For GranuleEvents. -/
theorem test_hyp_granule_ports : (let s := { evAt declared 4 0 0 with objs := [(4, objAt 7), (5, objAt 1)] }
    let up := s.setLink 1 { s.link 1 with state := 2 }
    let peer : State := { (s.setLink 2 { s.link 2 with state := 2 }) with ev := ⟨5, 0, 0, []⟩ }
    let granted : State := { peer with agenda := [⟨.granuleGrant, ⟨5, 0, 8, []⟩, 0, 0⟩] }
    let va := ((objOf s 1 0x100).map (fun x => x.1))
    let shared := peer.wr false 0x14000 [1#8]
    let owned := peer.wr false 0x14000 [2#8]
    let lent := up.wr false 0x14000 [8#8]
    allOf [decide (2 ≤ (up.link (up.ev.v + 1)).state), (up.ev.v < 4 : Bool), decide (2 ≤ (peer.link (1 + 1)).state), ((s.setLink 2 { s.link 2 with state := 1 }).link 2).state == 1,
      peer.agenda.all (fun d => d.ev != .granuleGrant || d.arg.k != 5), granted.agenda.any (fun d => d.ev == .granuleGrant && d.arg.k == 5 && d.arg.a == 0),
      !granQuiet { peer with l1 := [((3, 1, 0x100), ⟨.w, ⟨0, true, true, false, 16⟩, 0x8000, 0, [], []⟩)] } (objAt 1) 0, granQuiet peer (objAt 1) 0, va.isSome,
      bits (granByte shared (objAt 1) 0) 1 0 == 1, bits (granByte owned (objAt 1) 0) 1 0 == 2, bit (granByte lent (objAt 7) 0) 3, bits (granByte lent (objAt 7) 0) 2 1 == 0,
      (up.putxs.isEmpty), up.xfers.isEmpty, ({ peer with putxs := [⟨5, 0⟩] } : State).putxs.contains ⟨5, 0⟩, ({ peer.ev with v := 8 } : EvArg).v == 8]) = true := by decide +kernel
/-- A tree message without credit at its port, and fields of the others. For TreeMessages. -/
theorem test_hyp_no_credit : (let m : Msg := { msgTo homeM 0 with seq := 0, from_ := 1, inq := false }
    let s := { evAt mapped 7 with msgs := (upFrom 10 64).map (fun k => (k, { msgTo homeM 0 with seq := 0, from_ := 1 })) ++ [(7, m)] }
    allOf [s.msgs.get? 7 == some m, (enterPort m s).isNone, (msgTo homeM homeM).inq]) = true := by decide +kernel

/-- Commands whose completion record lies in a page under eviction, and in one that is not; a run that failed, and one that did not. For UserCommands. -/
theorem test_hyp_completions : (let at_ := fun (va : Nat) => { commanded 0x4000 with ctxs := (commanded 0x4000).ctxs.map (fun e => (e.1, { e.2 with
        queues := [(0, ⟨0x100000, 0, 5, 0, 0, 1, false, true, 0, va * 2 ^ 320 + 5 * 2 ^ 256⟩)] })) }
    let done := fun (code : Nat) (s : State) => (writeDone 1 (bits (s.queue 1 0).cmd 383 320) (bits (s.queue 1 0).cmd 319 256) code 0 0 s).2
    let evp := (at_ 0x40000000).wr false 0x7000 (leBytes 8 (2 ^ 63 + 2 ^ 62 + 2 ^ 61 + 2 ^ 60 + 2 ^ 51 + 2 ^ 31))
    let R := fun (s : State) f => { s with runs := [(3, ({ run (node 0 0) with fail := f } : Run))] }
    let ends := fun (s : State) (f : Nat × Nat × Nat) => (userDone 1 0 f.1 f.2.1 f.2.2 s).2
    allOf [done 0 (at_ 0x2000), done 10 (at_ 0x2000), !done 0 evp, !done 10 evp, ((R evp (some (5, 0, 1))).runs.get? 3).any (fun R => R.parent.isNone && R.fail == some (5, 0, 1)),
      ends (R (at_ 0x2000) none) (0, 0, 1), ends (R (at_ 0x2000) (some (5, 0, 1))) (5, 0, 1), !ends (R evp (some (5, 0, 1))) (5, 0, 1),
      ((evp.ctxs.get? 1).any (fun c => !c.dying))]) = true := by decide +kernel
/-- The links of an accepted graph go up in its own order. For AcceptedGraphsAreValid. -/
theorem test_hyp_rank : (match readGraph 1 0x4000 4 graphs with
    | (_, .ok l) => (l.zip (upFrom 0 l.length)).all (fun e => e.1.succ.all (fun k => decide (e.2 < k))) && l.any (fun N => !N.succ.isEmpty) | _ => false) = true := by decide +kernel
/-- Waiting teams for which there is a victim and is none, an allotment that is kept, and a resume that goes on. For DispatchEvents. -/
theorem test_hyp_victims : (let s := savedWait
    let none_ := { s with ctxs := [(1, { fetchCtx with prio := 1, phase := 4, waitFrom := some 0 })], teams := s.teams.filter (fun e => e.1 == 8) }
    allOf [(victimFor 1 0 s) == some 2, (victimFor 1 0 none_).isNone, (savedWaits none_ 1).length == 1, s.ev.v == 1,
      s.teams.any (fun e => e.2.saved && e.2.ctx == 1), !(base.team 1).saved, ((dropTeam 1 (base.team 1) base).left.get? 1).isSome,
      ({ s.ev with v := 1 } : EvArg).v != 0, (resumeAll 1 fetchCtx [] base).2]) = true := by decide +kernel

end Sys2Proof.Tests
end

section

-- some seven hundred short proofs: as tasks of their own they exceed the threads that the check's memory limit allows
set_option Elab.async false

/-! ## The canonical form of memory is an invariant of the step (O6, O7)

One rule for each function of the model that gives a state: from a state whose memories are canonical it gives one whose memories
are canonical. The rule of a function cites the rules of the functions it calls, in the order of the model; only `memPut`, `memPuts`
and what clears a frame write a memory, and their rules rest on `memWf_memPut`. -/

namespace Sys2Proof

open Machine

/-! ### Predicates on results -/

/-- A state with the memories of another: every other field may change. -/
theorem MemInv.same {s : State}
    {cur ev evKey tick ncyc acyc agenda teams sets groups threads grids clsh left pipes slot engAt lsq spanLast failed ctxs rjto lathi latlo oldCode
      bad sbad crossed nextId accs tracks wcs l1 slices trees msgs combs combSent ords ordHeld plc atc tlb maps walks zeroing xlogs hsect objs xfers
      putxs flips bays regs ident ops doneOps timed firkin arrays runs tasks ptrs coreTemp coreDroop spadUsers notices posted upsets} (hs : MemInv s) :
    MemInv ⟨cur, ev, evKey, tick, ncyc, acyc, agenda, teams, sets, groups, threads, grids, clsh, left, pipes, slot, engAt, lsq, spanLast, failed,
      ctxs, rjto, lathi, latlo, s.mem, s.hmem, oldCode, bad, sbad, crossed, nextId, accs, tracks, wcs, l1, slices, trees, msgs, combs, combSent, ords,
      ordHeld, plc, atc, tlb, maps, walks, zeroing, xlogs, hsect, objs, xfers, putxs, flips, bays, regs, ident, ops, doneOps, timed, firkin, arrays,
      runs, tasks, ptrs, coreTemp, coreDroop, spadUsers, notices, posted, upsets⟩ := hs

theorem MemInv.mk_fst {α : Type} {t : State} {x : α} (ht : MemInv t) : MemInv (t, x).1 := ht

theorem MemInv.ite {c : Prop} [Decidable c] {a b : State} (ha : MemInv a) (hb : MemInv b) : MemInv (if c then a else b) := by
  split
  · exact ha
  · exact hb

theorem MemInv.ite_fst {α : Type} {c : Prop} [Decidable c] {a b : State × α} (ha : MemInv a.1) (hb : MemInv b.1) :
    MemInv (if c then a else b).1 := by
  split
  · exact ha
  · exact hb

theorem MemInv.of_fst {α : Type} {p : State × α} {t : State} {x : α} (e : p = (t, x)) (hp : MemInv p.1) : MemInv t := by
  rw [e] at hp; exact hp

theorem MemInv.of_snd {α : Type} {p : α × State} {t : State} {x : α} (e : p = (x, t)) (hp : MemInv p.2) : MemInv t := by
  rw [e] at hp; exact hp

theorem MemInv.foldl {α : Type} {f : State → α → State} {l : List α} {s : State} (hs : MemInv s)
    (hf : ∀ t a, MemInv t → MemInv (f t a)) : MemInv (l.foldl f s) := by
  induction l generalizing s with
  | nil => exact hs
  | cons a l ih => exact ih (hf s a hs)

theorem MemInv.foldl_fst {α β : Type} {f : State × β → α → State × β} {l : List α} {p : State × β} (hp : MemInv p.1)
    (hf : ∀ q a, MemInv q.1 → MemInv (f q a).1) : MemInv (l.foldl f p).1 := by
  induction l generalizing p with
  | nil => exact hp
  | cons a l ih => exact ih (hf p a hp)

theorem MemInv.forEach {α : Type} {f : State → α → State} {l : List α} {s : State} (hs : MemInv s)
    (hf : ∀ t a, MemInv t → MemInv (f t a)) : MemInv (forEach l f s) := MemInv.foldl hs hf

/-- An outcome that, when it is a next state, is one whose memories are canonical. -/
def OutInv (o : Host.Outcome State Fault Refusal) : Prop := ∀ t, o = .next t → MemInv t

theorem OutInv.next {t : State} (ht : MemInv t) : OutInv (.next t) := fun _ e => Host.Outcome.next.inj e ▸ ht

theorem MemInv.of_next {o : Host.Outcome State Fault Refusal} {t : State} (e : o = .next t) (ho : OutInv o) : MemInv t := ho t e

/-- A description whose effects keep the canonical form. -/
structure DescInv (d : Desc) : Prop where
  eff : ∀ c s, MemInv s → MemInv (d.eff c s)
  seen : ∀ c s, MemInv s → MemInv (d.seen c s) := by exact fun _ _ h => h
  take : ∀ c l v s, MemInv s → MemInv (d.take c l v s) := by exact fun _ _ _ _ h => h

theorem MemInv.eff {d : Desc} {c : Ctx} {s : State} (hd : DescInv d) (hs : MemInv s) : MemInv (d.eff c s) := hd.eff c s hs

theorem MemInv.seen {d : Desc} {c : Ctx} {s : State} (hd : DescInv d) (hs : MemInv s) : MemInv (d.seen c s) := hd.seen c s hs

theorem MemInv.take {d : Desc} {c : Ctx} {l v : Nat} {s : State} (hd : DescInv d) (hs : MemInv s) : MemInv (d.take c l v s) :=
  hd.take c l v s hs

/-! ### Sets, traps and events -/

theorem MemInv.setThr {s : State} {k : TKey} {t : Thread} (hs : MemInv s) : MemInv (State.setThr s k t) := .same hs

theorem MemInv.modThr {s : State} {k : TKey} {f : Thread → Thread} (hs : MemInv s) : MemInv (State.modThr s k f) := .setThr hs

theorem MemInv.modGrp {s : State} {t g : Nat} {f : Machine.Group → Machine.Group} (hs : MemInv s) : MemInv (State.modGrp s t g f) := .same hs

theorem MemInv.modTeam {s : State} {t : Nat} {f : Team → Team} (hs : MemInv s) : MemInv (State.modTeam s t f) := .same hs

theorem MemInv.modThrs {s : State} {t g : Nat} {l : List Nat} {f : Thread → Thread} (hs : MemInv s) : MemInv (State.modThrs s t g l f) :=
  .forEach hs (fun _ _ => .modThr)

theorem MemInv.fresh {s : State} (hs : MemInv s) : MemInv (State.fresh s) := .same hs

theorem MemInv.push {s : State} {ev : Instr} {arg : EvArg} (hs : MemInv s) : MemInv (State.push s ev arg) := .same hs

theorem MemInv.keep {s : State} {ev : Instr} (hs : MemInv s) : MemInv (State.keep s ev) := .same hs

theorem MemInv.setHolder {t : Nat} {h : Option Nat} {s : State} (hs : MemInv s) : MemInv (setHolder t h s) := .modTeam hs

theorem MemInv.modSet {s : State} {t n : Nat} {f : GSet → GSet} (hs : MemInv s) : MemInv (State.modSet s t n f) := .same hs

theorem MemInv.setS {s : State} {t g n v : Nat} (hs : MemInv s) : MemInv (State.setS s t g n v) := .modGrp hs

theorem MemInv.putV {c : Ctx} {g lane k v : Nat} {s : State} (hs : MemInv s) : MemInv (putV c g lane k v s) := .modThr hs

theorem MemInv.putP {c : Ctx} {g lane n : Nat} {b : Bool} {s : State} (hs : MemInv s) : MemInv (putP c g lane n b s) := .modThr hs

theorem MemInv.putS {c : Ctx} {g n v : Nat} {s : State} (hs : MemInv s) : MemInv (putS c g n v s) := .modGrp hs

theorem MemInv.putVs {c : Ctx} {g lane k n n1 : Nat} {s : State} (hs : MemInv s) : MemInv (putVs c g lane k n n1 s) := by
  induction n generalizing c g lane k n1 s with
  | zero =>
    rw [Machine.putVs]
    exact hs
  | succ n ih =>
    rw [Machine.putVs]
    exact ih (.putV hs)

theorem MemInv.shiftLatch {c : Ctx} {g lane v : Nat} {s : State} (hs : MemInv s) : MemInv (shiftLatch c g lane v s) := .modThr hs

theorem MemInv.putLane {c : Ctx} {g lane sel : Nat} {fl : Fill} {v : Nat} {s : State} (hs : MemInv s) : MemInv (putLane c g lane sel fl v s) := by
  unfold Machine.putLane
  refine .shiftLatch ?_
  dsimp only
  split
  · exact hs
  · split
    · exact .putVs hs
    · exact .putV hs

theorem MemInv.putX {c : Ctx} {k n : Nat} {val : Nat → Nat} {s : State} (hs : MemInv s) : MemInv (putX c k n val s) := by
  unfold Machine.putX
  dsimp only
  split
  · exact hs
  · exact .modSet hs

theorem MemInv.killGrid {s : State} {gr : Nat} (hs : MemInv s) : MemInv (State.killGrid s gr) := .same hs

theorem MemInv.unresolved {t : Nat} {f : TrapFrame} {s : State} (hs : MemInv s) : MemInv (unresolved t f s) := by
  unfold Machine.unresolved
  dsimp only
  split
  · exact hs
  · exact .forEach (.same (.killGrid hs)) (fun _ _ => .push)

theorem MemInv.enterTrap {t g : Nat} {set : List Nat} {scope pc cd : Nat} {tr : Trap} {s : State} (hs : MemInv s) :
    MemInv (enterTrap t g set scope pc cd tr s) := by
  unfold Machine.enterTrap
  dsimp only
  split
  · exact .unresolved hs
  · split
    · exact .unresolved hs
    · exact .modThrs (.modGrp hs)

theorem MemInv.askRecall {t g lane : Nat} {s : State} (hs : MemInv s) : MemInv (askRecall t g lane s) := .push (.modThr hs)

theorem MemInv.takeEngine {c : Ctx} {gs : List Nat} {s : State} (hs : MemInv s) : MemInv (takeEngine c gs s) :=
  .ite (.same (.same hs)) (.ite (.same (.same hs)) (.same hs))

theorem MemInv.commitAll {ms : List (Nat × List Nat)} {c : Ctx} {s : State} (hs : MemInv s) : MemInv (commitAll ms c s) :=
  .ite hs (.foldl (.takeEngine hs) (fun _ _ => .modGrp))

theorem MemInv.commit {c : Ctx} {s : State} (hs : MemInv s) : MemInv (commit c s) := .commitAll hs

theorem MemInv.sigAt {team : Nat} {gs : List Nat} {sig due : Nat} {s : State} (hs : MemInv s) : MemInv (sigAt team gs sig due s) :=
  .ite hs (.foldl hs (fun _ _ => .modGrp))

theorem MemInv.raiseW {t g sig : Nat} {s : State} (hs : MemInv s) : MemInv (raiseW t g sig s) := .ite (.modGrp hs) hs

theorem MemInv.lowerW {t g sig : Nat} {s : State} (hs : MemInv s) : MemInv (lowerW t g sig s) := .ite (.modGrp hs) hs

theorem MemInv.signal {d : Desc} {c : Ctx} {gs : List Nat} {s : State} (hs : MemInv s) : MemInv (signal d c gs s) := .ite hs (.sigAt hs)

theorem MemInv.sigSoon {c : Ctx} {s : State} (hs : MemInv s) : MemInv (sigSoon c s) := .sigAt hs

theorem MemInv.advance {c : Ctx} {g : Nat} {set : List Nat} {s : State} (hs : MemInv s) : MemInv (advance c g set s) := .modThrs hs

theorem MemInv.dropPart {c : Ctx} {s : State} (hs : MemInv s) : MemInv (dropPart c s) := by
  unfold Machine.dropPart
  dsimp only
  split
  · exact hs
  · exact .modGrp hs

theorem MemInv.issueLocal {i : Instr} {d : Desc} {c : Ctx} {s : State} (hd : DescInv d) (hs : MemInv s) : MemInv (issueLocal i d c s) := by
  unfold Machine.issueLocal
  dsimp only
  split
  · exact .ite (.askRecall hs) (.enterTrap (.seen hd hs))
  · exact .eff hd (.advance (.signal (.commit (.ite (.dropPart hs) hs))))

theorem MemInv.putRdv {team : Nat} {set : Option Nat} {r : Option Rdv} {s : State} (hs : MemInv s) : MemInv (putRdv team set r s) := by
  unfold Machine.putRdv
  split
  · exact .modTeam hs
  · exact .modSet hs

theorem MemInv.wakeRdv {team : Nat} {set : Option Nat} {s : State} (hs : MemInv s) : MemInv (wakeRdv team set s) := by
  unfold Machine.wakeRdv
  dsimp only
  split
  · exact hs
  · split
    · exact .putRdv hs
    · exact .ite (.modThrs (.putRdv hs)) (.putRdv hs)

theorem MemInv.rdvIssue {d : Desc} {c : Ctx} {r : Rdv} {s : State} (hd : DescInv d) (hs : MemInv s) : MemInv (rdvIssue d c r s) := by
  unfold Machine.rdvIssue
  dsimp only
  split
  · exact .forEach (.eff hd (.forEach (.putRdv (.signal (.commitAll hs))) (fun _ _ h1 => .modThrs (.advance h1)))) (fun _ _ h1 => .modGrp
      (.modThrs h1))
  · exact .eff hd (.forEach (.putRdv (.signal (.commitAll hs))) (fun _ _ h1 => .modThrs (.advance h1)))

theorem MemInv.takePart {d : Desc} {c : Ctx} {ls : List Nat} {s : State} (hd : DescInv d) (hs : MemInv s) : MemInv (takePart d c ls s) := by
  unfold Machine.takePart
  dsimp only
  split
  · exact hs
  · split
    · exact .modGrp (.advance (.forEach hs (fun _ _ h1 => .take hd h1)))
    · exact .modThrs hs

theorem MemInv.rdvTrap {c : Ctx} {r : Rdv} {tr : Trap} {s : State} (hs : MemInv s) : MemInv (rdvTrap c r tr s) := by
  unfold Machine.rdvTrap
  dsimp only
  split
  · exact hs
  · exact .enterTrap (.forEach (.putRdv hs) (fun _ _ => .modThrs))

theorem MemInv.notePart {d : Desc} {c : Ctx} {s : State} (hs : MemInv s) : MemInv (notePart d c s) := .ite (.modGrp hs) hs

theorem MemInv.waitRdv {d : Desc} {c : Ctx} {r : Rdv} {s : State} (hs : MemInv s) : MemInv (waitRdv d c r s) := .notePart (.modThrs (.putRdv hs))

theorem MemInv.meet {d : Desc} {c : Ctx} {r : Rdv} {s : State} (hd : DescInv d) (hs : MemInv s) : MemInv (meet d c r s) := by
  unfold Machine.meet
  split
  · split
    · exact hs
    · exact .modThrs (.waitRdv hs)
  · split
    · exact .rdvTrap (.notePart hs)
    · exact .rdvIssue hd hs

theorem MemInv.issueRdv {i : Instr} {d : Desc} {c : Ctx} {s : State} (hd : DescInv d) (hs : MemInv s) : MemInv (issueRdv i d c s) := by
  unfold Machine.issueRdv
  dsimp only
  split
  · exact .enterTrap hs
  · split
    · exact .takePart hd hs
    · split
      · exact .enterTrap hs
      · exact .ite (.meet hd (.dropPart hs)) (.waitRdv (.dropPart hs))

theorem MemInv.issue {i : Instr} {eng : Nat} {d : Desc} {s : State} (hd : DescInv d) (hs : MemInv s) : MemInv (issue i eng d s) := by
  unfold Machine.issue
  split
  · exact hs
  · split
    · exact hs
    · split
      · exact .askRecall hs
      · exact .ite (.issueRdv hd hs) (.issueLocal hd hs)

/-! ### Lane effects and predicate effects -/

theorem MemInv.laneEff {dsel : Nat} {fl : Fill} {f : Ctx → State → Nat → Nat → Nat} {c : Ctx} {s : State} (hs : MemInv s) :
    MemInv (laneEff dsel fl f c s) := .foldl hs (fun _ _ => .putLane)

theorem MemInv.predEff {dsel : Nat} {f : Ctx → State → Nat → Nat → Bool} {c : Ctx} {s : State} (hs : MemInv s) : MemInv (predEff dsel f c s) :=
  .foldl hs (fun _ _ => .putP)

theorem DescInv.lane1 {h : Hdr} {o : OpG} {ty rty : Nat} {f : Nat → Nat} : DescInv (lane1 h o ty rty f) := { eff := fun _ _ h => .laneEff h }

theorem DescInv.lane2 {h : Hdr} {o : OpG} {ty rty : Nat} {f : Nat → Nat → Nat} : DescInv (lane2 h o ty rty f) := { eff := fun _ _ h => .laneEff h }

theorem DescInv.lane3 {h : Hdr} {o : OpG} {ty rty : Nat} {f : Nat → Nat → Nat → Nat} : DescInv (lane3 h o ty rty f) :=
  { eff := fun _ _ h => .laneEff h }

theorem DescInv.lane2Imm {h : Hdr} {o : OpI} {f : Nat → Nat → Nat} : DescInv (lane2Imm h o f) := { eff := fun _ _ h => .laneEff h }

/-! ### Groups, masks and barriers -/

theorem MemInv.stopTimer {t g m : Nat} {s : State} (hs : MemInv s) : MemInv (stopTimer t g m s) := by
  unfold Machine.stopTimer
  dsimp only
  split
  · exact hs
  · exact .modTeam (.modGrp hs)

theorem MemInv.startTimer {t g m : Nat} {s : State} (hs : MemInv s) : MemInv (startTimer t g m s) := .ite hs (.push (.modGrp hs))

theorem MemInv.evalMask {t g m : Nat} {s : State} (hs : MemInv s) : MemInv (evalMask t g m s) := by
  unfold Machine.evalMask
  dsimp only
  split
  · exact .stopTimer hs
  · split
    · exact .modThrs (.stopTimer hs)
    · exact .ite (.startTimer hs) (.ite hs (.stopTimer hs))

theorem MemInv.evalMasks {t g : Nat} {s : State} (hs : MemInv s) : MemInv (evalMasks t g s) := .forEach hs (fun _ _ => .evalMask)

theorem MemInv.putBar {t : Nat} {set : Option Nat} {n : Nat} {b : HwBar} {s : State} (hs : MemInv s) : MemInv (putBar t set n b s) := by
  unfold Machine.putBar
  split
  · exact .modTeam hs
  · exact .modSet hs

theorem MemInv.finishWait {t g : Nat} {w : WaitRec} {s : State} (hs : MemInv s) : MemInv (finishWait t g w s) :=
  .ite (.modThrs (.lowerW hs)) (.modGrp hs)

theorem MemInv.evalBarWaits {t g : Nat} {s : State} (hs : MemInv s) : MemInv (evalBarWaits t g s) := by
  unfold Machine.evalBarWaits
  refine .forEach (.modGrp hs) ?_
  intro _ _ h1
  dsimp only
  split
  · exact .modGrp h1
  · exact .finishWait h1

theorem MemInv.evalBar {t : Nat} {set : Option Nat} {n : Nat} {s : State} (hs : MemInv s) : MemInv (evalBar t set n s) := by
  unfold Machine.evalBar
  dsimp only
  split
  · exact hs
  · split
    · exact .forEach (.putBar hs) (fun _ _ => .evalBarWaits)
    · exact hs

theorem MemInv.evalEnded {t g : Nat} {s : State} (hs : MemInv s) : MemInv (evalEnded t g s) :=
  .forEach (.modGrp hs) (fun _ _ h1 => .ite (.modGrp h1) (.finishWait h1))

theorem MemInv.evalBars {t : Nat} {set : Option Nat} {s : State} (hs : MemInv s) : MemInv (evalBars t set s) := by
  unfold Machine.evalBars
  dsimp only
  split
  · exact .forEach hs (fun _ _ => .evalBar)
  · exact .forEach (.forEach hs (fun _ _ => .evalBar)) (fun _ _ => .evalBar)

theorem MemInv.groupGone {t g : Nat} {s : State} (hs : MemInv s) : MemInv (groupGone t g s) := by
  unfold Machine.groupGone
  dsimp only
  split
  · split
    · exact .push (.evalBars (.wakeRdv (.modTeam hs)))
    · exact .evalBars (.wakeRdv (.modTeam hs))
  · split
    · exact .push (.evalBars (.wakeRdv (.wakeRdv (.modTeam hs))))
    · exact .evalBars (.wakeRdv (.wakeRdv (.modTeam hs)))

theorem MemInv.endOne {t g i : Nat} {s : State} (hs : MemInv s) : MemInv (endOne t g i s) := .modGrp (.modThr hs)

theorem MemInv.withdrawPart {t g : Nat} {team3 : Bool} {s : State} (hs : MemInv s) : MemInv (withdrawPart t g team3 s) := by
  unfold Machine.withdrawPart
  dsimp only
  split
  · exact hs
  · exact .ite hs (.modGrp (.modThrs hs))

theorem MemInv.trimRdv {t g : Nat} {ended : List Nat} {s : State} (hs : MemInv s) : MemInv (trimRdv t g ended s) := by
  unfold Machine.trimRdv
  dsimp only
  split
  · refine .wakeRdv (.withdrawPart (.withdrawPart ?_))
    split
    · exact .modTeam hs
    · exact .modSet (.modTeam hs)
  · refine .wakeRdv (.wakeRdv (.withdrawPart (.withdrawPart ?_)))
    split
    · exact .modTeam hs
    · exact .modSet (.modTeam hs)

theorem MemInv.endThreads {t g : Nat} {l : List Nat} {s : State} (hs : MemInv s) : MemInv (endThreads t g l s) := by
  unfold Machine.endThreads
  dsimp only
  split
  · exact hs
  · split
    · split
      · exact .groupGone (.unresolved (.evalEnded (.evalBarWaits (.evalMasks (.trimRdv (.forEach hs (fun _ _ => .endOne)))))))
      · exact .unresolved (.evalEnded (.evalBarWaits (.evalMasks (.trimRdv (.forEach hs (fun _ _ => .endOne))))))
    · split
      · exact .groupGone (.evalEnded (.evalBarWaits (.evalMasks (.trimRdv (.forEach hs (fun _ _ => .endOne))))))
      · exact .evalEnded (.evalBarWaits (.evalMasks (.trimRdv (.forEach hs (fun _ _ => .endOne)))))

theorem MemInv.ejectOne {t g i : Nat} {s : State} (hs : MemInv s) : MemInv (ejectOne t g i s) := .push (.modThr hs)

theorem MemInv.closeWindow {t : Nat} {s : State} (hs : MemInv s) : MemInv (closeWindow t s) := .ite hs (.modTeam hs)

/-! ### Control flow -/

theorem MemInv.goTo {c : Ctx} {l : List Nat} {pc : Nat} {s : State} (hs : MemInv s) : MemInv (goTo c l pc s) := .modThrs hs

theorem DescInv.braDesc {o : OpI} : DescInv (braDesc o) := by
  refine { eff := fun _ _ h => ?_ }
  dsimp only [Machine.braDesc]
  split
  · split
    · exact .evalMasks (.forEach (.goTo h) (fun _ _ => .ejectOne))
    · exact .goTo h
  · split
    · split
      · exact .evalMasks (.forEach (.goTo h) (fun _ _ => .ejectOne))
      · exact .goTo h
    · split
      · exact .evalMasks (.forEach (.goTo h) (fun _ _ => .ejectOne))
      · exact .goTo h

theorem DescInv.brxDesc {o : OpI} : DescInv (brxDesc o) := { eff := fun _ _ h => .forEach h (fun _ _ => .goTo) }

theorem MemInv.doCall {f : Nat} {tgt : Nat → Nat} {c : Ctx} {s : State} (hs : MemInv s) : MemInv (doCall f tgt c s) :=
  .forEach hs (fun _ _ h1 => .putVs (.modThr h1))

theorem DescInv.callDesc {o : OpI} : DescInv (callDesc o) := { eff := fun _ _ h => .doCall h }

theorem DescInv.callxDesc {o : OpI} : DescInv (callxDesc o) := { eff := fun _ _ h => .doCall h }

theorem DescInv.retDesc {o : OpI} : DescInv (retDesc o) := { eff := fun _ _ h => .forEach h (fun _ _ => .modThr) }

theorem DescInv.exitDesc : DescInv (exitDesc) := { eff := fun _ _ h => .endThreads h }

theorem MemInv.putM {c : Ctx} {m : Nat} {r : MaskReg} {s : State} (hs : MemInv s) : MemInv (putM c m r s) := .modGrp hs

theorem DescInv.killDesc {o : OpI} : DescInv (killDesc o) := { eff := fun _ _ h => .ite h (.endThreads h) }

theorem DescInv.trapDesc {o : OpI} : DescInv (trapDesc o) := { eff := fun _ _ h => h }

theorem MemInv.passMember {c : Ctx} {f : TrapFrame} {g : Nat} {s : State} (hs : MemInv s) : MemInv (passMember c f g s) := .modGrp (.modThrs hs)

theorem MemInv.releaseSusp {c : Ctx} {skip : Bool} {f : TrapFrame} {s : State} (hs : MemInv s) : MemInv (releaseSusp c skip f s) := by
  unfold Machine.releaseSusp
  dsimp only
  split
  · exact hs
  · split
    · exact hs
    · split
      · exact hs
      · split
        · exact .forEach (.putRdv hs) (fun _ _ => .passMember)
        · exact .putRdv hs

theorem DescInv.tretDesc {o : OpI} : DescInv (tretDesc o) := by
  refine { eff := fun _ _ h => ?_ }
  dsimp only [Machine.tretDesc]
  split
  · exact .unresolved h
  · exact .releaseSusp (.modGrp (.modThrs (.goTo h)))

theorem DescInv.pchkDesc {o : OpI} : DescInv (Machine.pchkDesc o) where
  eff := fun _ _ h => by
    dsimp only [Machine.pchkDesc]
    exact .predEff h

theorem DescInv.mjoinDesc {o : OpG} : DescInv (mjoinDesc o) := { eff := fun _ _ h => .ite h (.evalMasks (.putM h)) }

theorem DescInv.mleaveDesc {o : OpG} : DescInv (Machine.mleaveDesc o) where
  eff := fun _ _ h => by
    dsimp only [Machine.mleaveDesc]
    exact .evalMasks (.putM h)

theorem DescInv.mwaitDesc {o : OpG} : DescInv (Machine.mwaitDesc o) where
  eff := fun _ _ h => by
    dsimp only [Machine.mwaitDesc]
    exact .evalMasks (.modThrs h)

theorem DescInv.mgetDesc {o : OpG} : DescInv (mgetDesc o) := { eff := fun _ _ h => .ite (.putS h) (.putS (.putS h)) }

theorem DescInv.barDesc {o : OpG} : DescInv (barDesc o) := { eff := fun _ _ h => h }

theorem DescInv.arriveDesc {o : OpG} : DescInv (arriveDesc o) :=
  { eff := fun _ _ h => .evalBar (.putBar (.ite (.putS h) (.forEach h (fun _ _ => .putV)))) }

theorem DescInv.bwaitDesc {o : OpG} : DescInv (bwaitDesc o) := { eff := fun _ _ h => .ite h (.modGrp (.modThrs h)) }

theorem DescInv.rdvDesc {o : OpG} : DescInv (rdvDesc o) := { eff := fun _ _ h => .foldl h (fun _ _ => .putS) }

theorem DescInv.tokgiveDesc {o : OpG} : DescInv (tokgiveDesc o) := { eff := fun _ _ h => .ite h (.setHolder h) }

theorem DescInv.toktakeDesc {o : OpG} : DescInv (toktakeDesc o) := { eff := fun _ _ h => .ite h (.ite (.putS (.setHolder h)) (.putS h)) }

theorem DescInv.fenceDesc {o : OpG} : DescInv (fenceDesc o) := { eff := fun _ _ h => .ite (.modThrs h) h }

theorem MemInv.ctlPut {o : OpG} {n : Nat} {f : Ctx → State → Nat → Nat} {c : Ctx} {s : State} (hs : MemInv s) : MemInv (ctlPut o n f c s) :=
  .foldl hs (fun _ _ => .putVs)

theorem DescInv.clockDesc {o : OpG} : DescInv (clockDesc o) := { eff := fun _ _ h => .ctlPut h }

theorem DescInv.placeDesc {o : OpG} : DescInv (placeDesc o) := { eff := fun _ _ h => .ctlPut h }

theorem DescInv.sysrdDesc {o : OpG} : DescInv (sysrdDesc o) := { eff := fun _ _ h => .ctlPut h }

theorem DescInv.syswrDesc {o : OpG} : DescInv (syswrDesc o) := { eff := fun _ _ h => .ite h (.modTeam (.closeWindow h)) }

theorem DescInv.noEffect : DescInv (noEffect) := { eff := fun _ _ h => h }

/-! ### Local memory -/

theorem MemInv.areaPut {s : State} {a : Area} {o : Nat} {b : Byte} (hs : MemInv s) : MemInv (s.areaPut a o b) := by
  obtain ⟨hm, hh⟩ := hs
  unfold State.areaPut
  split
  · exact ⟨hm, hh⟩
  · exact ⟨hm, hh⟩
  · exact ⟨memWf_memPut hm, hh⟩
  · exact ⟨hm, memWf_memPut hh⟩

theorem MemInv.noteHits {mine : AOp → Bool} {a : Area} {offs : List Nat} {s : State} (hs : MemInv s) : MemInv (noteHits mine a offs s) := .same hs

theorem MemInv.disturb {a : Area} {offs : List Nat} {s : State} (hs : MemInv s) : MemInv (disturb a offs s) := by
  unfold Machine.disturb
  dsimp only
  split
  · exact hs
  · exact .foldl (.foldl (.noteHits hs) (fun _ _ h1 => .foldl h1 (fun _ _ => .areaPut))) (fun _ _ h1 => .foldl h1 (fun _ _ => .areaPut))

theorem MemInv.observe {t off : Nat} {s : State} (hs : MemInv s) : MemInv (observe t off s) := .ite hs (.same hs)

theorem MemInv.noteWrite {t g off n : Nat} {s : State} (hs : MemInv s) : MemInv (noteWrite t g off n s) := .modGrp hs

theorem MemInv.modSeg {s : State} {t : Nat} {f : LMem → LMem} (hs : MemInv s) : MemInv (State.modSeg s t f) := .same hs

theorem MemInv.modLocal {s : State} {t : Nat} {sp : Space} {f : LMem → LMem} (hs : MemInv s) : MemInv (State.modLocal s t sp f) := by
  unfold Machine.State.modLocal
  split
  · exact .modSeg hs
  · exact .modTeam hs

theorem MemInv.putSync {t g : Nat} {w : WaitRec} {l : WaitLane} {v : Nat} {s : State} (hs : MemInv s) : MemInv (putSync t g w l v s) :=
  .ite (.setS (.observe hs)) (.modThr (.observe hs))

theorem MemInv.timeWord {t off : Nat} {s : State} (hs : MemInv s) : MemInv (timeWord t off s) := .ite hs (.push (.same hs))

theorem MemInv.untimeWord {t off : Nat} {s : State} (hs : MemInv s) : MemInv (untimeWord t off s) :=
  .foldl (.same hs) (fun _ _ h1 => .foldl h1 (fun _ _ h2 => .foldl h2 (fun _ _ h3 => .ite h3 (.foldl h3 (fun _ _ => .timeWord)))))

theorem MemInv.restartWord {t off start : Nat} {s : State} (hs : MemInv s) : MemInv (restartWord t off start s) := .same hs

theorem MemInv.settleTimed {s : State} (hs : MemInv s) : MemInv (settleTimed s) :=
  .foldl hs (fun _ _ h1 => .ite h1 (.ite (.untimeWord h1) (.ite (.restartWord h1) h1)))

theorem MemInv.evalSync {t g : Nat} {s : State} (hs : MemInv s) : MemInv (evalSync t g s) := by
  unfold Machine.evalSync
  refine .forEach (.modGrp hs) ?_
  intro _ _ h1
  dsimp only
  split
  · exact .modGrp h1
  · exact .finishWait (.forEach h1 (fun _ _ => .putSync))

theorem MemInv.evalPort {t : Nat} {s : State} (hs : MemInv s) : MemInv (evalPort t s) := .ite hs (.forEach hs (fun _ _ => .evalSync))

theorem MemInv.portWrite {t : Nat} {sp : Space} {o : Nat} {l : List Byte} {s : State} (hs : MemInv s) : MemInv (portWrite t sp o l s) := by
  unfold Machine.portWrite
  dsimp only
  split
  · exact .disturb (.modLocal hs)
  · exact .evalPort (.disturb (.modLocal hs))

theorem MemInv.syncApply {t off amount : Nat} {err : Bool} {s : State} (hs : MemInv s) : MemInv (syncApply t off amount err s) := .portWrite hs

theorem MemInv.countLocal {t g : Nat} {lanes : List Nat} {track : Nat} {s : State} (hs : MemInv s) : MemInv (countLocal t g lanes track s) :=
  .ite hs (.push (.modThrs hs))

/-! ### Device and host memory -/

theorem MemInv.wr {s : State} {host : Bool} {a : Nat} {l : List Byte} (hs : MemInv s) : MemInv (s.wr host a l) :=
  State.wr_wf s host a l hs.1 hs.2

theorem MemInv.dirtySlices {host : Bool} {a n : Nat} {s : State} (hs : MemInv s) : MemInv (dirtySlices host a n s) := .ite hs (.same hs)

theorem MemInv.heal {s : State} {ks : List Nat} (hs : MemInv s) : MemInv (State.heal s ks) := .ite hs (.same hs)

theorem MemInv.ctlWr {s : State} {host : Bool} {a : Nat} {l : List Byte} (hs : MemInv s) : MemInv (State.ctlWr s host a l) :=
  .dirtySlices (.heal (.wr hs))

theorem MemInv.poisonMem {s : State} {host : Bool} {a n : Nat} (hs : MemInv s) : MemInv (State.poisonMem s host a n) := .same hs

theorem MemInv.dropSlice {ctx line : Nat} {s : State} (hs : MemInv s) : MemInv (dropSlice ctx line s) := by
  unfold Machine.dropSlice
  dsimp only
  split
  · exact hs
  · exact .same hs

theorem MemInv.landByte {id : Nat} {result : Bool} {k : Area × Nat} {b : Byte} {s : State} (hs : MemInv s) : MemInv (landByte id result k b s) :=
  .ite (.same hs) (.areaPut hs)

theorem MemInv.landPoison {outs spoil : List (Area × Nat)} {a : Area} {s : State} (hs : MemInv s) : MemInv (landPoison outs spoil a s) := by
  unfold Machine.landPoison
  dsimp only
  split
  · exact .modTeam hs
  · exact .same hs
  · exact .foldl (.heal hs) (fun _ _ => .poisonMem)
  · exact .foldl (.heal hs) (fun _ _ => .poisonMem)

theorem MemInv.landRange {a : Area} {lo n : Nat} {s : State} (hs : MemInv s) : MemInv (landRange a lo n s) := by
  unfold Machine.landRange
  refine .foldl hs ?_
  intro _ _ h1
  dsimp only
  split
  · exact h1
  · exact .dirtySlices (.landPoison (.foldl (.same h1) (fun _ _ => .areaPut)))

theorem MemInv.modBay {s : State} {b : Nat} {f : Bay → Bay} (hs : MemInv s) : MemInv (State.modBay s b f) := .same hs

theorem MemInv.logErr {b kind ctx router : Nat} {ag : Agent} {va : Nat} {s : State} (hs : MemInv s) : MemInv (logErr b kind ctx router ag va s) :=
  .modBay hs

theorem MemInv.logXlate {port b kind ctx router : Nat} {ag : Agent} {va page : Nat} {s : State} (hs : MemInv s) :
    MemInv (logXlate port b kind ctx router ag va page s) := .ite (.modBay hs) (.logErr (.same hs))

theorem MemInv.setLink {s : State} {i : Nat} {l : LinkStat} (hs : MemInv s) : MemInv (State.setLink s i l) := .ite (.same hs) (.same hs)

theorem MemInv.tell {s : State} {n : Notice} (hs : MemInv s) : MemInv (State.tell s n) := by
  unfold Machine.State.tell
  dsimp only
  split
  · exact .same hs
  · exact .setLink (.same hs)

theorem MemInv.dropSector {h : HostSector} {s : State} (hs : MemInv s) : MemInv (dropSector h s) := .tell (.same hs)

theorem MemInv.dirtySectors {a n : Nat} {s : State} (hs : MemInv s) : MemInv (dirtySectors a n s) := .same hs

theorem MemInv.cwr {s : State} {host : Bool} {a : Nat} {l : List Byte} (hs : MemInv s) : MemInv (State.cwr s host a l) := by
  unfold Machine.State.cwr
  dsimp only
  split
  · exact .dirtySectors (.dirtySlices (.disturb (.wr hs)))
  · exact .dirtySlices (.disturb (.wr hs))

theorem MemInv.newId {s : State} (hs : MemInv s) : MemInv (State.newId s).2 := .same hs

theorem MemInv.send {s : State} {ev : Instr} {k vn ctx line : Nat} (hs : MemInv s) : MemInv (State.send s ev k vn ctx line) := .same hs

theorem MemInv.sendArg {s : State} {ev : Instr} {x : EvArg} {vn ctx line : Nat} (hs : MemInv s) : MemInv (State.sendArg s ev x vn ctx line) :=
  .same hs

/-! ### Granules -/

theorem MemInv.addXfer {i g port : Nat} {excl : Bool} {s : State} (hs : MemInv s) : MemInv (addXfer i g port excl s) := .ite hs (.same hs)

theorem MemInv.askGranule {i g : Nat} {excl : Bool} {s : State} (hs : MemInv s) : MemInv (askGranule i g excl s) := .ite hs (.push (.addXfer hs))

theorem MemInv.granGate {ctx line : Nat} {wr : Bool} {s : State} (hs : MemInv s) : MemInv (granGate ctx line wr s).1 := by
  unfold Machine.granGate
  split
  · exact hs
  · exact .ite_fst hs (.ite_fst hs (.ite_fst hs (.askGranule hs)))

/-! ### Translation -/

theorem MemInv.place {ctx va vd : Nat} {bay : Option Nat} {prefetch : Bool} {s : State} (hs : MemInv s) :
    MemInv (place ctx va vd bay prefetch s).1 := by
  unfold Machine.place
  dsimp only
  split
  · exact hs
  · exact hs
  · split
    · exact .wr hs
    · exact hs

theorem MemInv.tlbPut {port : Nat} {x : Xl} {s : State} (hs : MemInv s) : MemInv (tlbPut port x s) := .same hs

theorem MemInv.mapPut {x : Xl} {vd : Nat} {s : State} (hs : MemInv s) : MemInv (mapPut x vd s) := .ite (.same hs) (.same hs)

theorem MemInv.logOwn {a kind : Nat} {s : State} (hs : MemInv s) : MemInv (logOwn a kind s) := .logErr hs

theorem MemInv.partWr {a : Nat} {l : List Byte} {s : State} (hs : MemInv s) : MemInv (partWr a l s) := .ite (.logOwn hs) (.ctlWr hs)

theorem MemInv.partRmw {a : Nat} {f : Nat → Nat} {s : State} (hs : MemInv s) : MemInv (partRmw a f s) := .ite (.logOwn hs) (.wr hs)

theorem MemInv.pteOr {a m : Nat} {s : State} (hs : MemInv s) : MemInv (pteOr a m s) := .partRmw hs

theorem MemInv.pteClear {a m : Nat} {s : State} (hs : MemInv s) : MemInv (pteClear a m s) := .partRmw hs

theorem MemInv.takeFrame {b i : Nat} {s : State} (hs : MemInv s) : MemInv (takeFrame b i s).1 := .ite_fst hs (.ite_fst hs (.modBay hs))

theorem MemInv.noFrame {b : Nat} {s : State} (hs : MemInv s) : MemInv (noFrame b s) := .modBay hs

theorem MemInv.allocFrame {b pte e size : Nat} {s : State} (hs : MemInv s) : MemInv (allocFrame b pte e size s).1 := by
  unfold Machine.allocFrame
  split
  · exact .of_fst ‹_› (.takeFrame hs)
  · exact .noFrame (.of_fst ‹_› (.takeFrame hs))
  · split
    · exact .noFrame (.of_fst ‹_› (.takeFrame hs))
    · dsimp only
      exact .partRmw (.of_fst ‹_› (.takeFrame hs))

/-- Leaving bytes out of a list keeps the canonical form. -/
theorem memWf_filter {p : Host.Cell → Bool} {m : List Host.Cell} (h : memWf m = true) : memWf (m.filter p) = true := by
  induction m with
  | nil => exact h
  | cons c m ih =>
    obtain ⟨a, b⟩ := c
    obtain ⟨hb, ha, hm⟩ := memWf_cons.1 h
    rw [List.filter_cons]
    split
    · exact memWf_cons.2 ⟨hb, fun e he => ha e (List.mem_of_mem_filter he), ih hm⟩
    · exact ih hm

theorem MemInv.zeroFrame {ctx va : Nat} {s : State} (hs : MemInv s) : MemInv (zeroFrame ctx va s) := by
  unfold Machine.zeroFrame
  dsimp only
  split
  · exact .same hs
  · split
    · exact .same hs
    · exact .pteClear ⟨memWf_filter hs.1, hs.2⟩

theorem MemInv.walkPage {port home ctx va vd : Nat} {wr : Bool} {s : State} (hs : MemInv s) : MemInv (walkPage port home ctx va vd wr s).1 := by
  unfold Machine.walkPage
  dsimp only
  split
  · exact hs
  · split
    · exact hs
    · split
      · exact hs
      · split
        · exact hs
        · split
          · split <;> exact .of_fst ‹_› (.allocFrame hs)
          · split
            · exact hs
            · exact .ite_fst (.modBay hs) (.tlbPut (.mapPut (.pteOr hs)))

theorem MemInv.touchD {port : Nat} {x : Xl} {s : State} (hs : MemInv s) : MemInv (touchD port x s) := .ite hs (.tlbPut (.pteOr hs))

theorem MemInv.xlateNow {n n1 n2 n3 n4 n5 : Nat} {b : Bool} {s : State} (hs : MemInv s) : MemInv (xlateNow n n1 n2 n3 n4 n5 b s).1 := by
  induction n generalizing n1 n2 n3 n4 n5 b s with
  | zero =>
    rw [Machine.xlateNow]
    exact hs
  | succ n ih =>
    rw [Machine.xlateNow]
    split
    · exact hs
    · split
      · exact .ite (.touchD hs) hs
      · split
        · exact ih (.zeroFrame (.of_fst ‹_› (.walkPage hs)))
        · exact .walkPage hs

theorem MemInv.logWho {w : Who} {kind ctx home va : Nat} {s : State} (hs : MemInv s) : MemInv (logWho w kind ctx home va s) :=
  .ite (.logXlate hs) (.ite (.logErr hs) (.logErr hs))

theorem MemInv.logNi {w : Who} {kind ctx va : Nat} {s : State} (hs : MemInv s) : MemInv (logNi w kind ctx va s) := .ite (.logXlate hs) (.logErr hs)

theorem MemInv.atcPut {ni ctx va : Nat} {x : Attr} {s : State} (hs : MemInv s) : MemInv (atcPut ni ctx va x s) := .same hs

theorem MemInv.placeAt {ni ctx va vd : Nat} {bay : Option Nat} {prefetch : Bool} {s : State} (hs : MemInv s) :
    MemInv (placeAt ni ctx va vd bay prefetch s).1 := by
  unfold Machine.placeAt
  split
  · exact hs
  · split
    · exact hs
    · split
      · exact .same (.of_fst ‹_› (.place hs))
      · exact .place hs

/-! ### Objects -/

theorem MemInv.writeBack {ctx line : Nat} {host : Bool} {pa : Nat} {sick : List Nat} {s : State} (hs : MemInv s) :
    MemInv (writeBack ctx line host pa sick s) := by
  unfold Machine.writeBack
  dsimp only
  split <;> exact .same hs

theorem MemInv.tornLine {ctx line : Nat} {s : State} (hs : MemInv s) : MemInv (tornLine ctx line s) :=
  .same (.foldl hs (fun _ _ h1 => .ite (.writeBack h1) h1))

theorem MemInv.landLine {ctx line : Nat} {s : State} (hs : MemInv s) : MemInv (landLine ctx line s) := by
  unfold Machine.landLine
  split
  · exact hs
  · split
    · exact .landRange hs
    · exact hs

theorem MemInv.purgeLines {ctx : Nat} {lines : List Nat} {s : State} (hs : MemInv s) : MemInv (purgeLines ctx lines s) :=
  .foldl (.foldl hs (fun _ _ h1 => .dropSlice (.tornLine (.landLine h1)))) (fun _ _ => .dropSector)

theorem MemInv.touchGran {o : ObjEnt} {g : Nat} {s : State} (hs : MemInv s) : MemInv (touchGran o g s) := by
  unfold Machine.touchGran
  refine .foldl hs ?_
  intro _ _ h1
  dsimp only
  split
  · exact .xlateNow (.of_fst ‹_› (.placeAt h1))
  · exact .of_fst ‹_› (.placeAt h1)

theorem MemInv.putGranData {o : ObjEnt} {g : Nat} {d : List Byte} {sick : Nat} {s : State} (hs : MemInv s) : MemInv (putGranData o g d sick s) := by
  unfold Machine.putGranData
  dsimp only
  split
  · exact hs
  · refine .foldl_fst hs ?_
    intro _ _ h1
    split
    · split
      · refine .poisonMem ?_
        split
        · exact .dirtySectors (.disturb (.ctlWr h1))
        · exact .disturb (.ctlWr h1)
      · split
        · exact .dirtySectors (.disturb (.ctlWr h1))
        · exact .disturb (.ctlWr h1)
    · exact h1

theorem MemInv.setGranByte {o : ObjEnt} {g v : Nat} {s : State} (hs : MemInv s) : MemInv (setGranByte o g v s) := .partWr hs

theorem MemInv.setXfer {i g : Nat} {y : Option Xfer} {s : State} (hs : MemInv s) : MemInv (setXfer i g y s) := .same hs

theorem MemInv.nextXfer {i g : Nat} {s : State} (hs : MemInv s) : MemInv (nextXfer i g s) := by
  unfold Machine.nextXfer
  split
  · exact .ite hs (.push hs)
  · exact hs

theorem MemInv.grantXfer {o : ObjEnt} {x : Xfer} {s : State} (hs : MemInv s) : MemInv (grantXfer o x s) := by
  unfold Machine.grantXfer
  refine .nextXfer ?_
  dsimp only
  split
  · exact .setXfer hs
  · exact .tell (.setGranByte (.purgeLines (.touchGran (.setXfer hs))))

theorem MemInv.startXfer {i : Nat} {o : ObjEnt} {g : Nat} {s : State} (hs : MemInv s) : MemInv (startXfer i o g s) := by
  unfold Machine.startXfer
  dsimp only
  split
  · exact hs
  · split
    · exact hs
    · split
      · split
        · split
          · split
            · exact .ite (.push hs) (.grantXfer hs)
            · exact .foldl (.setXfer hs) (fun _ _ => .tell)
          · split
            · exact .ite (.push hs) (.grantXfer hs)
            · exact .foldl (.setXfer hs) (fun _ _ => .tell)
        · split
          · split
            · exact .ite (.push hs) (.grantXfer hs)
            · exact .foldl (.setXfer hs) (fun _ _ => .tell)
          · split
            · exact .ite (.push hs) (.grantXfer hs)
            · exact .foldl (.setXfer hs) (fun _ _ => .tell)
      · exact .tell (.setXfer hs)

theorem MemInv.overKfl {port : Nat} {ev : Instr} {f : State → State} {s : State} (hf : ∀ t, MemInv t → MemInv (f t)) (hs : MemInv s) :
    MemInv (overKfl port ev f s) := .ite hs (.ite (.keep hs) (hf _ hs))

theorem MemInv.joinXfer {excl : Bool} {i g v : Nat} {o : ObjEnt} {s : State} (hs : MemInv s) : MemInv (joinXfer excl i g v o s) :=
  .startXfer (.ite hs (.addXfer hs))

theorem MemInv.getGranule {excl : Bool} {s : State} (hs : MemInv s) : MemInv (getGranule excl s) := by
  unfold Machine.getGranule
  dsimp only
  split
  · exact hs
  · exact .ite (.joinXfer hs) (.overKfl (fun _ => .joinXfer) hs)

theorem MemInv.portAnswered {i : Nat} {o : ObjEnt} {g port : Nat} {s : State} (hs : MemInv s) : MemInv (portAnswered i o g port s) := by
  unfold Machine.portAnswered
  dsimp only
  split
  · exact hs
  · exact .ite hs (.ite (.grantXfer hs) (.setXfer hs))

theorem MemInv.returned {i : Nat} {o : ObjEnt} {g port : Nat} {keepS : Bool} {d : List Byte} {sick : Nat} {s : State} (hs : MemInv s) :
    MemInv (returned i o g port keepS d sick s) := .portAnswered (.setGranByte (.putGranData (.purgeLines hs)))

theorem MemInv.answerRecall {o : ObjEnt} {s : State} (hs : MemInv s) : MemInv (answerRecall o s) := .tell (.setGranByte (.purgeLines hs))

theorem MemInv.granuleRecallStep {s : State} (hs : MemInv s) : MemInv (granuleRecallStep s) := by
  unfold Machine.granuleRecallStep
  split
  · exact hs
  · exact .overKfl (fun _ h1 => .ite h1 (.ite (.keep h1) (.answerRecall h1))) hs

theorem MemInv.takeGrant {o : ObjEnt} {s : State} (hs : MemInv s) : MemInv (takeGrant o s) :=
  .nextXfer (.setXfer (.setGranByte (.putGranData (.touchGran (.purgeLines hs)))))

theorem MemInv.granuleGrantStep {s : State} (hs : MemInv s) : MemInv (granuleGrantStep s) := by
  unfold Machine.granuleGrantStep
  dsimp only
  split
  · exact hs
  · exact .overKfl (fun _ h1 => .ite (.keep h1) (.ite (.returned h1) (.takeGrant h1))) hs

theorem MemInv.giveBack {o : ObjEnt} {s : State} (hs : MemInv s) : MemInv (giveBack o s) := .ite hs (.ite (.keep hs) (.tell (.same (.purgeLines hs))))

theorem MemInv.putxStep {s : State} (hs : MemInv s) : MemInv (putxStep s) := by
  unfold Machine.putxStep
  dsimp only
  split
  · exact hs
  · split
    · exact .overKfl (fun _ h1 => .ite (.keep h1) (.tell (.returned h1))) hs
    · split
      · exact .overKfl (fun _ h1 => .ite (.nextXfer (.setGranByte (.same h1))) h1) hs
      · exact .giveBack hs

theorem MemInv.loseGranule {port : Nat} {o : ObjEnt} {g b : Nat} {s : State} (hs : MemInv s) : MemInv (loseGranule port o g b s) := by
  unfold Machine.loseGranule
  refine .setGranByte (.foldl (.purgeLines hs) ?_)
  intro _ _ h1
  dsimp only
  split
  · exact .logErr (.poisonMem h1)
  · exact h1

theorem MemInv.kflDown {port : Nat} {s : State} (hs : MemInv s) : MemInv (kflDown port s) := by
  unfold Machine.kflDown
  refine .foldl (.foldl (.foldl (.same hs) ?_) (fun _ _ => .nextXfer)) ?_
  · intro _ _ h1
    refine .foldl h1 ?_
    intro _ _ h2
    dsimp only
    split
    · split
      · exact .ite (.setGranByte (.loseGranule h2)) (.loseGranule h2)
      · exact .ite (.setGranByte h2) h2
    · exact .ite (.setGranByte (.purgeLines h2)) h2
  · intro _ _ h1
    split
    · exact .portAnswered h1
    · exact h1

/-! ### Accesses -/

theorem MemInv.trackDone {id : Nat} {s : State} (hs : MemInv s) : MemInv (trackDone id s) := by
  unfold Machine.trackDone
  split
  · exact hs
  · split
    · exact .forEach (.same hs) (fun _ _ => .lowerW)
    · exact .same hs

theorem MemInv.openTrack {c : Ctx} {n msc : Nat} {s : State} (hs : MemInv s) : MemInv (openTrack c n msc s).2 := by
  unfold Machine.openTrack
  dsimp only
  split
  · exact .sigSoon (.newId hs)
  · exact .forEach (.same (.newId hs)) (fun _ _ => .raiseW)

theorem MemInv.trackDones {n n1 : Nat} {s : State} (hs : MemInv s) : MemInv (trackDones n n1 s) := by
  induction n generalizing n1 s with
  | zero =>
    rw [Machine.trackDones]
    exact hs
  | succ n ih =>
    rw [Machine.trackDones]
    exact ih (.trackDone hs)

theorem MemInv.clearAccess {team id : Nat} {s : State} (hs : MemInv s) : MemInv (clearAccess team id s) := .same hs

theorem MemInv.retire {id : Nat} {s : State} (hs : MemInv s) : MemInv (retire id s) := by
  unfold Machine.retire
  split
  · exact hs
  · exact .trackDone (.clearAccess (.same hs))

theorem MemInv.modAcc {id : Nat} {f : Machine.Acc → Machine.Acc} {s : State} (hs : MemInv s) : MemInv (modAcc id f s) := by
  unfold Machine.modAcc
  split
  · exact hs
  · exact .same hs

theorem MemInv.putElem {team : Nat} {p : APart} {v : Nat} {err : Bool} {s : State} (hs : MemInv s) : MemInv (putElem team p v err s) :=
  .ite (.same (.modGrp hs)) (.modThr hs)

theorem MemInv.returnLoad {a : Machine.Acc} {l : List Byte} {err : Bool} {s : State} (hs : MemInv s) : MemInv (returnLoad a l err s) :=
  .foldl hs (fun _ _ => .putElem)

theorem MemInv.returnSick {a : Machine.Acc} {e : Option Wcs} {l : List Byte} {bad : List Nat} {s : State} (hs : MemInv s) :
    MemInv (returnSick a e l bad s) := .foldl hs (fun _ _ => .putElem)

theorem MemInv.wcsStore {u ctx line : Nat} {parts : List APart} {owners : List Owner} {s : State} (hs : MemInv s) :
    MemInv (wcsStore u ctx line parts owners s) := .ite (.same hs) (.push (.same hs))

theorem MemInv.ownersDone {l : List Owner} {err : Bool} {s : State} (hs : MemInv s) : MemInv (ownersDone l err s) :=
  .foldl hs (fun _ _ h1 => .trackDone (.modThr h1))

theorem MemInv.wcsCommit {u ctx line pa : Nat} {host : Bool} {s : State} (hs : MemInv s) : MemInv (wcsCommit u ctx line pa host s) := by
  unfold Machine.wcsCommit
  split
  · exact hs
  · extract_lets s1 s2 s3 s4 s5
    have h3 : MemInv s3 := .disturb (.wr (.same hs))
    have h4 : MemInv s4 := .ite (.foldl h3 fun _ _ => .dirtySectors) h3
    have h5 : MemInv s5 := by
      unfold s5
      split
      · exact .ite h4 (.same h4)
      · exact h4
    exact .ownersDone h5

theorem MemInv.wcsDrop {u ctx line : Nat} {err : Bool} {s : State} (hs : MemInv s) : MemInv (wcsDrop u ctx line err s) := by
  unfold Machine.wcsDrop
  split
  · exact hs
  · exact .ownersDone (.same hs)

theorem MemInv.sendMsg {ev : Instr} {m : Msg} {s : State} (hs : MemInv s) : MemInv (sendMsg ev m s) := by
  unfold Machine.sendMsg
  dsimp only
  exact .send (.same (.newId hs))

theorem MemInv.again {ev : Instr} {id : Nat} {m : Msg} {s : State} (hs : MemInv s) : MemInv (again ev id m s) := .send (.same hs)

theorem MemInv.answer {ev : Instr} {acc v fl ctx line : Nat} {d : List Byte} {s : State} (hs : MemInv s) :
    MemInv (answer ev acc v fl ctx line d s) := .same hs

theorem MemInv.evictLine {u ctx line : Nat} {owners : List Owner} {s : State} (hs : MemInv s) : MemInv (evictLine u ctx line owners s) := by
  unfold Machine.evictLine
  dsimp only
  split
  · exact hs
  · exact .ite (.same hs) (.sendMsg (.same (.ite (.writeBack hs) hs)))

theorem MemInv.install {u ctx line : Nat} {st : CSt} {attr : Attr} {pa : Nat} {bad : List Nat} {s : State} (hs : MemInv s) :
    MemInv (install u ctx line st attr pa bad s) := by
  unfold Machine.install
  dsimp only
  split
  · exact .same hs
  · split
    · exact .same hs
    · split
      · exact .evictLine (.same hs)
      · exact .same (.evictLine hs)

theorem MemInv.onFwd {u : Nat} {m : Msg} {s : State} (hs : MemInv s) : MemInv (onFwd u m s) := by
  unfold Machine.onFwd
  dsimp only
  split
  · exact .tell hs
  · split
    · exact .answer (.modAcc (.same hs))
    · split <;> exact .answer hs

theorem MemInv.onInv {u : Nat} {m : Msg} {dirtyFill : Bool} {s : State} (hs : MemInv s) : MemInv (onInv u m dirtyFill s) := by
  unfold Machine.onInv
  extract_lets key c held owners s1 s2
  have h1 : MemInv s1 := by
    dsimp only [s1]
    cases c with
    | none => exact hs
    | some l => exact .ite (.writeBack hs) hs
  exact .sendMsg (.ownersDone (.same h1))

theorem MemInv.request {ev : Instr} {id : Nat} {s : State} (hs : MemInv s) : MemInv (request ev id s) := by
  unfold Machine.request
  dsimp only
  split
  · exact hs
  · exact .ite (.modAcc hs) (.sendMsg (.modAcc hs))

theorem MemInv.bufferPump {s : State} (hs : MemInv s) : MemInv (bufferPump s) := by
  unfold Machine.bufferPump
  refine .foldl hs ?_
  intro _ _ h1
  split
  · exact .request h1
  · exact h1

theorem MemInv.lineTry {id : Nat} {s : State} (hs : MemInv s) : MemInv (Machine.lineTry id s) := by
  unfold Machine.lineTry
  split
  · exact hs
  next a _ =>
    extract_lets key wait e own
    have hwait : MemInv wait := .modAcc hs
    clear_value wait
    split
    · exact .retire (.returnLoad hs)
    · split
      · exact hwait
      · split
        · exact .ite hwait (.ite (.evictLine (.same hs)) (.ownersDone (.same hs)))
        · split
          · split
            · exact hwait
            · split
              · exact .retire (.returnSick (.same hs))
              · exact .ite (.retire (.wcsCommit (.same hs))) (.request (.same hs))
              · exact .retire (.same hs)
          · exact .ite (.request hs) (.request hs)

theorem MemInv.linePump {u ctx line : Nat} {s : State} (hs : MemInv s) : MemInv (linePump u ctx line s) := .foldl hs (fun _ _ => .lineTry)

theorem MemInv.countHome {a : Machine.Acc} {host : Bool} {s : State} (hs : MemInv s) : MemInv (countHome a host s) :=
  .foldl hs (fun _ _ => .modThr)

theorem MemInv.homeDone {a : Machine.Acc} {err : Bool} {s : State} (hs : MemInv s) : MemInv (homeDone a err s) := .foldl hs (fun _ _ => .modThr)

theorem MemInv.countOnce {id : Nat} {host : Bool} {s : State} (hs : MemInv s) : MemInv (countOnce id host s) := by
  unfold Machine.countOnce
  split
  · exact hs
  · exact .ite hs (.modAcc (.countHome hs))

theorem MemInv.goLine {id : Nat} {s : State} (hs : MemInv s) : MemInv (goLine id s) := by
  unfold Machine.goLine
  dsimp only
  split
  · exact hs
  · split
    · exact .ite (.request (.modAcc hs)) (.lineTry hs)
    · split
      · exact .request (.ite (.modAcc (.trackDones (.countOnce hs))) (.countOnce hs))
      · exact .clearAccess (.same (.wcsStore hs))
    · exact .lineTry hs
    · exact .ite (.retire hs) (.lineTry hs)
    · exact .lineTry hs
    · exact .ite (.retire hs) (.request hs)
    · exact .request (.countOnce hs)
    · exact .request (.countOnce hs)

theorem MemInv.niTry {id : Nat} {s : State} (hs : MemInv s) : MemInv (niTry id s) := by
  unfold Machine.niTry
  dsimp only
  split
  · exact hs
  · split
    · exact .ite hs (.push hs)
    · split
      · split
        · exact .ite (.countOnce (.modAcc hs)) (.modAcc hs)
        · exact .send (.ite (.countOnce (.modAcc hs)) (.modAcc hs))
      · split
        · split
          · split
            · exact .countOnce (.modAcc hs)
            · exact .goLine (.countOnce (.modAcc hs))
          · exact .ite (.modAcc hs) (.goLine (.modAcc hs))
        · split
          · split
            · exact .countOnce (.modAcc hs)
            · exact .goLine (.countOnce (.modAcc hs))
          · exact .ite (.modAcc hs) (.goLine (.modAcc hs))

theorem MemInv.niPump {ni : Nat} {s : State} (hs : MemInv s) : MemInv (niPump ni s) := .foldl hs (fun _ _ => .niTry)

theorem MemInv.settle {s : State} (hs : MemInv s) : MemInv (settle s) := .foldl (.bufferPump hs) (fun _ _ => .niTry)

theorem MemInv.startAcc {a : Machine.Acc} {s : State} (hs : MemInv s) : MemInv (startAcc a s).2 := by
  unfold Machine.startAcc
  split
  exact .niTry (.same (.of_snd ‹_› (.newId hs)))

theorem MemInv.storeDone {id : Nat} {err : Bool} {s : State} (hs : MemInv s) : MemInv (storeDone id err s) := by
  unfold Machine.storeDone
  split
  · exact hs
  · exact .settle (.trackDones (.homeDone (.same hs)))

theorem MemInv.failHome {id : Nat} {a : Machine.Acc} {s : State} (hs : MemInv s) : MemInv (failHome id a s) :=
  .ite (.homeDone hs) (.homeDone (.countOnce hs))

theorem MemInv.failAcc {id : Nat} {s : State} (hs : MemInv s) : MemInv (failAcc id s) := by
  unfold Machine.failAcc
  split
  · exact hs
  · extract_lets held sFail s1 s2 s3 s4
    have h1 : MemInv s1 := by
      unfold s1
      split
      · exact .returnLoad hs
      · exact .ite (.storeDone hs) (.ownersDone hs)
      · exact .wcsDrop hs
      · exact hs
      · exact hs
      · exact .foldl (.failHome hs) fun _ _ h => .ite h (.putElem h)
      · exact .failHome hs
    have h2 : MemInv s2 := by
      unfold s2
      split
      · exact .sendArg h1
      · exact h1
    have h3 : MemInv s3 := .ite (.clearAccess (.same h2)) (.retire h2)
    have h4 : MemInv s4 := by
      refine .foldl h3 ?_
      intro _ _ h
      split
      · exact .ite (.onInv (.same h)) (.onFwd (.same h))
      · exact h
    exact .settle (.linePump h4)

theorem MemInv.fillTry {id : Nat} {s : State} (hs : MemInv s) : MemInv (fillTry id s) := by
  unfold Machine.fillTry
  dsimp only
  split
  · exact hs
  · split
    · split
      · exact .settle (.retire (.returnSick hs))
      · refine .settle (.linePump (.retire ?_))
        split
        · refine .install (.same (.foldl (.same (.ite (.wcsCommit hs) (.returnSick hs))) ?_))
          intro _ _ h1
          split
          · exact .onFwd (.same h1)
          · exact h1
        · split
          · refine .onInv (.same (.foldl (.same (.ite (.wcsCommit hs) (.returnSick hs))) ?_))
            intro _ _ h1
            split
            · exact .onFwd (.same h1)
            · exact h1
          · refine .foldl (.same (.ite (.wcsCommit hs) (.returnSick hs))) ?_
            intro _ _ h1
            split
            · exact .onFwd (.same h1)
            · exact h1
    · exact hs

/-! ### The fabric -/

theorem MemInv.putTree {k : TreeKey} {t : Machine.Tree} {s : State} (hs : MemInv s) : MemInv (putTree k t s) := .same hs

theorem MemInv.freeTree {k : TreeKey} {s : State} (hs : MemInv s) : MemInv (freeTree k s) := .same hs

theorem MemInv.inPlace {ev : Instr} {id : Nat} {s : State} {run : Msg → State → State} (hs : MemInv s)
    (hrun : ∀ a t, MemInv t → MemInv (run a t)) :
    MemInv (inPlace ev id s run) := by
  unfold Machine.inPlace
  split
  · exact hs
  · split
    · exact .again hs
    · exact hrun _ _ hs

theorem MemInv.sendInv {r ctx line link : Nat} {s : State} (hs : MemInv s) : MemInv (sendInv r ctx line link s) := .ite (.sendMsg hs) (.sendMsg hs)

theorem MemInv.tear {k : TreeKey} {t : Machine.Tree} {victim : Bool} {req : Nat} {s : State} (hs : MemInv s) : MemInv (tear k t victim req s) :=
  .foldl (.putTree hs) (fun _ _ => .sendInv)

theorem MemInv.ackUp {k : TreeKey} {home : Nat} {dirty : Bool} {s : State} (hs : MemInv s) : MemInv (ackUp k home dirty s) := .sendMsg hs

theorem MemInv.endTree {k : TreeKey} {t : Machine.Tree} {s : State} (hs : MemInv s) : MemInv (endTree k t s) := by
  unfold Machine.endTree
  split
  · exact .putTree hs
  · exact .freeTree hs

theorem MemInv.torn {k : TreeKey} {t : Machine.Tree} {s : State} (hs : MemInv s) : MemInv (torn k t s) := by
  unfold Machine.torn
  dsimp only
  split
  · exact .putTree hs
  · exact .freeTree hs
  · exact .ite (.sendMsg (.putTree hs)) (.ackUp (.endTree hs))

theorem MemInv.roomFor {id r ctx line : Nat} {s : State} (hs : MemInv s) : MemInv (roomFor id r ctx line s).1 := by
  unfold Machine.roomFor
  dsimp only
  split
  · exact hs
  · split
    · exact hs
    · split
      · exact .tear hs
      · exact hs

theorem MemInv.homeTurn {id : Nat} {m : Msg} {s : State} (hs : MemInv s) : MemInv (homeTurn id m s).1 := by
  unfold Machine.homeTurn
  dsimp only
  exact .ite_fst (.ite_fst hs (.newId hs)) hs

theorem MemInv.askWalk {port ctx va vd : Nat} {wr : Bool} {acc : Nat} {s : State} (hs : MemInv s) : MemInv (askWalk port ctx va vd wr acc s) :=
  .ite (.same hs) (.ite hs (.push (.same hs)))

theorem MemInv.xlateAt {port vd : Nat} {wr : Bool} {m : Msg} {s : State} (hs : MemInv s) : MemInv (xlateAt port vd wr m s).1 := by
  unfold Machine.xlateAt
  dsimp only
  split
  · exact hs
  · split
    · exact .ite (.touchD hs) hs
    · split
      · exact hs
      · exact .askWalk hs

theorem MemInv.hostLeave {ctx line : Nat} {s : State} (hs : MemInv s) : MemInv (hostLeave ctx line s) := .ite hs (.ite hs (.purgeLines hs))

theorem MemInv.sliceRoom {h : Nat} {s : State} (hs : MemInv s) : MemInv (sliceRoom h s) := by
  unfold Machine.sliceRoom
  dsimp only
  split
  · exact hs
  · split
    · exact hs
    · exact .hostLeave (.dropSlice hs)

theorem MemInv.fillSlice {h ctx line : Nat} {attr : Attr} {pa : Nat} {obj : Bool} {s : State} (hs : MemInv s) :
    MemInv (fillSlice h ctx line attr pa obj s) := .same (.sliceRoom hs)

theorem MemInv.askDie {h ctx line : Nat} {wr : Bool} {s : State} (hs : MemInv s) : MemInv (askDie h ctx line wr s) := by
  unfold Machine.askDie
  dsimp only
  exact .sendArg (.same (.newId hs))

theorem MemInv.lineGate {h : Nat} {wr : Bool} {m : Msg} {attr : Attr} {pa : Nat} {obj : Bool} {s : State} (hs : MemInv s) :
    MemInv (lineGate h wr m attr pa obj s).1 := by
  unfold Machine.lineGate
  dsimp only
  split
  · exact .of_fst ‹_› (.ite_fst (.granGate hs) hs)
  · exact .of_fst ‹_› (.ite_fst (.granGate hs) hs)
  · split
    · split
      · exact .of_fst ‹_› (.ite_fst (.granGate hs) hs)
      · split
        · exact .of_fst ‹_› (.ite_fst (.granGate hs) hs)
        · exact .askDie (.of_fst ‹_› (.ite_fst (.granGate hs) hs))
    · split
      · exact .of_fst ‹_› (.ite_fst (.granGate hs) hs)
      · split
        · exact .of_fst ‹_› (.ite_fst (.granGate hs) hs)
        · exact .fillSlice (.of_fst ‹_› (.ite_fst (.granGate hs) hs))

theorem MemInv.homeLine {h vd : Nat} {wr : Bool} {m : Msg} {s : State} (hs : MemInv s) : MemInv (homeLine h vd wr m s).1 := by
  unfold Machine.homeLine
  split
  · exact .ite_fst hs (.lineGate hs)
  · split
    · split
      · exact .of_fst ‹_› (.xlateAt hs)
      · exact .lineGate (.of_fst ‹_› (.xlateAt hs))
    · exact .xlateAt hs

theorem MemInv.logHome {m : Msg} {kind : Nat} {s : State} (hs : MemInv s) : MemInv (logHome m kind s) := by
  unfold Machine.logHome
  dsimp only
  split <;> exact .ite (.logXlate hs) (.logErr hs)

theorem MemInv.dropMsg {id : Nat} {s : State} (hs : MemInv s) : MemInv (dropMsg id s) := .same hs

theorem MemInv.dropPrefetch {id : Nat} {m : Msg} {s : State} (hs : MemInv s) : MemInv (dropPrefetch id m s) :=
  .sendMsg (.settle (.linePump (.retire (.dropMsg hs))))

theorem MemInv.refuse {id : Nat} {m : Msg} {kind : Nat} {release : Bool} {s : State} (hs : MemInv s) : MemInv (refuse id m kind release s) := by
  unfold Machine.refuse
  dsimp only
  split
  · exact .sendMsg (.answer (.ite (.dropMsg hs) (.logHome (.dropMsg hs))))
  · exact .answer (.ite (.dropMsg hs) (.logHome (.dropMsg hs)))

theorem MemInv.supply {ev : Instr} {id : Nat} {m : Msg} {attr : Attr} {pa : Nat} {excl : Bool} {s : State} (hs : MemInv s) :
    MemInv (supply ev id m attr pa excl s) := .sendMsg (.answer (.modAcc (.dropMsg hs)))

theorem MemInv.serveRoot {ev : Instr} {own : Bool} {id : Nat} {m : Msg} {k : TreeKey} {t : Machine.Tree} {s : State} (hs : MemInv s) :
    MemInv (serveRoot ev own id m k t s) := by
  unfold Machine.serveRoot
  dsimp only
  split
  · exact .again hs
  · split
    · split
      · exact .dropPrefetch (.of_fst ‹_› (.homeLine hs))
      · exact .again (.of_fst ‹_› (.homeLine hs))
    · exact .refuse (.of_fst ‹_› (.homeLine hs))
    · split
      · exact .refuse (.of_fst ‹_› (.homeLine hs))
      · exact .supply (.putTree (.of_fst ‹_› (.homeLine hs)))

theorem MemInv.steer {k : TreeKey} {t : Machine.Tree} {acc hs : Nat} {s : State} (hm : MemInv s) : MemInv (steer k t acc hs s) := by
  unfold Machine.steer
  dsimp only
  split
  · exact .sendMsg hm
  · split
    · exact hm
    · exact .sendMsg hm

theorem MemInv.catchRead {id : Nat} {m : Msg} {k : TreeKey} {t : Machine.Tree} {s : State} (hs : MemInv s) : MemInv (catchRead id m k t s) := by
  unfold Machine.catchRead
  dsimp only
  split
  · split
    · exact .ite (.refuse hs) (.supply (.putTree hs))
    · exact .sendMsg (.steer (.putTree (.dropMsg hs)))
  · exact .sendMsg (.steer (.putTree (.dropMsg hs)))

theorem MemInv.readGo {n id : Nat} {m : Msg} {s : State} (hs : MemInv s) : MemInv (Machine.readGo n id m s) := by
  induction n generalizing id m s with
  | zero => exact .again hs
  | succ n ih =>
    unfold Machine.readGo
    extract_lets k home go
    have hgo {t : State} (ht : MemInv t) : MemInv (go t) := by
      dsimp only [go]
      split
      · exact ih ht
      · exact .again ht
    clear_value go
    split
    next s1 m1 turn e =>
    have h1 : MemInv s1 := by
      split at e
      · exact .of_fst e (.homeTurn hs)
      · exact .of_fst e hs
    split
    · exact .again h1
    · split
      · split
        next s2 e2 => exact .again (.of_fst e2 (.roomFor h1))
        next s2 w e2 =>
          exact .ite (.serveRoot (.putTree (.of_fst e2 (.roomFor h1)))) (hgo (.putTree (.of_fst e2 (.roomFor h1))))
      · exact .ite (.catchRead h1) (.ite (.ite (.serveRoot h1) (hgo h1)) (.again h1))

theorem MemInv.slicePrefetch {id : Nat} {m : Msg} {s : State} (hs : MemInv s) : MemInv (slicePrefetch id m s) := by
  unfold Machine.slicePrefetch
  dsimp only
  split
  · exact .again hs
  · split
    · exact .again (.homeTurn hs)
    · split
      · exact .settle (.retire (.dropMsg (.homeTurn hs)))
      · split
        · split
          · exact .settle (.retire (.dropMsg (.of_fst ‹_› (.homeLine (.homeTurn hs)))))
          · exact .again (.of_fst ‹_› (.homeLine (.homeTurn hs)))
        · exact .settle (.retire (.dropMsg (.of_fst ‹_› (.homeLine (.homeTurn hs)))))

theorem MemInv.rdsStep {s : State} (hs : MemInv s) : MemInv (rdsStep s) := by
  unfold Machine.rdsStep
  split
  · exact hs
  · split
    · exact .again hs
    · exact .ite (.slicePrefetch hs) (.readGo hs)
    · exact .readGo hs

theorem MemInv.homePermits {m : Msg} {s : State} (hs : MemInv s) : MemInv (homePermits m s).1 := by
  unfold Machine.homePermits
  split
  · exact hs
  · split
    · exact .of_fst ‹_› (.xlateAt hs)
    · exact .xlateAt hs

theorem MemInv.ownGo {ev : Instr} {n id : Nat} {m : Msg} {s : State} (hs : MemInv s) : MemInv (Machine.ownGo ev n id m s) := by
  induction n generalizing ev id m s with
  | zero => exact .again hs
  | succ n ih =>
    unfold Machine.ownGo
    extract_lets k home go
    have hgo {t : State} (ht : MemInv t) : MemInv (go t) := by
      dsimp only [go]
      split
      · exact ih ht
      · exact .again ht
    clear_value go
    split
    next s1 m1 turn e =>
    have h1 : MemInv s1 := by
      split at e
      · exact .of_fst e (.homeTurn hs)
      · exact .of_fst e hs
    split
    · exact .again h1
    · split
      · split
        next s2 e2 => exact .again (.of_fst e2 (.roomFor h1))
        next s2 w e2 =>
          exact .ite (.serveRoot (.putTree (.of_fst e2 (.roomFor h1)))) (hgo (.putTree (.of_fst e2 (.roomFor h1))))
      · split
        · split
          · split
            · exact .again (.of_fst ‹_› (.homePermits h1))
            · exact .refuse (.of_fst ‹_› (.homePermits h1))
            · exact .again (.tear (.of_fst ‹_› (.homePermits h1)))
          · exact .ite (.ite (hgo h1) (.again h1)) (hgo (.putTree h1))
        · exact .ite (.ite (.serveRoot h1) (hgo h1)) (.again h1)

theorem MemInv.ownStep {ev : Instr} {s : State} (hs : MemInv s) : MemInv (ownStep ev s) := by
  unfold Machine.ownStep
  split
  · exact hs
  · split
    · exact .again hs
    · exact .ownGo hs

theorem MemInv.toUnit {id u : Nat} {m : Msg} {s : State} (hs : MemInv s) : MemInv (toUnit id u m s) := by
  unfold Machine.toUnit
  split
  · exact .modAcc (.same hs)
  · exact .ite (.onInv (.dropMsg hs)) (.onFwd (.dropMsg hs))

theorem MemInv.fwdGo {n n1 : Nat} {m : Msg} {s : State} (hs : MemInv s) : MemInv (fwdGo n n1 m s) := by
  induction n generalizing n1 m s with
  | zero =>
    rw [Machine.fwdGo]
    exact .onFwd (.dropMsg hs)
  | succ n ih =>
    rw [Machine.fwdGo]
    dsimp only
    split
    · exact .toUnit hs
    · split
      · exact .onFwd (.dropMsg hs)
      · split
        · exact .toUnit hs
        · split
          · exact .onFwd (.dropMsg hs)
          · split
            · exact ih hs
            · exact .again hs

theorem MemInv.fwdStep {s : State} (hs : MemInv s) : MemInv (fwdStep s) := .inPlace hs (fun _ _ => .fwdGo)

theorem MemInv.graftAt {m : Msg} {r : Nat} {s : State} (hs : MemInv s) : MemInv (graftAt m r s) := by
  unfold Machine.graftAt
  dsimp only
  split
  · exact hs
  · exact .putTree hs

theorem MemInv.graftStep {s : State} (hs : MemInv s) : MemInv (graftStep s) :=
  .inPlace hs (fun _ _ h1 => .fillTry (.modAcc (.foldl (.dropMsg h1) (fun _ _ => .graftAt))))

theorem MemInv.invStep {s : State} (hs : MemInv s) : MemInv (invStep s) := by
  unfold Machine.invStep
  refine .inPlace hs ?_
  intro _ _ h1
  dsimp only
  split
  · exact .toUnit h1
  · split
    · exact .ackUp (.dropMsg h1)
    · split
      · exact .tear (.dropMsg h1)
      · exact .putTree (.dropMsg h1)
      · exact .ite (.ackUp (.endTree (.dropMsg h1))) (.tear (.dropMsg h1))
      · exact .ackUp (.dropMsg h1)

theorem MemInv.invackStep {s : State} (hs : MemInv s) : MemInv (invackStep s) := by
  unfold Machine.invackStep
  refine .inPlace hs ?_
  intro _ _ h1
  dsimp only
  split
  · exact .dropMsg h1
  · split
    · exact .dropMsg h1
    · exact .ite (.torn (.dropMsg h1)) (.putTree (.dropMsg h1))

theorem MemInv.departGo {wb : Bool} {n id : Nat} {m : Msg} {s : State} (hs : MemInv s) : MemInv (Machine.departGo wb n id m s) := by
  induction n generalizing wb id m s with
  | zero => exact hs
  | succ n ih =>
    unfold Machine.departGo
    extract_lets home k atHome ack go
    have hack {t : State} (ht : MemInv t) : MemInv (ack t) := .sendMsg ht
    have hgo {m : Msg} {t : State} (ht : MemInv t) : MemInv (go m t) := by
      dsimp only [go]
      split
      · exact hack ht
      · split
        · exact ih ht
        · exact .again ht
    clear_value ack go
    split
    · exact hgo hs
    · extract_lets t s1 s2
      have h1 : MemInv s1 := .putTree hs
      split
      · exact hgo h1
      · split
        · split
          · exact hgo h1
          · exact hack h1
        · split
          · exact hgo (.putTree h1)
          · split
            · exact hgo (.putTree h1)
            · exact hack (.putTree h1)

theorem MemInv.departStep {wb : Bool} {s : State} (hs : MemInv s) : MemInv (departStep wb s) :=
  .inPlace hs (fun _ _ h1 => .departGo (.dropMsg (.ite (.granGate h1) h1)))

theorem MemInv.departAck {ev : Instr} {s : State} (hs : MemInv s) : MemInv (departAck ev s) := by
  unfold Machine.departAck
  refine .inPlace hs ?_
  intro _ _ h1
  dsimp only
  split
  · refine .foldl (.dropMsg h1) ?_
    intro _ _ h2
    split
    · exact .ite (.endTree h2) h2
    · exact h2
  · split
    · split
      · refine .settle (.linePump (.ownersDone (.hostLeave (.same (.foldl (.dropMsg h1) ?_)))))
        intro _ _ h2
        split
        · exact .ite (.endTree h2) h2
        · exact h2
      · refine .foldl (.dropMsg h1) ?_
        intro _ _ h2
        split
        · exact .ite (.endTree h2) h2
        · exact h2
    · refine .foldl (.dropMsg h1) ?_
      intro _ _ h2
      split
      · exact .ite (.endTree h2) h2
      · exact h2

theorem MemInv.releaseStep {s : State} (hs : MemInv s) : MemInv (releaseStep s) := by
  unfold Machine.releaseStep
  refine .inPlace hs ?_
  intro _ _ h1
  refine .foldl (.dropMsg h1) ?_
  intro _ _ h2
  dsimp only
  split
  · exact .ite (.freeTree h2) (.ite (.putTree h2) h2)
  · exact h2

theorem MemInv.dataStep {s : State} (hs : MemInv s) : MemInv (dataStep s) := .fillTry (.modAcc hs)

theorem MemInv.errStep {s : State} (hs : MemInv s) : MemInv (errStep s) := .failAcc hs

theorem MemInv.wrackStep {s : State} (hs : MemInv s) : MemInv (wrackStep s) := .storeDone hs

theorem MemInv.atomackStep {s : State} (hs : MemInv s) : MemInv (atomackStep s) := by
  unfold Machine.atomackStep
  dsimp only
  split
  · exact hs
  · exact .settle (.retire (.foldl (.homeDone hs) (fun _ _ => .putElem)))

theorem MemInv.opLine {wr nocache : Bool} {m : Msg} {s : State} (hs : MemInv s) : MemInv (opLine wr nocache m s).1 := by
  unfold Machine.opLine
  split
  · exact .homeLine hs
  · split
    · split
      · exact .of_fst ‹_› (.xlateAt hs)
      · split
        · exact .homeLine (.of_fst ‹_› (.xlateAt hs))
        · split
          · split <;> exact .of_fst ‹_› (.granGate (.of_fst ‹_› (.xlateAt hs)))
          · exact .of_fst ‹_› (.xlateAt hs)
    · exact .xlateAt hs

/-- What a home-executed operation does next keeps the canonical form: the states in which it waits or is done have it. -/
def GoInv : HomeGo → Prop
  | .run _ _ => True
  | .wait s => MemInv s
  | .done s => MemInv s

theorem homeReady_inv {ev : Instr} {id : Nat} {wr nocache : Bool} {m : Msg} {s : State} (hs : MemInv s) :
    MemInv (homeReady ev id wr nocache m s).1 ∧ GoInv (homeReady ev id wr nocache m s).2 := by
  unfold homeReady
  split
  · exact ⟨hs, MemInv.again hs⟩
  · extract_lets m1
    split
    · exact ⟨hs, MemInv.again hs⟩
    · have ht := MemInv.homeTurn (id := id) (m := m1) hs
      generalize homeTurn id m1 s = p at ht ⊢
      obtain ⟨s1, m2, turn⟩ := p
      dsimp only at ht ⊢
      split
      · exact ⟨ht, MemInv.again ht⟩
      · have ho := MemInv.opLine (wr := wr) (nocache := nocache) (m := m2) ht
        generalize opLine wr nocache m2 s1 = q at ho ⊢
        obtain ⟨s2, r⟩ := q
        cases r with
        | wait => exact ⟨ho, MemInv.again ho⟩
        | err e => exact ⟨ho, MemInv.refuse ho⟩
        | ready attr pa b =>
          dsimp only at ho ⊢
          split
          · exact ⟨ho, MemInv.refuse ho⟩
          · split
            · refine ⟨ho, ?_⟩
              split
              · exact MemInv.refuse ho
              · exact MemInv.again ho
            · split
              · exact ⟨ho, trivial⟩
              · split
                · exact ⟨ho, MemInv.again (.tear ho)⟩
                · exact ⟨ho, MemInv.again ho⟩

theorem MemInv.homeReady {ev : Instr} {id : Nat} {wr nocache : Bool} {m : Msg} {s : State} (hs : MemInv s) :
    MemInv (homeReady ev id wr nocache m s).1 := (homeReady_inv hs).1

theorem MemInv.homeWaits {ev : Instr} {id : Nat} {wr nocache : Bool} {m : Msg} {s t u : State} (hs : MemInv s)
    (e : Machine.homeReady ev id wr nocache m s = (t, .wait u)) : MemInv u := by
  simpa [e, GoInv] using (homeReady_inv (ev := ev) (id := id) (wr := wr) (nocache := nocache) (m := m) hs).2

theorem MemInv.homeIsDone {ev : Instr} {id : Nat} {wr nocache : Bool} {m : Msg} {s t u : State} (hs : MemInv s)
    (e : Machine.homeReady ev id wr nocache m s = (t, .done u)) : MemInv u := by
  simpa [e, GoInv] using (homeReady_inv (ev := ev) (id := id) (wr := wr) (nocache := nocache) (m := m) hs).2

theorem MemInv.askHost {op pa n : Nat} {s : State} (hs : MemInv s) : MemInv (askHost op pa n s) := .foldl hs (fun _ _ => .tell)

theorem MemInv.rduStep {s : State} (hs : MemInv s) : MemInv (rduStep s) := by
  unfold Machine.rduStep
  split
  · exact hs
  · split
    · exact .homeWaits hs ‹_›
    · exact .homeIsDone hs ‹_›
    · have h := MemInv.of_fst ‹_› (.homeReady hs)
      extract_lets m1
      split
      · exact .refuse h
      · exact .answer (.modAcc (.dropMsg (.ite (.askHost h) h)))

theorem MemInv.storeHeal {host : Bool} {pa : Nat} {a : Machine.Acc} {s : State} (hs : MemInv s) : MemInv (storeHeal host pa a s) := .heal hs

theorem MemInv.wruStep {s : State} (hs : MemInv s) : MemInv (wruStep s) := by
  unfold Machine.wruStep
  split
  · exact hs
  · split
    · exact .homeWaits hs ‹_›
    · exact .homeIsDone hs ‹_›
    · have h := MemInv.of_fst ‹_› (.homeReady hs)
      extract_lets m1
      split
      · exact .dropMsg h
      · split
        · exact .refuse h
        · extract_lets s1 s2 s3
          have h3 : MemInv s3 := .disturb (.dirtySlices (.wr (.storeHeal (.dropMsg h))))
          exact .ite (.push (.askHost h3)) (.answer h3)

theorem MemInv.atomStep {s : State} (hs : MemInv s) : MemInv (atomStep s) := by
  unfold Machine.atomStep
  split
  · exact hs
  · split
    · exact .homeWaits hs ‹_›
    · exact .homeIsDone hs ‹_›
    · have h := MemInv.of_fst ‹_› (.homeReady hs)
      extract_lets m1
      split
      · exact .dropMsg h
      · exact .ite (.refuse h) (.ite (.refuse h) (.answer (.cwr (.dropMsg h))))

theorem MemInv.forwardComb {c : Comb} {s : State} (hs : MemInv s) : MemInv (forwardComb c s) := .sendMsg (.same hs)

theorem MemInv.absorb {r : Nat} {k : RedKey} {who val cnt : Nat} {s : State} (hs : MemInv s) : MemInv (absorb r k who val cnt s).1 := by
  unfold Machine.absorb
  dsimp only
  split
  · split
    · exact .forwardComb hs
    · exact .ite (.forwardComb (.same hs)) (.same hs)
  · exact .ite_fst hs (.same (.newId hs))

theorem MemInv.countWord {w : Option (Nat × Nat)} {cnt : Nat} {err : Bool} {ctx line : Nat} {s : State} (hs : MemInv s) :
    MemInv (countWord w cnt err ctx line s) := by
  unfold Machine.countWord
  split
  · exact .sendArg hs
  · exact hs

theorem MemInv.applyRed {ev : Instr} {id : Nat} {m : Msg} {k : RedKey} {s : State} (hs : MemInv s) : MemInv (applyRed ev id m k s) := by
  unfold Machine.applyRed
  split
  · exact .homeWaits hs ‹_›
  · have h := MemInv.homeIsDone hs ‹_›
    exact .ite (.foldl (.same h) fun _ _ => .answer) h
  · have h := MemInv.of_fst ‹_› (.homeReady hs)
    extract_lets m1 a n bad stale
    split
    · exact .foldl (.same (.logHome (.dropMsg h))) fun _ _ h => .answer h
    · exact .countWord (.answer (.cwr (.dropMsg h)))

theorem MemInv.redGo {ev : Instr} {k : RedKey} {n n1 : Nat} {m : Msg} {s : State} (hs : MemInv s) : MemInv (redGo ev k n n1 m s) := by
  induction n generalizing ev k n1 m s with
  | zero =>
    rw [Machine.redGo]
    exact .again hs
  | succ n ih =>
    rw [Machine.redGo]
    split
    · exact .applyRed hs
    · split
      split
      · exact .dropMsg (.of_fst ‹_› (.ite_fst hs (.absorb hs)))
      · split
        · exact ih (.of_fst ‹_› (.ite_fst hs (.absorb hs)))
        · exact .again (.of_fst ‹_› (.ite_fst hs (.absorb hs)))

theorem MemInv.ordDrain {ctx va : Nat} {host : Bool} {pa n : Nat} {s : State} (hs : MemInv s) : MemInv (ordDrain ctx va host pa n s) := by
  induction n generalizing ctx va host pa s with
  | zero =>
    rw [Machine.ordDrain]
    exact hs
  | succ n ih =>
    rw [Machine.ordDrain]
    dsimp only
    split
    · exact hs
    · exact ih (.countWord (.same (.cwr (.same hs))))

theorem MemInv.ordStep {id : Nat} {m : Msg} {a : Acc} {s : State} (hs : MemInv s) : MemInv (ordStep id m a s) := by
  unfold Machine.ordStep
  split
  · exact .homeWaits hs ‹_›
  · exact .homeIsDone hs ‹_›
  · have h := MemInv.of_fst ‹_› (.homeReady hs)
    extract_lets m1 k at_ stale
    split
    · exact .refuse h
    · split
      have h1 := MemInv.of_snd ‹_› (.newId (.dropMsg h))
      exact .ite (.ordDrain (.answer (.same h1))) (.ite (.answer (.same h1)) (.same h1))

theorem MemInv.redStep {s : State} (hs : MemInv s) : MemInv (redStep s) := by
  unfold Machine.redStep
  dsimp only
  split
  · exact hs
  · split
    · exact .dropMsg hs
    · split
      · exact .ordStep hs
      · split
        · split
          · exact .redGo hs
          · exact .again hs
        · exact .applyRed hs

theorem MemInv.redpStep {s : State} (hs : MemInv s) : MemInv (redpStep s) := by
  unfold Machine.redpStep
  split
  · exact hs
  · split
    · exact .dropMsg hs
    · split
      · split
        · exact .redGo hs
        · exact .again hs
      · exact .applyRed hs

theorem MemInv.combExpire {s : State} (hs : MemInv s) : MemInv (combExpire s) := by
  unfold Machine.combExpire
  split
  · exact hs
  · exact .forwardComb hs

theorem MemInv.redackStep {s : State} (hs : MemInv s) : MemInv (redackStep s) := by
  unfold Machine.redackStep
  dsimp only
  split
  · exact .foldl (.same hs) (fun _ _ => .answer)
  · split
    · exact hs
    · exact .settle (.retire (.homeDone hs))

theorem MemInv.ordResend {s : State} (hs : MemInv s) : MemInv (ordResend s) := by
  unfold Machine.ordResend
  split
  · exact hs
  · exact .request hs

theorem MemInv.syncCount {s : State} (hs : MemInv s) : MemInv (syncCount s) := .ite (.syncApply hs) hs

theorem MemInv.placementStep {s : State} (hs : MemInv s) : MemInv (placementStep s) := by
  unfold Machine.placementStep
  dsimp only
  split
  · exact hs
  · split
    · exact .niPump (.of_fst ‹_› (.placeAt hs))
    · split
      · split
        · exact .niPump (.retire (.of_fst ‹_› (.placeAt hs)))
        · refine .niPump (.answer (.modAcc ?_))
          split
          · exact .logXlate (.of_fst ‹_› (.placeAt hs))
          · exact .logErr (.of_fst ‹_› (.placeAt hs))
      · split
        · exact .niPump (.retire (.of_fst ‹_› (.placeAt hs)))
        · refine .niPump (.answer (.modAcc ?_))
          split
          · exact .logXlate (.of_fst ‹_› (.placeAt hs))
          · exact .logErr (.of_fst ‹_› (.placeAt hs))

theorem MemInv.attributeStep {s : State} (hs : MemInv s) : MemInv (attributeStep s) := by
  unfold Machine.attributeStep
  dsimp only
  split
  · exact hs
  · split
    · split
      · split
        · exact .niPump (.retire (.of_fst ‹_› (.xlateAt hs)))
        · exact .sendArg (.of_fst ‹_› (.xlateAt hs))
      · split
        · exact .niPump (.retire (.of_fst ‹_› (.xlateAt hs)))
        · exact .sendArg (.of_fst ‹_› (.xlateAt hs))
    · exact .niPump (.atcPut (.of_fst ‹_› (.xlateAt hs)))
    · split
      · split
        · exact .niPump (.retire (.of_fst ‹_› (.xlateAt hs)))
        · exact .niPump (.answer (.modAcc (.logHome (.of_fst ‹_› (.xlateAt hs)))))
      · split
        · exact .niPump (.retire (.of_fst ‹_› (.xlateAt hs)))
        · exact .niPump (.answer (.modAcc (.logHome (.of_fst ‹_› (.xlateAt hs)))))

theorem MemInv.failWalk {w : Walk} {kind : Nat} {s : State} (hs : MemInv s) : MemInv (failWalk w kind s) := .same hs

theorem MemInv.walkStep {s : State} (hs : MemInv s) : MemInv (walkStep s) := by
  unfold Machine.walkStep
  dsimp only
  split
  · exact hs
  · split
    · exact .same (.of_fst ‹_› (.walkPage hs))
    · refine .push ?_
      split
      · exact .push (.same (.of_fst ‹_› (.walkPage hs)))
      · exact .of_fst ‹_› (.walkPage hs)
    · exact .failWalk (.same (.of_fst ‹_› (.walkPage hs)))

theorem MemInv.zeroingStep {s : State} (hs : MemInv s) : MemInv (zeroingStep s) := .zeroFrame (.same hs)

theorem MemInv.wcsEvictStep {s : State} (hs : MemInv s) : MemInv (wcsEvictStep s) := by
  unfold Machine.wcsEvictStep
  dsimp only
  split
  · exact hs
  · exact .ite hs (.settle (.startAcc (.same hs)))

theorem MemInv.itomwrStep {s : State} (hs : MemInv s) : MemInv (itomwrStep s) := .storeDone hs

/-! ### Direct requests -/

theorem MemInv.evictHostLine {ctx line : Nat} {s : State} (hs : MemInv s) : MemInv (evictHostLine ctx line s) := .purgeLines hs

theorem MemInv.takeSector {hs ctx vs : Nat} {st : HSt} {s : State} (hm : MemInv s) : MemInv (takeSector hs ctx vs st s) := by
  unfold Machine.takeSector
  extract_lets s1 known s2
  have h1 : MemInv s1 := by
    unfold s1
    split
    · exact .ite hm (.evictHostLine hm)
    · exact hm
  have h2 : MemInv s2 := by
    unfold s2
    split
    · exact h1
    · split
      · exact .evictHostLine h1
      · exact h1
  exact .ite (.same h2) (.same h2)

theorem MemInv.failLine {ctx line kind : Nat} {s : State} (hs : MemInv s) : MemInv (failLine ctx line kind s) := .same hs

theorem MemInv.getSectors {h ctx line : Nat} {wr : Bool} {x : Xl} {s : State} (hs : MemInv s) : MemInv (getSectors h ctx line wr x s).1 := by
  unfold Machine.getSectors
  dsimp only
  split
  · exact hs
  · split
    · exact hs
    · split
      · split
        · exact .foldl (.foldl hs (fun _ _ => .tell)) (fun _ _ => .takeSector)
        · exact .fillSlice (.foldl (.foldl hs (fun _ _ => .tell)) (fun _ _ => .takeSector))
      · split
        · exact .foldl (.foldl hs (fun _ _ => .tell)) (fun _ _ => .takeSector)
        · exact .fillSlice (.foldl (.foldl hs (fun _ _ => .tell)) (fun _ _ => .takeSector))

theorem MemInv.logDie {w : Who} {kind ctx home va : Nat} {s : State} (hs : MemInv s) : MemInv (logDie w kind ctx home va s) :=
  .ite (.logXlate hs) (.logErr hs)

theorem MemInv.uncachedHost {w : Who} {ctx home va : Nat} {wr : Bool} {x : Xl} {s : State} (hs : MemInv s) :
    MemInv (uncachedHost w ctx home va wr x s).1 := .ite_fst (.ite_fst (.logDie hs) hs) (.askHost hs)

theorem MemInv.sectorGate {w : Who} {ctx home va : Nat} {wr : Bool} {x : Xl} {s : State} (hs : MemInv s) :
    MemInv (sectorGate w ctx home va wr x s).1 := by
  unfold Machine.sectorGate
  dsimp only
  split
  · exact hs
  · split
    · exact .logDie (.of_fst ‹_› (.xlateNow hs))
    · exact .of_fst ‹_› (.xlateNow hs)
    · split
      · exact .of_fst ‹_› (.getSectors (.of_fst ‹_› (.xlateNow hs)))
      · exact .logDie (.of_fst ‹_› (.getSectors (.of_fst ‹_› (.xlateNow hs))))
      · exact .of_fst ‹_› (.getSectors (.of_fst ‹_› (.xlateNow hs)))

theorem MemInv.dropHolders {home ctx va : Nat} {s t : State} (hs : MemInv s)
    (e : Machine.dropHolders home ctx va s = some t) : MemInv t := by
  obtain ⟨_, _, rfl⟩ := Option.map_eq_some_iff.1 e
  exact .tear hs

theorem MemInv.locateGate {w : Who} {ctx home va : Nat} {wr : Bool} {x : Xl} {s : State} (hs : MemInv s) :
    MemInv (locateGate w ctx home va wr x s).1 := by
  unfold Machine.locateGate
  split
  · exact hs
  · split
    · rename_i e
      obtain ⟨_, e⟩ := Option.ite_none_right_eq_some.1 e
      exact .dropHolders hs e
    · split
      · exact .logWho (.of_fst ‹_› (.ite_fst (.granGate hs) hs))
      · exact .of_fst ‹_› (.ite_fst (.granGate hs) hs)
      · have h := MemInv.of_fst ‹_› (.ite_fst (.granGate hs) hs)
        exact .ite_fst h (.ite_fst (.uncachedHost h) (.sectorGate h))

theorem MemInv.homeXl {home ctx va vd : Nat} {wr : Bool} {s : State} (hs : MemInv s) : MemInv (homeXl home ctx va vd wr s).1 := by
  unfold Machine.homeXl
  split
  · exact hs
  · exact .xlateNow hs

theorem MemInv.findLine {w : Who} {ctx va : Nat} {wr fetch : Bool} {s : State} (hs : MemInv s) : MemInv (findLine w ctx va wr fetch s).1 := by
  unfold Machine.findLine
  split
  · exact .logNi hs
  · split
    · exact .logNi (.of_fst ‹_› (.placeAt hs))
    · split
      · exact .logWho (.of_fst ‹_› (.homeXl (.of_fst ‹_› (.placeAt hs))))
      · exact .of_fst ‹_› (.homeXl (.of_fst ‹_› (.placeAt hs)))
      · split
        · exact .logWho (.of_fst ‹_› (.homeXl (.of_fst ‹_› (.placeAt hs))))
        · split
          · exact .of_fst ‹_› (.homeXl (.of_fst ‹_› (.placeAt hs)))
          · split
            · exact .atcPut (.of_fst ‹_› (.homeXl (.of_fst ‹_› (.placeAt hs))))
            · split
              · exact .logWho (.of_fst ‹_› (.homeXl (.of_fst ‹_› (.placeAt hs))))
              · exact .of_fst ‹_› (.homeXl (.of_fst ‹_› (.placeAt hs)))

theorem MemInv.locate {w : Who} {ctx va : Nat} {wr fetch : Bool} {s : State} (hs : MemInv s) : MemInv (locate w ctx va wr fetch s).1 := by
  unfold Machine.locate
  split
  · exact .of_fst ‹_› (.findLine hs)
  · split
    · exact .of_fst ‹_› (.findLine hs)
    · exact .locateGate (.of_fst ‹_› (.findLine hs))

theorem MemInv.rdAt {w : Who} {ctx va n : Nat} {x : Xl} {s : State} (hs : MemInv s) : MemInv (rdAt w ctx va n x s).1 := .ite_fst (.logWho hs) hs

theorem MemInv.rdLine {w : Who} {ctx va n : Nat} {fetch : Bool} {s : State} (hs : MemInv s) : MemInv (rdLine w ctx va n fetch s).1 := by
  unfold Machine.rdLine
  split
  · exact .of_fst ‹_› (.locate hs)
  · exact .rdAt (.of_fst ‹_› (.locate hs))

theorem MemInv.wrLine {w : Who} {ctx va : Nat} {l : List Byte} {s : State} (hs : MemInv s) : MemInv (wrLine w ctx va l s).1 := by
  unfold Machine.wrLine
  dsimp only
  split
  · exact .of_fst ‹_› (.locate hs)
  · split
    · exact .logWho (.of_fst ‹_› (.locate hs))
    · split
      · exact .dirtySectors (.ctlWr (.of_fst ‹_› (.locate hs)))
      · exact .ctlWr (.of_fst ‹_› (.locate hs))

theorem MemInv.rdRange {w : Who} {ctx va n : Nat} {s : State} (hs : MemInv s) : MemInv (rdRange w ctx va n s).1 := by
  unfold Machine.rdRange
  refine .foldl_fst hs ?_
  intro _ _ h1
  split
  · exact h1
  · split <;> exact .of_fst ‹_› (.rdLine h1)

theorem MemInv.wrRange {w : Who} {ctx va : Nat} {l : List Byte} {s : State} (hs : MemInv s) : MemInv (wrRange w ctx va l s).1 := by
  unfold Machine.wrRange
  refine .foldl_fst hs ?_
  intro _ _ h1
  split
  exact .of_fst ‹_› (.wrLine h1)

/-! ### The host link -/

theorem MemInv.fetchSectors {ctx line : Nat} {wr : Bool} {x : Xl} {s : State} (hs : MemInv s) : MemInv (fetchSectors ctx line wr x s) := by
  unfold Machine.fetchSectors
  split
  · exact .of_fst ‹_› (.getSectors hs)
  · exact .failLine (.of_fst ‹_› (.getSectors hs))
  · exact .sendArg (.of_fst ‹_› (.getSectors hs))

theorem MemInv.fetchArrives {s : State} (hs : MemInv s) : MemInv (fetchArrives s).1 := by
  unfold Machine.fetchArrives
  dsimp only
  split
  · exact hs
  · split
    · exact hs
    · exact .ite_fst (.dropMsg hs) (.same hs)

theorem MemInv.hostFetchStep {s : State} (hs : MemInv s) : MemInv (hostFetchStep s) := by
  unfold Machine.hostFetchStep
  extract_lets ctx line va wr again
  split
  · exact .sendArg (.of_fst ‹_› (.fetchArrives hs))
  · have h := MemInv.of_fst ‹_› (.fetchArrives hs)
    split
    · exact .sendArg h
    · split
      all_goals
        rename_i e
        have h2 := MemInv.of_fst e (by
          split
          · exact .ite (.touchD h) h
          · exact .walkPage h)
      · exact .sendArg h2
      · exact .failLine h2
      · exact .ite (.fetchSectors h2) h2

theorem MemInv.hostWrites {hs : Nat} {d : List Byte} {s : State} (hm : MemInv s) : MemInv (hostWrites hs d s) := .wr hm

theorem MemInv.shareSector {hs : Nat} {s : State} (hm : MemInv s) : MemInv (shareSector hs s) := .same hm

theorem MemInv.snoopTurn {ev : Instr} {h : HostSector} {s : State} (hs : MemInv s) : MemInv (snoopTurn ev h s).1 := by
  have hn : MemInv (if s.ev.a == 0 then s.newId else (s.ev.a, s)).2 := by
    split
    · exact .newId hs
    · exact hs
  unfold Machine.snoopTurn
  extract_lets line home
  split
  have h1 := MemInv.of_snd ‹_› hn
  extract_lets m
  split
  · exact .same h1
  · extract_lets m1
    split
    · exact .same h1
    · split
      exact .same (.of_fst ‹_› (.homeTurn h1))

theorem MemInv.snoopStep {kd : Snoop} {ev : Instr} {s : State} (hs : MemInv s) : MemInv (snoopStep kd ev s) := by
  unfold Machine.snoopStep
  dsimp only
  split
  · exact hs
  · split
    · exact .keep hs
    · split
      · split
        · exact .hostWrites (.tell (.dropMsg hs))
        · exact .tell (.dropMsg hs)
      · split
        · exact .push (.snoopTurn hs)
        · split
          · split
            · exact .push (.landLine (.snoopTurn hs))
            · split
              · exact .tell (.shareSector (.dropMsg (.landLine (.snoopTurn hs))))
              · split
                · exact .hostWrites (.purgeLines (.tell (.dropMsg (.landLine (.snoopTurn hs)))))
                · exact .purgeLines (.tell (.dropMsg (.landLine (.snoopTurn hs))))
              · exact .tell (.dropMsg (.landLine (.snoopTurn hs)))
          · split
            · exact .push (.snoopTurn hs)
            · split
              · exact .steer (.landLine (.dropMsg (.snoopTurn hs)))
              · exact .push (.tear (.snoopTurn hs))

theorem MemInv.flipWork {f : Flip} {s : State} (hs : MemInv s) : MemInv (flipWork f s) := by
  unfold Machine.flipWork
  dsimp only
  split
  · exact hs
  · split
    · exact .foldl hs (fun _ _ h1 => .takeSector (.ite h1 (.tell h1)))
    · exact .purgeLines hs

theorem MemInv.setBias {f : Flip} {s : State} (hs : MemInv s) : MemInv (setBias f s) := by
  unfold Machine.setBias
  dsimp only
  split
  · exact .same hs
  · exact .ite (.pteOr (.same hs)) (.pteClear (.same hs))

theorem MemInv.memWindow {o n : Nat} {s : State} (hs : MemInv s) : MemInv (memWindow o n s).1 := by
  unfold Machine.memWindow
  refine .foldl_fst hs ?_
  intro _ _ h1
  split <;> exact .of_fst ‹_› (.rdLine h1)

theorem MemInv.overKhl {ev : Instr} {f : State → State} {s : State} (hf : ∀ t, MemInv t → MemInv (f t)) (hs : MemInv s) : MemInv (overKhl ev f s) :=
  .ite hs (.ite (.keep hs) (hf _ hs))

theorem MemInv.barRead {s : State} (hs : MemInv s) : MemInv (barRead s) := .overKhl (fun _ h1 => .tell (.same (.memWindow h1))) hs

theorem MemInv.barWrite {s : State} (hs : MemInv s) : MemInv (barWrite s) := .overKhl (fun _ => .wrRange) hs

theorem MemInv.startRetrain {i : Nat} {s : State} (hs : MemInv s) : MemInv (startRetrain i s) := .ite hs (.setLink hs)

theorem MemInv.flitFails {i seq : Nat} {s : State} (hs : MemInv s) : MemInv (flitFails i seq s) :=
  .ite hs (.ite (.startRetrain (.setLink hs)) (.setLink hs))

theorem MemInv.flitStep {s : State} (hs : MemInv s) : MemInv (flitStep s) := by
  unfold Machine.flitStep
  dsimp only
  split
  · exact hs
  · split
    · exact .flitFails hs
    · exact .ite (.setLink hs) (.ite (.setLink hs) (.setLink hs))

theorem MemInv.replayStep {s : State} (hs : MemInv s) : MemInv (replayStep s) := .ite hs (.setLink hs)

theorem MemInv.khlDown {s : State} (hs : MemInv s) : MemInv (khlDown s) :=
  .tell (.foldl (.foldl (.same hs) (fun _ _ => .failLine)) (fun _ _ => .storeDone))

theorem MemInv.portDown {i : Nat} {s : State} (hs : MemInv s) : MemInv (portDown i s) := .ite (.kflDown (.setLink hs)) (.keep hs)

theorem MemInv.retrainStep {s : State} (hs : MemInv s) : MemInv (retrainStep s) := by
  unfold Machine.retrainStep
  dsimp only
  split
  · exact .portDown hs
  · split
    · exact hs
    · split
      · exact .setLink hs
      · split
        · exact .setLink hs
        · split
          · exact .startRetrain (.setLink hs)
          · exact .ite (.khlDown (.setLink hs)) (.portDown (.setLink hs))

theorem MemInv.equaliseStep {s : State} (hs : MemInv s) : MemInv (equaliseStep s) := by
  unfold Machine.equaliseStep
  dsimp only
  split
  · exact hs
  · split
    · exact .startRetrain hs
    · split
      · split
        · exact .setLink hs
        · exact hs
      · exact hs

/-! ### Memory instructions, common parts -/

theorem MemInv.retry {c : Ctx} {s : State} (hs : MemInv s) : MemInv (retry c s) := .modThrs hs

theorem MemInv.readLines {c : Ctx} {g : Nat} {words : List (Nat × Nat)} {s : State} (hs : MemInv s) : MemInv (readLines c g words s).1 := by
  unfold Machine.readLines
  refine .foldl_fst hs ?_
  intro _ _ h1
  dsimp only
  split
  · exact h1
  · split
    · exact h1
    · split <;> exact .of_fst ‹_› (.rdLine h1)

theorem MemInv.owe {c : Ctx} {id : Nat} {l : List APart} {s : State} (hs : MemInv s) : MemInv (owe c id l s) :=
  .foldl hs (fun _ _ h1 => .ite (.modGrp h1) (.modThr h1))

theorem MemInv.launchReads {c : Ctx} {kind : AKind} {track : Nat} {acq : Bool} {l : List (Nat × List APart)} {s : State} (hs : MemInv s) :
    MemInv (launchReads c kind track acq l s) := by
  unfold Machine.launchReads
  refine .foldl hs ?_
  intro _ _ h1
  dsimp only
  split
  · exact .foldl (.startAcc (.owe h1)) (fun _ _ => .modThr)
  · exact .startAcc (.owe h1)

theorem MemInv.landElem {c : Ctx} {p : APart} {v : Nat} {err : Bool} {s : State} (hs : MemInv s) : MemInv (landElem c p v err s) := by
  unfold Machine.landElem
  dsimp only
  split
  · exact .putElem hs
  · exact .ite (.modGrp (.putElem hs)) (.modThr (.putElem hs))

theorem MemInv.nearPart {c : Ctx} {track : Nat} {s : State} (hs : MemInv s) : MemInv (nearPart c track s) := .push hs

theorem MemInv.openParts {c : Ctx} {near : Bool} {far : Nat} {s : State} (hs : MemInv s) : MemInv (openParts c near far s).2 := by
  unfold Machine.openParts
  split
  · exact .sigAt hs
  · split
    split
    · exact .nearPart (.of_snd ‹_› (.openTrack hs))
    · exact .of_snd ‹_› (.openTrack hs)

theorem MemInv.loadElems {c : Ctx} {acq : Bool} {l : List Elem} {s0 s : State} (hs : MemInv s) : MemInv (loadElems c acq l s0 s) := by
  unfold Machine.loadElems
  dsimp only
  exact .launchReads (.openParts (.foldl hs (fun _ _ => .landElem)))

theorem MemInv.zeroLanes {c : Ctx} {k n : Nat} {s : State} (hs : MemInv s) : MemInv (zeroLanes c k n s) :=
  .foldl hs (fun _ _ h1 => .foldl h1 (fun _ _ => .putV))

theorem MemInv.localWrite {t : Nat} {sp : Space} {l : List Elem} {s : State} (hs : MemInv s) : MemInv (localWrite t sp l s) := by
  unfold Machine.localWrite
  dsimp only
  split
  · exact hs
  · split
    · exact .evalPort (.foldl (.disturb (.modLocal hs)) (fun _ _ => .noteWrite))
    · exact .disturb (.modLocal hs)

theorem MemInv.storeElems {c : Ctx} {msc : Nat} {l : List Elem} {s : State} (hs : MemInv s) : MemInv (storeElems c msc l s) := by
  unfold Machine.storeElems
  dsimp only
  exact .foldl (.countLocal (.openTrack (.localWrite (.localWrite hs)))) (fun _ _ h1 => .startAcc (.foldl h1 (fun _ _ => .modThr)))

theorem DescInv.loadDesc {f : AddrForm} {o : OpM} : DescInv (loadDesc f o) := { eff := fun _ _ h => .ite (.zeroLanes (.loadElems h)) (.loadElems h) }

theorem DescInv.storeDesc {f : AddrForm} {o : OpM} : DescInv (storeDesc f o) := { eff := fun _ _ h => .storeElems h }

theorem MemInv.localAtom {t op ty : Nat} {k : Space × Nat} {ps : List APart} {s : State} (hs : MemInv s) : MemInv (localAtom t op ty k ps s).1 := by
  unfold Machine.localAtom
  dsimp only
  split
  · exact hs
  · exact .portWrite (.ite (.foldl hs (fun _ _ => .noteWrite)) hs)

theorem MemInv.atomRequest {c : Ctx} {op ty track : Nat} {acq : Bool} {k : Space × Nat} {l : List Contrib} {s : State} (hs : MemInv s) :
    MemInv (atomRequest c op ty track acq k l s) := by
  unfold Machine.atomRequest
  dsimp only
  split
  · split
    · exact .foldl (.startAcc (.owe (.foldl hs (fun _ _ => .modThr)))) (fun _ _ => .modThr)
    · exact .startAcc (.owe (.foldl hs (fun _ _ => .modThr)))
  · exact .foldl (.foldl (.localAtom hs) (fun _ _ => .landElem)) (fun _ _ => .countLocal)

theorem DescInv.atomDesc {op : Nat} {h : Hdr} {o : OpM} : DescInv (atomDesc op h o) := by
  refine { eff := fun _ _ h => ?_ }
  dsimp only [Machine.atomDesc]
  exact .foldl (.openParts h) (fun _ _ => .atomRequest)

theorem MemInv.redRequest {c : Ctx} {op : Nat} {o : OpM} {rec track : Nat} {k : Space × Nat} {l : List Contrib} {s : State} (hs : MemInv s) :
    MemInv (redRequest c op o rec track k l s) := by
  unfold Machine.redRequest
  dsimp only
  split
  · exact .startAcc (.foldl hs (fun _ _ => .modThr))
  · refine .foldl ?_ (fun _ _ => .countLocal)
    split
    · exact .syncApply (.localAtom hs)
    · exact .localAtom hs

theorem DescInv.redDesc {op : Nat} {h : Hdr} {o : OpM} : DescInv (redDesc op h o) := by
  refine { eff := fun _ _ h => ?_ }
  dsimp only [Machine.redDesc]
  exact .foldl (.openTrack h) (fun _ _ => .redRequest)

/-! ### Memory instructions -/

theorem MemInv.loadPriv {c : Ctx} {es : List Elem} {s : State} (hs : MemInv s) : MemInv (loadPriv c es s).1 := by
  unfold Machine.loadPriv
  refine .foldl_fst hs ?_
  intro _ _ h1
  dsimp only
  split
  · exact h1
  · split
    · exact .of_fst ‹_› (.readLines h1)
    · exact .landElem (.of_fst ‹_› (.readLines h1))
    · exact .landElem (.of_fst ‹_› (.readLines h1))

theorem DescInv.sldDesc {o : OpM} : DescInv (sldDesc o) := by
  refine { eff := fun _ _ h => ?_ }
  dsimp only [Machine.sldDesc]
  split
  · exact .sigSoon h
  · split
    · exact h
    · split
      · exact .retry (.of_fst ‹_› (.loadPriv h))
      · split
        · exact .sigAt (.of_fst ‹_› (.loadPriv h))
        · exact .loadElems (.of_fst ‹_› (.loadPriv h))

theorem DescInv.wspillDesc {o : OpI} : DescInv (wspillDesc o) := { eff := fun _ _ h => .foldl (.storeElems h) (fun _ _ => .modThr) }

theorem DescInv.wfillDesc {o : OpI} : DescInv (wfillDesc o) := { eff := fun _ _ h => .loadElems (.foldl h (fun _ _ => .modThr)) }

/-! ### Tensor accesses -/

theorem MemInv.readThrough {c : Ctx} {g : Nat} {sp : Space} {off n : Nat} {s : State} (hs : MemInv s) : MemInv (readThrough c g sp off n s).1 := by
  unfold Machine.readThrough
  dsimp only
  split
  · exact hs
  · exact hs
  · exact .readLines hs
  · exact .readLines hs

theorem MemInv.hldSeen {o : OpT} {c : Ctx} {s : State} (hs : MemInv s) : MemInv (hldSeen o c s) := by
  unfold Machine.hldSeen
  split
  · exact hs
  · split
    · exact hs
    · exact .readThrough hs

theorem DescInv.hldDesc {o : OpT} : DescInv (hldDesc o) := by
  refine { eff := fun _ _ h => ?_, seen := fun _ _ h => .hldSeen h }
  dsimp only [Machine.hldDesc]
  split
  · exact .sigSoon h
  · split
    · exact h
    · split
      · exact .sigSoon (.modGrp (.of_fst ‹_› (.readThrough h)))
      · exact .retry (.of_fst ‹_› (.readThrough h))
      · exact .of_fst ‹_› (.readThrough h)

theorem DescInv.hclrDesc {o : OpT} : DescInv (hclrDesc o) := { eff := fun _ _ h => .ite (.sigSoon h) (.modGrp (.sigSoon h)) }

theorem MemInv.tensorZero {o : OpT} {h : Shape} {c : Ctx} {s0 s : State} (hs : MemInv s) : MemInv (tensorZero o h c s0 s) := by
  unfold Machine.tensorZero
  refine .foldl hs ?_
  intro _ _ h1
  refine .foldl h1 ?_
  intro _ _ h2
  dsimp only
  split
  · exact .landElem h2
  · exact h2

theorem DescInv.tldDesc {o : OpT} : DescInv (tldDesc o) := by
  refine { eff := fun _ _ h => ?_ }
  dsimp only [Machine.tldDesc]
  split
  · exact h
  · split
    · exact .zeroLanes (.loadElems (.tensorZero h))
    · exact .loadElems (.tensorZero h)

theorem DescInv.tstDesc {o : OpT} : DescInv (tstDesc o) := by
  refine { eff := fun _ _ h => ?_ }
  dsimp only [Machine.tstDesc]
  split
  · exact h
  · exact .storeElems h

theorem MemInv.putCast {o : OpG} {n : Nat} {f : Nat → Nat} {c : Ctx} {s : State} (hs : MemInv s) : MemInv (putCast o n f c s) := by
  unfold Machine.putCast
  dsimp only
  split
  · split
    · exact .putS (.sigAt hs)
    · exact .sigAt hs
  · exact .foldl (.sigAt hs) (fun _ _ => .putVs)

theorem DescInv.sptDesc {o : OpG} : DescInv (sptDesc o) := { eff := fun _ _ h => .putCast h }

theorem DescInv.cvtaDesc {o : OpG} : DescInv (cvtaDesc o) := { eff := fun _ _ h => .putCast h }

theorem DescInv.cvtsDesc {o : OpG} : DescInv (cvtsDesc o) := { eff := fun _ _ h => .putCast h }

theorem DescInv.pfDesc {o : OpM} : DescInv (pfDesc o) := { eff := fun _ _ h => .foldl (.sigSoon h) (fun _ _ => .startAcc) }

theorem MemInv.flushLine {c : Ctx} {track line : Nat} {ps : List APart} {s : State} (hs : MemInv s) : MemInv (flushLine c track line ps s) := by
  unfold Machine.flushLine
  dsimp only
  exact .lineTry (.same (.newId (.foldl hs (fun _ _ => .modThr))))

theorem MemInv.drainLine {u ctx line : Nat} {s : State} (hs : MemInv s) : MemInv (drainLine u ctx line s) := by
  unfold Machine.drainLine
  dsimp only
  split
  · exact hs
  · exact .ite hs (.settle (.startAcc (.same hs)))

theorem MemInv.flushLines {o : OpM} {n : Nat} {first : Nat → Nat → Nat → State → State} {c : Ctx} {s : State}
    (hfirst : ∀ a b c t, MemInv t → MemInv (first a b c t)) (hs : MemInv s) :
    MemInv (flushLines o n first c s) := by
  unfold Machine.flushLines
  dsimp only
  exact .foldl (.openTrack hs) (fun _ _ h1 => .flushLine (hfirst _ _ _ _ h1))

theorem DescInv.flushDesc {o : OpM} : DescInv (flushDesc o) := { eff := fun _ _ h => .flushLines (fun _ _ _ _ => .drainLine) h }

theorem MemInv.dropLine {u ctx line : Nat} {s : State} (hs : MemInv s) : MemInv (dropLine u ctx line s) :=
  .settle (.wcsDrop (.foldl hs (fun _ _ h1 => .ownersDone (.same h1))))

theorem DescInv.discDesc {o : OpM} : DescInv (discDesc o) := { eff := fun _ _ h => .flushLines (fun _ _ _ _ => .dropLine) h }

theorem DescInv.syncwaitDesc {h : Hdr} {o : OpM} : DescInv (syncwaitDesc h o) := by
  refine { eff := fun _ _ h => ?_ }
  dsimp only [Machine.syncwaitDesc]
  split
  · split
    · exact .sigSoon (.foldl h (fun _ _ => .putSync))
    · exact .foldl (.modGrp (.modThrs (.raiseW (.foldl h (fun _ _ => .putSync))))) (fun _ _ h1 => .ite h1 (.timeWord h1))
  · split
    · exact .sigSoon (.foldl h (fun _ _ => .putSync))
    · exact .foldl (.modGrp (.modThrs (.raiseW (.foldl h (fun _ _ => .putSync))))) (fun _ _ h1 => .ite h1 (.timeWord h1))

theorem DescInv.syncaddDesc {h : Hdr} {o : OpM} : DescInv (syncaddDesc h o) :=
  { eff := fun _ _ h => .countLocal (.sigSoon (.foldl h (fun _ _ h1 => .noteWrite (.syncApply h1)))) }

/-! ### Asynchronous operations -/

theorem MemInv.modOp {s : State} {id : Nat} {f : AOp → AOp} (hs : MemInv s) : MemInv (State.modOp s id f) := by
  unfold Machine.State.modOp
  split
  · exact hs
  · exact .same hs

theorem MemInv.touchXl {w : Who} {ctx va : Nat} {wr : Bool} {s : State} (hs : MemInv s) : MemInv (touchXl w ctx va wr s).1 := by
  unfold Machine.touchXl
  split
  · exact hs
  · split
    · exact .of_fst ‹_› (.place hs)
    · split
      · exact .of_fst ‹_› (.homeXl (.of_fst ‹_› (.place hs)))
      · exact .homeXl (.of_fst ‹_› (.place hs))

theorem MemInv.globSpans {w : Who} {ctx va n : Nat} {wr : Bool} {s : State} (hs : MemInv s) : MemInv (globSpans w ctx va n wr s).1 := by
  unfold Machine.globSpans
  refine .foldl_fst hs ?_
  intro _ _ h1
  split <;> exact .of_fst ‹_› (.touchXl h1)

theorem MemInv.opLocate {p : AOp} {va : Nat} {wr : Bool} {s : State} (hs : MemInv s) : MemInv (opLocate p va wr s).1 := by
  unfold Machine.opLocate
  split
  · exact hs
  · exact .locate hs

theorem MemInv.opRead {p : AOp} {va n : Nat} {s : State} (hs : MemInv s) : MemInv (opRead p va n s).1 := by
  unfold Machine.opRead
  split
  · exact .of_fst ‹_› (.opLocate hs)
  · exact .rdAt (.of_fst ‹_› (.opLocate hs))

theorem MemInv.spotSpans {w : Who} {ctx t : Nat} {k : Space × Nat} {n : Nat} {wr : Bool} {s : State} (hs : MemInv s) :
    MemInv (spotSpans w ctx t k n wr s).1 := by
  unfold Machine.spotSpans
  split
  · exact .globSpans hs
  · exact hs

theorem MemInv.startOp {p : AOp} {s : State} (hs : MemInv s) : MemInv (startOp p s).2 := by
  unfold Machine.startOp
  dsimp only
  exact .same (.foldl (.same (.newId (.newId hs))) (fun _ _ => .areaPut))

theorem MemInv.noteReads {l : List (Area × Nat)} {s : State} (hs : MemInv s) : MemInv (noteReads l s) := .same hs

theorem MemInv.landOp {id : Nat} {s : State} (hs : MemInv s) : MemInv (landOp id s) := by
  unfold Machine.landOp
  dsimp only
  split
  · exact hs
  · split
    · exact .evalPort (.foldl (.foldl (.foldl (.noteReads (.foldl (.foldl (.same hs) (fun _ _ => .landByte)) (fun _ _ => .landByte)))
        (fun _ _ => .landByte)) (fun _ _ => .landPoison)) (fun _ _ h1 => .ite (.dirtySectors h1) h1))
    · exact .foldl (.foldl (.foldl (.noteReads (.foldl (.foldl (.same hs) (fun _ _ => .landByte)) (fun _ _ => .landByte))) (fun _ _ => .landByte))
        (fun _ _ => .landPoison)) (fun _ _ h1 => .ite (.dirtySectors h1) h1)

theorem MemInv.afterOp {p : AOp} {s : State} (hs : MemInv s) : MemInv (afterOp p s) := by
  unfold Machine.afterOp
  dsimp only
  split
  · split
    · exact hs
    · exact .ite (.push (.same hs)) (.same hs)
  · exact .ite hs (.ite (.push hs) (.ite (.push hs) hs))

theorem MemInv.sendOp {ev : Instr} {p : AOp} {s : State} (hs : MemInv s) : MemInv (sendOp ev p s) := by
  unfold Machine.sendOp
  dsimp only
  refine .push (.startOp ?_)
  split
  · exact .forEach hs (fun _ _ => .raiseW)
  · exact hs

theorem MemInv.takeOp {id : Nat} {s : State} (hs : MemInv s) : MemInv (takeOp id s) := by
  unfold Machine.takeOp
  dsimp only
  split
  · exact .forEach (.modOp (.newId hs)) (fun _ _ => .lowerW)
  · exact .modOp (.newId hs)

/-! ### Engines -/

theorem MemInv.withSpans {p : AOp} {dst src : Option ((Space × Nat) × Nat)} {s : State} (hs : MemInv s) : MemInv (withSpans p dst src s).1 := by
  unfold Machine.withSpans
  dsimp only
  split
  · refine .spotSpans ?_
    split
    · exact .spotSpans hs
    · exact hs
  · split
    · exact .spotSpans hs
    · exact hs

theorem DescInv.copyDesc {o : OpE} : DescInv (copyDesc o) := by
  refine { eff := fun _ _ h => ?_ }
  dsimp only [Machine.copyDesc]
  split
  · exact .sigSoon h
  · split
    · exact .sendOp (.withSpans h)
    · exact h

theorem DescInv.tcopyDesc {o : OpE} : DescInv (tcopyDesc o) := by
  refine { eff := fun _ _ h => ?_ }
  dsimp only [Machine.tcopyDesc]
  split
  · exact .sigSoon h
  · split
    · exact .sendOp (.foldl_fst h (fun _ _ => .withSpans))
    · exact h

theorem DescInv.fktabDesc {o : OpE} : DescInv (fktabDesc o) := by
  refine { eff := fun _ _ h => ?_ }
  dsimp only [Machine.fktabDesc]
  split
  · exact .sigSoon h
  · split
    · exact .sendOp (.withSpans h)
    · exact h

theorem DescInv.fkdecDesc {o : OpE} : DescInv (fkdecDesc o) := by
  refine { eff := fun _ _ h => ?_ }
  dsimp only [Machine.fkdecDesc]
  split
  · exact .sigSoon h
  · split
    · exact .sendOp (.withSpans h)
    · exact h

theorem MemInv.engRead {p : AOp} {k : Space × Nat} {n : Nat} {s : State} (hs : MemInv s) : MemInv (engRead p k n s).1 := by
  unfold Machine.engRead
  dsimp only
  split
  · refine .foldl_fst hs ?_
    intro _ _ h1
    split
    · exact h1
    · split <;> exact .of_fst ‹_› (.opRead h1)
  · exact hs

theorem MemInv.engWrite {p : AOp} {k : Space × Nat} {l : List (Byte × Bool)} {s : State} (hs : MemInv s) : MemInv (engWrite p k l s).1 := by
  unfold Machine.engWrite
  dsimp only
  split
  · refine .foldl_fst hs ?_
    intro _ _ h1
    split
    · exact h1
    · split
      · exact .of_fst ‹_› (.opLocate h1)
      · exact .of_fst ‹_› (.opLocate h1)
      · split
        · exact .logWho (.of_fst ‹_› (.opLocate h1))
        · exact .of_fst ‹_› (.opLocate h1)
  · exact hs

theorem MemInv.engMove {p : AOp} {dst src : Space × Nat} {n : Nat} {s : State} (hs : MemInv s) : MemInv (engMove p dst src n s).1 := by
  unfold Machine.engMove
  split
  · exact .of_fst ‹_› (.engRead hs)
  · split <;> exact .of_fst ‹_› (.engWrite (.of_fst ‹_› (.engRead hs)))

theorem MemInv.acceptStep {s : State} (hs : MemInv s) : MemInv (acceptStep s) := by
  unfold Machine.acceptStep
  dsimp only
  split
  · exact hs
  · exact .ite hs (.ite (.push hs) (.push (.takeOp hs)))

theorem MemInv.finishCmd {id : Nat} {s : State} (hs : MemInv s) : MemInv (finishCmd id s) := by
  unfold Machine.finishCmd
  dsimp only
  split
  · exact hs
  · refine .afterOp ?_
    split
    · exact .newId (.landOp (.modOp hs))
    · exact .same (.newId (.landOp (.modOp hs)))

theorem MemInv.bumpWord {id n : Nat} {err last : Bool} {s : State} (hs : MemInv s) : MemInv (bumpWord id n err last s) := by
  unfold Machine.bumpWord
  dsimp only
  split
  · exact .push hs
  · exact .ite (.finishCmd hs) (.push hs)

theorem MemInv.copyChunk {p : AOp} {s : State} (hs : MemInv s) : MemInv (copyChunk p s).1 := by
  unfold Machine.copyChunk
  dsimp only
  split
  · refine .foldl_fst hs ?_
    intro _ _ h1
    split
    · exact h1
    · split
      · split <;> exact .of_fst ‹_› (.engMove h1)
      · split <;> exact .of_fst ‹_› (.engWrite h1)
      · split <;> exact .of_fst ‹_› (.engWrite h1)
      · exact h1
  · split <;> exact .of_fst ‹_› (.engMove hs)

theorem MemInv.copyStep {s : State} (hs : MemInv s) : MemInv (copyStep s) := by
  unfold Machine.copyStep
  dsimp only
  split
  · exact hs
  · split
    · exact .push (.of_fst ‹_› (.copyChunk hs))
    · exact .bumpWord (.modOp (.of_fst ‹_› (.copyChunk hs)))

theorem MemInv.tableStep {s : State} (hs : MemInv s) : MemInv (tableStep s) := by
  unfold Machine.tableStep
  dsimp only
  split
  · exact hs
  · split
    · exact .push hs
    · split
      · exact hs
      · split
        · exact .push (.of_fst ‹_› (.engRead hs))
        · exact .bumpWord (.same (.of_fst ‹_› (.engRead hs)))

theorem MemInv.decodeCount {id : Nat} {s : State} (hs : MemInv s) : MemInv (decodeCount id s) := .bumpWord (.modOp hs)

theorem MemInv.decodeStep {s : State} (hs : MemInv s) : MemInv (decodeStep s) := by
  unfold Machine.decodeStep
  dsimp only
  split
  · exact hs
  · split
    · exact .decodeCount hs
    · split
      · exact .push hs
      · split
        · split
          · exact .push (.of_fst ‹_› (.engRead hs))
          · exact .decodeCount (.modOp (.of_fst ‹_› (.engRead hs)))
        · exact hs

/-! ### The matrix unit, common parts -/

theorem MemInv.mxSend {c : Ctx} {p : AOp} {s : State} (hs : MemInv s) : MemInv (mxSend c p s) := .sendOp hs

theorem DescInv.mxDesc {o : OpE} {opds : List Opd} {pre chk : Ctx → State → List Trap} {go : Ctx → State → State}
    (hgo : ∀ a t, MemInv t → MemInv (go a t)) :
    DescInv (mxDesc o opds pre chk go) := { eff := fun _ _ h => .ite (.sigSoon h) (hgo _ _ h) }

theorem MemInv.spoilEls {p : AOp} {s : State} (hs : MemInv s) : MemInv (spoilEls p s) := .ite hs (.same hs)

theorem MemInv.completeOp {id : Nat} {r : Report} {s : State} (hs : MemInv s) : MemInv (completeOp id r s) := by
  unfold Machine.completeOp
  dsimp only
  split
  · exact hs
  · refine .afterOp ?_
    split
    · exact .syncApply (.portWrite (.spoilEls (.landOp hs)))
    · exact .spoilEls (.landOp hs)

theorem MemInv.withOuts {id : Nat} {outs : List ((Area × Nat) × Byte)} {spoil undef : List (Area × Nat)} {s : State} (hs : MemInv s) :
    MemInv (withOuts id outs spoil undef s) := .modOp hs

theorem MemInv.modArray {p : AOp} {f : MArray → MArray} {s : State} (hs : MemInv s) : MemInv (modArray p f s) := .same hs

theorem MemInv.putTile {id : Nat} {p : AOp} {k : Nat} {l : List ((Nat × Nat) × Elt)} {s : State} (hs : MemInv s) : MemInv (putTile id p k l s) :=
  .same (.modArray hs)

/-! ### The matrix unit -/

theorem DescInv.mapsetDesc {o : OpE} : DescInv (mapsetDesc o) := by
  refine { eff := fun _ _ h => ?_ }
  dsimp only [Machine.mapsetDesc]
  split
  · exact .sigSoon h
  · exact .countLocal (.noteWrite (.portWrite (.openTrack h)))

theorem DescInv.ofenceDesc : DescInv (ofenceDesc) := { eff := fun _ _ h => .foldl (.sigSoon h) (fun _ _ => .modGrp) }

theorem DescInv.wloadDesc {o : OpE} : DescInv (wloadDesc o) := .mxDesc (fun _ _ => .mxSend)

theorem MemInv.wloadRun {id : Nat} {p : AOp} {s : State} (hs : MemInv s) : MemInv (wloadRun id p s) := .completeOp (.modArray hs)

theorem DescInv.mmulDesc {o : OpE} : DescInv (mmulDesc o) := .mxDesc (fun _ _ => .mxSend)

theorem MemInv.mmulRun {id : Nat} {p : AOp} {s : State} (hs : MemInv s) : MemInv (mmulRun id p s) := by
  unfold Machine.mmulRun
  dsimp only
  split
  · exact .completeOp (.ite (.foldl hs (fun _ _ => .putTile)) hs)
  · refine .completeOp (.foldl_fst hs ?_)
    intro _ _ h1
    split
    · exact h1
    · exact .putTile h1

theorem DescInv.aclrDesc {o : OpE} : DescInv (aclrDesc o) := .mxDesc (fun _ _ => .mxSend)

theorem MemInv.aclrRun {id : Nat} {p : AOp} {s : State} (hs : MemInv s) : MemInv (aclrRun id p s) := .ite (.completeOp hs) (.completeOp (.putTile hs))

theorem DescInv.areadDesc {o : OpE} : DescInv (areadDesc o) := by
  unfold Machine.areadDesc
  refine .mxDesc ?_
  intro _ _ h
  dsimp only
  split
  · exact .mxSend h
  · split
    · exact .mxSend (.foldl_fst h (fun _ _ => .globSpans))
    · exact .mxSend h

theorem MemInv.areadPut {p : AOp} {f : Nat} {rows : List (List OutEl)} {s : State} (hs : MemInv s) : MemInv (areadPut p f rows s).1 := by
  unfold Machine.areadPut
  dsimp only
  split
  · refine .foldl_fst hs ?_
    intro _ _ h1
    split
    · exact h1
    · split <;> exact .of_fst ‹_› (.engWrite h1)
  · exact hs

theorem MemInv.areadRun {id : Nat} {p : AOp} {s : State} (hs : MemInv s) : MemInv (areadRun id p s) := by
  unfold Machine.areadRun
  dsimp only
  split
  · exact .completeOp hs
  · split
    · exact .push (.of_fst ‹_› (.areadPut hs))
    · refine .completeOp (.withOuts ?_)
      split
      · exact .putTile (.of_fst ‹_› (.areadPut hs))
      · exact .of_fst ‹_› (.areadPut hs)

/-! ### Rod and stack -/

theorem DescInv.rodDesc {opc : Nat} {o : OpE} : DescInv (rodDesc opc o) := .mxDesc (fun _ _ => .mxSend)

theorem MemInv.rodPair {i : Nat} {p : AOp} {j : Nat} {q : AOp} {s : State} (hs : MemInv s) : MemInv (rodPair i p j q s) := by
  unfold Machine.rodPair
  dsimp only
  split
  · exact .completeOp (.completeOp hs)
  · split
    · exact .completeOp (.completeOp hs)
    · exact .push (.modOp (.modOp hs))

theorem MemInv.rodPairs {n : Nat} {a : AOp} {s : State} (hs : MemInv s) : MemInv (rodPairs n a s) := by
  induction n generalizing a s with
  | zero =>
    rw [Machine.rodPairs]
    exact hs
  | succ n ih =>
    rw [Machine.rodPairs]
    split
    · exact hs
    · exact ih (.rodPair hs)

theorem MemInv.rodPairStep {s : State} (hs : MemInv s) : MemInv (rodPairStep s) := by
  unfold Machine.rodPairStep
  split
  · exact hs
  · exact .rodPairs hs

theorem MemInv.rodTimeoutStep {s : State} (hs : MemInv s) : MemInv (rodTimeoutStep s) := by
  unfold Machine.rodTimeoutStep
  split
  · exact hs
  · exact .ite hs (.ite (.rodPairs (.completeOp hs)) (.push hs))

theorem MemInv.rodMove {j : Nat} {q : AOp} {s : State} (hs : MemInv s) : MemInv (rodMove j q s) := by
  unfold Machine.rodMove
  dsimp only
  split
  · exact .ite (.push hs) (.completeOp (.completeOp (.putTile hs)))
  · exact hs

theorem MemInv.smvEligible {p : AOp} {d : Smv} {s : State} (hs : MemInv s) : MemInv (smvEligible p d s).1 := by
  unfold Machine.smvEligible
  refine .foldl_fst hs ?_
  intro _ _ h1
  split
  · exact h1
  · split
    · exact h1
    · split <;> exact .of_fst ‹_› (.touchXl h1)

theorem DescInv.smvDesc {o : OpE} : DescInv (smvDesc o) := by
  unfold Machine.smvDesc
  refine .mxDesc ?_
  intro _ _ h
  dsimp only
  split
  · exact .mxSend h
  · exact .mxSend (.foldl_fst h (fun _ _ => .globSpans))

theorem MemInv.smvRow {p : AOp} {d : Smv} {n : Nat} {s : State} (hs : MemInv s) : MemInv (smvRow p d n s).1 := by
  unfold Machine.smvRow
  dsimp only
  split
  · refine .of_fst ‹_› (.foldl_fst hs ?_)
    intro _ _ h1
    split
    · exact h1
    · split <;> exact .of_fst ‹_› (.opRead h1)
  · refine .globSpans (.of_fst ‹_› (.foldl_fst hs ?_))
    intro _ _ h1
    split
    · exact h1
    · split <;> exact .of_fst ‹_› (.opRead h1)

theorem MemInv.smvRun {id : Nat} {p : AOp} {s : State} (hs : MemInv s) : MemInv (smvRun id p s) := by
  unfold Machine.smvRun
  dsimp only
  split
  · exact .completeOp hs
  · split
    · exact .push (.of_fst ‹_› (.smvEligible hs))
    · exact .completeOp (.of_fst ‹_› (.smvEligible hs))
    · split
      · refine .push (.of_fst ‹_› (.foldl_fst (.of_fst ‹_› (.smvEligible hs)) ?_))
        intro _ _ h1
        split
        · exact h1
        · split <;> exact .of_fst ‹_› (.smvRow h1)
      · refine .completeOp (.withOuts (.of_fst ‹_› (.foldl_fst (.of_fst ‹_› (.smvEligible hs)) ?_)))
        intro _ _ h1
        split
        · exact h1
        · split <;> exact .of_fst ‹_› (.smvRow h1)

theorem DescInv.qrotDesc {o : OpE} : DescInv (qrotDesc o) := .mxDesc (fun _ _ => .mxSend)

theorem MemInv.qrotRun {id : Nat} {p : AOp} {s : State} (hs : MemInv s) : MemInv (qrotRun id p s) :=
  .ite (.completeOp hs) (.completeOp (.withOuts hs))

/-! ### Bushels -/

theorem MemInv.setPage {g : BCfg} {p v : Nat} {s : State} (hs : MemInv s) : MemInv (setPage g p v s) := .wr hs

theorem MemInv.allocBlock {g : BCfg} {o : Nat} {s : State} (hs : MemInv s) : MemInv (allocBlock g o s).1 := by
  unfold Machine.allocBlock
  dsimp only
  split
  · exact hs
  · exact .foldl (.foldl hs (fun _ _ => .setPage)) (fun _ _ => .setPage)

theorem MemInv.allocDown {g : BCfg} {n : Nat} {s : State} (hs : MemInv s) : MemInv (allocDown g n s).1 := by
  induction n generalizing g s with
  | zero =>
    rw [Machine.allocDown]
    split <;> exact .of_fst ‹_› (.allocBlock hs)
  | succ n ih =>
    rw [Machine.allocDown]
    split
    · exact .of_fst ‹_› (.allocBlock hs)
    · exact ih (.of_fst ‹_› (.allocBlock hs))

theorem MemInv.mergeFree {g : BCfg} {n n1 n2 : Nat} {s : State} (hs : MemInv s) : MemInv (mergeFree g n n1 n2 s) := by
  induction n generalizing g n1 n2 s with
  | zero =>
    rw [Machine.mergeFree]
    exact hs
  | succ n ih =>
    rw [Machine.mergeFree]
    exact .ite hs (ih (.setPage (.setPage hs)))

theorem MemInv.freePage {g : BCfg} {p : Nat} {s : State} (hs : MemInv s) : MemInv (freePage g p s) := .mergeFree (.setPage hs)

theorem MemInv.dropRef {g : BCfg} {s : State} {p : Nat} (hs : MemInv s) : MemInv (dropRef g s p) := .ite (.freePage hs) (.setPage hs)

theorem MemInv.putSeq {g : BCfg} {n : Nat} {d : BSeq} {s : State} (hs : MemInv s) : MemInv (putSeq g n d s) := .wr hs

theorem MemInv.copySlots {g : BCfg} {p q n : Nat} {s : State} (hs : MemInv s) : MemInv (copySlots g p q n s) :=
  .foldl hs (fun _ _ h1 => .foldl h1 (fun _ _ h2 => .wr (.wr h2)))

theorem MemInv.writeToken {g : BCfg} {n : Nat} {d : BSeq} {p : Nat} {tok : Token} {s : State} (hs : MemInv s) : MemInv (writeToken g n d p tok s) :=
  .putSeq (.setPage (.foldl hs (fun _ _ h1 => .wr (.wr h1))))

theorem MemInv.appendToken {g : BCfg} {n : Nat} {d : BSeq} {tok : Token} {s0 : State} (hs : MemInv s0) : MemInv (appendToken g n d tok s0).1 := by
  unfold Machine.appendToken
  dsimp only
  split
  · split
    · exact hs
    · split
      · exact hs
      · exact .writeToken (.of_fst ‹_› (.allocDown hs))
  · split
    · exact hs
    · split
      · exact .writeToken hs
      · split
        · exact hs
        · split
          · exact hs
          · exact .writeToken (.setPage (.foldl (.copySlots (.of_fst ‹_› (.allocDown hs))) (fun _ _ => .dropRef)))

theorem MemInv.forkSeq {g : BCfg} {d : BSeq} {c : Nat} {s : State} (hs : MemInv s) : MemInv (forkSeq g d c s).1 := by
  unfold Machine.forkSeq
  dsimp only
  split
  · exact hs
  · split
    · exact hs
    · exact .putSeq (.foldl hs (fun _ _ => .setPage))

theorem MemInv.dropSeq {g : BCfg} {n : Nat} {d : BSeq} {s : State} (hs : MemInv s) : MemInv (dropSeq g n d s).1 :=
  .putSeq (.foldl hs (fun _ _ => .dropRef))

theorem MemInv.poolInit {g : BCfg} {s : State} (hs : MemInv s) : MemInv (poolInit g s) :=
  .foldl (.foldl hs (fun _ _ => .setPage)) (fun _ _ => .putSeq)

theorem MemInv.bushelWrite {b v : Nat} {s : State} (hs : MemInv s) : MemInv (bushelWrite b v s) := by
  unfold Machine.bushelWrite
  dsimp only
  split
  · exact .ite hs (.ite hs (.same (.modBay hs)))
  · split
    · exact .ite (.poolInit (.modBay hs)) (.modBay hs)
    · exact .modBay hs

theorem DescInv.bushelDesc {opc : Nat} {o : OpE} : DescInv (bushelDesc opc o) := .mxDesc (fun _ _ => .sendOp)

theorem MemInv.bushelRun {id : Nat} {p : AOp} {s : State} (hs : MemInv s) : MemInv (Machine.bushelRun id p s) := by
  unfold Machine.bushelRun
  extract_lets g a n d done
  have hdone {r : State × Nat} {flags : Nat} (hr : MemInv r.1) : MemInv (done r flags) := .ite (.completeOp hr) (.completeOp hs)
  clear_value done
  split
  · exact .completeOp hs
  · exact .ite (hdone hs) (.ite (hdone hs) (.ite (hdone (.appendToken hs))
      (.ite (hdone (.forkSeq hs)) (.ite (hdone (.dropSeq hs)) (.ite (hdone hs) (.completeOp (.withOuts hs)))))))

theorem MemInv.asyncStep {s : State} (hs : MemInv s) : MemInv (asyncStep s) := by
  unfold Machine.asyncStep
  dsimp only
  split
  · exact hs
  · split
    · split
      · exact .push hs
      · split
        · exact .push (.push (.modOp (.takeOp hs)))
        · exact .push (.takeOp hs)
    · split
      · exact .rodMove hs
      · split
        · exact .push hs
        · split
          · exact .wloadRun hs
          · exact .mmulRun hs
          · exact .aclrRun hs
          · exact .areadRun hs
          · exact .smvRun hs
          · exact .qrotRun hs
          · exact .bushelRun hs

/-! ### Records -/

theorem MemInv.cpRead {a n : Nat} {s : State} (hs : MemInv s) : MemInv (cpRead a n s).1 := by
  unfold Machine.cpRead
  split
  · exact .rdRange hs
  · split
    · exact .logErr hs
    · exact .ite_fst hs (.ite_fst (.logErr hs) hs)

theorem MemInv.cpWrite {a : Nat} {l : List Byte} {s : State} (hs : MemInv s) : MemInv (cpWrite a l s).1 := by
  unfold Machine.cpWrite
  split
  · exact .wrRange hs
  · split
    · exact .logErr hs
    · exact .ite_fst (.same hs) (.ite_fst (.logErr hs) (.ctlWr hs))

theorem MemInv.sendPosted {s : State} (hs : MemInv s) : MemInv (sendPosted s) := .foldl (.same hs) (fun _ _ => .cpWrite)

theorem MemInv.cpNum {a n : Nat} {s : State} (hs : MemInv s) : MemInv (cpNum a n s).1 := by
  unfold Machine.cpNum
  split <;> exact .of_fst ‹_› (.cpRead hs)

theorem MemInv.vaNum {ctx va n : Nat} {s : State} (hs : MemInv s) : MemInv (vaNum ctx va n s).1 := by
  unfold Machine.vaNum
  split <;> exact .of_fst ‹_› (.rdRange hs)

theorem MemInv.msix {s : State} {v : Nat} (hs : MemInv s) : MemInv (State.msix s v) := .tell hs

theorem MemInv.modCtx {s : State} {ctx : Nat} {f : CtxRec → CtxRec} (hs : MemInv s) : MemInv (State.modCtx s ctx f) := by
  unfold Machine.State.modCtx
  split
  · exact hs
  · exact .same hs

theorem MemInv.modQueue {s : State} {ctx q : Nat} {f : Queue → Queue} (hs : MemInv s) : MemInv (State.modQueue s ctx q f) := .modCtx hs

theorem MemInv.armFaultVec {ctx : Nat} {s : State} (hs : MemInv s) : MemInv (armFaultVec ctx s) := by
  unfold Machine.armFaultVec
  dsimp only
  split
  · exact hs
  · exact .ite hs (.same (.modCtx hs))

theorem MemInv.appendFault {ctx : Nat} {f : FaultRec} {s : State} (hs : MemInv s) : MemInv (appendFault ctx f s) := by
  unfold Machine.appendFault
  dsimp only
  split
  · exact hs
  · split
    · exact hs
    · split
      · exact .of_fst ‹_› (.cpRead hs)
      · split
        · exact .cpWrite (.of_fst ‹_› (.cpRead hs))
        · exact .armFaultVec (.cpWrite (.cpWrite (.of_fst ‹_› (.cpRead hs))))

theorem MemInv.faultVecStep {s : State} (hs : MemInv s) : MemInv (faultVecStep s) := by
  unfold Machine.faultVecStep
  split
  · exact hs
  · exact .ite hs (.msix (.modCtx hs))

theorem MemInv.writeDone {ctx done value code node depth : Nat} {s : State} (hs : MemInv s) :
    MemInv (writeDone ctx done value code node depth s).1 := by
  unfold Machine.writeDone
  dsimp only
  split
  · exact .of_fst ‹_› (.wrRange hs)
  · split <;> exact .of_fst ‹_› (.wrRange (.of_fst ‹_› (.wrRange hs)))

theorem MemInv.queuePump {ctx q : Nat} {s : State} (hs : MemInv s) : MemInv (queuePump ctx q s) := by
  unfold Machine.queuePump
  dsimp only
  split
  · exact hs
  · split
    · exact hs
    · split
      · exact .modQueue (.of_fst ‹_› (.cpNum (.modQueue hs)))
      · exact .push (.of_fst ‹_› (.cpNum (.modQueue hs)))
      · exact .push (.modQueue (.of_fst ‹_› (.cpNum (.modQueue hs))))

theorem MemInv.queueNext {ctx q : Nat} {irq halt : Bool} {s : State} (hs : MemInv s) : MemInv (queueNext ctx q irq halt s) :=
  .queuePump (.modQueue (.ite (.msix (.cpWrite hs)) (.cpWrite hs)))

theorem MemInv.userDone {ctx q code node depth : Nat} {s : State} (hs : MemInv s) : MemInv (userDone ctx q code node depth s).1 := by
  unfold Machine.userDone
  dsimp only
  split
  · exact hs
  · split
    · exact hs
    · split
      · exact .of_fst ‹_› (.writeDone hs)
      · exact .queueNext (.of_fst ‹_› (.writeDone hs))

theorem MemInv.userQuick {ev : Instr} {code : Nat} {s : State} (hs : MemInv s) : MemInv (userQuick ev code s) := by
  unfold Machine.userQuick
  split
  · exact .of_fst ‹_› (.userDone hs)
  · exact .push (.of_fst ‹_› (.userDone hs))

theorem MemInv.userReadError {s : State} (hs : MemInv s) : MemInv (userReadError s) := by
  unfold Machine.userReadError
  split
  · exact hs
  · exact .ite hs (.queueNext (.appendFault hs))

/-! ### Events -/

theorem MemInv.portAckStep {s : State} (hs : MemInv s) : MemInv (portAckStep s) := .ite (.keep hs) (.trackDone (.modThrs hs))

theorem MemInv.drainThread {t g i : Nat} {s : State} (hs : MemInv s) : MemInv (drainThread t g i s) :=
  .foldl hs (fun _ _ h1 => .ite (.drainLine h1) h1)

theorem MemInv.drainUnit {u : Nat} {s : State} (hs : MemInv s) : MemInv (drainUnit u s) := .foldl hs (fun _ _ h1 => .ite (.drainLine h1) h1)

theorem MemInv.handoverStep {s : State} (hs : MemInv s) : MemInv (handoverStep s) := by
  unfold Machine.handoverStep
  dsimp only
  split
  · exact hs
  · split
    · exact hs
    · exact .ite (.push (.drainUnit (.drainThread hs))) (.modThr hs)

theorem MemInv.recallStep {s : State} (hs : MemInv s) : MemInv (recallStep s) := by
  unfold Machine.recallStep
  dsimp only
  split
  · exact hs
  · split
    · exact .push (.drainUnit (.drainThread hs))
    · split
      · exact .enterTrap (.evalMasks (.modThr hs))
      · exact .evalMasks (.modThr hs)

theorem MemInv.rejoinStep {s : State} (hs : MemInv s) : MemInv (rejoinStep s) := by
  unfold Machine.rejoinStep
  dsimp only
  split
  · exact hs
  · split
    · exact .push hs
    · split
      · exact hs
      · exact .enterTrap (.modThrs (.modGrp hs))

theorem MemInv.windowStep {s : State} (hs : MemInv s) : MemInv (windowStep s) := by
  unfold Machine.windowStep
  dsimp only
  split
  · exact hs
  · exact .push (.closeWindow hs)

theorem MemInv.syncUpdateStep {s : State} (hs : MemInv s) : MemInv (syncUpdateStep s) := by
  unfold Machine.syncUpdateStep
  dsimp only
  split
  · exact .ite (.syncApply hs) hs
  · split
    · exact .ite (.syncApply (.finishCmd hs)) (.finishCmd hs)
    · exact .push (.ite (.syncApply hs) hs)

theorem MemInv.wordRecord {t : Nat} {s : State} (hs : MemInv s) : MemInv (wordRecord t s) := by
  unfold Machine.wordRecord
  dsimp only
  split <;> exact .appendFault hs

theorem MemInv.timerStep {s : State} (hs : MemInv s) : MemInv (timerStep s) := by
  unfold Machine.timerStep
  dsimp only
  split
  · exact hs
  · split
    · exact .push hs
    · refine .push ?_
      split
      · exact .wordRecord (.portWrite (.restartWord hs))
      · exact .portWrite (.restartWord hs)

theorem MemInv.endGraphs {ctx code : Nat} {s : State} (hs : MemInv s) : MemInv (endGraphs ctx code s) :=
  .foldl (.foldl (.same (.foldl hs (fun _ _ => .killGrid))) (fun _ _ => .push)) (fun _ _ => .push)

theorem MemInv.fatalStep {s : State} (hs : MemInv s) : MemInv (fatalStep s) :=
  .foldl (.same (.logErr hs)) (fun _ _ h1 => .appendFault (.endGraphs h1))

theorem MemInv.countCorr {b : Nat} {s : State} (hs : MemInv s) : MemInv (countCorr b s) := .modBay hs

theorem MemInv.countReg {core : Nat} {fixed : Bool} {s : State} (hs : MemInv s) : MemInv (countReg core fixed s) := .modBay hs

theorem MemInv.localUpset {a : Area} {off : Nat} {ag : Agent} {s : State} (hs : MemInv s) : MemInv (localUpset a off ag s) := by
  unfold Machine.localUpset
  dsimp only
  split
  · exact hs
  · split
    · exact .modTeam (.logErr hs)
    · exact .same (.logErr hs)
    · exact .logErr hs

theorem MemInv.sramUpset {cl : Nat} {core : Option Nat} {off : Nat} {ag : Agent} {s : State} (hs : MemInv s) :
    MemInv (sramUpset cl core off ag s) := .ite hs (.same (.logErr hs))

theorem MemInv.controlUpset {t g : Nat} {s : State} (hs : MemInv s) : MemInv (controlUpset t g s) := .ite hs (.unresolved hs)

theorem MemInv.countMat {b hi : Nat} {s : State} (hs : MemInv s) : MemInv (countMat b hi s) := .modBay hs

theorem MemInv.markOp {b arr op code flags : Nat} {els : List (Nat × Nat × Nat)} {s : State} (hs : MemInv s) :
    MemInv (markOp b arr op code flags els s) := .ite (.modOp hs) hs

theorem MemInv.operandUpset {op row : Nat} {s : State} (hs : MemInv s) : MemInv (operandUpset op row s) := by
  unfold Machine.operandUpset
  split
  · exact hs
  · exact .ite (.logErr (.modOp hs)) hs

theorem MemInv.modMArray {b arr : Nat} {f : MArray → MArray} {s : State} (hs : MemInv s) : MemInv (modMArray b arr f s) := .same hs

theorem MemInv.poisonElt {b arr tile row col : Nat} {s : State} (hs : MemInv s) : MemInv (poisonElt b arr tile row col s) := .modMArray hs

theorem MemInv.applyUpset {u : Upset} {s : State} (hs : MemInv s) : MemInv (applyUpset u s) := by
  unfold Machine.applyUpset
  dsimp only
  split
  · exact .countCorr hs
  · exact .same hs
  · exact .ite (.same hs) hs
  · split
    · exact hs
    · exact .modAcc (.logErr hs)
  · split
    · exact .ite (.logErr (.poisonMem hs)) (.logOwn (.poisonMem hs))
    · exact .same hs
  · exact .localUpset hs
  · exact .sramUpset hs
  · exact .ite (.countReg hs) (.modThr (.countReg hs))
  · exact .ite (.countReg hs) (.modSet (.countReg hs))
  · exact .ite (.countReg hs) (.modGrp (.countReg hs))
  · exact .controlUpset hs
  · exact .ite (.markOp (.countMat hs)) (.markOp (.countMat hs))
  · split
    · exact .markOp (.countMat hs)
    · exact .markOp (.poisonElt (.countMat hs))
  · split
    · exact .markOp (.countMat hs)
    · exact .markOp (.modMArray (.countMat hs))
  · exact .operandUpset hs

/-! ### Launches -/

theorem MemInv.callDispatcher {d : Nat} {s : State} (hs : MemInv s) : MemInv (callDispatcher d s) := .ite hs (.push hs)

theorem MemInv.startTeam {t : Nat} {T : Team} {G : Grid} {s : State} (hs : MemInv s) : MemInv (startTeam t T G s) := .push (.same hs)

/-! ### Graphs -/

theorem MemInv.modRun {s : State} {r : Nat} {f : Run → Run} (hs : MemInv s) : MemInv (State.modRun s r f) := by
  unfold Machine.State.modRun
  split
  · exact .same hs
  · exact hs

theorem MemInv.modNode {s : State} {r n : Nat} {f : NodeSt → NodeSt} (hs : MemInv s) : MemInv (State.modNode s r n f) := .modRun hs

theorem MemInv.readyNode {r n : Nat} {s : State} (hs : MemInv s) : MemInv (readyNode r n s) := by
  unfold Machine.readyNode
  dsimp only
  split
  · exact hs
  · exact .same (.modNode hs)

theorem MemInv.readyNodes {r : Nat} {l : List Nat} {s : State} (hs : MemInv s) : MemInv (readyNodes r l s) := .foldl hs (fun _ _ => .readyNode)

theorem MemInv.endNode {r n code : Nat} {s : State} (hs : MemInv s) : MemInv (endNode r n code s) := .push (.modNode hs)

theorem MemInv.endInner {r n : Nat} {f : Nat × Nat × Nat} {s : State} (hs : MemInv s) : MemInv (endInner r n f s) := .push (.modNode hs)

theorem MemInv.readNodes {ctx va n n1 : Nat} {l : List NodeSt} {s : State} (hs : MemInv s) : MemInv (readNodes ctx va n n1 l s).1 := by
  induction n generalizing ctx va n1 l s with
  | zero =>
    rw [Machine.readNodes]
    exact hs
  | succ n ih =>
    rw [Machine.readNodes]
    split
    · exact .of_fst ‹_› (.vaNum hs)
    · exact ih (.of_fst ‹_› (.vaNum hs))

theorem MemInv.readGraph {ctx va depth : Nat} {s : State} (hs : MemInv s) : MemInv (readGraph ctx va depth s).1 := by
  unfold Machine.readGraph
  dsimp only
  split
  · exact hs
  · split
    · exact .of_fst ‹_› (.vaNum hs)
    · split
      · exact .of_fst ‹_› (.vaNum hs)
      · split
        · exact .of_fst ‹_› (.readNodes (.of_fst ‹_› (.vaNum hs)))
        · split
          · exact .of_fst ‹_› (.readNodes (.of_fst ‹_› (.vaNum hs)))
          · split <;> exact .of_fst ‹_› (.readNodes (.of_fst ‹_› (.vaNum hs)))

theorem MemInv.startRun {ctx q va depth : Nat} {parent : Option (Nat × Nat)} {s : State} (hs : MemInv s) :
    MemInv (startRun ctx q va depth parent s).1 := by
  unfold Machine.startRun
  split
  · exact .of_fst ‹_› (.readGraph hs)
  · have h := MemInv.of_fst ‹_› (.readGraph hs)
    exact .foldl (.same (.newId h)) fun _ _ h => .readyNode h

theorem MemInv.finishRun {r : Nat} {s : State} (hs : MemInv s) : MemInv (finishRun r s) := by
  unfold Machine.finishRun
  dsimp only
  split
  · exact hs
  · split
    · split
      · exact .same (.of_fst ‹_› (.userDone hs))
      · exact .push (.of_fst ‹_› (.userDone hs))
    · split
      · exact .endInner (.same hs)
      · exact .ite (.push (.same hs)) (.endNode (.same hs))

theorem MemInv.checkEnd {r : Nat} {s : State} (hs : MemInv s) : MemInv (checkEnd r s) := by
  unfold Machine.checkEnd
  split
  · exact hs
  · split
    · exact .ite hs (.finishRun (.same hs))
    · exact .ite (.finishRun hs) hs

theorem MemInv.readWord {R : Run} {va : Nat} {s : State} (hs : MemInv s) : MemInv (readWord R va s).1 := .vaNum hs

theorem MemInv.signalWord {R : Run} {va op val : Nat} {s : State} (hs : MemInv s) : MemInv (signalWord R va op val s).1 := by
  unfold Machine.signalWord
  dsimp only
  split
  · exact .of_fst ‹_› (.findLine hs)
  · split
    · exact .logWho (.of_fst ‹_› (.findLine hs))
    · split
      · exact .of_fst ‹_› (.locateGate (.of_fst ‹_› (.findLine hs)))
      · split
        · exact .logWho (.of_fst ‹_› (.locateGate (.of_fst ‹_› (.findLine hs))))
        · exact .cwr (.of_fst ‹_› (.locateGate (.of_fst ‹_› (.findLine hs))))

theorem MemInv.startNode {ev : Instr} {f : Run → NodeSt → State → State} {s : State} (hf : ∀ a b t, MemInv t → MemInv (f a b t))
    (hs : MemInv s) :
    MemInv (startNode ev f s) := by
  unfold Machine.startNode
  dsimp only
  split
  · exact hs
  · split
    · exact hs
    · split
      · exact hs
      · split
        · exact .checkEnd hs
        · split
          · exact .keep hs
          · split
            · exact hf _ _ _ hs
            · split
              · split
                · exact .keep (.of_fst ‹_› (.vaNum hs))
                · exact .endNode (.of_fst ‹_› (.vaNum hs))
              · exact hf _ _ _ (.modNode (.of_fst ‹_› (.vaNum hs)))

theorem MemInv.nopStep {s : State} (hs : MemInv s) : MemInv (nopStep s) := .startNode (fun _ _ _ => .endNode) hs

theorem MemInv.signalStep {s : State} (hs : MemInv s) : MemInv (signalStep s) := by
  unfold Machine.signalStep
  refine .startNode ?_ hs
  intro _ _ _ h1
  dsimp only
  split
  · exact .endNode h1
  · split
    · exact .keep (.of_fst ‹_› (.signalWord h1))
    · exact .endNode (.of_fst ‹_› (.signalWord h1))
    · exact .endNode (.of_fst ‹_› (.signalWord h1))

theorem MemInv.lookWord {R : Run} {N : NodeSt} {s : State} (hs : MemInv s) : MemInv (lookWord R N s) := by
  unfold Machine.lookWord
  dsimp only
  split
  · split
    · exact .push (.of_fst ‹_› (.readWord hs))
    · exact .endNode (.of_fst ‹_› (.readWord hs))
  · split
    · exact .endNode (.of_fst ‹_› (.readWord hs))
    · exact .push (.of_fst ‹_› (.readWord hs))

theorem MemInv.waitStep {s : State} (hs : MemInv s) : MemInv (waitStep s) :=
  .startNode (fun _ _ _ h1 => .ite (.endNode h1) (.lookWord (.ite h1 (.push h1)))) hs

theorem MemInv.rereadStep {s : State} (hs : MemInv s) : MemInv (rereadStep s) := by
  unfold Machine.rereadStep
  dsimp only
  split
  · exact hs
  · exact .ite (.lookWord hs) hs

theorem MemInv.timeoutStep {s : State} (hs : MemInv s) : MemInv (timeoutStep s) := by
  unfold Machine.timeoutStep
  dsimp only
  split
  · exact hs
  · exact .ite hs (.ite (.push hs) (.endNode hs))

theorem MemInv.runSub {ev : Instr} {R : Run} {va : Nat} {ok : State → State} {s : State} (hok : ∀ t, MemInv t → MemInv (ok t)) (hs : MemInv s) :
    MemInv (runSub ev R va ok s) := by
  unfold Machine.runSub
  dsimp only
  split
  · exact hok _ (.of_fst ‹_› (.startRun hs))
  · exact .keep (.of_fst ‹_› (.startRun hs))
  · exact .endInner (.appendFault (.of_fst ‹_› (.startRun hs)))

theorem MemInv.condStep {s : State} (hs : MemInv s) : MemInv (condStep s) := by
  unfold Machine.condStep
  refine .startNode ?_ hs
  intro _ _ _ h1
  dsimp only
  split
  · split
    · exact .keep (.of_fst ‹_› (.readWord h1))
    · exact .endNode (.of_fst ‹_› (.readWord h1))
  · split
    · split
      · exact .endNode (.of_fst ‹_› (.readWord h1))
      · exact .runSub (fun _ h2 => h2) (.of_fst ‹_› (.readWord h1))
    · split
      · exact .endNode (.of_fst ‹_› (.readWord h1))
      · exact .runSub (fun _ h2 => h2) (.of_fst ‹_› (.readWord h1))

theorem MemInv.whileStep {s : State} (hs : MemInv s) : MemInv (whileStep s) := by
  unfold Machine.whileStep
  refine .startNode ?_ hs
  intro _ _ _ h1
  dsimp only
  split
  · split
    · exact .keep (.of_fst ‹_› (.readWord h1))
    · exact .endNode (.of_fst ‹_› (.readWord h1))
  · split
    · exact .endNode (.of_fst ‹_› (.readWord h1))
    · split
      · exact .endNode (.of_fst ‹_› (.readWord h1))
      · exact .runSub (fun _ => .modNode) (.of_fst ‹_› (.readWord h1))

theorem MemInv.readRegions {R : Run} {va n n1 : Nat} {l : List (Nat × Nat × Bool)} {s : State} (hs : MemInv s) :
    MemInv (readRegions R va n n1 l s).1 := by
  induction n generalizing R va n1 l s with
  | zero =>
    rw [Machine.readRegions]
    exact hs
  | succ n ih =>
    rw [Machine.readRegions]
    split
    · exact .of_fst ‹_› (.vaNum hs)
    · split
      · exact .of_fst ‹_› (.vaNum hs)
      · exact ih (.of_fst ‹_› (.vaNum hs))

theorem MemInv.launchCopy {r n : Nat} {s : State} (hs : MemInv s) : MemInv (launchCopy r n s) := by
  unfold Machine.launchCopy
  dsimp only
  split
  · exact hs
  · exact .foldl (.modNode hs) (fun _ _ h1 => .push (.startOp (.withSpans h1)))

theorem MemInv.launchTask {r n : Nat} {s : State} (hs : MemInv s) : MemInv (launchTask r n s) := by
  unfold Machine.launchTask
  dsimp only
  split
  · exact hs
  · split
    · exact .launchCopy hs
    · split
      · split
        · exact .endNode (.same (.modNode hs))
        · exact .callDispatcher (.same (.modNode hs))
      · exact .endNode (.same (.modNode hs))

theorem MemInv.taskPump {unit : Nat} {s : State} (hs : MemInv s) : MemInv (taskPump unit s) :=
  .foldl (.same hs) (fun _ _ h1 => .launchTask (.same h1))

theorem MemInv.submitTask {R : Run} {r n : Nat} {regions : List (Nat × Nat × Bool)} {unit : Bool} {s : State} (hs : MemInv s) :
    MemInv (submitTask R r n regions unit s) := .ite (.taskPump (.same (.modNode hs))) (.launchTask hs)

theorem MemInv.nodeCopyStep {s : State} (hs : MemInv s) : MemInv (nodeCopyStep s) :=
  .startNode (fun _ _ _ h1 => .ite (.endNode h1) (.submitTask h1)) hs

theorem MemInv.kernelStep {s : State} (hs : MemInv s) : MemInv (kernelStep s) := by
  refine .startNode ?_ hs
  intro R N s hs
  extract_lets r n nreg la fail
  have hf : ∀ k t, MemInv t → MemInv (fail k t) := fun _ _ h => .ite (.keep h) (.endNode h)
  split
  · exact .endNode hs
  · split
    · exact hf _ _ (.of_fst ‹_› (.vaNum hs))
    · have h := MemInv.of_fst ‹_› (.vaNum hs)
      split
      · exact hf _ _ (.of_fst ‹_› (.readRegions h))
      · have h1 := MemInv.of_fst ‹_› (.readRegions h)
        split
        · exact .endNode h1
        · exact .submitTask (.same (.newId h1))

theorem MemInv.nodeRecord {R : Run} {r n code : Nat} {s : State} (hs : MemInv s) : MemInv (nodeRecord R r n code s) := by
  unfold Machine.nodeRecord
  dsimp only
  split
  · exact .appendFault (.same hs)
  · exact .appendFault hs

theorem MemInv.nodeCompleteStep {s : State} (hs : MemInv s) : MemInv (nodeCompleteStep s) := by
  unfold Machine.nodeCompleteStep
  extract_lets r n v inner code s1
  have h1 : MemInv s1 := .modNode hs
  split
  · exact hs
  · split
    · exact .finishRun hs
    · extract_lets f sRec s2 s3 next s4 s5
      have h2 : MemInv s2 := .ite h1 (.modRun (.ite h1 (.nodeRecord h1)))
      have h3 : MemInv s3 := .same h2
      have h5 : MemInv s5 := .ite h3 (.readyNodes (.foldl h3 fun _ _ => .modNode))
      exact .checkEnd (.taskPump h5)

theorem MemInv.launchStep {s : State} (hs : MemInv s) : MemInv (launchStep s) := by
  unfold Machine.launchStep
  dsimp only
  split
  · exact hs
  · split
    · exact hs
    · split
      · exact .keep hs
      · split
        · exact .of_fst ‹_› (.startRun hs)
        · exact .keep (.of_fst ‹_› (.startRun hs))
        · exact .finishRun (.same (.newId (.appendFault (.of_fst ‹_› (.startRun hs)))))

/-! ### The scheduler -/

theorem MemInv.markUnits {core ctx : Nat} {us : List Nat} {s : State} (hs : MemInv s) : MemInv (markUnits core ctx us s) := .same hs

theorem MemInv.reserve {t : Nat} {T : Team} {core split : Nat} {s : State} (hs : MemInv s) : MemInv (reserve t T core split s) :=
  .markUnits (.same hs)

theorem MemInv.clearArrays {b ctx : Nat} {ks : List Nat} {s : State} (hs : MemInv s) : MemInv (clearArrays b ctx ks s) :=
  .foldl hs (fun _ _ => .same)

theorem MemInv.openSegment {grid cl : Nat} {L : Launch} {s : State} (hs : MemInv s) : MemInv (openSegment grid cl L s) := .ite hs (.same hs)

theorem MemInv.placeTeam {g : Nat} {G : Grid} {core : Nat} {s : State} (hs : MemInv s) : MemInv (placeTeam g G core s) := by
  unfold Machine.placeTeam
  dsimp only
  refine .startTeam ?_
  split
  · exact .modCtx (.same (.openSegment (.clearArrays (.reserve (.newId hs)))))
  · exact .same (.openSegment (.clearArrays (.reserve (.newId hs))))

theorem MemInv.tryGrid {d g : Nat} {G : Grid} {s t : State} (hs : MemInv s) (e : tryGrid d g G s = some t) : MemInv t := by
  unfold Machine.tryGrid at e
  dsimp only at e
  split at e
  · exact Option.some.inj e ▸ .placeTeam (.same hs)
  · contradiction

theorem MemInv.tryGrids {d : Nat} {s t : State} {l : List (Nat × Grid)} {g : Nat} {G : Grid} (hs : MemInv s)
    (e : tryGrids d s l = some (g, G, t)) : MemInv t := by
  induction l with
  | nil => contradiction
  | cons x l ih =>
    rw [Machine.tryGrids] at e
    split at e
    · cases e
      exact .tryGrid hs ‹_›
    · exact ih e

theorem MemInv.serve {ctx q : Nat} {s : State} (hs : MemInv s) : MemInv (serve ctx q s) := .modQueue hs

theorem MemInv.armTrigger {g : Nat} {G : Grid} {s : State} (hs : MemInv s) : MemInv (armTrigger g G s) := .ite hs (.same hs)

theorem MemInv.placementTurn {s : State} (hs : MemInv s) : MemInv (placementTurn s) := by
  unfold Machine.placementTurn
  extract_lets d ws s1
  split
  · have h := MemInv.tryGrids hs ‹_›
    extract_lets t
    have ht : MemInv t := .ite h (.serve h)
    exact .ite ht (.push ht)
  · have h1 : MemInv s1 := .foldl hs fun _ _ h => .ite (.armTrigger h) h
    exact .ite h1 (.push h1)

theorem MemInv.saveWrite {ctx a : Nat} {l : List Byte} {s : State} (hs : MemInv s) : MemInv (saveWrite ctx a l s) := by
  unfold Machine.saveWrite
  split
  · exact .of_fst ‹_› (.cpWrite hs)
  · exact .modCtx (.of_fst ‹_› (.cpWrite hs))

theorem MemInv.saveSegs {ctx : Nat} {c : CtxRec} {cl sc : Nat} {s : State} (hs : MemInv s) : MemInv (saveSegs ctx c cl sc s) := by
  unfold Machine.saveSegs
  refine .foldl hs ?_
  intro _ _ h1
  dsimp only
  split
  · exact h1
  · exact .same (.modCtx (.foldl (.saveWrite h1) (fun _ _ => .poisonMem)))

theorem MemInv.saveCheck {ctx : Nat} {s : State} (hs : MemInv s) : MemInv (saveCheck ctx s) := by
  unfold Machine.saveCheck
  dsimp only
  split
  · exact hs
  · split
    · exact hs
    · split
      · exact .foldl (.modCtx (.endGraphs hs)) (fun _ _ => .push)
      · exact .ite (.modCtx hs) (.push (.modCtx hs))

theorem MemInv.drainTeam {t : Nat} {s : State} (hs : MemInv s) : MemInv (drainTeam t s) := .foldl hs (fun _ _ h1 => .ite (.drainLine h1) h1)

theorem MemInv.dropTeam {t : Nat} {T : Team} {s : State} (hs : MemInv s) : MemInv (dropTeam t T s) := .ite (.same (.same hs)) (.same hs)

theorem MemInv.countExit {g : Nat} {s : State} (hs : MemInv s) : MemInv (countExit g s) := by
  unfold Machine.countExit
  dsimp only
  split
  · exact hs
  · split
    · exact .ite (.same hs) (.ite (.endNode (.same hs)) (.same hs))
    · exact .ite (.endNode (.same hs)) (.same hs)

theorem MemInv.segsAfter {ctx cl sc : Nat} {s : State} (hs : MemInv s) : MemInv (segsAfter ctx cl sc s) := by
  unfold Machine.segsAfter
  split
  · exact hs
  · exact .ite (.saveSegs hs) hs

theorem MemInv.teamExitStep {s : State} (hs : MemInv s) : MemInv (teamExitStep s) := by
  unfold Machine.teamExitStep
  dsimp only
  split
  · exact hs
  · split
    · split
      · exact hs
      · split
        · exact hs
        · split
          · exact .ite (.push (.drainTeam hs)) hs
          · exact .saveCheck (.segsAfter (.countExit (.dropTeam hs)))
    · split
      · exact hs
      · split
        · exact hs
        · split
          · exact .ite (.push (.drainTeam hs)) hs
          · exact .saveCheck (.segsAfter (.countExit (.dropTeam hs)))

theorem MemInv.requestHalt {ctx unit : Nat} {cause : Option (Nat × Nat)} {team : Option Nat} {s : State} (hs : MemInv s) :
    MemInv (requestHalt ctx unit cause team s) := .push (.modCtx (.same hs))

theorem MemInv.askVictim {waiting : Nat} {l : List (Nat × Option (Nat × Nat) × Option Nat)} {s : State} (hs : MemInv s) :
    MemInv (askVictim waiting l s) := by
  unfold Machine.askVictim
  split
  · exact .requestHalt hs
  · exact .push hs

theorem MemInv.triggerStep {s : State} (hs : MemInv s) : MemInv (triggerStep s) := by
  unfold Machine.triggerStep
  split
  · split
    · split
      · exact hs
      · exact hs
      · exact .ite hs (.ite (.push hs) (.askVictim hs))
    · exact hs
  · split
    · exact hs
    · exact .ite hs (.ite (.push hs) (.askVictim hs))

theorem MemInv.armResume {ctx : Nat} {s : State} (hs : MemInv s) : MemInv (armResume ctx s) := by
  unfold Machine.armResume
  dsimp only
  split
  · exact hs
  · exact .ite (.modCtx hs) (.same (.modCtx hs))

theorem MemInv.haltTeam {t : Nat} {s : State} (hs : MemInv s) : MemInv (haltTeam t s) := .same hs

theorem MemInv.haltStep {s : State} (hs : MemInv s) : MemInv (haltStep s) := by
  unfold Machine.haltStep
  dsimp only
  split
  · exact hs
  · split
    · exact hs
    · exact .push (.modCtx (.foldl (.foldl hs (fun _ _ => .haltTeam)) (fun _ _ => .completeOp)))

theorem MemInv.saveImage {ctx a n : Nat} {s : State} (hs : MemInv s) : MemInv (saveImage ctx a n s) := .saveWrite (.modCtx hs)

theorem MemInv.saveCore {ctx : Nat} {c : CtxRec} {core : Nat} {s : State} (hs : MemInv s) : MemInv (saveCore ctx c core s) :=
  .foldl hs (fun _ _ => .saveImage)

theorem MemInv.saveHeader {ctx : Nat} {c : CtxRec} {s : State} (hs : MemInv s) : MemInv (saveHeader ctx c s) := .saveWrite (.saveWrite (.modCtx hs))

theorem MemInv.saveImages {ctx : Nat} {c : CtxRec} {s : State} (hs : MemInv s) : MemInv (saveImages ctx c s) :=
  .foldl hs (fun _ _ h1 => .foldl (.saveImage h1) (fun _ _ => .saveCore))

theorem MemInv.askAccumulators {ctx : Nat} {s : State} (hs : MemInv s) : MemInv (askAccumulators ctx s) :=
  .foldl hs (fun _ _ h1 => .ite (.push h1) h1)

theorem MemInv.saveStep {s : State} (hs : MemInv s) : MemInv (saveStep s) := by
  unfold Machine.saveStep
  dsimp only
  split
  · exact hs
  · split
    · exact hs
    · split
      · exact .push (.foldl hs (fun _ _ => .drainTeam))
      · exact .saveCheck (.askAccumulators (.modCtx (.saveImages (.saveHeader hs))))

theorem MemInv.saveArrays {ctx : Nat} {c : CtxRec} {T : Team} {s : State} (hs : MemInv s) : MemInv (saveArrays ctx c T s) := by
  unfold Machine.saveArrays
  dsimp only
  exact .foldl hs (fun _ _ h1 => .foldl h1 (fun _ _ => .saveWrite))

theorem MemInv.accSaveStep {s : State} (hs : MemInv s) : MemInv (accSaveStep s) := by
  unfold Machine.accSaveStep
  dsimp only
  split
  · exact hs
  · split
    · exact hs
    · split
      · exact hs
      · split
        · exact .push hs
        · split
          · exact .push hs
          · exact .saveCheck (.segsAfter (.modTeam (.saveArrays hs)))

theorem MemInv.takeCoreGo {core split : Nat} {l : List (Nat × Team)} {s t : State} (hs : MemInv s)
    (e : takeCore.go core split l s = some t) : MemInv t := by
  induction l generalizing s with
  | nil => exact Option.some.inj e ▸ hs
  | cons x l ih =>
    rw [takeCore.go] at e
    obtain ⟨_, e⟩ := Option.ite_none_right_eq_some.1 e
    exact ih (.openSegment (.reserve hs)) e

theorem MemInv.takeCore {l : List (Nat × Team)} {core split : Nat} {s t : State} (hs : MemInv s)
    (e : takeCore l core split s = some t) : MemInv t := by
  unfold Machine.takeCore at e
  split at e
  · exact .takeCoreGo hs e
  · exact .takeCoreGo hs (Option.ite_none_right_eq_some.1 e).2

/-- What `firstSome` answers is some element of the list. -/
theorem mem_of_firstSome {α : Type} {l : List (Option α)} {x : α} (e : firstSome l = some x) : some x ∈ l := by
  induction l with
  | nil => contradiction
  | cons o l ih =>
    cases o with
    | none => exact List.mem_cons_of_mem _ (ih e)
    | some y => exact Option.some.inj e ▸ List.mem_cons_self

theorem MemInv.takeCluster {ctx cl : Nat} {ks used : List Nat} {s t : State} (hs : MemInv s)
    (e : takeCluster ctx cl ks used s = some t) : MemInv t := by
  induction ks generalizing used s with
  | nil => exact Option.some.inj e ▸ hs
  | cons k ks ih =>
    rw [Machine.takeCluster] at e
    dsimp only at e
    split at e
    · exact ih hs e
    · obtain ⟨f, _, e⟩ := List.mem_map.1 (mem_of_firstSome e)
      split at e
      · exact ih (.takeCore hs ‹_›) e
      · contradiction

theorem MemInv.clusterFits {ctx sc cl : Nat} {s t : State} (hs : MemInv s) (e : clusterFits ctx sc cl s = some t) : MemInv t :=
  .takeCluster hs (Option.ite_none_left_eq_some.1 e).2

theorem MemInv.chooseCluster {ctx sc cl : Nat} {s t : State} (hs : MemInv s) (e : chooseCluster ctx sc s = some (cl, t)) : MemInv t := by
  unfold Machine.chooseCluster at e
  split at e
  · contradiction
  · dsimp only at e
    split at e
    · obtain ⟨_, hu, e⟩ := Option.map_eq_some_iff.1 e
      cases e
      exact .clusterFits (.same hs) hu
    · contradiction

theorem MemInv.readTile {a ctx : Nat} {s : State} (hs : MemInv s) : MemInv (readTile a ctx s).1 := by
  unfold Machine.readTile
  refine .mk_fst (.foldl_fst hs ?_)
  intro _ _ h
  split
  · exact .of_fst ‹_› (.cpNum h)
  · exact .of_fst ‹_› (.cpNum h)

theorem MemInv.readArrays {c : CtxRec} {old : Team} {t : Nat} {s : State} (hs : MemInv s) : MemInv (readArrays c old t s) := by
  unfold Machine.readArrays
  refine .foldl hs ?_
  intro _ _ h
  exact .same (.foldl_fst h fun _ _ h => .mk_fst (.readTile h))

/-- One segment read from the save area, 128 bytes at a time. -/
theorem MemInv.readSegment {a k : Nat} {s : State} (hs : MemInv s) :
    MemInv ((upFrom 0 k).foldl (fun (acc : State × LMem) i =>
      match Machine.cpRead (a + 128 * i) 128 acc.1 with
      | (s, .ok l) => (s, acc.2.write (128 * i) l)
      | (s, .error _) => (s, acc.2.spoil (128 * i) 128)) (s, LMem.empty)).1 := by
  refine .foldl_fst hs ?_
  intro _ _ h
  split
  · exact .of_fst ‹_› (.cpRead h)
  · exact .of_fst ‹_› (.cpRead h)

theorem MemInv.readSegs {c : CtxRec} {sc cl : Nat} {segs : List (Nat × Nat)} {s : State} (hs : MemInv s) :
    MemInv (readSegs c sc cl segs s) := .foldl hs fun _ _ h => .same (.readSegment h)

theorem MemInv.restLatch {t g p : Nat} {s : State} (hs : MemInv s) : MemInv (restLatch t g p s) := .modThrs (.same hs)

theorem MemInv.restLatches {t g : Nat} {s : State} (hs : MemInv s) : MemInv (restLatches t g s) := .foldl hs (fun _ _ => .restLatch)

theorem MemInv.unknownTeam {t : Nat} {s : State} (hs : MemInv s) : MemInv (unknownTeam t s) := .same hs

theorem MemInv.unknownEnd {g t : Nat} {s : State} (hs : MemInv s) : MemInv (unknownEnd g t s) := .ite hs (.unresolved hs)

theorem MemInv.resumeUnknown {c : CtxRec} {ts : List (Nat × Team)} {s : State} (hs : MemInv s) : MemInv (resumeUnknown c ts s) := by
  unfold Machine.resumeUnknown
  dsimp only
  split
  · exact .foldl (.foldl hs (fun _ _ => .unknownTeam)) (fun _ _ => .unknownEnd)
  · exact hs

theorem MemInv.restSpan {t g i : Nat} {s : State} (hs : MemInv s) : MemInv (restSpan t g i s) := by
  unfold Machine.restSpan
  dsimp only
  split
  · exact hs
  · exact .ite (.setThr hs) (.setThr hs)

theorem MemInv.restWaits {t : Nat} {s : State} (hs : MemInv s) : MemInv (restWaits t s) := by
  unfold Machine.restWaits
  dsimp only
  split
  · exact .evalPort (.foldl hs (fun _ _ => .evalBarWaits))
  · exact .foldl hs (fun _ _ h1 => .foldl (.modGrp h1) (fun _ _ h2 => .modThrs (.lowerW h2)))

theorem MemInv.restTeam {t : Nat} {old : Team} {s : State} (hs : MemInv s) : MemInv (restTeam t old s) :=
  .restWaits (.foldl (.foldl (.foldl (.same (.foldl (.modTeam hs) (fun _ _ => .modGrp))) (fun _ _ h1 => .foldl h1 (fun _ _ => .restSpan)))
    (fun _ _ => .restLatches)) (fun _ _ => .evalMasks))

theorem MemInv.resumeCluster {ctx : Nat} {c : CtxRec} {sc : Nat} {s t : State} (hs : MemInv s)
    (e : resumeCluster ctx c sc s = some t) : MemInv t := by
  unfold Machine.resumeCluster at e
  dsimp only at e
  split at e
  · contradiction
  · have h := MemInv.chooseCluster hs ‹_›
    exact Option.some.inj e ▸
      .resumeUnknown (.foldl (.foldl (.readSegs h) fun _ _ => .readArrays) fun _ _ => .restTeam)

theorem MemInv.resumeAll {ctx : Nat} {c : CtxRec} {l : List Nat} {s : State} (hs : MemInv s) : MemInv (resumeAll ctx c l s).1 := by
  induction l generalizing s with
  | nil => exact hs
  | cons sc l ih =>
    rw [Machine.resumeAll]
    split
    · exact ih (.resumeCluster hs ‹_›)
    · exact hs

theorem MemInv.runAgain {ctx : Nat} {s : State} (hs : MemInv s) : MemInv (runAgain ctx s) := by
  unfold Machine.runAgain
  dsimp only
  split
  · exact hs
  · exact .modCtx (.same hs)

theorem MemInv.resumeStep {s : State} (hs : MemInv s) : MemInv (resumeStep s) := by
  unfold Machine.resumeStep
  dsimp only
  split
  · exact hs
  · split
    · exact hs
    · split
      · exact .push hs
      · split
        · exact .push (.armResume hs)
        · split
          · exact .runAgain (.of_fst ‹_› (.resumeAll hs))
          · exact .push (.armResume (.of_fst ‹_› (.resumeAll hs)))

/-! ### Commands -/

theorem MemInv.modRegs {s : State} {f : Regs → Regs} (hs : MemInv s) : MemInv (State.modRegs s f) := .same hs

theorem MemInv.adminPump {s : State} (hs : MemInv s) : MemInv (adminPump s) := by
  unfold Machine.adminPump
  dsimp only
  split
  · exact hs
  · split
    · exact .modRegs (.of_fst ‹_› (.cpNum (.modRegs hs)))
    · exact .push (.of_fst ‹_› (.cpNum (.modRegs hs)))
    · exact .push (.modRegs (.of_fst ‹_› (.cpNum (.modRegs hs))))

theorem MemInv.adminNext {s : State} (hs : MemInv s) : MemInv (adminNext s) := .adminPump (.msix (.modRegs hs))

theorem MemInv.adminDone {code : Nat} {s : State} (hs : MemInv s) : MemInv (adminDone code s) := .adminNext (.cpWrite (.cpWrite hs))

theorem MemInv.onCtx {f : Nat → CtxRec → State → State} {s : State} (hf : ∀ a b t, MemInv t → MemInv (f a b t)) (hs : MemInv s) :
    MemInv (onCtx f s) := by
  unfold Machine.onCtx
  split
  · exact .adminDone hs
  · exact hf _ _ _ hs

theorem MemInv.adminUnknownStep {s : State} (hs : MemInv s) : MemInv (adminUnknownStep s) := .adminDone hs

theorem MemInv.byWindow {ev : Instr} {f : State → State} {s : State} (hf : ∀ t, MemInv t → MemInv (f t)) (hs : MemInv s) :
    MemInv (byWindow ev f s) := .ite (.overKhl hf hs) (hf _ hs)

theorem MemInv.putAdminTail {v : Nat} {s : State} (hs : MemInv s) : MemInv (putAdminTail v s) := .adminPump (.modRegs hs)

theorem MemInv.adminTailStep {s : State} (hs : MemInv s) : MemInv (adminTailStep s) := .byWindow (fun _ => .putAdminTail) hs

theorem MemInv.doorbell {s : State} (hs : MemInv s) : MemInv (doorbell s) := by
  unfold Machine.doorbell
  dsimp only
  split
  · exact .modRegs hs
  · exact .queuePump (.modQueue hs)

theorem MemInv.doorbellStep {s : State} (hs : MemInv s) : MemInv (doorbellStep s) := .overKhl (fun _ => .doorbell) hs

theorem MemInv.readDescs {a n n1 : Nat} {l : List Nat} {s : State} (hs : MemInv s) : MemInv (readDescs a n n1 l s).1 := by
  induction n generalizing a n1 l s with
  | zero =>
    rw [Machine.readDescs]
    exact hs
  | succ n ih =>
    rw [Machine.readDescs]
    split
    · exact ih (.of_fst ‹_› (.cpNum hs))
    · exact .of_fst ‹_› (.cpNum hs)

theorem MemInv.adminUnread {ev : Instr} {k : Nat} {s : State} (hs : MemInv s) : MemInv (adminUnread ev k s) := .ite (.keep hs) (.adminDone hs)

theorem MemInv.createStep {s : State} (hs : MemInv s) : MemInv (createStep s) := by
  unfold Machine.createStep
  dsimp only
  split
  · exact .adminDone hs
  · split
    · exact .adminUnread (.of_fst ‹_› (.cpNum hs))
    · split
      · exact .adminDone (.of_fst ‹_› (.cpNum hs))
      · split
        · exact .adminUnread (.of_fst ‹_› (.readDescs (.of_fst ‹_› (.cpNum hs))))
        · split
          · exact .adminDone (.of_fst ‹_› (.readDescs (.of_fst ‹_› (.cpNum hs))))
          · split
            · exact .adminDone (.of_fst ‹_› (.readDescs (.of_fst ‹_› (.cpNum hs))))
            · exact .adminDone (.same (.of_fst ‹_› (.readDescs (.of_fst ‹_› (.cpNum hs)))))

theorem MemInv.killContext {ctx : Nat} {s : State} (hs : MemInv s) : MemInv (killContext ctx s) :=
  .same (.foldl (.modCtx hs) (fun _ _ => .killGrid))

theorem MemInv.askExits {ctx : Nat} {s : State} (hs : MemInv s) : MemInv (askExits ctx s) := .foldl hs (fun _ _ h1 => .ite h1 (.push h1))

theorem MemInv.purgeContext {ctx : Nat} {s : State} (hs : MemInv s) : MemInv (purgeContext ctx s) := .same (.purgeLines hs)

theorem MemInv.destroyStep {s : State} (hs : MemInv s) : MemInv (destroyStep s) := by
  unfold Machine.destroyStep
  refine .onCtx ?_ hs
  intro _ _ _ h1
  dsimp only
  split
  · exact .ite (.push (.askExits h1)) (.adminDone (.purgeContext h1))
  · split
    · exact .push (.askExits (.killContext h1))
    · exact .adminDone (.purgeContext (.killContext h1))

theorem MemInv.markSuspended {ctx : Nat} {s : State} (hs : MemInv s) : MemInv (markSuspended ctx s) := .modCtx hs

theorem MemInv.suspendStep {s : State} (hs : MemInv s) : MemInv (suspendStep s) := by
  unfold Machine.suspendStep
  refine .onCtx ?_ hs
  intro _ _ _ h1
  dsimp only
  split
  · exact .push (.markSuspended h1)
  · split
    · exact .push (.requestHalt (.markSuspended h1))
    · exact .push (.markSuspended h1)

theorem MemInv.suspendDoneStep {s : State} (hs : MemInv s) : MemInv (suspendDoneStep s) := .onCtx (fun _ _ _ h1 => .ite (.adminDone h1) (.push h1)) hs

theorem MemInv.callDispatchers {ctx : Nat} {s : State} (hs : MemInv s) : MemInv (resumeCmdStep.callDispatchers ctx s) :=
  .foldl (.foldl hs fun _ _ => .taskPump) fun _ _ h => .callDispatcher h

theorem MemInv.resumeCmdStep {s : State} (hs : MemInv s) : MemInv (resumeCmdStep s) := by
  refine .onCtx ?_ hs
  intro _ _ _ h
  exact .adminDone (.callDispatchers (.ite (.push (.modCtx h)) (.ite (.runAgain (.modCtx h)) (.modCtx h))))

theorem MemInv.declareStep {s : State} (hs : MemInv s) : MemInv (declareStep s) := by
  unfold Machine.declareStep
  refine .onCtx ?_ hs
  intro _ _ _ h1
  dsimp only
  split
  · exact .adminDone h1
  · split
    · exact .adminUnread (.of_fst ‹_› (.cpNum h1))
    · split
      · exact .adminUnread (.of_fst ‹_› (.cpNum (.of_fst ‹_› (.cpNum h1))))
      · split
        · exact .adminDone (.of_fst ‹_› (.cpNum (.of_fst ‹_› (.cpNum h1))))
        · exact .adminDone (.same (.of_fst ‹_› (.cpNum (.of_fst ‹_› (.cpNum h1)))))

theorem MemInv.clearStep {s : State} (hs : MemInv s) : MemInv (clearStep s) := by
  unfold Machine.clearStep
  refine .onCtx ?_ hs
  intro _ _ _ h1
  dsimp only
  split
  · exact .adminDone h1
  · exact .ite (.push h1) (.adminDone (.same h1))

theorem MemInv.biasStep {s : State} (hs : MemInv s) : MemInv (biasStep s) := .onCtx (fun _ _ _ h1 => .ite (.adminDone h1) (.push (.same h1))) hs

theorem MemInv.drainPage {f : Flip} {s : State} (hs : MemInv s) : MemInv (drainPage f s) := .foldl hs (fun _ _ h1 => .ite (.drainLine h1) h1)

theorem MemInv.biasDoneStep {s : State} (hs : MemInv s) : MemInv (biasDoneStep s) := by
  unfold Machine.biasDoneStep
  split
  · exact hs
  · split
    · exact .adminDone (.settle (.setBias (.same hs)))
    · split
      · exact .push (.drainPage hs)
      · exact .adminDone (.settle (.setBias (.flipWork (.same hs))))

theorem MemInv.queueResumeStep {s : State} (hs : MemInv s) : MemInv (queueResumeStep s) := by
  unfold Machine.queueResumeStep
  refine .onCtx ?_ hs
  intro _ _ _ h1
  dsimp only
  split
  · exact .adminDone h1
  · exact .adminDone (.queuePump (.modQueue h1))

theorem MemInv.discardRange {ctx a n : Nat} {s : State} (hs : MemInv s) : MemInv (discardRange ctx a n s) := .same hs

theorem MemInv.invalStep {s : State} (hs : MemInv s) : MemInv (invalStep s) := .onCtx (fun _ _ _ h1 => .adminDone (.discardRange h1)) hs

theorem MemInv.khlReturns {s : State} (hs : MemInv s) : MemInv (khlReturns s) := by
  unfold Machine.khlReturns
  split
  · exact hs
  · exact .adminPump (.foldl (.sendPosted hs) (fun _ _ h1 => .foldl h1 (fun _ _ => .queuePump)))

theorem MemInv.linkDoneStep {s : State} (hs : MemInv s) : MemInv (linkDoneStep s) := .ite (.khlReturns (.retrainStep hs)) (.retrainStep hs)

/-! ### Conversions -/

theorem DescInv.cvtDesc {h : Hdr} {o : OpG} : DescInv (cvtDesc h o) := { eff := fun _ _ h => .laneEff h }

theorem DescInv.packDesc {h : Hdr} {o : OpG} : DescInv (packDesc h o) := { eff := fun _ _ h => .laneEff h }

theorem DescInv.unpackDesc {h : Hdr} {o : OpG} : DescInv (unpackDesc h o) := { eff := fun _ _ h => .laneEff h }

theorem DescInv.qnt4Desc {h : Hdr} {o : OpG} : DescInv (qnt4Desc h o) := { eff := fun _ _ h => .laneEff h }

theorem DescInv.dq4Desc {h : Hdr} {o : OpG} : DescInv (dq4Desc h o) := { eff := fun _ _ h => .laneEff h }

/-! ### Evictions -/

theorem MemInv.evMore {b v pos : Nat} {s : State} (hs : MemInv s) : MemInv (evMore b v pos s) := .push hs

theorem MemInv.evEnd {b v err pos : Nat} {s : State} (hs : MemInv s) : MemInv (evEnd b v err pos s) := .modBay hs

theorem MemInv.evFrame {b : Nat} {x : Nat × Nat × Nat} {s : State} (hs : MemInv s) : MemInv (evFrame b x s).1 := by
  unfold Machine.evFrame
  split
  · split <;> exact .of_fst ‹_› (.allocFrame hs)
  · exact hs

theorem MemInv.evSelect {b v pos : Nat} {x : Nat × Nat × Nat} {lose : State → State} {s : State}
    (hlose : ∀ t, MemInv t → MemInv (lose t)) (hs : MemInv s) : MemInv (evSelect b v pos x lose s) := by
  unfold Machine.evSelect
  split
  · exact hlose _ (.of_fst ‹_› (.evFrame hs))
  · have h := MemInv.of_fst ‹_› (.evFrame hs)
    extract_lets s1 e s2 s3
    have h1 : MemInv s1 := .ite (.zeroFrame h) h
    have h2 : MemInv s2 := .partRmw h1
    exact .evMore (.modBay (.same h2))

theorem MemInv.evScan {b v pos : Nat} {s : State} (hs : MemInv s) : MemInv (evScan b v pos s) := by
  unfold Machine.evScan
  dsimp only
  split
  · exact .evEnd hs
  · split
    · exact .ite (.evEnd hs) (.evMore (.modBay hs))
    · split
      · exact .evMore hs
      · split
        · exact .evMore (.pteClear hs)
        · exact .evSelect (fun _ => .evMore) hs

theorem MemInv.evDirected {b v : Nat} {s : State} (hs : MemInv s) : MemInv (evDirected b v s) := by
  unfold Machine.evDirected
  split
  · exact .evEnd hs
  · exact .ite (.evEnd hs) (.evSelect (fun _ => .evEnd) hs)

theorem MemInv.evTear {x : Evict} {s : State} (hs : MemInv s) : MemInv (evTear x s) := .foldl hs (fun _ _ h1 => .dropSlice (.tornLine h1))

theorem MemInv.evRestore {b : Nat} {x : Evict} {s : State} (hs : MemInv s) : MemInv (evRestore b x s) := .modBay (.pteClear hs)

theorem MemInv.takeBacking {b : Nat} {s : State} (hs : MemInv s) : MemInv (takeBacking b s).1 := by
  unfold Machine.takeBacking
  split
  · exact hs
  · split
    · exact .modBay (.of_fst ‹_› (.takeFrame hs))
    · exact .of_fst ‹_› (.takeFrame hs)

theorem MemInv.copyPage {x : Evict} {back : Nat} {s : State} (hs : MemInv s) : MemInv (copyPage x back s) :=
  .foldl (.ctlWr hs) (fun _ _ => .poisonMem)

theorem MemInv.freeFrame {b f : Nat} {s : State} (hs : MemInv s) : MemInv (freeFrame b f s) := .modBay (.partWr hs)

theorem MemInv.evNext {b v pos : Nat} {s : State} (hs : MemInv s) : MemInv (evNext b v pos s) := .ite (.evMore hs) (.evEnd hs)

theorem MemInv.evCommit {b v pos : Nat} {x : Evict} {back : Option Nat} {s : State} (hs : MemInv s) : MemInv (evCommit b v pos x back s) := by
  unfold Machine.evCommit
  split
  · exact .evNext (.modBay (.evRestore hs))
  · extract_lets e e1 s1 s2 s3
    have h1 : MemInv s1 := .partRmw hs
    exact .evNext (.modBay (.freeFrame (.same h1)))

theorem MemInv.evWork {b v pos : Nat} {x : Evict} {s : State} (hs : MemInv s) : MemInv (evWork b v pos x s) := by
  unfold Machine.evWork
  dsimp only
  split
  · exact .evMore hs
  · split
    · exact .evEnd (.evRestore (.evTear hs))
    · split
      · exact .evCommit (.evTear hs)
      · split
        · exact .evEnd (.evRestore (.of_fst ‹_› (.takeBacking (.evTear hs))))
        · exact .evCommit (.copyPage (.of_fst ‹_› (.takeBacking (.evTear hs))))

theorem MemInv.evStep {b v pos : Nat} {s : State} (hs : MemInv s) : MemInv (evStep b v pos s) := by
  unfold Machine.evStep
  split
  · exact .evWork hs
  · exact .ite (.evScan hs) (.evDirected hs)

theorem MemInv.takeLow {off cur : Nat} {s : State} (hs : MemInv s) : MemInv (takeLow off cur s).1 := .modRegs hs

theorem MemInv.evctlWrite {b up : Nat} {s : State} (hs : MemInv s) : MemInv (evctlWrite b up s) := by
  unfold Machine.evctlWrite
  dsimp only
  split
  · exact .takeLow hs
  · split
    · exact .evMore (.modBay (.modBay (.takeLow hs)))
    · exact .modBay (.takeLow hs)

theorem MemInv.evEventStep {ev : Instr} {s : State} (hs : MemInv s) : MemInv (evEventStep ev s) := by
  unfold Machine.evEventStep
  split
  · exact .byWindow (fun _ => .evctlWrite) hs
  · exact .ite (.evStep hs) hs

/-! ### Group operations -/

theorem DescInv.shflDesc {o : OpG} : DescInv (shflDesc o) := { eff := fun _ _ h => .laneEff h }

theorem DescInv.voteDesc {o : OpG} : DescInv (voteDesc o) :=
  { eff := fun _ _ h => .ite (.putS (.putS h)) (.predEff h), take := fun _ _ _ _ h => .putP h }

theorem MemInv.putShared {o : OpG} {v : Nat} {c : Ctx} {s : State} (hs : MemInv s) : MemInv (putShared o v c s) := by
  unfold Machine.putShared
  split
  · exact hs
  · split
    · exact .foldl hs (fun _ _ => .putS)
    · exact .ite (.putX hs) (.foldl hs (fun _ _ => .putLane))

theorem MemInv.takeLane {o : OpG} {c : Ctx} {l v : Nat} {s : State} (hs : MemInv s) : MemInv (takeLane o c l v s) := .ite (.putLane hs) hs

theorem DescInv.rdxDesc {o : OpG} : DescInv (rdxDesc o) := { eff := fun _ _ h => .putShared h, take := fun _ _ _ _ h => .takeLane h }

theorem DescInv.scanDesc {o : OpG} : DescInv (scanDesc o) := { eff := fun _ _ h => .laneEff h, take := fun _ _ _ _ h => .takeLane h }

theorem DescInv.bcastDesc {o : OpG} : DescInv (bcastDesc o) := { eff := fun _ _ h => .putShared h }

theorem DescInv.matchDesc {o : OpG} : DescInv (matchDesc o) := { eff := fun _ _ h => .laneEff h }

/-! ### Integer arithmetic -/

theorem DescInv.leaDesc {h : Hdr} {o : OpG} : DescInv (leaDesc h o) := { eff := fun _ _ h => .laneEff h }

theorem DescInv.leaImmDesc {h : Hdr} {o : OpI} : DescInv (leaImmDesc h o) := { eff := fun _ _ h => .laneEff h }

/-! ### The register window -/

theorem MemInv.windowTake {o n : Nat} {s : State} (hs : MemInv s) : MemInv (windowTake o n s).1 := by
  unfold Machine.windowTake
  dsimp only
  split
  · exact hs
  · exact .ite_fst hs (.ite_fst (.modRegs hs) (.modRegs hs))

theorem MemInv.windowAnswer {l : List Byte} {s : State} (hs : MemInv s) : MemInv (windowAnswer l s) := .tell (.modRegs hs)

theorem MemInv.windowReadStep {s : State} (hs : MemInv s) : MemInv (windowReadStep s) := .windowAnswer (.windowTake hs)

theorem MemInv.doorbellReadStep {s : State} (hs : MemInv s) : MemInv (doorbellReadStep s) := .tell (.modRegs hs)

theorem MemInv.barReadStep {s : State} (hs : MemInv s) : MemInv (barReadStep s) := by
  unfold Machine.barReadStep
  split
  · exact .byWindow (fun _ => .windowReadStep) hs
  · exact .overKhl (fun _ => .doorbellReadStep) hs
  · exact .barRead hs

theorem MemInv.lowRead {s : State} (hs : MemInv s) : MemInv (lowRead s) := by
  unfold Machine.lowRead
  dsimp only
  split
  · exact hs
  · exact .ite hs (.windowAnswer (.modRegs hs))

theorem MemInv.lowReadStep {s : State} (hs : MemInv s) : MemInv (lowReadStep s) := .byWindow (fun _ => .lowRead) hs

theorem MemInv.lowWrite {s : State} (hs : MemInv s) : MemInv (lowWrite s) := by
  unfold Machine.lowWrite
  dsimp only
  split
  · exact hs
  · exact .ite hs (.modRegs hs)

theorem MemInv.lowWriteStep {s : State} (hs : MemInv s) : MemInv (lowWriteStep s) := .byWindow (fun _ => .lowWrite) hs

theorem MemInv.putVflim {b v : Nat} {s : State} (hs : MemInv s) : MemInv (putVflim b v s) := .ite hs (.modBay hs)

theorem MemInv.putPwrcap {v : Nat} {s : State} (hs : MemInv s) : MemInv (putPwrcap v s) := .modRegs hs

theorem MemInv.putCombwin {v : Nat} {s : State} (hs : MemInv s) : MemInv (putCombwin v s) := .modRegs hs

theorem MemInv.putSched {v : Nat} {s : State} (hs : MemInv s) : MemInv (putSched v s) := .modRegs hs

theorem MemInv.putSimt {v : Nat} {s : State} (hs : MemInv s) : MemInv (putSimt v s) := .same hs

theorem MemInv.putMatrix {v : Nat} {s : State} (hs : MemInv s) : MemInv (putMatrix v s) := .modRegs hs

theorem MemInv.putAdminBase {v : Nat} {s : State} (hs : MemInv s) : MemInv (putAdminBase v s) := .modRegs hs

theorem MemInv.putErrlog {b v : Nat} {s : State} (hs : MemInv s) : MemInv (putErrlog b v s) := .modBay hs

theorem MemInv.putErrent {b i up : Nat} {s : State} (hs : MemInv s) : MemInv (putErrent b i up s) := by
  unfold Machine.putErrent
  split
  split
  · exact .modBay (.of_fst ‹_› (.takeLow hs))
  · exact .of_fst ‹_› (.takeLow hs)

theorem MemInv.putFrbase {b i v : Nat} {s : State} (hs : MemInv s) : MemInv (putFrbase b i v s) := .modBay hs

theorem MemInv.putFrptr {b i v : Nat} {s : State} (hs : MemInv s) : MemInv (putFrptr b i v s) := .modBay hs

theorem MemInv.putEvstat {b v : Nat} {s : State} (hs : MemInv s) : MemInv (putEvstat b v s) := .modBay hs

theorem MemInv.putBushel {b up : Nat} {s : State} (hs : MemInv s) : MemInv (putBushel b up s) := by
  unfold Machine.putBushel
  split
  exact .bushelWrite (.of_fst ‹_› (.takeLow hs))

theorem MemInv.regPut {r : WReg} {v : Nat} {s : State} (hs : MemInv s) : MemInv (regPut r v s) := by
  unfold Machine.regPut
  split
  · exact .putPwrcap hs
  · exact .putAdminBase hs
  · exact .putAdminTail hs
  · exact .putCombwin hs
  · exact .putSched hs
  · exact .putSimt hs
  · exact .putMatrix hs
  · exact .putVflim hs
  · exact .putErrlog hs
  · exact .putFrbase hs
  · exact .putFrptr hs
  · exact .evctlWrite hs
  · exact .putEvstat hs
  · exact .putBushel hs
  · exact .putErrent hs
  · exact hs
  · exact hs
  · exact hs
  · exact hs
  · exact hs
  · exact hs
  · exact hs
  · exact hs
  · exact hs
  · exact hs

theorem MemInv.regWrite {s : State} (hs : MemInv s) : MemInv (regWrite s) := by
  unfold Machine.regWrite
  dsimp only
  split
  · exact hs
  · exact .ite hs (.ite (.modRegs hs) (.regPut hs))

theorem MemInv.regWriteStep {s : State} (hs : MemInv s) : MemInv (regWriteStep s) := .byWindow (fun _ => .regWrite) hs

theorem MemInv.frameTailStep {s : State} (hs : MemInv s) : MemInv (frameTailStep s) := .byWindow (fun _ h1 => .ite (.putFrptr h1) h1) hs

/-! ### The package -/

theorem MemInv.modIdent {s : State} {f : Identity → Identity} (hs : MemInv s) : MemInv (State.modIdent s f) := .same hs

theorem MemInv.extend {i : Nat} {d : List Byte} {s : State} (hs : MemInv s) : MemInv (extend i d s) := .modIdent hs

theorem MemInv.putRemap {ts : List (List Nat)} {s : State} (hs : MemInv s) : MemInv (putRemap ts s) := .foldl hs (fun _ _ => .modBay)

theorem MemInv.bootStop {stage err : Nat} {s : State} (hs : MemInv s) : MemInv (bootStop stage err s) := .modRegs hs

theorem MemInv.stageOne {s : State} (hs : MemInv s) : MemInv (stageOne s) := .modIdent (.extend hs)

theorem MemInv.clearStacks {s : State} (hs : MemInv s) : MemInv (clearStacks s) := ⟨rfl, hs.2⟩

theorem MemInv.vfDue {b at_ : Nat} {s : State} (hs : MemInv s) : MemInv (vfDue b at_ s) := .ite hs (.same hs)

theorem MemInv.releaseBays {s : State} (hs : MemInv s) : MemInv (releaseBays s) := .foldl (.same hs) (fun _ _ => .vfDue)

theorem MemInv.linkUp {degraded : Bool} {s : State} (hs : MemInv s) : MemInv (linkUp degraded s) := .modRegs hs

theorem MemInv.bringUpStep {s : State} (hs : MemInv s) : MemInv (bringUpStep s) := by
  unfold Machine.bringUpStep
  dsimp only
  split
  · exact hs
  · split
    · exact .bootStop hs
    · split
      · exact .bootStop hs
      · split
        · exact .bootStop (.stageOne hs)
        · split
          · exact .bootStop (.stageOne hs)
          · split
            · exact .bootStop (.clearStacks (.stageOne hs))
            · split
              · exact .bootStop (.putRemap (.clearStacks (.stageOne hs)))
              · split
                · exact .bootStop (.extend (.putRemap (.clearStacks (.stageOne hs))))
                · exact .linkUp (.releaseBays (.extend (.putRemap (.clearStacks (.stageOne hs)))))

theorem MemInv.resetStep {s : State} (hs : MemInv s) : MemInv (resetStep s) := ⟨rfl, hs.2⟩

theorem MemInv.svnStep {s : State} (hs : MemInv s) : MemInv (svnStep s) := .ite (.modRegs hs) hs

theorem MemInv.measureStep {s : State} (hs : MemInv s) : MemInv (measureStep s) := .ite (.extend hs) hs

theorem MemInv.quoteStep {s : State} (hs : MemInv s) : MemInv (quoteStep s) := .ite (.modIdent hs) hs

theorem MemInv.certStep {s : State} (hs : MemInv s) : MemInv (certStep s) := .ite (.modIdent hs) hs

theorem MemInv.vfStep {s : State} (hs : MemInv s) : MemInv (vfStep s) := .ite (.vfDue hs) (.vfDue (.modBay hs))

theorem MemInv.droopStep {s : State} (hs : MemInv s) : MemInv (droopStep s) := .same (.modBay hs)

theorem MemInv.recoverStep {s : State} (hs : MemInv s) : MemInv (recoverStep s) := .modBay hs

theorem MemInv.tripBay {b : Nat} {s : State} (hs : MemInv s) : MemInv (tripBay b s) := .push (.tell hs)

theorem MemInv.thermStep {s : State} (hs : MemInv s) : MemInv (thermStep s) := .ite (.tripBay (.same (.modBay hs))) (.same (.modBay hs))

theorem MemInv.tripStep {s : State} (hs : MemInv s) : MemInv (tripStep s) := .tripBay (.modBay hs)

theorem MemInv.powerStep {s : State} (hs : MemInv s) : MemInv (powerStep s) := by
  unfold Machine.powerStep
  dsimp only
  split
  · exact .tell (.foldl hs (fun _ _ => .modBay))
  · exact .foldl hs (fun _ _ => .modBay)

/-! ### Packed arithmetic -/

theorem DescInv.packed {h : Hdr} {o : OpG} {useC : Bool} {f : Nat → Nat → Nat → Nat} : DescInv (packed h o useC f) :=
  { eff := fun _ _ h => .laneEff h }

/-! ### Predicates -/

theorem DescInv.setpDesc {h : Hdr} {o : OpG} : DescInv (Machine.setpDesc h o) where
  eff := fun _ _ h => by
    dsimp only [Machine.setpDesc]
    exact .predEff h

theorem DescInv.selpDesc {h : Hdr} {o : OpG} : DescInv (selpDesc h o) := { eff := fun _ _ h => .laneEff h }

theorem DescInv.plogic {h : Hdr} {o : OpG} {useB : Bool} {f : Bool → Bool → Bool} : DescInv (Machine.plogic h o useB f) where
  eff := fun _ _ h => by
    dsimp only [Machine.plogic]
    exact .predEff h

theorem DescInv.pmovDesc {h : Hdr} {o : OpG} : DescInv (pmovDesc h o) := { eff := fun _ _ h => .ite (.laneEff h) (.predEff h) }

/-! ### Scalar arithmetic -/

theorem MemInv.sEff {dsel : Nat} {f : Ctx → State → Nat} {c : Ctx} {s : State} (hs : MemInv s) : MemInv (sEff dsel f c s) := .ite hs (.putS hs)

theorem DescInv.scal2 {o : OpG} {f : Nat → Nat → Nat} : DescInv (scal2 o f) := { eff := fun _ _ h => .sEff h }

theorem DescInv.scal2Imm {o : OpI} {f : Nat → Nat → Nat} : DescInv (scal2Imm o f) := { eff := fun _ _ h => .sEff h }

theorem DescInv.smovDesc {o : OpG} : DescInv (smovDesc o) := { eff := fun _ _ h => .sEff h }

theorem DescInv.smovImmDesc {o : OpI} : DescInv (smovImmDesc o) := { eff := fun _ _ h => .sEff h }

theorem DescInv.ssetpDesc {o : OpG} : DescInv (Machine.ssetpDesc o) where
  eff := fun _ _ h => by
    dsimp only [Machine.ssetpDesc]
    exact .predEff h

theorem DescInv.movDesc {h : Hdr} {o : OpG} : DescInv (movDesc h o) := { eff := fun _ _ h => .ite (.sEff h) (.laneEff h) }

theorem DescInv.moviDesc {h : Hdr} {o : OpI} : DescInv (moviDesc h o) := { eff := fun _ _ h => .ite (.sEff h) (.laneEff h) }

/-! ### Turns -/

theorem MemInv.dueUpset {u : Upset} {s t : State} (hs : MemInv s) (e : dueUpset s = some (u, t)) : MemInv t := by
  unfold Machine.dueUpset at e
  split at e
  · contradiction
  · cases e
    exact .same hs

theorem MemInv.takeEvent {i : Nat} {ev : Instr} {s t : State} (hs : MemInv s) (e : takeEvent i s = some (ev, t)) : MemInv t := by
  unfold Machine.takeEvent at e
  split at e
  · contradiction
  · cases e
    exact .same hs

theorem MemInv.fetchGo {w : Who} {ctx t n n1 : Nat} {s : State} (hs : MemInv s) : MemInv (fetchGo w ctx t n n1 s).1 := by
  induction n generalizing w ctx t n1 s with
  | zero =>
    rw [Machine.fetchGo]
    exact hs
  | succ n ih =>
    rw [Machine.fetchGo]
    dsimp only
    split
    · exact .of_fst ‹_› (.locate hs)
    · split
      · exact .logWho (.of_fst ‹_› (.locate hs))
      · split
        · exact .of_fst ‹_› (ih (.of_fst ‹_› (.locate hs)))
        · exact ih (.of_fst ‹_› (.locate hs))

theorem MemInv.fetchWord {s : State} (hs : MemInv s) : MemInv (fetchWord s).1 := by
  unfold Machine.fetchWord
  dsimp only
  split
  · exact hs
  · exact .fetchGo hs

theorem MemInv.fetchError {va : Nat} {s : State} (hs : MemInv s) : MemInv (fetchError va s) := .ite (.askRecall hs) (.enterTrap hs)

theorem MemInv.illegalWord {w : Nat} {s : State} (hs : MemInv s) : MemInv (illegalWord w s) := .ite (.askRecall hs) (.ite hs (.enterTrap hs))

theorem OutInv.runIn {run : Runner} {pipe : Nat} {joined : Bool} {c : Cur} {w : Nat} {s : State} (hrun : ∀ a t, MemInv t → OutInv (run a t))
    (hs : MemInv s) :
    OutInv (runIn run pipe joined c w s) := hrun _ _ (.same hs)

theorem MemInv.noSlot {s : State} (hs : MemInv s) : MemInv (noSlot s) := .same hs

theorem MemInv.ageCore {k : Nat × Nat} {l : List (Nat × Nat)} {s : State} (hs : MemInv s) : MemInv (ageCore k l s) :=
  .forEach hs (fun _ _ => .modGrp)

theorem MemInv.look {run : Runner} {r : State × List Cand} {c : Cur} (hrun : ∀ a t, MemInv t → OutInv (run a t)) (hr : MemInv r.1) :
    MemInv (look run r c).1 := by
  unfold Machine.look
  dsimp only
  split
  · exact .of_fst ‹_› (.fetchWord (.same hr))
  · exact .fetchError (.of_fst ‹_› (.fetchWord (.same hr)))
  · split
    · split
      · exact .of_fst ‹_› (.fetchWord (.same hr))
      · exact .noSlot (.of_next ‹_› (.runIn hrun (.of_fst ‹_› (.fetchWord (.same hr)))))
    · exact .of_fst ‹_› (.fetchWord (.same hr))

theorem OutInv.runSlot {run : Runner} {pipe : Nat} {l : List Cand} {s : State} (hrun : ∀ a t, MemInv t → OutInv (run a t)) (hs : MemInv s) :
    OutInv (runSlot run pipe l s) := by
  induction l generalizing pipe s with
  | nil =>
    rw [Machine.runSlot]
    exact .next hs
  | cons a l ih =>
    rw [Machine.runSlot]
    split
    · exact ih (.of_next ‹_› (.runIn hrun hs))
    · exact .runIn hrun hs

theorem OutInv.coreAlone {run : Runner} {k : Nat × Nat} {c : Cur} {s : State} (hrun : ∀ a t, MemInv t → OutInv (run a t)) (hs : MemInv s) :
    OutInv (coreAlone run k c s) := by
  unfold Machine.coreAlone
  dsimp only
  split
  · exact .next (.ageCore (.of_fst ‹_› (.fetchWord (.same hs))))
  · exact .next (.ageCore (.fetchError (.of_fst ‹_› (.fetchWord (.same hs)))))
  · split
    · split
      · exact .next (.ageCore (.of_fst ‹_› (.fetchWord (.same hs))))
      · exact .next (.ageCore (.noSlot (.of_next ‹_› (.runIn hrun (.of_fst ‹_› (.fetchWord (.same hs)))))))
    · exact .runIn hrun (.of_fst ‹_› (.fetchWord (.same hs)))

theorem OutInv.coreCycle {run : Runner} {can : Cur → Bool} {k : Nat × Nat} {s : State} (hrun : ∀ a t, MemInv t → OutInv (run a t))
    (hs : MemInv s) :
    OutInv (coreCycle run can k s) := by
  unfold Machine.coreCycle
  dsimp only
  split
  · exact .next (.ageCore hs)
  · exact .coreAlone hrun hs
  · split
    · exact .next (.ageCore (.foldl_fst hs (fun _ _ h1 => .look hrun h1)))
    · split
      · exact .next (.ageCore (.noSlot (.of_next ‹_› (.runSlot hrun (.foldl_fst hs (fun _ _ h1 => .look hrun h1))))))
      · exact .runSlot hrun (.foldl_fst hs (fun _ _ h1 => .look hrun h1))

theorem OutInv.runTurn {run : Runner} {c : Cur} {s : State} (hrun : ∀ a t, MemInv t → OutInv (run a t)) (hs : MemInv s) :
    OutInv (runTurn run c s) := by
  unfold Machine.runTurn
  split
  · exact hrun _ _ (.of_fst ‹_› (.fetchWord (.same hs)))
  · exact .next (.fetchError (.of_fst ‹_› (.fetchWord (.same hs))))
  · exact .next (.of_fst ‹_› (.fetchWord (.same hs)))

theorem OutInv.spanGo {run : Runner} {k : Nat} {l : List (Nat × TKey)} {s : State} (hrun : ∀ a t, MemInv t → OutInv (run a t)) (hs : MemInv s) :
    OutInv (spanGo run k l s) := by
  induction l generalizing k s with
  | nil =>
    rw [Machine.spanGo]
    exact .next hs
  | cons a l ih =>
    rw [Machine.spanGo]
    split
    · split
      · exact ih hs
      · exact .next (.same (.of_next ‹_› (.runTurn hrun hs)))
    · exact .runTurn hrun hs

theorem OutInv.spanCycle {run : Runner} {k : Nat} {s : State} (hrun : ∀ a t, MemInv t → OutInv (run a t)) (hs : MemInv s) :
    OutInv (spanCycle run k s) := .spanGo hrun hs

theorem MemInv.passTime {s : State} (hs : MemInv s) : MemInv (passTime s) := .same (.settleTimed hs)

theorem OutInv.afterExec {o : Host.Outcome State Fault Refusal} (ho : OutInv o) : OutInv (afterExec o) := by
  cases o with
  | next s => exact .next (.passTime (.same (ho s rfl)))
  | fault r => exact ho
  | refused r => exact ho

/-! ### Every instruction and event, and the step -/

theorem OutInv.exec {i : Instr} {s : State} (hs : MemInv s) : OutInv (exec i s) := by
  cases i with
  | nop _ _ => exact .next (.issue .noEffect hs)
  | bra _ _ => exact .next (.issue .braDesc hs)
  | brx _ _ => exact .next (.issue .brxDesc hs)
  | call _ _ => exact .next (.issue .callDesc hs)
  | callx _ _ => exact .next (.issue .callxDesc hs)
  | ret _ _ => exact .next (.issue .retDesc hs)
  | exit _ _ => exact .next (.issue .exitDesc hs)
  | kill _ _ => exact .next (.issue .killDesc hs)
  | rejoin _ _ => exact .next (.issue .noEffect hs)
  | trap _ _ => exact .next (.issue .trapDesc hs)
  | tret _ _ => exact .next (.issue .tretDesc hs)
  | wspill _ _ => exact .next (.issue .wspillDesc hs)
  | wfill _ _ => exact .next (.issue .wfillDesc hs)
  | pchk _ _ => exact .next (.issue .pchkDesc hs)
  | mjoin _ _ => exact .next (.issue .mjoinDesc hs)
  | mleave _ _ => exact .next (.issue .mleaveDesc hs)
  | mwait _ _ => exact .next (.issue .mwaitDesc hs)
  | mget _ _ => exact .next (.issue .mgetDesc hs)
  | bar _ _ => exact .next (.issue .barDesc hs)
  | arrive _ _ => exact .next (.issue .arriveDesc hs)
  | bwait _ _ => exact .next (.issue .bwaitDesc hs)
  | rdv _ _ => exact .next (.issue .rdvDesc hs)
  | tokgive _ _ => exact .next (.issue .tokgiveDesc hs)
  | toktake _ _ => exact .next (.issue .toktakeDesc hs)
  | fence _ _ => exact .next (.issue .fenceDesc hs)
  | clock _ _ => exact .next (.issue .clockDesc hs)
  | place _ _ => exact .next (.issue .placeDesc hs)
  | sysrd _ _ => exact .next (.issue .sysrdDesc hs)
  | syswr _ _ => exact .next (.issue .syswrDesc hs)
  | addInt _ _ => exact .next (.issue .lane2 hs)
  | subInt _ _ => exact .next (.issue .lane2 hs)
  | mulInt _ _ => exact .next (.issue .lane2 hs)
  | mulhi _ _ => exact .next (.issue .lane2 hs)
  | mad _ _ => exact .next (.issue .lane3 hs)
  | divInt _ _ => exact .next (.issue .lane2 hs)
  | rem _ _ => exact .next (.issue .lane2 hs)
  | minInt _ _ => exact .next (.issue .lane2 hs)
  | maxInt _ _ => exact .next (.issue .lane2 hs)
  | absInt _ _ => exact .next (.issue .lane1 hs)
  | negInt _ _ => exact .next (.issue .lane1 hs)
  | lea _ _ => exact .next (.issue .leaDesc hs)
  | addIntImm _ _ => exact .next (.issue .lane2Imm hs)
  | subIntImm _ _ => exact .next (.issue .lane2Imm hs)
  | mulIntImm _ _ => exact .next (.issue .lane2Imm hs)
  | mulhiImm _ _ => exact .next (.issue .lane2Imm hs)
  | divIntImm _ _ => exact .next (.issue .lane2Imm hs)
  | remImm _ _ => exact .next (.issue .lane2Imm hs)
  | minIntImm _ _ => exact .next (.issue .lane2Imm hs)
  | maxIntImm _ _ => exact .next (.issue .lane2Imm hs)
  | leaImm _ _ => exact .next (.issue .leaImmDesc hs)
  | andL _ _ => exact .next (.issue .lane2 hs)
  | orL _ _ => exact .next (.issue .lane2 hs)
  | xorL _ _ => exact .next (.issue .lane2 hs)
  | notL _ _ => exact .next (.issue .lane1 hs)
  | shl _ _ => exact .next (.issue .lane2 hs)
  | shr _ _ => exact .next (.issue .lane2 hs)
  | rotl _ _ => exact .next (.issue .lane2 hs)
  | popc _ _ => exact .next (.issue .lane1 hs)
  | clz _ _ => exact .next (.issue .lane1 hs)
  | ctz _ _ => exact .next (.issue .lane1 hs)
  | brev _ _ => exact .next (.issue .lane1 hs)
  | bfe _ _ => exact .next (.issue .lane2 hs)
  | bfi _ _ => exact .next (.issue .lane3 hs)
  | lop3 _ _ => exact .next (.issue .lane3 hs)
  | sel _ _ => exact .next (.issue .lane3 hs)
  | andImm _ _ => exact .next (.issue .lane2Imm hs)
  | orImm _ _ => exact .next (.issue .lane2Imm hs)
  | xorImm _ _ => exact .next (.issue .lane2Imm hs)
  | shlImm _ _ => exact .next (.issue .lane2Imm hs)
  | shrImm _ _ => exact .next (.issue .lane2Imm hs)
  | rotlImm _ _ => exact .next (.issue .lane2Imm hs)
  | bfeImm _ _ => exact .next (.issue .lane2Imm hs)
  | addFloat _ _ => exact .next (.issue .lane2 hs)
  | subFloat _ _ => exact .next (.issue .lane2 hs)
  | mulFloat _ _ => exact .next (.issue .lane2 hs)
  | fma _ _ => exact .next (.issue .lane3 hs)
  | minFloat _ _ => exact .next (.issue .lane2 hs)
  | maxFloat _ _ => exact .next (.issue .lane2 hs)
  | absFloat _ _ => exact .next (.issue .lane1 hs)
  | negFloat _ _ => exact .next (.issue .lane1 hs)
  | divFloat _ _ => exact .next (.issue .lane2 hs)
  | sqrt _ _ => exact .next (.issue .lane1 hs)
  | addFloatImm _ _ => exact .next (.issue .lane2Imm hs)
  | subFloatImm _ _ => exact .next (.issue .lane2Imm hs)
  | mulFloatImm _ _ => exact .next (.issue .lane2Imm hs)
  | minFloatImm _ _ => exact .next (.issue .lane2Imm hs)
  | maxFloatImm _ _ => exact .next (.issue .lane2Imm hs)
  | divFloatImm _ _ => exact .next (.issue .lane2Imm hs)
  | ex2 _ _ => exact .next (.issue .lane1 hs)
  | lg2 _ _ => exact .next (.issue .lane1 hs)
  | rcp _ _ => exact .next (.issue .lane1 hs)
  | rsqrt _ _ => exact .next (.issue .lane1 hs)
  | sin _ _ => exact .next (.issue .lane1 hs)
  | cos _ _ => exact .next (.issue .lane1 hs)
  | tanh _ _ => exact .next (.issue .lane1 hs)
  | exp _ _ => exact .next (.issue .lane1 hs)
  | add2 _ _ => exact .next (.issue .packed hs)
  | sub2 _ _ => exact .next (.issue .packed hs)
  | mul2 _ _ => exact .next (.issue .packed hs)
  | fma2 _ _ => exact .next (.issue .packed hs)
  | min2 _ _ => exact .next (.issue .packed hs)
  | max2 _ _ => exact .next (.issue .packed hs)
  | setp _ _ => exact .next (.issue .setpDesc hs)
  | selp _ _ => exact .next (.issue .selpDesc hs)
  | pand _ _ => exact .next (.issue .plogic hs)
  | por _ _ => exact .next (.issue .plogic hs)
  | pxor _ _ => exact .next (.issue .plogic hs)
  | pnot _ _ => exact .next (.issue .plogic hs)
  | pmov _ _ => exact .next (.issue .pmovDesc hs)
  | cvt _ _ => exact .next (.issue .cvtDesc hs)
  | pack _ _ => exact .next (.issue .packDesc hs)
  | unpack _ _ => exact .next (.issue .unpackDesc hs)
  | qnt4 _ _ => exact .next (.issue .qnt4Desc hs)
  | dq4 _ _ => exact .next (.issue .dq4Desc hs)
  | shfl _ _ => exact .next (.issue .shflDesc hs)
  | vote _ _ => exact .next (.issue .voteDesc hs)
  | rdxOp _ _ => exact .next (.issue .rdxDesc hs)
  | scan _ _ => exact .next (.issue .scanDesc hs)
  | bcast _ _ => exact .next (.issue .bcastDesc hs)
  | matchV _ _ => exact .next (.issue .matchDesc hs)
  | sadd _ _ => exact .next (.issue .scal2 hs)
  | ssub _ _ => exact .next (.issue .scal2 hs)
  | smul _ _ => exact .next (.issue .scal2 hs)
  | smin _ _ => exact .next (.issue .scal2 hs)
  | smax _ _ => exact .next (.issue .scal2 hs)
  | sand _ _ => exact .next (.issue .scal2 hs)
  | sor _ _ => exact .next (.issue .scal2 hs)
  | sxor _ _ => exact .next (.issue .scal2 hs)
  | sshl _ _ => exact .next (.issue .scal2 hs)
  | sshr _ _ => exact .next (.issue .scal2 hs)
  | smov _ _ => exact .next (.issue .smovDesc hs)
  | ssetp _ _ => exact .next (.issue .ssetpDesc hs)
  | saddImm _ _ => exact .next (.issue .scal2Imm hs)
  | ssubImm _ _ => exact .next (.issue .scal2Imm hs)
  | smulImm _ _ => exact .next (.issue .scal2Imm hs)
  | sminImm _ _ => exact .next (.issue .scal2Imm hs)
  | smaxImm _ _ => exact .next (.issue .scal2Imm hs)
  | sandImm _ _ => exact .next (.issue .scal2Imm hs)
  | sorImm _ _ => exact .next (.issue .scal2Imm hs)
  | sxorImm _ _ => exact .next (.issue .scal2Imm hs)
  | sshlImm _ _ => exact .next (.issue .scal2Imm hs)
  | sshrImm _ _ => exact .next (.issue .scal2Imm hs)
  | smovImm _ _ => exact .next (.issue .smovImmDesc hs)
  | mov _ _ => exact .next (.issue .movDesc hs)
  | movi _ _ => exact .next (.issue .moviDesc hs)
  | ld _ _ => exact .next (.issue .loadDesc hs)
  | st _ _ => exact .next (.issue .storeDesc hs)
  | sld _ _ => exact .next (.issue .sldDesc hs)
  | lds _ _ => exact .next (.issue .loadDesc hs)
  | sts _ _ => exact .next (.issue .storeDesc hs)
  | ldc _ _ => exact .next (.issue .loadDesc hs)
  | stc _ _ => exact .next (.issue .storeDesc hs)
  | ldpr _ _ => exact .next (.issue .loadDesc hs)
  | stpr _ _ => exact .next (.issue .storeDesc hs)
  | ldg _ _ => exact .next (.issue .loadDesc hs)
  | stg _ _ => exact .next (.issue .storeDesc hs)
  | atomAdd _ _ => exact .next (.issue .atomDesc hs)
  | atomMin _ _ => exact .next (.issue .atomDesc hs)
  | atomMax _ _ => exact .next (.issue .atomDesc hs)
  | atomAnd _ _ => exact .next (.issue .atomDesc hs)
  | atomOr _ _ => exact .next (.issue .atomDesc hs)
  | atomXor _ _ => exact .next (.issue .atomDesc hs)
  | atomExch _ _ => exact .next (.issue .atomDesc hs)
  | atomCas _ _ => exact .next (.issue .atomDesc hs)
  | redAdd _ _ => exact .next (.issue .redDesc hs)
  | redMin _ _ => exact .next (.issue .redDesc hs)
  | redMax _ _ => exact .next (.issue .redDesc hs)
  | redAnd _ _ => exact .next (.issue .redDesc hs)
  | redOr _ _ => exact .next (.issue .redDesc hs)
  | redXor _ _ => exact .next (.issue .redDesc hs)
  | tld _ _ => exact .next (.issue .tldDesc hs)
  | tst _ _ => exact .next (.issue .tstDesc hs)
  | hld _ _ => exact .next (.issue .hldDesc hs)
  | hclr _ _ => exact .next (.issue .hclrDesc hs)
  | spt _ _ => exact .next (.issue .sptDesc hs)
  | cvta _ _ => exact .next (.issue .cvtaDesc hs)
  | cvts _ _ => exact .next (.issue .cvtsDesc hs)
  | pf _ _ => exact .next (.issue .pfDesc hs)
  | flush _ _ => exact .next (.issue .flushDesc hs)
  | disc _ _ => exact .next (.issue .discDesc hs)
  | syncwait _ _ => exact .next (.issue .syncwaitDesc hs)
  | syncadd _ _ => exact .next (.issue .syncaddDesc hs)
  | copy _ _ => exact .next (.issue .copyDesc hs)
  | tcopy _ _ => exact .next (.issue .tcopyDesc hs)
  | fktab _ _ => exact .next (.issue .fktabDesc hs)
  | fkdec _ _ => exact .next (.issue .fkdecDesc hs)
  | mapset _ _ => exact .next (.issue .mapsetDesc hs)
  | wload _ _ => exact .next (.issue .wloadDesc hs)
  | mmul _ _ => exact .next (.issue .mmulDesc hs)
  | aclr _ _ => exact .next (.issue .aclrDesc hs)
  | aread _ _ => exact .next (.issue .areadDesc hs)
  | ofence _ _ => exact .next (.issue .ofenceDesc hs)
  | rsend _ _ => exact .next (.issue .rodDesc hs)
  | rrecv _ _ => exact .next (.issue .rodDesc hs)
  | smv _ _ => exact .next (.issue .smvDesc hs)
  | qrot _ _ => exact .next (.issue .qrotDesc hs)
  | bput _ _ => exact .next (.issue .bushelDesc hs)
  | bfork _ _ => exact .next (.issue .bushelDesc hs)
  | bdrop _ _ => exact .next (.issue .bushelDesc hs)
  | attn _ _ => exact .next (.issue .bushelDesc hs)
  | bringUp => exact .next (.bringUpStep hs)
  | securityVersionRaise => exact .next (.svnStep hs)
  | measurementExtend => exact .next (.measureStep hs)
  | quoteRequest => exact .next (.quoteStep hs)
  | certificateRequest => exact .next (.certStep hs)
  | vfLoopStep => exact .next (.vfStep hs)
  | droopEvent => exact .next (.droopStep hs)
  | droopRecovery => exact .next (.recoverStep hs)
  | thermalStateChange => exact .next (.thermStep hs)
  | thermalTrip => exact .next (.tripStep hs)
  | powerLimitExceeded => exact .next (.powerStep hs)
  | vflimWrite => exact .next (.byWindow (fun _ => .putVflim) hs)
  | pwrcapWrite => exact .next (.byWindow (fun _ => .putPwrcap) hs)
  | combwinWrite => exact .next (.byWindow (fun _ => .putCombwin) hs)
  | schedCfgWrite => exact .next (.byWindow (fun _ => .putSched) hs)
  | simtCfgWrite => exact .next (.byWindow (fun _ => .putSimt) hs)
  | matrixCfgWrite => exact .next (.byWindow (fun _ => .putMatrix) hs)
  | adminptrTailWrite => exact .next (.adminTailStep hs)
  | doorbellWrite => exact .next (.doorbellStep hs)
  | errlogOvfClear => exact .next (.byWindow (fun _ => .putErrlog) hs)
  | errentValidClear => exact .next (.byWindow (fun _ => .putErrent) hs)
  | frameRingTailWrite => exact .next (.frameTailStep hs)
  | frameRing3HeadWrite => exact .next (.byWindow (fun _ => .putFrptr) hs)
  | evictReclaim => exact .next (.evEventStep hs)
  | evictDirectedBacking => exact .next (.evEventStep hs)
  | evictDirectedDiscard => exact .next (.evEventStep hs)
  | bushelEnable => exact .next (.byWindow (fun _ => .putBushel) hs)
  | bushelDisable => exact .next (.byWindow (fun _ => .putBushel) hs)
  | reg128LowWrite => exact .next (.lowWriteStep hs)
  | reg128LowRead => exact .next (.lowReadStep hs)
  | registerWrite => exact .next (.regWriteStep hs)
  | flitReceived => exact .next (.flitStep hs)
  | replayRequest => exact .next (.replayStep hs)
  | linkRetrainDone => exact .next (.linkDoneStep hs)
  | equalisationStep => exact .next (.equaliseStep hs)
  | snpdata => exact .next (.snoopStep hs)
  | snpinv => exact .next (.snoopStep hs)
  | snpcur => exact .next (.snoopStep hs)
  | hostSectorFetch => exact .next (.hostFetchStep hs)
  | itomwrCompletion => exact .next (.itomwrStep hs)
  | barMemoryRead => exact .next (.barReadStep hs)
  | barMemoryWrite => exact .next (.barWrite hs)
  | gets => exact .next (.getGranule hs)
  | getx => exact .next (.getGranule hs)
  | granuleRecall => exact .next (.granuleRecallStep hs)
  | granuleGrant => exact .next (.granuleGrantStep hs)
  | putx => exact .next (.putxStep hs)
  | rds => exact .next (.rdsStep hs)
  | rdx => exact .next (.ownStep hs)
  | upg => exact .next (.ownStep hs)
  | rdu => exact .next (.rduStep hs)
  | wru => exact .next (.wruStep hs)
  | atom => exact .next (.atomStep hs)
  | fwd => exact .next (.fwdStep hs)
  | inv => exact .next (.invStep hs)
  | graft => exact .next (.graftStep hs)
  | pruneack => exact .next (.departAck hs)
  | wback => exact .next (.departAck hs)
  | pathRelease => exact .next (.releaseStep hs)
  | invack => exact .next (.invackStep hs)
  | prune => exact .next (.departStep hs)
  | wbd => exact .next (.departStep hs)
  | data => exact .next (.dataStep hs)
  | grant => exact .next (.dataStep hs)
  | err => exact .next (.errStep hs)
  | wrack => exact .next (.wrackStep hs)
  | atomack => exact .next (.atomackStep hs)
  | redack => exact .next (.redackStep hs)
  | syncCountUpdate => exact .next (.syncCount hs)
  | red => exact .next (.redStep hs)
  | redp => exact .next (.redpStep hs)
  | combineWindowExpiry => exact .next (.combExpire hs)
  | ordContributionResend => exact .next (.ordResend hs)
  | attributeQuery => exact .next (.attributeStep hs)
  | placementLookup => exact .next (.placementStep hs)
  | translationWalk => exact .next (.walkStep hs)
  | frameZeroingComplete => exact .next (.zeroingStep hs)
  | treeCacheEccFatal => exact .next (.fatalStep hs)
  | wcsEviction => exact .next (.wcsEvictStep hs)
  | ctxCreate => exact .next (.createStep hs)
  | ctxDestroy => exact .next (.destroyStep hs)
  | ctxSuspend => exact .next (.suspendStep hs)
  | ctxSuspendComplete => exact .next (.suspendDoneStep hs)
  | ctxResume => exact .next (.resumeCmdStep hs)
  | objDeclare => exact .next (.declareStep hs)
  | objClear => exact .next (.clearStep hs)
  | biasFlip => exact .next (.biasStep hs)
  | biasFlipComplete => exact .next (.biasDoneStep hs)
  | queueResume => exact .next (.queueResumeStep hs)
  | xlateInval => exact .next (.invalStep hs)
  | adminUnknownOpcode => exact .next (.adminUnknownStep hs)
  | adminCommandReadError => exact .next (.adminNext hs)
  | userNop => exact .next (.userQuick hs)
  | graphLaunch => exact .next (.launchStep hs)
  | userUnknownOp => exact .next (.userQuick hs)
  | userCommandReadError => exact .next (.userReadError hs)
  | nodeNop => exact .next (.nopStep hs)
  | nodeKernel => exact .next (.kernelStep hs)
  | nodeCopy => exact .next (.nodeCopyStep hs)
  | nodeSignal => exact .next (.signalStep hs)
  | nodeWait => exact .next (.waitStep hs)
  | waitReread => exact .next (.rereadStep hs)
  | waitTimeout => exact .next (.timeoutStep hs)
  | nodeCond => exact .next (.condStep hs)
  | nodeWhile => exact .next (.whileStep hs)
  | nodeComplete => exact .next (.nodeCompleteStep hs)
  | faultVectorRaise => exact .next (.faultVecStep hs)
  | teamPlacement => exact .next (.placementTurn hs)
  | preemptionTrigger => exact .next (.triggerStep hs)
  | haltComplete => exact .next (.haltStep hs)
  | contextSave => exact .next (.saveStep hs)
  | accumulatorSave => exact .next (.accSaveStep hs)
  | contextResumeAuto => exact .next (.resumeStep hs)
  | teamExit => exact .next (.teamExitStep hs)
  | ejectionHandoverComplete => exact .next (.handoverStep hs)
  | threadRecall => exact .next (.recallStep hs)
  | rejoinTimeout => exact .next (.rejoinStep hs)
  | ejectionWindowEnd => exact .next (.windowStep hs)
  | copyCommandAccept => exact .next (.acceptStep hs)
  | copyCountStep => exact .next (.copyStep hs)
  | firkinTableLoadComplete => exact .next (.tableStep hs)
  | firkinDecodeComplete => exact .next (.decodeStep hs)
  | syncUpdate => exact .next (.syncUpdateStep hs)
  | syncTimerTick => exact .next (.timerStep hs)
  | rodPairing => exact .next (.rodPairStep hs)
  | rodTimeout => exact .next (.rodTimeoutStep hs)
  | asyncOperationComplete => exact .next (.asyncStep hs)
  | partReset => exact .next (.resetStep hs)
  | portWriteAcknowledgement => exact .next (.portAckStep hs)

/-- A word of the program, of either kind of core: its instruction, or the trap of a word that is not one. -/
theorem OutInv.runWord {w : Nat} {s : State} (hs : MemInv s) : OutInv (Machine.runWord w s) := by
  unfold Machine.runWord
  split
  · exact .exec hs
  · exact .next (.illegalWord hs)

theorem OutInv.step {s : State} (hs : MemInv s) : OutInv (Machine.step s) := by
  have hf : MemInv s.fresh := .fresh hs
  unfold Machine.step
  dsimp only
  split
  case h_1 u t e => exact .next (.passTime (.applyUpset (.dueUpset hf e)))
  case h_2 =>
    split
    · exact .afterExec (.next hf)
    · split
      case h_1 e t he => exact .afterExec (.exec (.takeEvent hf he))
      case h_2 => exact .afterExec (.next hf)
    · exact .afterExec (.coreCycle (fun _ _ => .runWord) hf)
    · exact .afterExec (.spanCycle (fun _ _ => .runWord) hf)

/-- Settles O7: every function that `step` is built from keeps the canonical form, and `memPut` is the one that writes a memory. -/
theorem stepKeepsInv : Obligations.StepKeepsInv := by
  unfold Obligations.StepKeepsInv
  exact fun s t hs e => .of_next e (.step hs)

/-- Settles O6: both memories list nothing at reset. -/
theorem resetInv : Obligations.ResetInv := by
  unfold Obligations.ResetInv
  exact ⟨rfl, rfl⟩

end Sys2Proof

end

section

/-! ## The register window (O42): which accesses reach the part, what a read shows and what a write does -/

namespace Sys2Proof

open Machine

/-! ### Tables, bays and what leaves the part -/

/-- A key that was removed is not listed. -/
theorem Machine.Tbl.get?_del_same {κ α : Type} [DecidableEq κ] (t : Tbl κ α) (k : κ) : (t.del k).get? k = none := by
  induction t with
  | nil => rfl
  | cons e t ih =>
    obtain ⟨q, v⟩ := e
    by_cases h : q = k
    · simpa [Tbl.del, h] using ih
    · simpa [Tbl.del, Tbl.get?, h] using ih

theorem Machine.State.bay_modBay_same (s : State) (b : Nat) (f : Bay → Bay) : (s.modBay b f).bay b = f (s.bay b) := Tbl.getD_set_same _ _ _ _

theorem Machine.State.bay_modBay_other (s : State) {b c : Nat} (f : Bay → Bay) (h : c ≠ b) : (s.modBay b f).bay c = s.bay c :=
  Tbl.getD_set_other _ _ _ h.symm

/-- A message that leaves changes nothing but the notices and the links. -/
theorem Machine.State.tell_frame (s : State) (n : Notice) :
    ∃ khl kfl, s.tell n = { s with notices := s.notices ++ [n], regs := { s.regs with khl := khl, kfl := kfl } } := by
  unfold State.tell State.setLink
  dsimp only
  split
  · exact ⟨_, _, rfl⟩
  · split
    · exact ⟨_, _, rfl⟩
    · exact ⟨_, _, rfl⟩

theorem Machine.State.tell_notices (s : State) (n : Notice) : (s.tell n).notices = s.notices ++ [n] := by
  obtain ⟨_, _, e⟩ := s.tell_frame n
  rw [e]

theorem Machine.State.tell_readback (s : State) (n : Notice) : (s.tell n).regs.readback = s.regs.readback := by
  obtain ⟨_, _, e⟩ := s.tell_frame n
  rw [e]

theorem Machine.State.tell_snap (s : State) (n : Notice) : (s.tell n).regs.snap = s.regs.snap := by
  obtain ⟨_, _, e⟩ := s.tell_frame n
  rw [e]

/-! ### Which accesses reach the part (R26, R33, R34) -/

theorem overKhl_up {ev : Instr} {f : State → State} {s : State} (h : 2 ≤ s.regs.khl.state) : overKhl ev f s = f s := by
  have h0 : s.regs.khl.state ≠ 0 := by omega
  simp [overKhl, State.khlLost, h0, Nat.not_lt.mpr h]

theorem byWindow_reached {ev : Instr} {f : State → State} {s : State} (h : s.ev.data ≠ [] ∨ 2 ≤ s.regs.khl.state) :
    byWindow ev f s = f s := by
  unfold byWindow
  split
  next hd => exact overKhl_up (h.resolve_left (not_not_intro (List.isEmpty_iff.mp hd)))
  next => rfl

theorem byWindow_down {ev : Instr} {f : State → State} {s : State} (hd : s.ev.data = []) (h : s.regs.khl.state = 0) :
    byWindow ev f s = s := by
  simp [byWindow, overKhl, State.khlLost, hd, h]

theorem byWindow_training {ev : Instr} {f : State → State} {s : State} (hd : s.ev.data = []) (h : s.regs.khl.state = 1) :
    byWindow ev f s = s.keep ev := by
  simp [byWindow, overKhl, State.khlLost, hd, h]

theorem exec_reached {i : Instr} {f : State → State} {s : State} (e : exec i s = .next (byWindow i f s))
    (h : s.ev.data ≠ [] ∨ 2 ≤ s.regs.khl.state) : exec i s = .next (f s) := e.trans (congrArg _ (byWindow_reached h))

/-- The host's accesses that the KHL carries. -/
def windowEvents : List Instr :=
  [.registerWrite, .reg128LowWrite, .reg128LowRead, .frameRingTailWrite, .frameRing3HeadWrite, .bushelEnable, .bushelDisable, .pwrcapWrite,
    .combwinWrite, .schedCfgWrite, .simtCfgWrite, .matrixCfgWrite, .vflimWrite, .errlogOvfClear, .errentValidClear]

theorem exec_windowEvent (s : State) : ∀ i ∈ windowEvents, ∃ f, exec i s = .next (byWindow i f s) := by
  simp only [windowEvents, List.forall_mem_cons, List.not_mem_nil, false_implies, implies_true, and_true]
  exact ⟨⟨_, rfl⟩, ⟨_, rfl⟩, ⟨_, rfl⟩, ⟨_, rfl⟩, ⟨_, rfl⟩, ⟨_, rfl⟩, ⟨_, rfl⟩, ⟨_, rfl⟩, ⟨_, rfl⟩, ⟨_, rfl⟩, ⟨_, rfl⟩, ⟨_, rfl⟩, ⟨_, rfl⟩,
    ⟨_, rfl⟩, ⟨_, rfl⟩⟩

theorem exec_windowEvent_unreached {s : State} (hd : s.ev.data = []) {i : Instr} (hi : i ∈ windowEvents) :
    (s.regs.khl.state = 0 → exec i s = .next s) ∧ (s.regs.khl.state = 1 → exec i s = .next (s.keep i)) := by
  obtain ⟨f, e⟩ := exec_windowEvent s i hi
  exact ⟨fun h => e.trans (congrArg _ (byWindow_down hd h)), fun h => e.trans (congrArg _ (byWindow_training hd h))⟩

/-! ### Reads of the window (R101, R103) -/

section
variable {o n : Nat} {r : WReg} {s : State}

theorem windowTake_no_register (h : regAt o = none) : windowTake o n s = (s, 0) := by simp [windowTake, windowRead, h]

theorem windowTake_other_width (h : regAt o = some r) (hn : n ≠ r.bytes) : windowTake o n s = (s, 0) := by
  simp [windowTake, windowRead, h, hn]

theorem windowTake_narrow (h : regAt o = some r) (hn : n = r.bytes) (hw : r.wide = false) : windowTake o n s = (s, regGet s r) := by
  simp [windowTake, windowRead, h, hn, hw]

theorem windowTake_low (h : regAt o = some r) (hn : n = r.bytes) (hw : r.wide = true) (ho : o % 16 = 0) :
    windowTake o n s = (s.modRegs (fun R => { R with snap := R.snap.set o (regGet s r) }), regGet s r % 2 ^ 64) := by
  simp [windowTake, windowRead, h, hn, hw, ho]

theorem windowTake_high (h : regAt o = some r) (hn : n = r.bytes) (hw : r.wide = true) (ho : o % 16 ≠ 0) :
    windowTake o n s = (s.modRegs (fun R => { R with snap := R.snap.del (o - 8) }), s.regs.snap.getD (o - 8) (regGet s r) / 2 ^ 64) := by
  simp [windowTake, windowRead, h, hn, hw, ho]

end

/-- A read changes nothing but the registers: it keeps or uses up a snapshot. -/
theorem windowTake_frame (o n : Nat) (s : State) : (windowTake o n s).1 = { s with regs := (windowTake o n s).1.regs } := by
  unfold windowTake
  dsimp only
  split
  · rfl
  · split
    · rfl
    · split <;> rfl

theorem windowAnswer_readback (l : List Byte) (s : State) : (windowAnswer l s).regs.readback = l := State.tell_readback _ _

theorem windowAnswer_snap (l : List Byte) (s : State) : (windowAnswer l s).regs.snap = s.regs.snap := State.tell_snap _ _

theorem windowAnswer_notices (l : List Byte) (s : State) :
    (windowAnswer l s).notices = s.notices ++ [if s.ev.data = [] then .barData l else .sideData l] := by
  simp only [windowAnswer, State.tell_notices, List.isEmpty_iff]
  rfl

theorem windowReadStep_notices {s : State} {l : List Byte} (hl : l = leBytes s.ev.v (windowTake s.ev.k s.ev.v s).2) :
    (windowReadStep s).notices = s.notices ++ [if s.ev.data = [] then .barData l else .sideData l] := by
  rw [hl, windowReadStep, windowAnswer_notices, windowTake_frame]

theorem exec_barMemoryRead_window {s : State} (h : s.ev.data ≠ [] ∨ 2 ≤ s.regs.khl.state) (ha : s.ev.a = 1) :
    exec .barMemoryRead s = .next (windowReadStep s) := by
  have e : barReadStep s = byWindow .barMemoryRead windowReadStep s := by simp only [barReadStep, ha]
  exact congrArg _ (e.trans (byWindow_reached h))

theorem exec_barMemoryRead_doorbell {s : State} (h : 2 ≤ s.regs.khl.state) (ha : s.ev.a = 2) :
    exec .barMemoryRead s = .next (doorbellReadStep s) := by
  have e : barReadStep s = overKhl .barMemoryRead doorbellReadStep s := by simp only [barReadStep, ha]
  exact congrArg _ (e.trans (overKhl_up h))

/-! ### Writes of the window (R101, R103) -/

/-- The held lower halves show in no register. -/
theorem regGet_lowHeld (r : WReg) (s : State) (f : Regs → Tbl Nat Nat) :
    regGet (s.modRegs (fun R => { R with lowHeld := f R })) r = regGet s r := by
  cases r <;> rfl

section
variable {r : WReg} {s : State}

theorem regWrite_put (h : regAt s.ev.k = some r) (ha : s.ev.a = r.bytes) (hw : r.wide = false ∨ s.ev.k % 16 ≠ 0) :
    regWrite s = regPut r (s.ev.v % 2 ^ (8 * r.bytes)) s := by
  have hn : ¬(r.wide = true ∧ s.ev.k % 16 = 0) := fun ⟨h1, h2⟩ => hw.elim (by simp [h1]) (absurd h2)
  simp [regWrite, h, ha, hn]

theorem regWrite_low (h : regAt s.ev.k = some r) (ha : s.ev.a = r.bytes) (hw : r.wide = true) (ho : s.ev.k % 16 = 0) :
    regWrite s = s.modRegs (fun R => { R with lowHeld := R.lowHeld.set s.ev.k (s.ev.v % 2 ^ 64) }) := by
  simp [regWrite, h, ha, hw, ho]

theorem regWrite_ignored (h : regAt s.ev.k = none ∨ ∃ r, regAt s.ev.k = some r ∧ s.ev.a ≠ r.bytes) : regWrite s = s := by
  rcases h with h | ⟨r, h, ha⟩
  · simp [regWrite, h]
  · simp [regWrite, h, ha]

theorem lowWrite_held (h : regAt s.ev.k = some r) (hw : r.wide = true) (ho : s.ev.k % 16 = 0) :
    lowWrite s = s.modRegs (fun R => { R with lowHeld := R.lowHeld.set s.ev.k (s.ev.v % 2 ^ 64) }) := by
  simp [lowWrite, h, hw, ho]

theorem lowRead_answer (h : regAt s.ev.k = some r) (hw : r.wide = true) (ho : s.ev.k % 16 = 0) :
    lowRead s = windowAnswer (leBytes 8 (regGet s r)) (s.modRegs (fun R => { R with snap := R.snap.set s.ev.k (regGet s r) })) := by
  simp [lowRead, h, hw, ho]

end

/-! ### Writes that have events of their own (R20, R24, R75, R77) -/

theorem regGet_putCombwin (v : Nat) (s : State) :
    regGet (putCombwin v s) .combwin = bits v 31 31 * 2 ^ 31 + (if bits v 15 0 = 0 then 1 else bits v 15 0) := by
  simp only [putCombwin, State.modRegs, regGet, beq_iff_eq]

theorem putVflim_bay_other (b v : Nat) (s : State) {c : Nat} (hc : c ≠ b) : (putVflim b v s).bay c = s.bay c := by
  unfold putVflim
  dsimp only
  split
  · rfl
  · exact State.bay_modBay_other _ _ hc

theorem regGet_putVflim {b v : Nat} {s : State} (h : satN (bits v 6 0) 80 120 ≤ satN (bits v 13 7) 80 120) :
    regGet (putVflim b v s) (.vflim b) = satN (bits v 13 7) 80 120 * 2 ^ 7 + satN (bits v 6 0) 80 120 := by
  simp only [putVflim, if_neg (Nat.not_lt.mpr h), regGet, State.bay_modBay_same]

theorem putVflim_empty {b v : Nat} {s : State} (h : satN (bits v 13 7) 80 120 < satN (bits v 6 0) 80 120) : putVflim b v s = s := by
  simp only [putVflim, if_pos h]

theorem putErrlog_bay_same (b v : Nat) (s : State) :
    (putErrlog b v s).bay b = { s.bay b with ovf := (s.bay b).ovf && !bit v 9 } := State.bay_modBay_same _ _ _

theorem putErrent_clears {b i up : Nat} {s : State} (h : bit up 63 = true) : bit (((putErrent b i up s).bay b).errent.getD i 0) 127 = false := by
  simp only [putErrent, h, if_true, State.bay_modBay_same]
  rw [Tbl.getD_set_same, bit_setBit_same]

theorem putErrent_keeps {b i up : Nat} {s : State} (h : bit up 63 = false) (c : Nat) : (putErrent b i up s).bay c = s.bay c := by
  simp only [putErrent, h]
  rfl

/-- Settles O42: each kind of access by the lemmas of its part of the window, on the accesses that reach the part. -/
theorem registerWindow : Obligations.RegisterWindow := by
  unfold Obligations.RegisterWindow
  refine ⟨?_, fun s o n => windowTake_no_register, ?_, ?_, fun s hd i hi => exec_windowEvent_unreached hd hi,
    ⟨?_, ?_, ?_, ?_, ?_⟩, ?_⟩
  · intro s o n r h
    exact ⟨windowTake_other_width h, windowTake_narrow h,
      fun hn hw ho => ⟨_, windowTake_low h hn hw ho, rfl, Tbl.get?_set_same _ _ _⟩,
      fun hn hw ho => ⟨_, windowTake_high h hn hw ho, rfl, Tbl.get?_del_same _ _⟩⟩
  · intro s hr ha
    exact ⟨_, exec_barMemoryRead_window hr ha, fun l hl => ⟨(windowAnswer_readback _ _).trans hl.symm, windowReadStep_notices hl⟩⟩
  · intro s hr ha
    exact ⟨_, exec_barMemoryRead_doorbell hr ha, State.tell_readback _ _, State.tell_notices _ _⟩
  · intro s r hr h ha hw
    exact (exec_reached rfl hr).trans (congrArg _ (regWrite_put h ha hw))
  · intro s r hr h ha hw ho
    exact ⟨_, (exec_reached rfl hr).trans (congrArg _ (regWrite_low h ha hw ho)), Tbl.get?_set_same _ _ _, regGet_lowHeld _ _ _⟩
  · intro s hr h
    exact (exec_reached rfl hr).trans (congrArg _ (regWrite_ignored h))
  · intro s r hr h hw ho
    refine ⟨⟨_, (exec_reached rfl hr).trans (congrArg _ (lowWrite_held h hw ho)), Tbl.get?_set_same _ _ _⟩,
      _, (exec_reached rfl hr).trans (congrArg _ (lowRead_answer h hw ho)), ?_, windowAnswer_readback _ _, windowAnswer_notices _ _⟩
    rw [windowAnswer_snap]
    exact Tbl.get?_set_same _ _ _
  · simp only [List.forall_mem_cons, List.not_mem_nil, false_implies, implies_true, and_true, EvRow.Lands]
    refine ⟨fun s ⟨hr, ha⟩ => ?_, fun s hr => ?_, fun s hr => ?_, fun s hr => ?_⟩
    · exact (exec_reached rfl hr).trans (congrArg _ (if_pos ha))
    all_goals exact exec_reached rfl hr
  · intro s hr
    have pwrcap := exec_reached (i := .pwrcapWrite) rfl hr
    have combwin := exec_reached (i := .combwinWrite) rfl hr
    have sched := exec_reached (i := .schedCfgWrite) rfl hr
    have simt := exec_reached (i := .simtCfgWrite) rfl hr
    have matrix := exec_reached (i := .matrixCfgWrite) rfl hr
    have vflim := exec_reached (i := .vflimWrite) rfl hr
    have errlog := exec_reached (i := .errlogOvfClear) rfl hr
    have errent := exec_reached (i := .errentValidClear) rfl hr
    refine ⟨⟨_, pwrcap, rfl, rfl⟩, ⟨_, combwin, rfl, regGet_putCombwin _ _⟩, ⟨_, sched, rfl, rfl⟩, ⟨_, simt, rfl, rfl⟩, ⟨_, matrix, rfl, rfl⟩,
      ⟨_, vflim, fun b hb => putVflim_bay_other _ _ _ hb, ?_⟩,
      ⟨_, errlog, by rw [putErrlog_bay_same], by rw [putErrlog_bay_same], fun b hb => State.bay_modBay_other _ _ hb⟩,
      ⟨_, errent, putErrent_clears, putErrent_keeps⟩⟩
    rintro lo hi rfl rfl
    exact ⟨regGet_putVflim, putVflim_empty⟩

end Sys2Proof

end

section

/-! ## The package (O40): bring-up, its failures and the reset of the part -/

namespace Sys2Proof

open Machine

/-! ### Bays that are changed one after another -/

/-- The value at a listed key of a table that a function gives. -/
theorem Machine.Tbl.getD_map_mem {κ α : Type} [DecidableEq κ] (g : κ → α) (d : α) {l : List κ} {k : κ} (h : k ∈ l) :
    Tbl.getD (l.map (fun b => (b, g b))) k d = g k := by
  induction l with
  | nil => exact absurd h List.not_mem_nil
  | cons a l ih =>
    by_cases ha : a = k
    · simp [Tbl.getD, Tbl.get?, ha]
    · have hl := ih ((List.mem_cons.mp h).resolve_left (Ne.symm ha))
      simpa [Tbl.getD, Tbl.get?, ha] using hl

section
variable {α β : Type} {key : α → Nat} {f : α → Bay → Bay} {l : List α} {s : State} {b : Nat}

theorem foldl_modBay_frame : ∃ bays, l.foldl (fun s x => s.modBay (key x) (f x)) s = { s with bays := bays } := by
  induction l generalizing s with
  | nil => exact ⟨s.bays, rfl⟩
  | cons x l ih =>
    obtain ⟨bays, e⟩ := ih (s := s.modBay (key x) (f x))
    exact ⟨bays, e⟩

/-- What no single change touches is untouched in every bay. -/
theorem foldl_modBay_keeps (g : Bay → β) (h : ∀ x B, g (f x B) = g B) :
    g ((l.foldl (fun s x => s.modBay (key x) (f x)) s).bay b) = g (s.bay b) := by
  induction l generalizing s with
  | nil => rfl
  | cons x l ih =>
    refine ih.trans ?_
    by_cases hb : b = key x
    · rw [hb, State.bay_modBay_same, h]
    · rw [State.bay_modBay_other _ _ hb]

theorem foldl_modBay_other (h : b ∉ l.map key) : (l.foldl (fun s x => s.modBay (key x) (f x)) s).bay b = s.bay b := by
  induction l generalizing s with
  | nil => rfl
  | cons x l ih =>
    obtain ⟨hx, hl⟩ := not_or.mp (mt List.mem_cons.mpr h)
    exact (ih hl).trans (State.bay_modBay_other _ _ hx)

/-- A bay that one change of the list names is changed by it alone. -/
theorem foldl_modBay_mem {x : α} (hn : (l.map key).Nodup) (hx : x ∈ l) :
    (l.foldl (fun s x => s.modBay (key x) (f x)) s).bay (key x) = f x (s.bay (key x)) := by
  induction l generalizing s with
  | nil => exact absurd hx List.not_mem_nil
  | cons y l ih =>
    obtain ⟨hy, hl⟩ := List.nodup_cons.mp hn
    rcases List.mem_cons.mp hx with rfl | hx
    · exact (foldl_modBay_other hy).trans (State.bay_modBay_same _ _ _)
    · have hne : key x ≠ key y := fun e => hy (e ▸ List.mem_map_of_mem hx)
      exact (ih hl hx).trans (congrArg _ (State.bay_modBay_other _ _ hne))

end

theorem mem_bays {b : Nat} (h : b < 8) : b ∈ upFrom 0 8 := mem_upFrom.mpr ⟨Nat.zero_le _, by omega⟩

/-! ### The remap tables (R30) -/

/-- A fold that extends a list where both a value and the list so far are there, and else has none, gives the values in order. -/
theorem forall₂_of_foldr {α β : Type} {f : α → Option β} {g : α → Option (List β) → Option (List β)}
    (hg : ∀ a acc r, g a acc = some r → ∃ w ws, f a = some w ∧ acc = some ws ∧ r = w :: ws) {l : List α} {r : List β}
    (h : l.foldr g (some []) = some r) : List.Forall₂ (fun a w => f a = some w) l r := by
  induction l generalizing r with
  | nil => cases h; exact .nil
  | cons a l ih =>
    obtain ⟨w, ws, hw, hws, rfl⟩ := hg _ _ _ h
    exact .cons hw (ih hws)

/-- The tables made are those of the bays, in order. -/
theorem remapAll_forall₂ {s : State} {ts : List (List Nat)} (h : remapAll s = some ts) :
    List.Forall₂ (fun b w => remapWords s b = some w) (upFrom 0 8) ts := by
  refine forall₂_of_foldr (fun b acc r hr => ?_) h
  split at hr
  next w ws hw => exact ⟨w, ws, hw, rfl, (Option.some.inj hr).symm⟩
  next => cases hr

theorem mem_zip_of_remapAll {s : State} {ts : List (List Nat)} {b : Nat} {w : List Nat} (h : remapAll s = some ts) (hb : b < 8)
    (hw : remapWords s b = some w) : (b, w) ∈ (upFrom 0 8).zip ts := by
  obtain ⟨hlen, hzip⟩ := List.forall₂_iff_zip.mp (remapAll_forall₂ h)
  have hmem : b ∈ ((upFrom 0 8).zip ts).map Prod.fst := by
    rw [List.map_fst_zip hlen.le]
    exact mem_bays hb
  obtain ⟨⟨c, v⟩, hv, rfl⟩ := List.mem_map.mp hmem
  rwa [Option.some.inj (hw.symm.trans (hzip hv))]

theorem putRemap_frame (ts : List (List Nat)) (s : State) : ∃ bays, putRemap ts s = { s with bays := bays } := foldl_modBay_frame

theorem putRemap_freq (ts : List (List Nat)) (s : State) (b : Nat) : ((putRemap ts s).bay b).freq = (s.bay b).freq :=
  foldl_modBay_keeps Bay.freq (fun _ _ => rfl)

theorem putRemap_remap {s u : State} {ts : List (List Nat)} {b : Nat} {w : List Nat} (h : remapAll s = some ts) (hb : b < 8)
    (hw : remapWords s b = some w) : ((putRemap ts u).bay b).remap = (upFrom 0 112).zip w := by
  have hn : (((upFrom 0 8).zip ts).map Prod.fst).Nodup := by
    rw [List.map_fst_zip (remapAll_forall₂ h).length_eq.le]
    exact upFrom_nodup 8 0
  exact congrArg Bay.remap (foldl_modBay_mem (f := fun x B => { B with remap := (upFrom 0 112).zip x.2 }) hn
    (mem_zip_of_remapAll h hb hw))

/-! ### The loops of the bays (R17) -/

/-- The loop of a bay has a step to come. -/
def LoopDue (s : State) (b : Nat) : Prop := ∃ d ∈ s.agenda, d.ev = .vfLoopStep ∧ d.arg.k = b

theorem vfDue_frame (b at_ : Nat) (s : State) : ∃ agenda, vfDue b at_ s = { s with agenda := agenda } := by
  unfold vfDue
  split <;> exact ⟨_, rfl⟩

theorem vfDue_due (b at_ : Nat) (s : State) : LoopDue (vfDue b at_ s) b := by
  unfold vfDue
  split
  next h =>
    obtain ⟨d, hd, he⟩ := List.any_eq_true.mp h
    exact ⟨d, hd, by simpa using he⟩
  next => exact ⟨_, List.mem_append_right _ (List.mem_singleton_self _), rfl, rfl⟩

theorem LoopDue.vfDue {s : State} {b c at_ : Nat} (h : LoopDue s b) : LoopDue (vfDue c at_ s) b := by
  obtain ⟨d, hd, he⟩ := h
  unfold Machine.vfDue
  split
  · exact ⟨d, hd, he⟩
  · exact ⟨d, List.mem_append_left _ hd, he⟩

theorem foldl_vfDue_frame (n : Nat) (l : List Nat) (s : State) :
    ∃ agenda, l.foldl (fun s b => vfDue b (s.ncyc + n) s) s = { s with agenda := agenda } := by
  induction l generalizing s with
  | nil => exact ⟨_, rfl⟩
  | cons c l ih =>
    obtain ⟨_, e⟩ := vfDue_frame c (s.ncyc + n) s
    rw [List.foldl_cons, e]
    exact ih _

theorem LoopDue.foldl_vfDue {s : State} {b n : Nat} {l : List Nat} (h : LoopDue s b) :
    LoopDue (l.foldl (fun s b => Machine.vfDue b (s.ncyc + n) s) s) b := by
  induction l generalizing s with
  | nil => exact h
  | cons c l ih => exact ih h.vfDue

theorem foldl_vfDue_due {s : State} {b n : Nat} {l : List Nat} (h : b ∈ l) :
    LoopDue (l.foldl (fun s b => vfDue b (s.ncyc + n) s) s) b := by
  induction l generalizing s with
  | nil => exact absurd h List.not_mem_nil
  | cons c l ih =>
    rcases List.mem_cons.mp h with rfl | h
    · exact (vfDue_due b _ s).foldl_vfDue
    · exact ih h

theorem releaseBays_frame (s : State) : ∃ agenda, releaseBays s = { s with
    agenda := agenda
    bays := (upFrom 0 8).map (fun b => (b, { s.bay b with freq := 80 }))
    acyc := (upFrom 0 8).map (fun b => (b, 0)) } := foldl_vfDue_frame _ _ _

section
variable {b : Nat} (s : State) (hb : b < 8)
include hb

theorem releaseBays_due : LoopDue (releaseBays s) b := foldl_vfDue_due (mem_bays hb)

theorem releaseBays_bay : (releaseBays s).bay b = { s.bay b with freq := 80 } := by
  obtain ⟨_, e⟩ := releaseBays_frame s
  rw [e]
  exact Tbl.getD_map_mem (fun b => { s.bay b with freq := 80 }) _ (mem_bays hb)

theorem releaseBays_acyc (d : Nat) : (releaseBays s).acyc.getD b d = 0 := by
  obtain ⟨_, e⟩ := releaseBays_frame s
  rw [e]
  exact Tbl.getD_map_mem (fun _ => 0) _ (mem_bays hb)

end

/-! ### The steps of bring-up (R26, Table package-10) -/

/-- The part after step 6: stage 1 has run, the stacks are clear and the remap tables are in place. -/
def remapped (ts : List (List Nat)) (s : State) : State := putRemap ts (clearStacks (stageOne s))

/-- Register 1 is extended by the firmware of the bays. -/
def extendFirmware (s : State) : State := extend 1 (sha3 (imageOf s 1).2.2.2) s

theorem remapped_frame (ts : List (List Nat)) (s : State) :
    ∃ bays, remapped ts s = { clearStacks (stageOne s) with bays := bays } := putRemap_frame _ _

section
variable (ts : List (List Nat)) (s : State)

@[simp] theorem remapped_ev : (remapped ts s).ev = s.ev := by obtain ⟨_, e⟩ := remapped_frame ts s; rw [e]; rfl
@[simp] theorem remapped_mem : (remapped ts s).mem = [] := by obtain ⟨_, e⟩ := remapped_frame ts s; rw [e]; rfl
@[simp] theorem remapped_hmem : (remapped ts s).hmem = s.hmem := by obtain ⟨_, e⟩ := remapped_frame ts s; rw [e]; rfl
@[simp] theorem remapped_images : (remapped ts s).ident.images = s.ident.images := by obtain ⟨_, e⟩ := remapped_frame ts s; rw [e]; rfl
@[simp] theorem remapped_seedLocked : (remapped ts s).ident.seedLocked = true := by obtain ⟨_, e⟩ := remapped_frame ts s; rw [e]; rfl

end

theorem imageOf_remapped (ts : List (List Nat)) (s : State) (i : Nat) : imageOf (remapped ts s) i = imageOf s i := by
  simp only [imageOf, remapped_images]

/-- Bring-up is not done and has not failed. -/
structure Unbooted (s : State) : Prop where
  stage : s.regs.stage = 0
  booterr : s.regs.booterr = 0

section
variable {s : State} (hs : Unbooted s)
include hs

theorem bringUpStep_rails (hk : s.ev.k = 1) : bringUpStep s = bootStop 0 1 s := by
  simp [bringUpStep, hs.stage, hs.booterr, hk]

theorem bringUpStep_image (hk : s.ev.k ≠ 1) (hi : imageCheck s (imageOf s 0) ≠ 0) :
    bringUpStep s = bootStop 3 (imageCheck s (imageOf s 0)) s := by
  simp [bringUpStep, hs.stage, hs.booterr, hk, hi]

variable (hi : imageCheck s (imageOf s 0) = 0)
include hi

theorem bringUpStep_mesh (hk : s.ev.k = 5) : bringUpStep s = bootStop 4 5 (stageOne s) := by
  simp [bringUpStep, hs.stage, hs.booterr, hk, hi]

theorem bringUpStep_stacks (hk : s.ev.k = 6) : bringUpStep s = bootStop 5 6 (stageOne s) := by
  simp [bringUpStep, hs.stage, hs.booterr, hk, hi]

variable (hk : s.ev.k ∉ [1, 5, 6])
include hk

theorem bringUpStep_infeasible (hr : remapAll (clearStacks (stageOne s)) = none) :
    bringUpStep s = bootStop 6 7 (clearStacks (stageOne s)) := by
  simp only [List.mem_cons, List.not_mem_nil, or_false, not_or] at hk
  simp [bringUpStep, hs.stage, hs.booterr, hk, hi, hr]

variable {ts : List (List Nat)} (hr : remapAll (clearStacks (stageOne s)) = some ts)
include hr

/-- With remap tables in place, the check of the bays' image decides, then the KHL. -/
theorem bringUpStep_remapped : bringUpStep s =
    if imageCheck (remapped ts s) (imageOf s 1) ≠ 0 then bootStop 6 (imageCheck (remapped ts s) (imageOf s 1)) (remapped ts s)
    else if s.ev.k = 8 then bootStop 7 8 (extendFirmware (remapped ts s))
    else linkUp (s.ev.a == 1) (releaseBays (extendFirmware (remapped ts s))) := by
  have hfold : putRemap ts (clearStacks (stageOne s)) = remapped ts s := rfl
  simp only [List.mem_cons, List.not_mem_nil, or_false, not_or] at hk
  simp [bringUpStep, hs.stage, hs.booterr, hk, hi, hr, hfold, imageOf_remapped, remapped_ev, extendFirmware, extend, State.modIdent]

end

/-- A state on the way of bring-up before the bays are released: the registers, clocks, frequencies and what is to come are as before. -/
structure Unreleased (s u : State) : Prop where
  regs : u.regs = s.regs
  acyc : u.acyc = s.acyc
  agenda : u.agenda = s.agenda
  freq : ∀ b, (u.bay b).freq = (s.bay b).freq

section
variable (ts : List (List Nat)) (s : State)

theorem unreleased_refl : Unreleased s s := ⟨rfl, rfl, rfl, fun _ => rfl⟩

theorem unreleased_stageOne : Unreleased s (stageOne s) := ⟨rfl, rfl, rfl, fun _ => rfl⟩

theorem unreleased_clearStacks : Unreleased s (clearStacks (stageOne s)) := ⟨rfl, rfl, rfl, fun _ => rfl⟩

theorem unreleased_remapped : Unreleased s (remapped ts s) := by
  have hf := putRemap_freq ts (clearStacks (stageOne s))
  obtain ⟨_, e⟩ := remapped_frame ts s
  exact ⟨by rw [e]; rfl, by rw [e]; rfl, by rw [e]; rfl, hf⟩

theorem unreleased_extendFirmware : Unreleased s (extendFirmware (remapped ts s)) := by
  obtain ⟨hregs, hacyc, hagenda, hfreq⟩ := unreleased_remapped ts s
  exact ⟨hregs, hacyc, hagenda, hfreq⟩

end

/-- Bring-up that stops there leaves its code and the last completed step, and the bays as they were. -/
theorem Unreleased.stops {s u : State} {stage err : Nat} (h : Unreleased s u) (e : bringUpStep s = bootStop stage err u) :
    ∃ t, exec .bringUp s = .next t ∧ t.regs = { s.regs with stage := stage, booterr := err } ∧ t.acyc = s.acyc ∧ t.agenda = s.agenda
      ∧ ∀ b, (t.bay b).freq = (s.bay b).freq := by
  refine ⟨_, congrArg Host.Outcome.next e, ?_, h.acyc, h.agenda, h.freq⟩
  rw [← h.regs]
  rfl

/-- The part once every step of bring-up is done. -/
def booted (ts : List (List Nat)) (s : State) : State := linkUp (s.ev.a == 1) (releaseBays (extendFirmware (remapped ts s)))

theorem exec_bringUp_done {s : State} {ts : List (List Nat)} (hs : Unbooted s) (hk : s.ev.k ∉ [1, 5, 6, 8])
    (hi : imageCheck s (imageOf s 0) = 0) (hr : remapAll (clearStacks (stageOne s)) = some ts)
    (hf : imageCheck (remapped ts s) (imageOf s 1) = 0) : exec .bringUp s = .next (booted ts s) := by
  have hk' : s.ev.k ∉ [1, 5, 6] ∧ s.ev.k ≠ 8 := by
    simp only [List.mem_cons, List.not_mem_nil, or_false, not_or] at hk ⊢
    omega
  refine congrArg Host.Outcome.next ((bringUpStep_remapped hs hi hk'.1 hr).trans ?_)
  rw [if_neg (not_not_intro hf), if_neg hk'.2, booted]

section
variable (s : State) (d : Bool) (b : Nat)

@[simp] theorem linkUp_mem : (linkUp d s).mem = s.mem := rfl
@[simp] theorem linkUp_hmem : (linkUp d s).hmem = s.hmem := rfl
@[simp] theorem linkUp_ident : (linkUp d s).ident = s.ident := rfl
@[simp] theorem linkUp_acyc : (linkUp d s).acyc = s.acyc := rfl
@[simp] theorem linkUp_agenda : (linkUp d s).agenda = s.agenda := rfl
@[simp] theorem linkUp_bay : (linkUp d s).bay b = s.bay b := rfl
@[simp] theorem linkUp_khl : (linkUp d s).regs.khl =
    { s.regs.khl with state := if d then 3 else 2, width := if d then 8 else 16, eq := eqOf s.ev.data } := rfl

@[simp] theorem releaseBays_mem : (releaseBays s).mem = s.mem := by obtain ⟨_, e⟩ := releaseBays_frame s; rw [e]
@[simp] theorem releaseBays_hmem : (releaseBays s).hmem = s.hmem := by obtain ⟨_, e⟩ := releaseBays_frame s; rw [e]
@[simp] theorem releaseBays_ident : (releaseBays s).ident = s.ident := by obtain ⟨_, e⟩ := releaseBays_frame s; rw [e]
@[simp] theorem releaseBays_ev : (releaseBays s).ev = s.ev := by obtain ⟨_, e⟩ := releaseBays_frame s; rw [e]

@[simp] theorem extendFirmware_mem : (extendFirmware s).mem = s.mem := rfl
@[simp] theorem extendFirmware_hmem : (extendFirmware s).hmem = s.hmem := rfl
@[simp] theorem extendFirmware_seedLocked : (extendFirmware s).ident.seedLocked = s.ident.seedLocked := rfl
@[simp] theorem extendFirmware_ev : (extendFirmware s).ev = s.ev := rfl
@[simp] theorem extendFirmware_bay : (extendFirmware s).bay b = s.bay b := rfl

end

section
variable (ts : List (List Nat)) (s : State)

theorem booted_mem : (booted ts s).mem = [] := by simp [booted]

theorem booted_hmem : (booted ts s).hmem = s.hmem := by simp [booted]

theorem booted_seedLocked : (booted ts s).ident.seedLocked = true := by simp [booted]

theorem booted_khl : (booted ts s).regs.khl.state = (if s.ev.a = 1 then 3 else 2) ∧ (booted ts s).regs.khl.width = (if s.ev.a = 1 then 8 else 16)
    ∧ (booted ts s).regs.khl.eq = eqOf s.ev.data := by simp [booted]

theorem booted_bay {b : Nat} (hb : b < 8) : (booted ts s).bay b = { (remapped ts s).bay b with freq := 80 } := by
  simp [booted, releaseBays_bay _ hb]

theorem booted_acyc {b : Nat} (hb : b < 8) (d : Nat) : (booted ts s).acyc.getD b d = 0 := by
  simp [booted, releaseBays_acyc _ hb]

theorem booted_due {b : Nat} (hb : b < 8) : LoopDue (booted ts s) b := by
  simpa [booted, LoopDue] using releaseBays_due (extendFirmware (remapped ts s)) hb

end

/-! ### The reset of the part (R26) -/

theorem exec_partReset (s : State) : exec .partReset s = .next (resetStep s) := rfl

/-- Settles O40: the outcomes of bring-up by the check that fails, then the state after its last step, then the reset. -/
theorem bringUpAndReset : Obligations.BringUpAndReset := by
  unfold Obligations.BringUpAndReset
  refine ⟨?_, ?_, ?_⟩
  · intro s ts h0 he hk hi hr hf
    obtain ⟨hstate, hwidth, heq⟩ := booted_khl ts s
    refine ⟨_, exec_bringUp_done ⟨h0, he⟩ hk hi hr hf, rfl, rfl, rfl, booted_mem ts s, booted_hmem ts s, hstate, hwidth, heq,
      booted_seedLocked ts s, fun b hb => ?_, fun b w hb hw => ?_⟩
    · rw [booted_bay ts s hb]
      exact ⟨rfl, booted_acyc ts s hb 1, booted_due ts s hb⟩
    · rw [booted_bay ts s hb]
      exact putRemap_remap hr hb hw
  · rintro s stage err h0 he (⟨hk, rfl, rfl⟩ | ⟨hk, hi, rfl, rfl⟩ | ⟨hi, ⟨hk, rfl, rfl⟩ | ⟨hk, rfl, rfl⟩ | ⟨hk, ⟨hr, rfl, rfl⟩ | h⟩⟩)
    · exact (unreleased_refl s).stops (bringUpStep_rails ⟨h0, he⟩ hk)
    · exact (unreleased_refl s).stops (bringUpStep_image ⟨h0, he⟩ hk hi)
    · exact (unreleased_stageOne s).stops (bringUpStep_mesh ⟨h0, he⟩ hi hk)
    · exact (unreleased_stageOne s).stops (bringUpStep_stacks ⟨h0, he⟩ hi hk)
    · exact (unreleased_clearStacks s).stops (bringUpStep_infeasible ⟨h0, he⟩ hi hk hr)
    · obtain ⟨ts, _, hr, rfl, ⟨hf, rfl, rfl⟩ | ⟨hf, hk8, rfl, rfl⟩⟩ := h
      · exact (unreleased_remapped ts s).stops ((bringUpStep_remapped ⟨h0, he⟩ hi hk hr).trans (if_pos hf))
      · exact (unreleased_extendFirmware ts s).stops
          ((bringUpStep_remapped ⟨h0, he⟩ hi hk hr).trans ((if_neg (not_not_intro hf)).trans (if_pos hk8)))
  · intro s
    refine ⟨_, exec_partReset s, rfl, ?_⟩
    and_intros
    all_goals rfl

end Sys2Proof

end

section

/-! ## Identity, attestation, clocks, droops, temperature and power of the package (O41) -/

namespace Sys2Proof

open Machine

/-! ### Identity and attestation (R27 to R29) -/

theorem signedBy_iff (s : State) (subject : List Byte) : signedBy s subject = true ↔
    sha3 (s.ev.data.take 1312) = s.ident.rootDigest
      ∧ Config.mlDsaVerify (s.ev.data.take 1312) (sha3 subject) (s.ev.data.drop 1312) = true := by
  simp only [signedBy, Bool.and_eq_true, beq_iff_eq]

section
variable {s : State}

theorem svnStep_signed (hl : s.ident.seedLocked = true) (hv : s.ev.v < 2 ^ 16) (h : signedBy s (leBytes 2 s.ev.v) = true) :
    svnStep s = s.modRegs (fun r => { r with svn := max r.svn s.ev.v }) := by
  refine if_pos ?_
  simp only [stageRuns, hl, hv, h, decide_true, Bool.and_self]

theorem svnStep_unsigned (h : signedBy s (leBytes 2 s.ev.v) = false) : svnStep s = s := by
  refine if_neg ?_
  simp only [h, Bool.and_false, Bool.false_eq_true, not_false_iff]

theorem measureStep_extends (hl : s.ident.seedLocked = true) (h2 : 2 ≤ s.ev.k) (h8 : s.ev.k < 8) :
    measureStep s = extend s.ev.k s.ev.data s := by
  refine if_pos ?_
  simp only [stageRuns, hl, h2, h8, decide_true, Bool.and_self]

theorem quoteStep_answers (hl : s.ident.seedLocked = true) (hd : s.ev.data.length = 32) :
    quoteStep s = s.modIdent (fun x => { x with reply := quoteOf s s.ev.data }) := by
  refine if_pos ?_
  simp only [stageRuns, hl, hd, beq_self_eq_true, Bool.and_self]

end

/-! ### The loops of the bays (R17) -/

section
variable {s : State}

theorem vfStep_takes (h : (s.bay s.ev.k).vfAt ≤ s.ncyc) : vfStep s = vfDue s.ev.k (s.ncyc + 2000) (s.modBay s.ev.k (fun B =>
    { B with freq := nextFreq B (Config.freeChoice s.tick s.ev.k), vfAt := s.ncyc + 2000 })) := if_neg (Nat.not_lt.mpr h)

theorem vfStep_early (h : s.ncyc < (s.bay s.ev.k).vfAt) : vfStep s = vfDue s.ev.k (s.bay s.ev.k).vfAt s := if_pos h

end

section
variable {B : Bay} (n : Nat)

theorem nextFreq_lowered (h : 1 ≤ B.therm ∨ B.overCap = true ∨ B.fmax < B.freq) : nextFreq B n = max 80 (B.freq - 1) := by
  refine if_pos ?_
  simpa only [Bool.or_eq_true, decide_eq_true_eq, or_assoc] using h

variable (ht : B.therm = 0) (ho : B.overCap = false) (hmax : B.freq ≤ B.fmax)
include ht ho hmax

theorem not_lowered : ¬(decide (1 ≤ B.therm) || B.overCap || decide (B.fmax < B.freq)) = true := by
  simp [ht, ho, hmax]

theorem nextFreq_raised (hmin : B.freq < B.fmin) : nextFreq B n = B.freq + 1 :=
  (if_neg (not_lowered ht ho hmax)).trans (if_pos hmin)

theorem nextFreq_free (hmin : B.fmin ≤ B.freq) :
    B.freq ≤ nextFreq B n + 1 ∧ nextFreq B n ≤ B.freq + 1 ∧ B.fmin ≤ nextFreq B n ∧ nextFreq B n ≤ B.fmax := by
  unfold nextFreq
  dsimp only
  rw [if_neg (not_lowered ht ho hmax), if_neg (Nat.not_lt.mpr hmin)]
  split
  case h_1 => omega
  case h_2 => split <;> omega
  case h_3 => split <;> omega

end

/-! ### Droops (R18, R145) -/

theorem droopStep_bay_same (s : State) : (droopStep s).bay s.ev.k =
    { s.bay s.ev.k with stretched := true, droopcnt := ((s.bay s.ev.k).droopcnt + 1) % 256 } :=
  State.bay_modBay_same s s.ev.k (fun B => { B with stretched := true, droopcnt := (B.droopcnt + 1) % 256 })

theorem droopStep_bay_other (s : State) {b : Nat} (h : b ≠ s.ev.k) : (droopStep s).bay b = s.bay b :=
  State.bay_modBay_other s (fun B => { B with stretched := true, droopcnt := (B.droopcnt + 1) % 256 }) h

/-- The core keeps the time of its droop. -/
theorem mem_coreDroop_droopStep (s : State) : s.ncyc ∈ (droopStep s).coreDroop.getD (48 * s.ev.k + s.ev.a) [] := by
  simp only [droopStep, Tbl.getD_set_same]
  exact List.mem_append_right _ (List.mem_singleton_self _)

/-! ### Temperature (R19, Table package-3) -/

section
variable {old t : Nat}

theorem thermOf_trip_iff : thermOf old t = 3 ↔ old = 3 ∨ 110 ≤ t := by
  simp only [thermOf, Bool.or_eq_true, Bool.and_eq_true, beq_iff_eq, decide_eq_true_eq]
  split_ifs with h
  · exact iff_of_true rfl h
  all_goals exact iff_of_false (by decide) h

theorem thermOf_hold (h : ¬(old = 3 ∨ 110 ≤ t)) (h2 : 100 ≤ t ∨ old = 2 ∧ 97 < t) : thermOf old t = 2 := by
  simp only [thermOf, Bool.or_eq_true, Bool.and_eq_true, beq_iff_eq, decide_eq_true_eq, if_neg h, if_pos h2]

theorem thermOf_throttle (h : ¬(old = 3 ∨ 110 ≤ t)) (h2 : ¬(100 ≤ t ∨ old = 2 ∧ 97 < t)) (h1 : 95 ≤ t ∨ 1 ≤ old ∧ 92 < t) :
    thermOf old t = 1 := by
  simp only [thermOf, Bool.or_eq_true, Bool.and_eq_true, beq_iff_eq, decide_eq_true_eq, if_neg h, if_neg h2, if_pos h1]

theorem thermOf_normal (h : ¬(old = 3 ∨ 110 ≤ t)) (h2 : ¬(100 ≤ t ∨ old = 2 ∧ 97 < t)) (h1 : ¬(95 ≤ t ∨ 1 ≤ old ∧ 92 < t)) :
    thermOf old t = 0 := by
  simp only [thermOf, Bool.or_eq_true, Bool.and_eq_true, beq_iff_eq, decide_eq_true_eq, if_neg h, if_neg h2, if_neg h1]

end

theorem Machine.State.tell_bay (s : State) (n : Notice) (b : Nat) : (s.tell n).bay b = s.bay b := by
  obtain ⟨_, _, e⟩ := s.tell_frame n
  rw [e]
  rfl

theorem tripBay_bay (b c : Nat) (s : State) : (tripBay b s).bay c = s.bay c := State.tell_bay _ _ _

theorem tripBay_notices (b : Nat) (s : State) : (tripBay b s).notices = s.notices ++ [.trip b] := State.tell_notices _ _

/-- A trip removes the power. -/
theorem tripBay_reset (b : Nat) (s : State) : ∃ d ∈ (tripBay b s).agenda, d.ev = .partReset :=
  ⟨_, List.mem_append_right _ (List.mem_singleton_self _), rfl⟩

/-- The bay and the sensors of its cores after a reading, before what a trip brings. -/
def sensed (s : State) : State :=
  { s.modBay s.ev.k (fun B => { B with temp := s.ev.v % 256, therm := thermOf B.therm s.ev.v }) with
    coreTemp := ((upFrom (48 * s.ev.k) 48).zip s.ev.data).foldl (fun t x => t.set x.1 x.2.toNat) s.coreTemp }

theorem sensed_bay (s : State) : (sensed s).bay s.ev.k =
    { s.bay s.ev.k with temp := s.ev.v % 256, therm := thermOf (s.bay s.ev.k).therm s.ev.v } :=
  State.bay_modBay_same s s.ev.k (fun B => { B with temp := s.ev.v % 256, therm := thermOf B.therm s.ev.v })

/-- The first reading that trips the bay is reported. -/
theorem thermStep_eq (s : State) : thermStep s =
    if thermOf (s.bay s.ev.k).therm s.ev.v = 3 ∧ (s.bay s.ev.k).therm ≠ 3 then tripBay s.ev.k (sensed s) else sensed s := by
  have h : thermStep s = if ((sensed s).bay s.ev.k).therm == 3 && (s.bay s.ev.k).therm != 3 then tripBay s.ev.k (sensed s) else sensed s := rfl
  rw [h, sensed_bay]
  simp only [Bool.and_eq_true, beq_iff_eq, bne_iff_ne]

theorem thermStep_bay (s : State) : (thermStep s).bay s.ev.k =
    { s.bay s.ev.k with temp := s.ev.v % 256, therm := thermOf (s.bay s.ev.k).therm s.ev.v } := by
  rw [thermStep_eq, ← sensed_bay]
  split
  · exact tripBay_bay _ _ _
  · rfl

/-! ### Power (R20) -/

/-- Every bay takes note of a measured power. -/
def measured (s : State) : State :=
  (upFrom 0 8).foldl (fun s' b => s'.modBay b (fun B =>
    { B with overCap := decide (s.regs.pwrcap < s.ev.v) || (B.overCap && !decide (s.ev.v < s.regs.pwrcap)) })) s

theorem measured_overCap (s : State) {b : Nat} (hb : b < 8) : ((measured s).bay b).overCap =
    (decide (s.regs.pwrcap < s.ev.v) || ((s.bay b).overCap && !decide (s.ev.v < s.regs.pwrcap))) := by
  have hn : ((upFrom 0 8).map id).Nodup := by
    rw [List.map_id]
    exact upFrom_nodup 8 0
  exact congrArg Bay.overCap (foldl_modBay_mem (key := id) (f := fun _ B =>
    { B with overCap := decide (s.regs.pwrcap < s.ev.v) || (B.overCap && !decide (s.ev.v < s.regs.pwrcap)) }) hn (mem_bays hb))

theorem measured_notices (s : State) : (measured s).notices = s.notices := by
  obtain ⟨_, e⟩ : ∃ bays, measured s = { s with bays := bays } := foldl_modBay_frame (key := id)
  rw [e]

/-- Every bay runs at 640 MHz. -/
def AllLowest (s : State) : Prop := ∀ b, b < 8 → (s.bay b).freq = 80

theorem powerStep_reports {s : State} (h : s.regs.pwrcap < s.ev.v) (hf : AllLowest s) : powerStep s = (measured s).tell .overrun := by
  refine if_pos ?_
  have hall : (upFrom 0 8).all (fun b => (s.bay b).freq == 80) = true :=
    List.all_eq_true.mpr fun b hb => beq_iff_eq.mpr (hf b (by simpa using (mem_upFrom.mp hb).2))
  simp only [hall, h, decide_true, Bool.and_self]

theorem powerStep_within {s : State} (h : s.ev.v ≤ s.regs.pwrcap) : powerStep s = measured s := by
  refine if_neg ?_
  simp only [Nat.not_lt.mpr h, decide_false, Bool.false_and, Bool.false_eq_true, not_false_iff]

theorem powerStep_bay (s : State) (b : Nat) : (powerStep s).bay b = (measured s).bay b := by
  unfold powerStep
  dsimp only
  split
  · exact State.tell_bay _ _ _
  · rfl

/-- Settles O41: the rows of the identity and of the clocks, then the loop's frequencies, the droops, the thermal states and the power. -/
theorem packagePowerAndThermalEvents : Obligations.PackagePowerAndThermalEvents := by
  unfold Obligations.PackagePowerAndThermalEvents
  refine ⟨?_, fun b at_ s => ⟨vfDue_due b at_ s, fun B n => ⟨nextFreq_lowered n, nextFreq_raised n, nextFreq_free n⟩⟩, ?_, ?_, ?_⟩
  · simp only [List.forall_mem_cons, List.not_mem_nil, false_implies, implies_true, and_true, EvRow.Lands]
    refine ⟨fun s ⟨hl, hv, hd, hs⟩ => ?_, fun s h => ?_, fun s ⟨hl, h2, h8⟩ => ?_, fun s ⟨hl, hd⟩ => ?_, fun s hl => ?_,
      fun s h => ?_, fun s h => ?_, fun s => ?_, fun s => ?_⟩
    · exact congrArg Host.Outcome.next (svnStep_signed hl hv ((signedBy_iff _ _).mpr ⟨hd, hs⟩))
    · exact congrArg Host.Outcome.next (svnStep_unsigned (Bool.eq_false_iff.mpr fun hs =>
        Bool.eq_false_iff.mp h ((signedBy_iff _ _).mp hs).2))
    · refine congrArg Host.Outcome.next ((measureStep_extends hl h2 h8).trans ?_)
      simp only [extend, beq_iff_eq]
    · refine congrArg Host.Outcome.next ((quoteStep_answers hl hd).trans ?_)
      simp only [quoteOf, List.flatMap_id', State.modIdent]
    · exact congrArg Host.Outcome.next (if_pos hl)
    · exact congrArg Host.Outcome.next (vfStep_takes h)
    · exact congrArg Host.Outcome.next (vfStep_early h)
    · exact fun _ => rfl
    · exact fun _ => rfl
  · exact fun s => ⟨droopStep s, rfl, by rw [droopStep_bay_same], by rw [droopStep_bay_same], mem_coreDroop_droopStep s,
      fun b hb => droopStep_bay_other s hb⟩
  · rintro s _ _ old rfl rfl hold hv h3
    have htherm : ((thermStep s).bay s.ev.k).therm = thermOf old s.ev.v := by rw [thermStep_bay, hold]
    refine ⟨thermStep s, _, rfl, ?_, rfl, ?_⟩
    · rw [thermStep_bay]
      exact Nat.mod_eq_of_lt hv
    · rw [htherm, thermStep_eq, ← hold]
      refine ⟨thermOf_trip_iff.mpr, fun _ _ _ => thermOf_hold (by omega) (by omega), fun _ _ _ => thermOf_hold (by omega) (by omega),
        fun _ _ _ => thermOf_throttle (by omega) (by omega) (by omega), fun _ _ _ => thermOf_throttle (by omega) (by omega) (by omega),
        fun _ _ _ => thermOf_throttle (by omega) (by omega) (by omega), fun _ _ => thermOf_normal (by omega) (by omega) (by omega),
        fun _ _ => thermOf_normal (by omega) (by omega) (by omega), fun hn ho => ?_, fun h => ?_⟩
      · rw [if_pos ⟨hn, ho⟩]
        exact ⟨tripBay_notices _ _, tripBay_reset _ _⟩
      · rw [if_neg fun ⟨hn, ho⟩ => h.elim (absurd hn) ho]
        rfl
  · intro s
    refine ⟨powerStep s, rfl, fun b hb => by rw [powerStep_bay, measured_overCap s hb], fun h hf => ?_, fun h => ?_⟩
    · rw [powerStep_reports h hf, State.tell_notices, measured_notices]
    · rw [powerStep_within h, measured_notices]

end Sys2Proof

end

section

/-! ## The links (O47): flits, replays, equalisation, retraining, and what leaves the part -/

namespace Sys2Proof

open Machine

/-! ### The record of a link (R32 to R36) -/

section
variable (l : LinkStat)

/-- What is sent is put on the wire and kept; the receiver's side of the link stays. -/
theorem Machine.LinkStat.foldl_emit_got (ms : List Notice) : (ms.foldl (fun l n => LinkStat.emit 1 (some n) l) l).got = l.got := by
  induction ms generalizing l with
  | nil => rfl
  | cons m ms ih => exact ih _

theorem Machine.LinkStat.release_got : l.release.got = l.got := by
  unfold LinkStat.release
  split
  · rfl
  · exact LinkStat.foldl_emit_got _ _

theorem Machine.LinkStat.acknowledge_got (q : Nat) : (l.acknowledge q).got = l.got := by
  unfold LinkStat.acknowledge
  split
  · exact LinkStat.release_got _
  · rfl

variable {l}

theorem Machine.LinkStat.release_not_up (h : l.state < 2) : l.release = l := if_pos h

/-- With nothing held before and room for what is new, all of it is sent. -/
theorem Machine.LinkStat.release_room {ms : List Notice} (h : 2 ≤ l.state) (hl : l.held = []) (hr : l.buffer.length + ms.length ≤ 512) :
    LinkStat.release { l with held := l.held ++ ms } = ms.foldl (fun l n => LinkStat.emit 1 (some n) l) l := by
  have hk : ms.length ≤ 512 - l.buffer.length := by omega
  unfold LinkStat.release
  rw [if_neg (Nat.not_lt.mpr h)]
  simp only [hl, List.nil_append, List.take_of_length_le hk, List.drop_of_length_le hk]
  rw [← hl]

variable {q : Nat}

theorem Machine.LinkStat.acknowledge_unknown (h : ∀ x ∈ l.buffer, x.seq ≠ q) : l.acknowledge q = l := by
  refine if_neg ?_
  simpa only [List.any_eq_true, beq_iff_eq, not_exists, not_and] using h

theorem Machine.LinkStat.resend_unknown (h : ∀ x ∈ l.buffer, x.seq ≠ q) : (l.resend q).wire = l.wire := by
  have e : l.buffer.dropWhile (fun x => x.seq != q) = [] := by
    rw [List.dropWhile_eq_nil_iff]
    simpa only [bne_iff_ne] using h
  simp only [LinkStat.resend, e, List.append_nil]

section
variable {a b : List Flit} {x : Flit} (hl : l.buffer = a ++ x :: b) (hx : x.seq = q) (ha : ∀ y ∈ a, y.seq ≠ q)
include hl hx ha

theorem Machine.LinkStat.dropWhile_buffer : l.buffer.dropWhile (fun x => x.seq != q) = x :: b := by
  rw [hl, List.dropWhile_append_of_pos (by simpa only [bne_iff_ne] using ha), List.dropWhile_cons_of_neg (by simp [hx])]

theorem Machine.LinkStat.acknowledge_known : l.acknowledge q = LinkStat.release { l with acked := q, buffer := b } := by
  have h : l.buffer.any (fun x => x.seq == q) = true := List.any_eq_true.mpr ⟨x, by simp [hl], by simp [hx]⟩
  unfold LinkStat.acknowledge
  rw [if_pos h, LinkStat.dropWhile_buffer hl hx ha]
  rfl

theorem Machine.LinkStat.resend_known : l.resend q = { l with wire := l.wire ++ x :: b } := by
  unfold LinkStat.resend
  rw [LinkStat.dropWhile_buffer hl hx ha]

end

/-- All that is not acknowledged is sent again when training ends. -/
theorem Machine.LinkStat.up_eq (st w : Nat) :
    l.up st w = LinkStat.release { l with state := st, width := w, bad := 0, wire := l.wire ++ l.buffer } := by
  have e : l.buffer.dropWhile (fun x => x.seq != (l.buffer.headD ⟨0, 0, 0, 0, none⟩).seq) = l.buffer := by
    cases l.buffer with
    | nil => rfl
    | cons x b => exact List.dropWhile_cons_of_neg (by simp)
  simp only [LinkStat.up, LinkStat.resend, e]

end

/-! ### Flits and replays (R33) -/

section
variable {s : State} {k : Nat}

theorem flitStep_failed (h : 2 ≤ (s.link s.ev.k).state) (hv : bit s.ev.v 1 = true) :
    flitStep s = flitFails s.ev.k (bits (leVal (s.ev.data.take 4)) 23 12) s := by
  simp only [flitStep, if_neg (Nat.not_lt.mpr h), hv, if_true]

theorem flitFails_later {seq : Nat} (hr : (s.link k).replaying = true) (hs : seq ≠ (s.link k).next) : flitFails k seq s = s := by
  refine if_pos ?_
  simp only [hr, Bool.true_and, bne_iff_ne, ne_eq, hs, not_false_eq_true]

/-- The failure of the flit awaited, or the first one noticed, asks for a replay; the eighth starts a retrain. -/
theorem flitFails_awaited {seq : Nat} (h : (s.link k).replaying = false ∨ seq = (s.link k).next) : flitFails k seq s =
    if 8 ≤ (s.link k).fails + 1 then startRetrain k (s.setLink k { (s.link k).askReplay with fails := 0 })
    else s.setLink k { (s.link k).askReplay with fails := (s.link k).fails + 1 } := by
  refine if_neg ?_
  rcases h with h | h <;> simp [h]

/-- A link after it has counted what FEC corrected. -/
def corrected (v : Nat) (l : LinkStat) : LinkStat := { l with feccorr := if bit v 0 = true then (l.feccorr + 1) % 256 else l.feccorr }

theorem corrected_eq_ite (v : Nat) (l : LinkStat) :
    (if bit v 0 = true then { l with feccorr := (l.feccorr + 1) % 256 } else l) = corrected v l := by
  unfold corrected
  split <;> rfl

/-- A flit whose CRC holds, by its type and number; `v` is its link. -/
def takeFlit (hd : Nat) (v : LinkStat) (s : State) : State :=
  let u := v.acknowledge (bits hd 11 0)
  if bits hd 31 28 = 2 then s.setLink s.ev.k (u.resend (bits hd 23 12))
  else if bits hd 23 12 = v.next ∧ bits hd 31 28 ≤ 3 then
    s.setLink s.ev.k { u with
      next := (v.next + 1) % 4096, fails := 0, replaying := false
      got := if bits hd 31 28 = 1 then v.got ++ [(s.ev.data.drop 4).take 240] else v.got }
  else s.setLink s.ev.k v

theorem flitStep_passed (h : 2 ≤ (s.link s.ev.k).state) (hv : bit s.ev.v 1 = false) :
    flitStep s = takeFlit (leVal (s.ev.data.take 4)) (corrected s.ev.v (s.link s.ev.k)) s := by
  rw [← corrected_eq_ite]
  unfold flitStep takeFlit
  extract_lets i l hd ty seq v _ ack l' u
  have hg : u.got = v.got := LinkStat.acknowledge_got _ _
  have hg' : l'.got = v.got := LinkStat.acknowledge_got _ _
  rw [if_neg (Nat.not_lt.mpr h), hv, hg', ← hg]
  simp only [beq_iff_eq, Bool.and_eq_true, decide_eq_true_eq, Bool.false_eq_true, if_false]
  congr 2
  split <;> rfl

theorem replayStep_up (h : 2 ≤ (s.link s.ev.k).state) : replayStep s = s.setLink s.ev.k ((s.link s.ev.k).resend s.ev.v) :=
  if_neg (Nat.not_lt.mpr h)

/-! ### Equalisation (R35) -/

theorem equaliseStep_retrain (h : 2 ≤ (s.link s.ev.k).state) (hv : s.ev.v = 1) : equaliseStep s = startRetrain s.ev.k s := by
  simp only [equaliseStep, if_neg (Nat.not_lt.mpr h), hv, beq_self_eq_true, if_true]

theorem equaliseStep_other (h : 2 ≤ (s.link s.ev.k).state) (hv : s.ev.v = 0 ∨ 4 ≤ s.ev.v) : equaliseStep s = s := by
  have h1 : s.ev.v ≠ 1 := by omega
  have h2 : s.ev.v ≠ 2 := by omega
  have h3 : s.ev.v ≠ 3 := by omega
  simp [equaliseStep, Nat.not_lt.mpr h, h1, h2, h3]

theorem equaliseStep_move (h : 2 ≤ (s.link s.ev.k).state) (hv : s.ev.v = 2 ∨ s.ev.v = 3) {x : EqSet} (hx : (s.link s.ev.k).eq[s.ev.a]? = some x) :
    equaliseStep s = s.setLink s.ev.k { s.link s.ev.k with eq := (s.link s.ev.k).eq.set s.ev.a (x.step s.ncyc (s.ev.v == 2)) } := by
  have h1 : s.ev.v ≠ 1 := by omega
  simp [equaliseStep, Nat.not_lt.mpr h, h1, hv, hx]

theorem Machine.EqSet.step_early {now : Nat} {x : EqSet} (up : Bool) (h : now < x.at_) : x.step now up = x := if_pos h

theorem Machine.EqSet.step_due {now : Nat} {x : EqSet} (up : Bool) (h : x.at_ ≤ now) :
    x.step now up = { x with value := if up then min x.hi (x.value + 1) else max x.lo (x.value - 1), at_ := now + 200000 } :=
  if_neg (Nat.not_lt.mpr h)

/-! ### Retraining (R33, R34, R43) -/

theorem startRetrain_starts (ht : (s.link k).training = false) (h : (s.link k).state ≠ 0) :
    startRetrain k s = s.setLink k { s.link k with state := 1, training := true } := by
  simp [startRetrain, ht, h]

/-- A link after its training, as the event brings the settings of its lanes. -/
def trained (d : List Byte) (l : LinkStat) : LinkStat := { l with retrain := (l.retrain + 1) % 256, training := false, eq := eqOf d }

theorem retrainStep_portDown (hk : s.ev.k ≠ 0) (h0 : (s.link s.ev.k).state = 0) (h3 : (s.link s.ev.k).bad = 3) :
    retrainStep s = portDown s.ev.k s := by
  simp [retrainStep, hk, h0, h3]

theorem retrainStep_trained (ht : (s.link s.ev.k).training = true) (hd : ¬(s.ev.k ≠ 0 ∧ (s.link s.ev.k).state = 0 ∧ (s.link s.ev.k).bad = 3))
    {l : LinkStat} (hl : l = trained s.ev.data (s.link s.ev.k)) : retrainStep s =
    if fullWidth s.ev.k ≤ s.ev.v then s.setLink s.ev.k (l.up 2 (fullWidth s.ev.k))
    else if fullWidth s.ev.k / 2 ≤ s.ev.v then s.setLink s.ev.k (l.up 3 (fullWidth s.ev.k / 2))
    else if (s.link s.ev.k).bad < 2 then startRetrain s.ev.k (s.setLink s.ev.k { l with state := 1, bad := (s.link s.ev.k).bad + 1 })
    else if s.ev.k = 0 then khlDown (s.setLink s.ev.k { l with state := 0, width := 0, bad := 3 })
    else portDown s.ev.k (s.setLink s.ev.k { l with state := 0, width := 0, bad := 3 }) := by
  have hd' : ¬((s.ev.k != 0 && (s.link s.ev.k).state == 0 && (s.link s.ev.k).bad == 3) = true) := by
    simpa [and_assoc] using hd
  unfold retrainStep
  dsimp only
  rw [if_neg hd', hl, ht]
  simp only [Bool.not_true, Bool.false_and, Bool.false_eq_true, if_false, if_true, beq_iff_eq, trained, Nat.add_lt_add_iff_right (k := 1) (m := 2)]

theorem portDown_quiet (h : portQuiet (k - 1) s = true) : portDown k s = kflDown (k - 1) (s.setLink k { s.link k with bad := 0 }) := if_pos h

theorem portDown_waits (h : portQuiet (k - 1) s = false) : portDown k s = s.keep .linkRetrainDone := if_neg (by simp [h])

theorem khlDown_notices (s : State) : (khlDown s).notices.getLast? = some .linkDown := by
  unfold khlDown
  rw [State.tell_notices]
  exact List.getLast?_concat

/-- The KHL does not come back from being down by training. -/
theorem retrainStep_khlLost (hk : s.ev.k = 0) (ht : s.regs.khl.training = false) : retrainStep s = s := by
  have ht' : (s.link s.ev.k).training = false := by rw [hk]; exact ht
  simp [retrainStep, hk, hk ▸ ht']

theorem khlReturns_training (h : s.regs.khl.training = true) : khlReturns s = s := if_pos h

theorem sendPosted_none (h : s.posted = []) : sendPosted s = { s with posted := [] } := by
  unfold sendPosted
  rw [h]
  rfl

theorem khlReturns_none_posted (ht : s.regs.khl.training = false) (h : s.posted = []) : khlReturns s =
    adminPump (({ s with posted := [] } : State).ctxs.foldl (fun v e => e.2.queues.foldl (fun w q => queuePump e.1 q.1 w) v)
      { s with posted := [] }) := by
  unfold khlReturns
  rw [ht, sendPosted_none h]
  rfl

theorem cpWrite_training {a : Nat} {d : List Byte} (ha : 2 ^ 40 ≤ a) (h : s.regs.khl.state = 1) :
    cpWrite a d s = ({ s with posted := s.posted ++ [(a, d)] }, none) := by
  simp only [cpWrite, isHostAddr, decide_eq_true ha, State.khlLost, h]
  rfl

end

/-! ### Messages that leave the part (Table links-2) -/

/-- The data of a message, cut into the payloads of its flits. -/
def payloadData (d : List Byte) : List (List Byte) :=
  (upFrom 0 (max 1 ((d.length + 239) / 240))).map (fun k => (d.drop (240 * k)).take 240)

theorem payloads_barData (d : List Byte) : (Notice.barData d).payloads = (payloadData d).map .barData := rfl

theorem payloads_kfl (p ty i g : Nat) (d : List Byte) (sick : List Nat) :
    (Notice.kfl p ty i g d sick).payloads = (payloadData d).map (fun x => .kfl p ty i g x sick) := rfl

theorem flatten_cuts (d : List Byte) (n j : Nat) (h : d.length ≤ 240 * (j + n)) :
    ((upFrom j n).map (fun k => (d.drop (240 * k)).take 240)).flatten = d.drop (240 * j) := by
  induction n generalizing j with
  | zero => exact (List.drop_of_length_le h).symm
  | succ n ih =>
    rw [upFrom, List.map_cons, List.flatten_cons, ih (j + 1) (by omega), Nat.mul_succ, ← List.drop_drop, List.take_append_drop]

theorem payloadData_flatten (d : List Byte) : (payloadData d).flatten = d := flatten_cuts d _ 0 (by omega)

theorem length_le_of_mem_payloadData {d x : List Byte} (h : x ∈ payloadData d) : x.length ≤ 240 := by
  obtain ⟨k, _, rfl⟩ := List.mem_map.mp h
  exact List.length_take_le _ _

theorem Machine.State.tell_link {s : State} {n : Notice} {k : Nat} (h : noticeLink n = some k) : s.tell n =
    ({ s with notices := s.notices ++ [n] } : State).setLink k (LinkStat.release { s.link k with held := (s.link k).held ++ n.payloads }) := by
  simp only [State.tell, h]
  rfl

/-- Settles O47: a flit by its checks, type and number, a retrain by its outcome, then what the sender keeps and holds. -/
theorem linkEvents : Obligations.LinkEvents := by
  unfold Obligations.LinkEvents
  refine ⟨?_, ?_, ?_, fun s => ⟨khlReturns_training, ?_⟩, fun s a d => cpWrite_training, fun s k => startRetrain_starts, ?_,
    fun l q => ⟨fun h => ⟨LinkStat.acknowledge_unknown h, LinkStat.resend_unknown h⟩,
      fun a x b hl hx ha => ⟨LinkStat.acknowledge_known hl hx ha, LinkStat.resend_known hl hx ha⟩⟩, ?_, ?_, ?_, ?_⟩
  · rintro s k l hd rfl rfl rfl h
    refine ⟨fun hv => ⟨fun hr hn => ?_, ?_⟩, ?_, congrArg Host.Outcome.next (replayStep_up h),
      fun hv => congrArg Host.Outcome.next (equaliseStep_retrain h hv), fun hv => congrArg Host.Outcome.next (equaliseStep_other h hv),
      fun x hx hv => ⟨fun hc => ?_, fun hc => ?_⟩⟩
    · exact congrArg Host.Outcome.next ((flitStep_failed h hv).trans (flitFails_later hr hn))
    · rintro ha _ rfl
      have e : exec .flitReceived s = .next (flitStep s) := rfl
      rw [e, flitStep_failed h hv, flitFails_awaited ha]
      exact ⟨fun hf => congrArg _ (if_neg (by omega)), fun hf => congrArg _ (if_pos (by omega))⟩
    · rintro hv _ _ rfl rfl
      have e : exec .flitReceived s = .next (flitStep s) := rfl
      rw [e, flitStep_passed h hv]
      exact ⟨fun ht => congrArg _ (if_pos ht), fun ht h3 hn => congrArg _ ((if_neg ht).trans (if_pos ⟨hn, h3⟩)),
        fun ht hn => congrArg _ ((if_neg ht).trans (if_neg fun ⟨hq, h3⟩ => hn.elim (absurd hq) (Nat.not_lt.mpr h3)))⟩
    · exact congrArg Host.Outcome.next ((equaliseStep_move h hv hx).trans (by rw [EqSet.step_early _ hc]))
    · refine congrArg Host.Outcome.next ((equaliseStep_move h hv hx).trans ?_)
      rw [EqSet.step_due _ hc]
      simp only [beq_iff_eq]
  · rintro s k l rfl rfl ht hd l' hl' back hb
    have e : exec .linkRetrainDone s = .next (back (retrainStep s)) := by
      rw [hb]
      simp only [← beq_iff_eq (a := s.ev.k)]
      rfl
    have hr := retrainStep_trained ht hd hl'
    refine ⟨?_, fun hv hbad => ?_, ?_⟩
    · rintro st w (⟨rfl, rfl, hv⟩ | ⟨rfl, rfl, hv, hn⟩)
      · rw [e, hr, if_pos hv, LinkStat.up_eq, hl']
      · rw [e, hr, if_neg (Nat.not_le.mpr hn), if_pos hv, LinkStat.up_eq, hl']
    · rw [e, hr, if_neg (by omega), if_neg (by omega), if_pos hbad]
    · rintro hv hbad u rfl
      rw [if_neg (by omega), if_neg (by omega), if_neg (by omega)] at hr
      rw [e, hr, hb]
      refine ⟨fun hk => ?_, fun hk hq => ?_, fun hk hq => ?_⟩
      · rw [if_pos hk, if_pos hk]
        exact ⟨rfl, khlDown_notices _⟩
      · rw [if_neg hk, if_neg hk, portDown_quiet hq]
      · rw [if_neg hk, if_neg hk, portDown_waits hq]
  · rintro s k rfl hk h0 h3
    have e : exec .linkRetrainDone s = .next (portDown s.ev.k s) := by
      rw [← retrainStep_portDown hk h0 h3]
      exact congrArg Host.Outcome.next (if_neg (by simpa using hk))
    rw [e]
    exact ⟨fun hq => congrArg _ (portDown_quiet hq), fun hq => congrArg _ (portDown_waits hq)⟩
  · rintro ht h _ rfl
    exact khlReturns_none_posted ht h
  · intro s hk h0 ht
    have hl : (s.link s.ev.k).state < 2 := by
      have e : s.link 0 = s.regs.khl := rfl
      rw [hk, e, h0]
      decide
    refine ⟨?_, ?_⟩
    · simp only [List.forall_mem_cons, List.not_mem_nil, false_implies, implies_true, and_true]
      exact ⟨congrArg Host.Outcome.next (if_pos hl), congrArg Host.Outcome.next (if_pos hl), congrArg Host.Outcome.next (if_pos hl)⟩
    · have e : linkDoneStep s = khlReturns (retrainStep s) := if_pos (by simpa using hk)
      exact congrArg Host.Outcome.next (e.trans (by rw [retrainStep_khlLost hk ht]))
  · rintro s n k l hn rfl h2 hh hr
    rw [State.tell_link hn, LinkStat.release_room h2 hh hr]
    rfl
  · rintro d _ rfl
    exact ⟨payloadData d, payloads_barData d, payloadData_flatten d, fun x => length_le_of_mem_payloadData⟩
  · rintro p ty i g d sick _ rfl
    exact ⟨payloadData d, payloads_kfl p ty i g d sick, payloadData_flatten d, fun x => length_le_of_mem_payloadData⟩
  · intro s n k hn h
    exact (State.tell_link hn).trans (congrArg _ (LinkStat.release_not_up h))

end Sys2Proof

end

section

/-! ## What invalidating lines leaves alone -/

namespace Sys2Proof

open Machine

/-! ### Keys of a table -/

section
variable {κ α : Type} [DecidableEq κ]

theorem Machine.Tbl.get?_eq_none_iff {t : Tbl κ α} {k : κ} : t.get? k = none ↔ k ∉ t.map Prod.fst := by
  induction t with
  | nil => simp [Tbl.get?]
  | cons e t ih =>
    obtain ⟨q, v⟩ := e
    by_cases h : q = k
    · simp [Tbl.get?, h]
    · simp [Tbl.get?, h, Ne.symm h, ih]

/-- Writing a listed key lists no other. -/
theorem Machine.Tbl.keys_set_of_get? {t : Tbl κ α} {k : κ} {v : α} (w : α) (h : t.get? k = some v) :
    (Tbl.set t k w).map Prod.fst = t.map Prod.fst := by
  induction t with
  | nil => simp [Tbl.get?] at h
  | cons e t ih =>
    obtain ⟨q, u⟩ := e
    by_cases hq : q = k
    · simp [Tbl.set, hq]
    · simp only [Tbl.get?, if_neg hq] at h
      simp [Tbl.set, hq, ih h]

end

/-! ### What invalidating lines leaves alone -/

/-- From `s` to `t` lines have left the chip and bytes have been written: the event is the same, and no slice holds a line that it did not hold. -/
structure Purged (s t : State) : Prop where
  ev : t.ev = s.ev
  keys : ∀ k ∈ t.slices.map Prod.fst, k ∈ s.slices.map Prod.fst

theorem Purged.refl (s : State) : Purged s s := ⟨rfl, fun _ => id⟩

section
variable {s t : State} (h : Purged s t)
include h

theorem Purged.absent {k : Nat × Nat} (hk : s.slices.get? k = none) : t.slices.get? k = none :=
  Tbl.get?_eq_none_iff.mpr fun hm => Tbl.get?_eq_none_iff.mp hk (h.keys k hm)

/-- A change of other fields. -/
theorem Purged.same {u : State} (he : u.ev = t.ev) (hs : u.slices = t.slices) : Purged s u := ⟨he.trans h.ev, hs ▸ h.keys⟩

theorem Purged.foldl {α : Type} {f : State → α → State} {l : List α} (hf : ∀ u x, Purged s u → Purged s (f u x)) :
    Purged s (l.foldl f t) := by
  induction l generalizing t with
  | nil => exact h
  | cons x l ih => exact ih (hf _ _ h)

theorem Purged.areaPut {a : Area} {o : Nat} {b : Byte} : Purged s (t.areaPut a o b) := by
  cases a <;> exact h.same rfl rfl

theorem Purged.tell {n : Notice} : Purged s (t.tell n) := by
  obtain ⟨_, _, e⟩ := t.tell_frame n
  rw [e]
  exact h.same rfl rfl

theorem Purged.dirtySlices {host : Bool} {a n : Nat} : Purged s (dirtySlices host a n t) := by
  unfold Machine.dirtySlices
  split
  · exact h
  · refine ⟨h.ev, fun k hk => h.keys k ?_⟩
    obtain ⟨_, hx, rfl⟩ := List.mem_map.mp hk
    obtain ⟨e, he, rfl⟩ := List.mem_map.mp hx
    refine List.mem_map.mpr ⟨e, he, ?_⟩
    split <;> rfl

theorem Purged.heal {ks : List Nat} : Purged s (t.heal ks) := by
  unfold State.heal
  split <;> exact h.same rfl rfl

theorem Purged.landPoison {outs spoil : List (Area × Nat)} {a : Area} : Purged s (landPoison outs spoil a t) := by
  cases a with
  | spad t => exact h.same rfl rfl
  | clsh g c => exact h.same rfl rfl
  | dev => exact h.heal.foldl fun _ _ h' => h'.same rfl rfl
  | host => exact h.heal.foldl fun _ _ h' => h'.same rfl rfl

theorem Purged.landRange {a : Area} {lo n : Nat} : Purged s (landRange a lo n t) := by
  refine h.foldl fun u e h' => ?_
  dsimp only
  split
  · exact h'
  · refine .dirtySlices (.landPoison (.foldl ?_ fun _ _ h' => h'.areaPut))
    exact h'.same rfl rfl

theorem Purged.landLine {ctx line : Nat} : Purged s (landLine ctx line t) := by
  unfold Machine.landLine
  split
  · exact h
  · split
    · exact h.landRange
    · exact h

theorem Purged.writeBack {ctx line : Nat} {host : Bool} {pa : Nat} {sick : List Nat} : Purged s (writeBack ctx line host pa sick t) := by
  unfold Machine.writeBack
  dsimp only
  split
  next c hc => exact ⟨h.ev, (Tbl.keys_set_of_get? _ hc).symm ▸ h.keys⟩
  next => exact h.same rfl rfl

theorem Purged.tornLine {ctx line : Nat} : Purged s (tornLine ctx line t) := by
  refine .same (h.foldl fun u e h' => ?_) rfl rfl
  split
  · exact h'.writeBack
  · exact h'

theorem Purged.dropSlice {ctx line : Nat} : Purged s (dropSlice ctx line t) := by
  unfold Machine.dropSlice
  split
  · exact h
  · refine ⟨h.ev, fun k hk => h.keys k ?_⟩
    obtain ⟨e, he, rfl⟩ := List.mem_map.mp hk
    exact List.mem_map_of_mem (List.mem_of_mem_filter he)

theorem Purged.dropSector {x : HostSector} : Purged s (dropSector x t) :=
  Purged.tell (t := { t with hsect := t.hsect.filter (fun y => y != x) }) (h.same rfl rfl)

theorem Purged.purgeLines {ctx : Nat} {lines : List Nat} : Purged s (purgeLines ctx lines t) :=
  (h.foldl fun _ _ h' => h'.landLine.tornLine.dropSlice).foldl fun _ _ h' => h'.dropSector

end

theorem purgeLines_ev (ctx : Nat) (lines : List Nat) (s : State) : (purgeLines ctx lines s).ev = s.ev := (Purged.refl s).purgeLines.ev

end Sys2Proof

end

section

/-! ## Granules of declared objects (O49) -/

namespace Sys2Proof

open Machine

/-! ### What comes by a KFL port (R33) -/

section
variable {port : Nat} {ev : Instr} {f : State → State} {s : State}

theorem overKfl_up (h : 2 ≤ (s.link (port + 1)).state) : overKfl port ev f s = f s := by
  have h0 : (s.link (port + 1)).state ≠ 0 := by omega
  simp [overKfl, h0, Nat.not_lt.mpr h]

theorem overKfl_training (h : (s.link (port + 1)).state = 1) : overKfl port ev f s = s.keep ev := by
  simp [overKfl, h]

end

/-! ### The transfers of a granule (R45) -/

theorem nextXfer_notices (i g : Nat) (s : State) : (nextXfer i g s).notices = s.notices := by
  unfold nextXfer
  split
  · split <;> rfl
  · rfl

section
variable {s : State} {i g : Nat} (h : ∀ x ∈ s.xfers, x.obj ≠ i ∨ x.gran ≠ g)
include h

/-- The first request for a granule is its first transfer. -/
theorem firstXfer_new {x : Xfer} (hi : x.obj = i) (hg : x.gran = g) : firstXfer { s with xfers := s.xfers ++ [x] } i g = some x := by
  have hn : s.xfers.find? (fun x => x.obj == i && x.gran == g) = none := by
    simpa [imp_iff_not_or] using h
  simp [firstXfer, hn, hi, hg]

theorem setXfer_new {x : Xfer} (hi : x.obj = i) (hg : x.gran = g) (y : Option Xfer) :
    setXfer i g y { s with xfers := s.xfers ++ [x] } = { s with xfers := s.xfers ++ y.toList } := by
  have hgo : ∀ l : List Xfer, (∀ x ∈ l, x.obj ≠ i ∨ x.gran ≠ g) → setXfer.go i g y (l ++ [x]) = l ++ y.toList := by
    intro l hl
    induction l with
    | nil => cases y <;> simp [setXfer.go, hi, hg]
    | cons z l ih =>
      obtain ⟨hz, hl⟩ := List.forall_mem_cons.mp hl
      have hz' : ¬((z.obj == i && z.gran == g) = true) := by simpa [imp_iff_not_or] using hz
      exact (if_neg hz').trans (congrArg _ (ih hl))
  simp only [setXfer, hgo s.xfers h]

theorem joinXfer_new {v : Nat} (hv : v ≠ 7) (excl : Bool) (o : ObjEnt) :
    joinXfer excl i g v o s = startXfer i o g { s with xfers := s.xfers ++ [⟨i, g, v, excl, [], false⟩] } := by
  have hn : ¬(s.xfers.any (fun x => x.obj == i && x.gran == g && x.port == v && x.excl == excl) = true) := by
    simp only [List.any_eq_true, Bool.and_eq_true, beq_iff_eq, not_exists, not_and]
    rintro x hx ⟨⟨hi, hg⟩, _⟩
    exact absurd hg ((h x hx).resolve_left (not_not_intro hi))
  unfold joinXfer addXfer
  dsimp only
  rw [if_neg hn, if_neg (by simp [hv])]

end

/-! ### The home sends a granule (R44, Table links-8) -/

/-- The ports whose packages must give a granule up before it is sent: its owner, and for a writer its sharers. -/
def recalled (b : Nat) (excl : Bool) : List Nat := (if bit b 3 then [bits b 2 1] else []) ++ (if excl then portsOf (bits b 7 4) else [])

theorem recalled_nil {b : Nat} {excl : Bool} (h3 : bit b 3 = false) (h : excl = true → bits b 7 4 = 0) : recalled b excl = [] := by
  cases excl with
  | false => simp [recalled, h3]
  | true => simp [recalled, h3, h rfl]; decide

section
variable {s : State} {o : ObjEnt} {i g v : Nat} {excl : Bool} (h : ∀ x ∈ s.xfers, x.obj ≠ i ∨ x.gran ≠ g)
include h

/-- The home's answer to the first request for a granule. -/
theorem startXfer_home (ho : o.home = 7) : ∀ t, t = ({ s with xfers := s.xfers ++ [⟨i, g, v, excl, [], false⟩] } : State) →
    startXfer i o g t = if (recalled (granByte s o g) excl).isEmpty then
      if v != 7 && !granQuiet s o g then t.push (if excl then .getx else .gets) ⟨i, g, v, []⟩
      else grantXfer o ⟨i, g, v, excl, [], true⟩ t
    else (recalled (granByte s o g) excl).foldl (fun u p => u.tell (.kfl p (if excl then 4 else 3) i g [] []))
      { s with xfers := s.xfers ++ [⟨i, g, v, excl, recalled (granByte s o g) excl, true⟩] } := by
  rintro _ rfl
  unfold startXfer
  rw [firstXfer_new h rfl rfl]
  dsimp only
  rw [setXfer_new h rfl rfl, ho]
  rfl

/-- The granule goes to the port, its lines on chip having been purged, and the home records it. -/
theorem grantXfer_port (hv : v ≠ 7) {u : State} (hu : u = purgeLines o.ctx (granLines s o g) (touchGran o g s)) :
    grantXfer o ⟨i, g, v, excl, [], true⟩ { s with xfers := s.xfers ++ [⟨i, g, v, excl, [], false⟩] } =
      nextXfer i g ((setGranByte o g (if excl then 8 + 2 * v else setBit (granByte s o g) (4 + v) true) u).tell
        (.kfl v 0 i g (granData u o g) (granSick u o g))) := by
  unfold grantXfer
  dsimp only
  rw [setXfer_new h rfl rfl, Option.toList_none, List.append_nil, if_neg (by simp [hv]), ← hu]
  rfl

end

section
variable {s : State} {o : ObjEnt} (ho : s.objs.get? s.ev.k = some o)
include ho

theorem getGranule_new (hv : s.ev.v < 4) (hl : 2 ≤ (s.link (s.ev.v + 1)).state)
    (h : ∀ x ∈ s.xfers, x.obj ≠ s.ev.k ∨ x.gran ≠ s.ev.a) (excl : Bool) :
    getGranule excl s = startXfer s.ev.k o s.ev.a { s with xfers := s.xfers ++ [⟨s.ev.k, s.ev.a, s.ev.v, excl, [], false⟩] } := by
  have hv7 : s.ev.v ≠ 7 := by omega
  unfold getGranule
  rw [ho]
  dsimp only
  rw [if_neg (by simpa using hv7), overKfl_up hl, joinXfer_new h hv7]

/-! ### Granules at a package that is not their home (R44) -/

theorem granuleRecallStep_eq : granuleRecallStep s = overKfl o.home .granuleRecall (fun s =>
    if s.putxs.contains ⟨s.ev.k, s.ev.a⟩ then s
    else if grantWaits s s.ev.k s.ev.a || !granQuiet s o s.ev.a then s.keep .granuleRecall
    else answerRecall o s) s := by
  unfold granuleRecallStep
  rw [ho]

theorem granuleGrantStep_eq : granuleGrantStep s = overKfl (if o.home = 7 then s.ev.v % 4 else o.home) .granuleGrant (fun t =>
    if granQuiet t o s.ev.a = false then t.keep .granuleGrant
    else if o.home = 7 then returned t.ev.k o s.ev.a (s.ev.v % 4) (bit s.ev.v 3) t.ev.data (s.ev.v / 16) t
    else takeGrant o t) s := by
  unfold granuleGrantStep
  rw [ho]
  simp only [beq_iff_eq, Bool.not_eq_true']

theorem putxStep_eq : putxStep s =
    if o.home = 7 then
      overKfl (s.ev.v % 4) .putx (fun t =>
        if granQuiet t o s.ev.a = false then t.keep .putx
        else (returned s.ev.k o s.ev.a (s.ev.v % 4) false t.ev.data (s.ev.v / 16) t).tell (.kfl (s.ev.v % 4) 7 s.ev.k s.ev.a [] [])) s
    else if s.ev.v = 8 then
      overKfl o.home .putx (fun t =>
        if t.putxs.contains ⟨s.ev.k, s.ev.a⟩ then
          nextXfer s.ev.k s.ev.a (setGranByte o s.ev.a 0 { t with putxs := t.putxs.filter (fun x => x != ⟨s.ev.k, s.ev.a⟩) })
        else t) s
    else giveBack o s := by
  unfold putxStep
  rw [ho]
  simp only [beq_iff_eq, Bool.not_eq_true']

end

section
variable {s : State}

theorem grantWaits_eq_false {i g : Nat} (h : ∀ d ∈ s.agenda, d.ev ≠ .granuleGrant ∨ d.arg.k ≠ i ∨ d.arg.a ≠ g) :
    grantWaits s i g = false := by
  simpa [grantWaits, imp_iff_not_or, or_assoc] using h

theorem grantWaits_of_mem {i g : Nat} (h : ∃ d ∈ s.agenda, d.ev = .granuleGrant ∧ d.arg.k = i ∧ d.arg.a = g) : grantWaits s i g = true := by
  simpa [grantWaits, and_assoc] using h

theorem answerRecall_eq (o : ObjEnt) {b : Nat} {own : Bool} {u : State} (hb : b = bits (granByte s o s.ev.a) 1 0) (hown : own = decide (b = 2))
    (hu : u = purgeLines o.ctx (granLines s o s.ev.a) s) : answerRecall o s =
    (setGranByte o s.ev.a (if s.ev.v = 0 ∧ b ≠ 0 then 1 else 0) u).tell
      (.kfl o.home 5 s.ev.k s.ev.a (if own then granData u o s.ev.a else []) (if own then granSick u o s.ev.a else [])) := by
  subst hb hown hu
  simp only [answerRecall, purgeLines_ev, beq_iff_eq, Bool.and_eq_true, bne_iff_ne, decide_eq_true_eq]

theorem giveBack_owned {o : ObjEnt} (h2 : bits (granByte s o s.ev.a) 1 0 = 2) (hp : s.putxs.contains ⟨s.ev.k, s.ev.a⟩ = false)
    (hq : granQuiet s o s.ev.a = true) {u : State} (hu : u = purgeLines o.ctx (granLines s o s.ev.a) s) :
    giveBack o s = ({ u with putxs := u.putxs ++ [⟨s.ev.k, s.ev.a⟩] } : State).tell
      (.kfl o.home 6 s.ev.k s.ev.a (granData u o s.ev.a) (granSick u o s.ev.a)) := by
  unfold giveBack
  dsimp only
  rw [h2, hp, hq, hu]
  rfl

end

/-! ### Accesses to a page of an object (R43) -/

theorem granAllows_iff (s : State) (o : ObjEnt) (g : Nat) (wr : Bool) : granAllows s o g wr = true ↔
    (o.home = 7 ∧ bit (granByte s o g) 3 = false ∧ (wr = true → bits (granByte s o g) 7 4 = 0)
      ∨ o.home ≠ 7 ∧ (bits (granByte s o g) 1 0 = 2 ∨ (wr = false ∧ bits (granByte s o g) 1 0 = 1))) := by
  by_cases hh : o.home = 7 <;> cases wr <;> simp [granAllows, hh, or_comm]

theorem granGate_of_objOf {s : State} {ctx line i g : Nat} {o : ObjEnt} (hob : objOf s ctx line = some (i, o, g)) (wr : Bool) :
    granGate ctx line wr s = if objLost s o then (s, .lost) else if s.putxs.contains ⟨i, g⟩ then (s, .wait)
    else if granAllows s o g wr then (s, .ok) else (askGranule i g wr s, .wait) := by
  unfold granGate
  rw [hob]

theorem askGranule_new {s : State} {i g : Nat} (h : ∀ x ∈ s.xfers, x.obj ≠ i ∨ x.gran ≠ g ∨ x.port ≠ 7) (excl : Bool) :
    askGranule i g excl s =
      ({ s with xfers := s.xfers ++ [⟨i, g, 7, excl, [], false⟩] } : State).push (if excl then .getx else .gets) ⟨i, g, 7, []⟩ := by
  have hn : s.xfers.any (fun x => x.obj == i && x.gran == g && x.port == 7 && x.excl == excl) = false := by
    simp only [List.any_eq_false, Bool.and_eq_true, beq_iff_eq]
    rintro x hx ⟨⟨⟨hi, hg⟩, hp⟩, _⟩
    rcases h x hx with h | h | h
    · exact h hi
    · exact h hg
    · exact h hp
  simp [askGranule, addXfer, hn]

/-- Settles O49: the home's answer to a request, a package's to a recall, a grant and an acknowledgement, the home's to what returns, and the gate
of an access. -/
theorem granuleEvents : Obligations.GranuleEvents := by
  unfold Obligations.GranuleEvents
  refine ⟨?_, ?_, ?_, ?_⟩
  · rintro s o b ho hh hv hl hx rfl e i rfl
    have hex : exec (if e then Instr.getx else .gets) s = .next (getGranule e s) := by cases e <;> rfl
    rw [hex, getGranule_new ho hv hl hx, startXfer_home hx hh _ rfl]
    refine ⟨fun hq h3 hs => ?_, ?_⟩
    · rintro u d hu rfl
      rw [recalled_nil h3 hs, if_pos List.isEmpty_nil, hq, Bool.not_true, Bool.and_false, if_neg Bool.false_ne_true, grantXfer_port hx (by omega) hu]
      refine ⟨_, rfl, ?_, rfl⟩
      rw [nextXfer_notices, State.tell_notices]
      exact List.getLast?_concat
    · rintro ws rfl hw
      exact congrArg Host.Outcome.next (if_neg (by simpa [recalled] using hw))
  · intro s o ho hh
    have hrec : exec .granuleRecall s = .next (granuleRecallStep s) := rfl
    have hgr : exec .granuleGrant s = .next (granuleGrantStep s) := rfl
    have hput : exec .putx s = .next (putxStep s) := rfl
    rw [hrec, hgr, hput, granuleRecallStep_eq ho, granuleGrantStep_eq ho, putxStep_eq ho, if_neg hh, if_neg hh]
    refine ⟨fun hv h2 hp hq u hu => ?_, fun hl => ?_, fun hl => ⟨?_, ?_⟩⟩
    · rw [if_neg hv, giveBack_owned h2 hp hq hu]
    · rw [overKfl_up hl, overKfl_up hl, overKfl_up hl]
      refine ⟨fun hp => congrArg _ (if_pos hp), fun hp hq hg b own u hb hown hu => ?_, fun hp hw => ?_, fun hq => ?_,
        fun hq => ?_, fun hv hp => ?_⟩
      · rw [hp, hq, grantWaits_eq_false hg, answerRecall_eq o hb hown hu]
        rfl
      · rw [if_neg (Bool.eq_false_iff.mp hp), if_pos]
        rcases hw with hq | hg
        · simp [hq]
        · simp [grantWaits_of_mem hg]
      · rw [if_neg (by simp [hq]), if_neg hh]
        rfl
      · rw [if_pos hq]
      · rw [if_pos hv, if_pos hp]
    · rw [overKfl_training hl]
    · rw [overKfl_training hl]
  · intro s o ho hh hl
    have hgr : exec .granuleGrant s = .next (granuleGrantStep s) := rfl
    have hput : exec .putx s = .next (putxStep s) := rfl
    rw [hgr, hput, granuleGrantStep_eq ho, putxStep_eq ho, if_pos hh, if_pos hh, overKfl_up hl, overKfl_up hl]
    refine ⟨fun hq => ?_, fun hq => ?_⟩
    · have hn : ¬granQuiet s o s.ev.a = false := by simp [hq]
      exact ⟨congrArg _ ((if_neg hn).trans (if_pos hh)), congrArg _ (if_neg hn)⟩
    · exact ⟨congrArg _ (if_pos hq), congrArg _ (if_pos hq)⟩
  · intro s ctx line i o g wr hob
    rw [granGate_of_objOf hob]
    refine ⟨fun hl => if_pos hl, fun hl hp => ?_, fun hl hp => ⟨fun ha => ?_, fun ha hx => ?_⟩⟩
    · rw [hl, if_pos hp]
      rfl
    · rw [hl, hp, if_pos ((granAllows_iff _ _ _ _).mpr ha)]
      rfl
    · have hn : ¬granAllows s o g wr = true := by
        rw [granAllows_iff]
        rcases ha with ⟨hh, h3 | ⟨hw, h7⟩⟩ | ⟨hh, h2, hw⟩
        · simp [hh, h3]
        · simp [hh, hw, h7]
        · rcases hw with hw | h1
          · simp [hh, h2, hw]
          · simp [hh, h2, h1]
      rw [hl, hp, if_neg hn, askGranule_new hx]
      rfl

end Sys2Proof

end

section

/-! ## Host memory (O48): the fetch of a line, snoops, and the device-memory window -/

namespace Sys2Proof

open Machine

/-! ### The fetch of a line's sectors (R38, R39, R114) -/

section
variable {s : State}

theorem fetchArrives_ev (s : State) : (fetchArrives s).1.ev = s.ev := by
  unfold fetchArrives
  dsimp only
  split
  · rfl
  · split
    · rfl
    · split <;> rfl

/-- A request still on its way asks again. -/
theorem hostFetchStep_onWay {s0 : State} (h : fetchArrives s = (s0, false)) :
    hostFetchStep s = s0.sendArg .hostSectorFetch s.ev 0 s.ev.k s.ev.a := by
  have he : s0.ev = s.ev := by simpa only [h] using fetchArrives_ev s
  rw [← he]
  unfold hostFetchStep
  dsimp only
  rw [h, ← he]

/-- At I/O die 0, with no flip of the page in the way, the translation that it holds decides. -/
theorem hostFetchStep_arrived {s0 u : State} {x : Xl} (h : fetchArrives s = (s0, true))
    (hf : ∀ f ∈ s0.flips, f.ctx ≠ s.ev.k ∨ s.ev.a * 128 < f.va ∨ f.va + f.size ≤ s.ev.a * 128 ∨ (f.toDev = false ∧ s.ev.v % 2 = 1))
    (hx : s0.tlbFind 128 s.ev.k (s.ev.a * 128) = some x) (hh : x.attr.host = true)
    (hu : u = (if s.ev.v % 2 = 1 then touchD 128 x s0 else s0)) :
    hostFetchStep s = fetchSectors s.ev.k s.ev.a (s.ev.v % 2 == 1) x u := by
  have hn : s0.flips.any (fun f => f.ctx == s.ev.k && decide (f.va ≤ s.ev.a * 128) && decide (s.ev.a * 128 < f.va + f.size)
      && (f.toDev || !(s.ev.v % 2 == 1))) = false := by
    simp only [List.any_eq_false, Bool.and_eq_true, beq_iff_eq, decide_eq_true_eq]
    rintro f hm ⟨⟨⟨hc, hlo⟩, hhi⟩, hd⟩
    rcases hf f hm with h | h | h | ⟨h, hw⟩
    · exact h hc
    · omega
    · omega
    · simp [h, hw] at hd
  unfold hostFetchStep
  dsimp only
  rw [h]
  dsimp only
  rw [hn, hx]
  dsimp only
  simp only [hh, beq_iff_eq, ← hu]
  rfl

end

section
variable {s t : State} (h : Purged s t)
include h

theorem Purged.takeSector {hs ctx vs : Nat} {st : HSt} : Purged s (takeSector hs ctx vs st t) := by
  unfold Machine.takeSector
  extract_lets t1 known t2
  have h1 : Purged s t1 := by
    unfold t1
    split
    · split
      · exact h
      · exact h.purgeLines
    · exact h
  have h2 : Purged s t2 := by
    unfold t2
    split
    · exact h1
    · split
      · exact h1.purgeLines
      · exact h1
  split
  · exact h2.same rfl rfl
  · exact h2.same rfl rfl

theorem Purged.takeSectors {ctx : Nat} {st : HSt} {l : List (Nat × Nat)} : Purged s (l.foldl (fun s n => Machine.takeSector n.1 ctx n.2 st s) t) :=
  h.foldl fun _ _ h' => h'.takeSector

end

/-- A sector whose host sector the filter does not hold, with room in the filter. -/
theorem takeSector_new {hs ctx vs : Nat} {st : HSt} {s : State} (hn : ∀ h ∈ s.hsect, h.hs ≠ hs) (hr : s.hsect.length < 2097152) :
    takeSector hs ctx vs st s = { s with hsect := s.hsect ++ [⟨hs, ctx, vs, st⟩] } := by
  have hf : s.hsect.find? (fun h => h.hs == hs) = none := by simpa using hn
  have ha : s.hsect.any (fun h => h.hs == hs) = false := by simpa using hn
  unfold takeSector
  rw [hf]
  extract_lets s1 known s2
  have hk : known = false := ha
  have h2 : s2 = s := if_pos (by rw [hk, Bool.false_or]; exact decide_eq_true hr)
  rw [if_neg (Bool.eq_false_iff.mp hk), h2]

section
variable {s : State} {ctx line : Nat} {wr : Bool} {x : Xl} {h : Nat}

theorem getSectors_lost (ha : sectorsToAsk s (x.phys (line * 128)) (wr || x.bias) ≠ []) (hk : s.regs.khl.state = 0) :
    getSectors h ctx line wr x s = (s, .lost) := by
  simp [getSectors, State.khlLost, ha, hk]

theorem getSectors_training (ha : sectorsToAsk s (x.phys (line * 128)) (wr || x.bias) ≠ []) (hk : s.regs.khl.state = 1) :
    getSectors h ctx line wr x s = (s, .wait) := by
  simp [getSectors, State.khlLost, ha, hk]

/-- With the host at hand, or not needed, and nothing on its way of what leaves the filter, the line enters its slice. -/
theorem getSectors_held (ha : sectorsToAsk s (x.phys (line * 128)) (wr || x.bias) = [] ∨ 2 ≤ s.regs.khl.state)
    (hs : s.slices.get? (ctx, line) = none)
    (hv : ∀ k ∈ victimsOf s ctx ((upFrom 0 2).map (fun i => (x.phys (line * 128) / 64 + i, line * 2 + i))), lineQuiet s k.1 k.2 = true) :
    ∃ u, getSectors h ctx line wr x s = (fillSlice h ctx line x.attr (x.phys (line * 128)) x.obj u, .held) := by
  have ha' : ¬(!(sectorsToAsk s (x.phys (line * 128)) (wr || x.bias)).isEmpty && decide (s.regs.khl.state < 2)) = true := by
    rcases ha with ha | ha
    · simp [ha]
    · simp [Nat.not_lt.mpr ha]
  have hv' := List.all_eq_true.mpr hv
  unfold getSectors
  dsimp only
  rw [if_neg ha', hv', Bool.not_true, if_neg Bool.false_ne_true]
  refine ⟨_, Prod.ext (if_neg ?_) rfl⟩
  simp only [Option.isSome_iff_ne_none, ne_eq, not_not]
  exact (((Purged.refl s).foldl fun _ _ h' => h'.tell).takeSectors).absent hs

end

theorem fillSlice_get (h ctx line : Nat) (attr : Attr) (pa : Nat) (obj : Bool) (s : State) :
    (fillSlice h ctx line attr pa obj s).slices.get? (ctx, line) = some ⟨attr, pa, obj, h, false⟩ := Tbl.get?_set_same _ _ _

/-! ### Host snoops (R40, R70) -/

theorem Machine.State.khlLost_up {s : State} (h : 2 ≤ s.regs.khl.state) : s.khlLost = false := by
  simp only [State.khlLost, beq_eq_false_iff_ne]
  omega

section
variable {s : State} {kd : Snoop} {ev : Instr}

theorem snoopStep_miss (hn : s.hsect.find? (fun h => h.hs == s.ev.k) = none) (h2 : 2 ≤ s.regs.khl.state) : snoopStep kd ev s =
    if kd = .inv then hostWrites s.ev.k s.ev.data ((dropMsg s.ev.a s).tell .snoopMiss) else (dropMsg s.ev.a s).tell .snoopMiss := by
  unfold snoopStep
  dsimp only
  rw [State.khlLost_up h2, if_neg Bool.false_ne_true, if_neg (Nat.not_lt.mpr h2), hn]
  simp only [beq_iff_eq]

variable {h : HostSector} (hf : s.hsect.find? (fun h => h.hs == s.ev.k) = some h) (h2 : 2 ≤ s.regs.khl.state) {s1 : State} {id : Nat}
include hf h2

theorem snoopStep_waits (ht : snoopTurn ev h s = (s1, id, false)) : snoopStep kd ev s = s1.push ev { s.ev with a := id } := by
  unfold snoopStep
  dsimp only
  rw [State.khlLost_up h2, if_neg Bool.false_ne_true, if_neg (Nat.not_lt.mpr h2), hf]
  dsimp only
  rw [ht]
  rfl

/-- At its turn, with no entry of the line at its home, the snoop is answered; an invalidating one once nothing of the line is on its way. -/
theorem snoopStep_answers (ht : snoopTurn ev h s = (s1, id, true)) (hn : s1.trees.get? (lineHome s1 h.ctx (h.vs / 2), h.ctx, h.vs / 2) = none)
    {u v : State} {d : List Byte} (hu : u = landLine h.ctx (h.vs / 2) s1) (hv : v = dropMsg id u) (hd : d = u.rd true (s.ev.k * 64) 64) :
    snoopStep kd ev s =
      if (kd == Snoop.inv && !lineQuiet u h.ctx (h.vs / 2)) = true then u.push ev { s.ev with a := id }
      else match kd with
        | .data => (shareSector s.ev.k v).tell (.snoopHit d)
        | .inv => hostWrites s.ev.k s.ev.data (purgeLines h.ctx [h.vs / 2] (v.tell (.snoopHit d)))
        | .cur => v.tell (.snoopHit d) := by
  subst hu hv hd
  unfold snoopStep
  dsimp only
  rw [State.khlLost_up h2, if_neg Bool.false_ne_true, if_neg (Nat.not_lt.mpr h2), hf]
  dsimp only
  rw [ht]
  dsimp only
  rw [hn]
  cases kd <;> rfl

end

/-! ### The device-memory window (R100) -/

/-- A range inside one line is one piece. -/
theorem pieces_line {a n : Nat} (h0 : 0 < n) (h : a % 128 + n ≤ 128) : pieces a n = [(a, n)] := by
  have hk : min n (128 - a % 128) = n := by omega
  have h0' : ¬((n == 0) = true) := by simpa using Nat.ne_of_gt h0
  simp only [pieces, linePieces, if_neg h0', hk, Nat.sub_self]
  rfl

theorem Machine.Xl.phys_idXl (va : Nat) : (idXl va).phys va = va := by
  simp only [Xl.phys, idXl]
  omega

section
variable {s : State} {va : Nat}

/-- Context 0 names device memory directly (R105). -/
theorem locate_zero (w : Who) (wr : Bool) (ha : va < 2 ^ 40) (hs : s.slices.get? (0, va / 128) = none) :
    locate w 0 va wr false s = (s, .ok (idXl va)) := by
  have ho : outOfSpace 0 va = false := by
    simp only [outOfSpace, beq_self_eq_true, Bool.true_and, Bool.or_eq_false_iff, decide_eq_false_iff_not]
    omega
  have hp : placeAt w.ag.ni 0 va w.vd w.bay false s = (s, .ok (bits va 39 37)) := rfl
  have hx : homeXl (bits va 39 37) 0 va w.vd wr s = (s, .ok (idXl va)) := by
    simp only [homeXl, sliceXl, hs]
    rfl
  have hf : findLine w 0 va wr false s = (s, .ok (bits va 39 37, idXl va)) := by
    simp only [findLine, ho, hp, hx]
    cases wr <;> rfl
  simp only [locate, hf]
  rfl

theorem memWindow_line {n : Nat} (h0 : 0 < n) (h : va % 128 + n ≤ 128) (ha : va < 2 ^ 40) (hb : s.badLine false va n = false)
    (hs : s.slices.get? (0, va / 128) = none) : memWindow va n s = (s, s.rd false va n) := by
  have hr : rdLine Who.cp 0 va n false s = (s, .ok (s.rd false va n)) := by
    simp only [rdLine, locate_zero Who.cp false ha hs, rdAt, Xl.phys_idXl]
    exact if_neg (Bool.eq_false_iff.mp hb)
  simp only [memWindow, pieces_line h0 h, List.foldl_cons, List.foldl_nil, hr, List.nil_append]

theorem wrRange_line {l : List Byte} (w : Who) (h0 : l ≠ []) (h : va % 128 + l.length ≤ 128) (ha : va < 2 ^ 40)
    (hs : s.slices.get? (0, va / 128) = none) (hb : s.badMerge false va l.length = false) : (wrRange w 0 va l s).1 = s.ctlWr false va l := by
  have hw : wrLine w 0 va l s = (s.ctlWr false va l, none) := by
    simp only [wrLine, locate_zero w true ha hs, Xl.phys_idXl]
    exact if_neg (Bool.eq_false_iff.mp hb)
  simp only [wrRange, pieces_line (List.length_pos_iff.mpr h0) h, List.foldl_cons, List.foldl_nil, Nat.sub_self, List.drop_zero, List.take_length, hw]

end

/-- Settles O48: the fetch of a line by what it needs of the host, the sectors, the writes that end, the snoops by what they hit, and the window. -/
theorem hostMemoryEvents : Obligations.HostMemoryEvents := by
  unfold Obligations.HostMemoryEvents
  refine ⟨?_, fun s s0 h => congrArg Host.Outcome.next (hostFetchStep_onWay h), fun s hs ctx vs st => takeSector_new, ?_, ?_, ?_, ?_, ?_⟩
  · rintro s s0 u x own h hf hx hh rfl hu
    have e : exec .hostSectorFetch s = .next (fetchSectors s.ev.k s.ev.a (s.ev.v % 2 == 1) x u) :=
      congrArg _ (hostFetchStep_arrived h hf hx hh hu)
    rw [e]
    refine ⟨fun ha hs hv => ?_, fun ha => ⟨fun hk => ?_, fun hk => ?_⟩⟩
    · obtain ⟨w, hw⟩ := getSectors_held (h := homeOfLine u s.ev.k s.ev.a) ha hs hv
      refine ⟨_, rfl, ⟨x.attr, x.phys (s.ev.a * 128), x.obj, homeOfLine u s.ev.k s.ev.a, false⟩, ?_, rfl, rfl, rfl, rfl⟩
      rw [fetchSectors, hw]
      exact fillSlice_get _ _ _ _ _ _ _
    · rw [fetchSectors, getSectors_lost ha hk]
    · rw [fetchSectors, getSectors_training ha hk]
  · intro s a ha
    have hd : storeDone s.ev.k false s =
        Machine.settle (trackDones a.parts.length a.track (homeDone a false { s with accs := s.accs.del s.ev.k })) := by
      unfold storeDone
      rw [ha]
    simp only [List.forall_mem_cons, List.not_mem_nil, false_implies, implies_true, and_true]
    exact ⟨congrArg Host.Outcome.next hd, congrArg Host.Outcome.next hd⟩
  · rintro s hn h2 _ rfl
    exact ⟨congrArg Host.Outcome.next (snoopStep_miss hn h2), congrArg Host.Outcome.next (snoopStep_miss hn h2),
      congrArg Host.Outcome.next (snoopStep_miss hn h2)⟩
  · intro s h hf h2
    simp only [List.forall_mem_cons, List.not_mem_nil, false_implies, implies_true, and_true]
    refine ⟨fun s1 id => ⟨fun ht => congrArg Host.Outcome.next (snoopStep_waits hf h2 ht), fun ht hn u v d hu hv hd => ?_⟩,
      fun s1 id => ⟨fun ht => congrArg Host.Outcome.next (snoopStep_waits hf h2 ht), fun ht hn u v d hu hv hd => ?_⟩,
      fun s1 id => ⟨fun ht => congrArg Host.Outcome.next (snoopStep_waits hf h2 ht), fun ht hn u v d hu hv hd => ?_⟩⟩
    · exact ⟨fun _ => congrArg Host.Outcome.next (snoopStep_answers hf h2 ht hn hu hv hd), nofun, nofun⟩
    · exact ⟨nofun, fun _ => congrArg Host.Outcome.next (snoopStep_answers hf h2 ht hn hu hv hd), nofun⟩
    · exact ⟨nofun, nofun, fun _ hq => congrArg Host.Outcome.next ((snoopStep_answers hf h2 ht hn hu hv hd).trans (by rw [hq]; rfl))⟩
  · intro s h2 h0 hl ha hb hs h1 h2'
    have hw : barReadStep s = barRead s := by
      unfold barReadStep
      split
      next h => exact absurd h h1
      next h => exact absurd h h2'
      next => rfl
    have hr : barRead s =
        State.tell { s with regs := { s.regs with readback := s.rd false s.ev.k s.ev.v } } (.barData (s.rd false s.ev.k s.ev.v)) := by
      refine (overKhl_up h2).trans ?_
      rw [memWindow_line h0 hl ha hb hs]
    exact ⟨_, congrArg Host.Outcome.next (hw.trans hr), State.tell_readback _ _, State.tell_notices _ _⟩
  · intro s h2 h0 hl ha hs hb
    have e : barWrite s = s.ctlWr false s.ev.k s.ev.data := (overKhl_up h2).trans (wrRange_line Who.cp h0 hl ha hs hb)
    exact congrArg Host.Outcome.next e

end Sys2Proof

end

section

/-! ## Admin commands and doorbells (O43) -/

namespace Sys2Proof

open Machine

/-! ### Contexts that a command names (R87) -/

theorem Machine.State.modCtx_known {s : State} {ctx : Nat} {c : CtxRec} (h : s.ctxs.get? ctx = some c) (f : CtxRec → CtxRec) :
    s.modCtx ctx f = { s with ctxs := s.ctxs.set ctx (f c) } := by
  unfold State.modCtx
  rw [h]

section
variable {s : State} {f : Nat → CtxRec → State → State}

theorem onCtx_known {c : CtxRec} (h : s.ctxs.get? s.aCtx = some c) : onCtx f s = f s.aCtx c s := by
  unfold onCtx
  rw [h]

theorem onCtx_unknown (h : s.ctxs.get? s.aCtx = none) : onCtx f s = adminDone 1 s := by
  unfold onCtx
  rw [h]

end

/-- The commands on an existing context. -/
def contextCommands : List Instr := [.ctxDestroy, .ctxSuspend, .ctxResume, .objDeclare, .objClear, .biasFlip, .queueResume, .xlateInval]

theorem exec_contextCommand (s : State) : ∀ i ∈ contextCommands, ∃ f, exec i s = .next (onCtx f s) := by
  simp only [contextCommands, List.forall_mem_cons, List.not_mem_nil, false_implies, implies_true, and_true]
  exact ⟨⟨_, rfl⟩, ⟨_, rfl⟩, ⟨_, rfl⟩, ⟨_, rfl⟩, ⟨_, rfl⟩, ⟨_, rfl⟩, ⟨_, rfl⟩, ⟨_, rfl⟩⟩

theorem adminUnread_held (ev : Instr) (s : State) : adminUnread ev 255 s = s.keep ev := rfl

theorem adminUnread_failed (ev : Instr) {k : Nat} (h : k ≠ 255) (s : State) : adminUnread ev k s = adminDone 9 s := if_neg (by simpa using h)

/-! ### CTX_CREATE and CTX_DESTROY (R80, R87) -/

section
variable {s s1 : State}

theorem createStep_unread {k : Nat} (ha : s.aAddr % 64 = 0) (hr : cpNum s.aAddr 64 s = (s1, .error k)) :
    createStep s = adminUnread .ctxCreate k s1 := by
  unfold createStep
  dsimp only
  rw [if_neg (by simpa using ha), hr]

theorem createStep_creates {s2 : State} {x : Nat} {ds : List Nat} (ha : s.aAddr % 64 = 0) (hr : cpNum s.aAddr 64 s = (s1, .ok x))
    (hx : recordOk_ x = true)
    (hd : readDescs (bits x 319 256) (4 * viewDevices (bits x 499 498)) 0 [] s1 = (s2, .ok ds)) (hq : ds.all queueOk = true)
    (hn : s2.ctxs.get? (bits x 511 500) = none) (hl : s2.ctxs.length < 256) :
    createStep s = adminDone 0 { s2 with
      ctxs := s2.ctxs ++ [(bits x 511 500, ctxOfRec x ((upFrom 0 ds.length).zip (ds.map queueOf)) s2.ncyc)] } := by
  have hf : ((s2.ctxs.get? (bits x 511 500)).isSome || decide (256 ≤ s2.ctxs.length)) = false := by
    simpa [hn] using hl
  unfold createStep
  dsimp only
  rw [if_neg (by simpa using ha), hr]
  dsimp only
  rw [hx, hd]
  dsimp only
  rw [hq, hf]
  rfl

theorem destroyStep_ends {c : CtxRec} (hc : s.ctxs.get? s.aCtx = some c) (hd : c.dying = true) (hb : ctxBusy s s.aCtx = false) :
    destroyStep s = adminDone 0 (purgeContext s.aCtx s) := by
  refine (onCtx_known hc).trans ?_
  dsimp only
  rw [if_pos hd, hb]
  rfl

end

/-! ### CTX_SUSPEND and CTX_RESUME (R154, R161, R162) -/

section
variable {s : State} {c : CtxRec} (hc : s.ctxs.get? s.aCtx = some c)
include hc

/-- The context's record once its walkers have stopped. -/
theorem markSuspended_eq : markSuspended s.aCtx s =
    { s with ctxs := s.ctxs.set s.aCtx { c with suspended := true, haltAt := if c.paused then c.haltAt else s.ncyc } } := State.modCtx_known hc _

theorem suspendStep_eq {u : State} (hu : u = markSuspended s.aCtx s) : suspendStep s =
    if resident s s.aCtx = [] ∨ c.inHalt = true then u.push .ctxSuspendComplete s.ev
    else if (c.phase = 0 ∨ c.phase = 4) ∧ mayPreempt u s.aCtx 8 = true then (requestHalt s.aCtx 8 none none u).push .ctxSuspendComplete s.ev
    else u.push .ctxSuspend s.ev := by
  have he : u.ev = s.ev := by rw [hu, markSuspended_eq hc]
  have hr : resident u s.aCtx = resident s s.aCtx := by rw [hu, markSuspended_eq hc]; rfl
  refine (onCtx_known hc).trans ?_
  dsimp only
  rw [← hu]
  simp only [he, hr, Bool.or_eq_true, Bool.and_eq_true, List.isEmpty_iff, beq_iff_eq]

theorem suspendDoneStep_done (hr : resident s s.aCtx = []) (hh : c.inHalt = false) : suspendDoneStep s = adminDone 0 s := by
  refine (onCtx_known hc).trans ?_
  rw [hr, hh]
  rfl

theorem resumeCmdStep_eq {u : State} (hu : u = s.modCtx s.aCtx (fun c => { c with suspended := false, cause := none, causeTeam := none })) :
    resumeCmdStep s = adminDone 0 (resumeCmdStep.callDispatchers s.aCtx (
      if c.phase = 4 then u.push .contextResumeAuto ⟨s.aCtx, 0, 1, []⟩
      else if c.phase = 0 ∧ c.suspended = true then runAgain s.aCtx u else u)) := by
  refine (onCtx_known hc).trans ?_
  dsimp only
  rw [← hu]
  simp only [beq_iff_eq, Bool.and_eq_true]

/-! ### Objects (R43, R87, R288) -/

theorem declareStep_unread {s1 : State} {k : Nat} (hi : s.aLen < 4096) (hr : cpNum s.aAddr 32 s = (s1, .error k)) :
    declareStep s = adminUnread .objDeclare k s1 := by
  refine (onCtx_known hc).trans ?_
  dsimp only
  rw [if_neg (Nat.not_le.mpr hi), hr]

theorem declareStep_declares {s1 s2 : State} {x y : Nat} (hi : s.aLen < 4096) (hx : cpNum s.aAddr 32 s = (s1, .ok x))
    (hy : cpNum (objOfImage x).shape 64 s1 = (s2, .ok y)) (ho : objOk s2 (objOfImage x) = true) :
    declareStep s = adminDone 0 { s2 with objs := if bit x 255 then s2.objs.set s.aLen (objOfImage x) else s2.objs.del s.aLen } := by
  refine (onCtx_known hc).trans ?_
  dsimp only
  rw [if_neg (Nat.not_le.mpr hi), hx]
  dsimp only
  rw [hy]
  dsimp only
  rw [ho]
  rfl

theorem clearStep_clears (hi : s.aLen < 4096) (hx : ∀ x ∈ s.xfers, x.obj ≠ s.aLen) :
    clearStep s = adminDone 0 { s with objs := s.objs.del s.aLen } := by
  have hn : s.xfers.any (fun x => x.obj == s.aLen) = false := by simpa using hx
  refine (onCtx_known hc).trans ?_
  dsimp only
  rw [if_neg (Nat.not_le.mpr hi), hn]
  rfl

/-! ### BIAS_FLIP, QUEUE_RESUME and XLATE_INVAL (R41, R87, R97) -/

theorem biasStep_begins (ha : s.aArg < 2) (hp : flipPage s s.aCtx s.aAddr s.aLen = true) : biasStep s =
    ({ s with flips := s.flips ++ [⟨s.aCtx, s.aAddr, s.aLen, s.aArg == 1, 0⟩] } : State).push .biasFlipComplete s.ev := by
  refine (onCtx_known hc).trans (if_neg ?_)
  simpa [hp] using ha

theorem queueResumeStep_resumes {q : Queue} (hq : c.queues.get? s.aArg = some q) :
    queueResumeStep s = adminDone 0 (queuePump s.aCtx s.aArg (s.modQueue s.aCtx s.aArg (fun x => { x with halted := false }))) := by
  refine (onCtx_known hc).trans ?_
  dsimp only
  rw [hq]

end

/-- The oldest flip ends, fails with the link, or is looked at again (R42). -/
theorem biasDoneStep_eq {s : State} {f : Flip} {l : List Flip} (h : s.flips = f :: l) : biasDoneStep s =
    if s.khlLost then adminDone 8 (settle (setBias { f with toDev := false } { s with flips := l }))
    else if s.regs.khl.state < 2 || flipHolds f s then (drainPage f s).push .biasFlipComplete s.ev
    else adminDone 0 (settle (setBias f (flipWork f { s with flips := l }))) := by
  unfold biasDoneStep
  rw [h]

/-! ### Doorbells (R88) -/

section
variable {s : State}

theorem doorbell_rings {c : CtxRec} {q : Queue} (hc : s.ctxs.get? s.ev.k = some c) (hq : c.queues.get? s.ev.a = some q) :
    doorbell s = queuePump s.ev.k s.ev.a (s.modQueue s.ev.k s.ev.a (fun x => { x with tail := bits s.ev.v 15 0 % x.len })) := by
  unfold doorbell
  dsimp only
  rw [hc]
  dsimp only
  rw [hq]

theorem doorbell_bad (h : s.ctxs.get? s.ev.k = none ∨ ∃ c, s.ctxs.get? s.ev.k = some c ∧ c.queues.get? s.ev.a = none) :
    doorbell s = { s with regs := { s.regs with badbell := (s.regs.badbell + 1) % 2 ^ 16 } } := by
  unfold doorbell
  dsimp only
  rcases h with hc | ⟨c, hc, hq⟩
  · rw [hc]
    rfl
  · rw [hc]
    dsimp only
    rw [hq]
    rfl

theorem overKhl_down {ev : Instr} {f : State → State} (h : s.regs.khl.state = 0) : overKhl ev f s = s := by
  simp [overKhl, State.khlLost, h]

theorem overKhl_training {ev : Instr} {f : State → State} (h : s.regs.khl.state = 1) : overKhl ev f s = s.keep ev := by
  simp [overKhl, State.khlLost, h]

end

/-- Settles O43: the commands that do what they name, row by row, those whose operand must be read, the flips, and the doorbells. -/
theorem adminCommandsAndDoorbells : Obligations.AdminCommandsAndDoorbells := by
  unfold Obligations.AdminCommandsAndDoorbells
  refine ⟨⟨?_, ?_, ?_, ?_, ?_, ?_, ?_, ?_, ?_⟩, ?_, ?_, ⟨?_, ?_, ?_⟩⟩
  · simp only [List.forall_mem_cons, List.not_mem_nil, false_implies, implies_true, and_true, EvRow.Lands]
    refine ⟨fun s hr => exec_reached (f := putAdminTail s.ev.v) rfl hr, fun s _ => rfl, fun s _ => rfl,
      fun s ⟨hc, hi, hx⟩ => ?_, fun s ⟨hc, ha, hp⟩ => ?_, fun s ⟨c, q, hc, hq⟩ => ?_, fun s hc => ?_,
      fun s ⟨c, hc, hr, hh⟩ => ?_, fun s ⟨c, hc, hd, hb⟩ => ?_⟩
    · obtain ⟨c, hc⟩ := Option.isSome_iff_exists.mp hc
      exact congrArg Host.Outcome.next (clearStep_clears hc hi hx)
    · obtain ⟨c, hc⟩ := Option.isSome_iff_exists.mp hc
      exact congrArg Host.Outcome.next (biasStep_begins hc ha hp)
    · exact congrArg Host.Outcome.next (queueResumeStep_resumes hc hq)
    · obtain ⟨c, hc⟩ := Option.isSome_iff_exists.mp hc
      exact congrArg Host.Outcome.next (onCtx_known hc)
    · exact congrArg Host.Outcome.next (suspendDoneStep_done hc hr hh)
    · exact congrArg Host.Outcome.next (destroyStep_ends hc hd hb)
  · intro s x ds s1 s2 ha hr hx hd hq hn hl
    exact congrArg Host.Outcome.next (createStep_creates ha hr hx hd hq hn hl)
  · intro s s1 k ha hr
    have e : exec .ctxCreate s = .next (adminUnread .ctxCreate k s1) := congrArg Host.Outcome.next (createStep_unread ha hr)
    rw [e]
    exact ⟨fun hk => by rw [hk, adminUnread_held], fun hk => by rw [adminUnread_failed _ hk]⟩
  · intro s c s1 k hc hi hr
    have e : exec .objDeclare s = .next (adminUnread .objDeclare k s1) := congrArg Host.Outcome.next (declareStep_unread hc hi hr)
    rw [e]
    exact ⟨fun hk => by rw [hk, adminUnread_held], fun hk => by rw [adminUnread_failed _ hk]⟩
  · intro s c hc h
    refine ⟨_, congrArg Host.Outcome.next ((suspendStep_eq hc rfl).trans (if_pos h)), ?_, ?_⟩
    · rw [markSuspended_eq hc, State.push_ctxs, Tbl.get?_set_same]
      rfl
    · rw [markSuspended_eq hc, State.push_agenda]
      exact List.mem_append_right _ (List.mem_singleton_self _)
  · intro s c u hc hr hh hu
    have e : exec .ctxSuspend s = .next (suspendStep s) := rfl
    rw [e, suspendStep_eq hc hu, if_neg (not_or.mpr ⟨hr, Bool.eq_false_iff.mp hh⟩)]
    refine ⟨fun hp hm => congrArg _ (if_pos ⟨hp, hm⟩), fun h => congrArg _ (if_neg ?_)⟩
    rintro ⟨hp, hm⟩
    rcases h with ⟨h0, h4⟩ | h
    · exact hp.elim h0 h4
    · exact Bool.eq_false_iff.mp h hm
  · intro s c u hc hu
    exact congrArg Host.Outcome.next (resumeCmdStep_eq hc hu)
  · intro s c x y s1 s2 hc hi hx hy ho
    exact congrArg Host.Outcome.next (declareStep_declares hc hi hx hy ho)
  · intro s f l h
    have e : exec .biasFlipComplete s = .next (biasDoneStep s) := rfl
    rw [e, biasDoneStep_eq h]
    refine ⟨fun hk => congrArg _ (if_pos (by simpa [State.khlLost] using hk)), fun hk hw => congrArg _ ?_, fun hk hw => congrArg _ ?_⟩
    · rw [if_neg (by simpa [State.khlLost] using hk), if_pos (by simpa using hw)]
    · rw [if_neg (by simp [State.khlLost]; omega), if_neg (by simp [hw]; omega)]
  · rintro s code _ rfl _ _ rfl rfl
    rfl
  · intro s h i hi
    obtain ⟨f, e⟩ := exec_contextCommand s i hi
    exact e.trans (congrArg _ (onCtx_unknown h))
  · intro s c q hl hc hq
    exact congrArg Host.Outcome.next ((overKhl_up hl).trans (doorbell_rings hc hq))
  · intro s
    exact ⟨fun h => congrArg Host.Outcome.next (overKhl_down h), fun h => congrArg Host.Outcome.next (overKhl_training h)⟩
  · intro s hl h
    exact ⟨_, congrArg Host.Outcome.next ((overKhl_up hl).trans (doorbell_bad h)), rfl⟩

end Sys2Proof

end

section

/-! ## Messages of the sharer trees (O51) -/

namespace Sys2Proof

open Machine

/-! ### A message in its input port (R49) -/

section
variable {ev : Instr} {id : Nat} {m : Msg} {s : State} {run : Msg → State → State} (h : s.msgs.get? id = some m)
include h

theorem inPlace_here (hq : m.inq = true) : inPlace ev id s run = run m s := by
  have he : enterPort m s = some m := if_pos hq
  unfold inPlace
  rw [h]
  dsimp only
  rw [he]

theorem inPlace_waits (he : enterPort m s = none) : inPlace ev id s run = again ev id m s := by
  unfold inPlace
  rw [h]
  dsimp only
  rw [he]

end

/-! ### Fwd and Inv at a private cache (Table fabric-4) -/

section
variable {u : Nat} {m : Msg} {s : State}

theorem toUnit_free {id : Nat} (hf : fillPending s u m.ctx m.line = none) :
    toUnit id u m s = if m.val = 1 then onInv u m false (dropMsg id s) else onFwd u m (dropMsg id s) := by
  unfold toUnit
  rw [hf]
  simp only [beq_iff_eq]

theorem onFwd_snoop (ha : m.acc = 0) : onFwd u m s = s.tell (.snoopHit (s.rd true (m.cnt * 64) 64)) := by
  simp [onFwd, ha]

variable {c : L1Line} (hc : s.l1.get? (u, m.ctx, m.line) = some c)
include hc

/-- A holder keeps the line, and gives up exclusivity. -/
theorem onFwd_held (ha : m.acc ≠ 0) : onFwd u m s = answer .data m.acc c.pa 0 m.ctx m.line (lineBytes s c.attr.host c.pa)
    (modAcc m.acc (fun a => { a with bad := c.bad }) { s with l1 := s.l1.set (u, m.ctx, m.line) { c with
      st := if c.st = CSt.e then CSt.s else if c.st = CSt.m then CSt.o else c.st } }) := by
  unfold onFwd
  dsimp only
  rw [if_neg (by simpa using ha), hc]
  simp only [beq_iff_eq]
  rfl

/-- A holder gives the line up, which it writes back from M or O. -/
theorem onInv_held (ho : c.owners = []) {old : Bool} (hold : old = (c.st == CSt.m || c.st == CSt.o)) {t : State}
    (ht : t = (if old then writeBack m.ctx m.line c.attr.host c.pa c.bad s else s)) : onInv u m false s =
    sendMsg .invack { Msg.mk0 0 m.ctx m.line (unitRouter u) (unitLink u) (unitRouter u) u with dirty := old }
      { t with l1 := t.l1.del (u, m.ctx, m.line) } := by
  subst hold ht
  unfold onInv
  dsimp only
  rw [hc]
  dsimp only
  rw [Option.map_some, Option.getD_some, ho, Bool.false_or]
  rfl

end

section
variable {m : Msg} {s : State} (h : s.msgs.get? s.ev.k = some m) (hq : m.inq = true)
include h hq

theorem fwdStep_unit (hu : m.unit ≠ 2047) : fwdStep s = toUnit s.ev.k m.unit m s := by
  unfold fwdStep
  rw [inPlace_here h hq]
  unfold fwdGo
  rw [if_pos (by simpa using hu)]

theorem invStep_unit (hu : m.unit ≠ 2047) : invStep s = toUnit s.ev.k m.unit m s := by
  unfold invStep
  rw [inPlace_here h hq, if_pos (by simpa using hu)]

/-! ### Grafts and InvAcks (R61, R63) -/

theorem graftStep_passes : graftStep s = fillTry m.acc (modAcc m.acc (fun a => { a with graft := true })
    ((routeY m.at_ m.dst).foldl (fun s r => graftAt m r s) (dropMsg s.ev.k s))) := inPlace_here h hq

theorem invackStep_tearing {t : Machine.Tree} (ht : s.trees.get? (m.at_, m.ctx, m.line) = some t) (hst : t.st = TSt.tearing) : invackStep s =
    if t.pend - 1 = 0 then torn (m.at_, m.ctx, m.line) { t with pend := t.pend - 1, dirty := t.dirty || m.dirty } (dropMsg s.ev.k s)
    else putTree (m.at_, m.ctx, m.line) { t with pend := t.pend - 1, dirty := t.dirty || m.dirty } (dropMsg s.ev.k s) := by
  have ht' : (dropMsg s.ev.k s).trees.get? (m.at_, m.ctx, m.line) = some t := ht
  unfold invackStep
  rw [inPlace_here h hq]
  dsimp only
  rw [ht']
  dsimp only
  rw [if_neg (by simp [hst])]
  simp only [beq_iff_eq]

end

theorem torn_root {k : TreeKey} {t : Machine.Tree} {s : State} (hr : t.root = true) (hk : t.keep = none) : torn k t s = freeTree k s := by
  unfold torn
  dsimp only
  rw [hr, hk]

/-- A Graft makes a Building entry Stable. -/
theorem graftAt_building {m : Msg} {r : Nat} {s : State} {t : Machine.Tree} (ht : s.trees.get? (r, m.ctx, m.line) = some t)
    (hst : t.st = TSt.building) : ((graftAt m r s).trees.get? (r, m.ctx, m.line)).map (·.st) = some TSt.stable := by
  unfold graftAt
  dsimp only
  rw [ht]
  dsimp only
  rw [hst]
  exact congrArg (Option.map _) (Tbl.get?_set_same _ _ _)

/-! ### Branches that leave (R66) -/

section
variable {m : Msg} {s : State} (h : s.msgs.get? s.ev.k = some m) (hq : m.inq = true)
include h hq

/-- A departing branch leaves a Stable entry with other links, and is acknowledged there; a write-back goes on to the home. -/
theorem departStep_leaves {wb : Bool} {t u : Machine.Tree} (ht : s.trees.get? (m.at_, m.ctx, m.line) = some t) (hst : t.st = TSt.stable)
    (hl : t.links ≠ [m.from_]) (hw : m.work ≠ 1) (ho : wb = true → ∀ c, s.slices.get? (m.ctx, m.line) = some c → c.obj = false)
    (hh : wb = true → lineHome (dropMsg s.ev.k s) m.ctx m.line = m.at_) (hu : u = if wb then { t with owned := false } else t) :
    departStep wb s = sendMsg (if wb then .wback else .pruneack) (Msg.mk0 0 m.ctx m.line m.at_ 15 m.dst m.unit)
      (putTree (m.at_, m.ctx, m.line) { u with links := t.links.filter (fun l => l != m.from_) }
        (putTree (m.at_, m.ctx, m.line) u (dropMsg s.ev.k s))) := by
  have ht' : (dropMsg s.ev.k s).trees.get? (m.at_, m.ctx, m.line) = some t := ht
  have hobj : (wb && ((s.slices.get? (m.ctx, m.line)).map (·.obj)).getD false) = false := by
    cases wb with
    | false => rfl
    | true =>
      cases hc : s.slices.get? (m.ctx, m.line) with
      | none => rfl
      | some c => exact ho rfl c hc
  have hl' : (t.links == [m.from_]) = false := by simpa using hl
  have hw' : (m.work == 1) = false := by simpa using hw
  unfold departStep
  rw [inPlace_here h hq]
  dsimp only
  rw [hobj, if_neg Bool.false_ne_true]
  unfold departGo
  dsimp only
  rw [ht']
  dsimp only
  cases wb with
  | false =>
    subst hu
    simp [hst, hl', hw']
  | true =>
    have hd : (t.dirty || TSt.stable == TSt.tearing) = t.dirty := Bool.or_false _
    subst hu
    simp [hst, hl', hw', hh rfl, hd]

/-! ### Acknowledgements and path releases (R66, R115) -/

variable (hr : routeY m.at_ m.dst = [m.at_])
include hr

section
variable {t : Machine.Tree} (ht : s.trees.get? (m.at_, m.ctx, m.line) = some t)
include ht

theorem departAck_frees {ev : Instr} (hst : t.st = TSt.pruning) (hk : t.keep = none) (hu : m.unit = 2047) :
    departAck ev s = freeTree (m.at_, m.ctx, m.line) (dropMsg s.ev.k s) := by
  have ht' : (dropMsg s.ev.k s).trees.get? (m.at_, m.ctx, m.line) = some t := ht
  unfold departAck
  rw [inPlace_here h hq]
  dsimp only
  rw [if_pos (by simpa using hu), hr, List.foldl_cons, List.foldl_nil, ht']
  dsimp only
  rw [if_pos (by simpa using hst)]
  unfold endTree
  rw [hk]

theorem releaseStep_eq : releaseStep s =
    if t.st = TSt.building ∧ t.req = m.val then freeTree (m.at_, m.ctx, m.line) (dropMsg s.ev.k s)
    else if t.keep.isSome = true ∧ t.kreq = m.val then
      putTree (m.at_, m.ctx, m.line) { t with keep := none, kreq := 0 } (dropMsg s.ev.k s)
    else dropMsg s.ev.k s := by
  have ht' : (dropMsg s.ev.k s).trees.get? (m.at_, m.ctx, m.line) = some t := ht
  unfold releaseStep
  rw [inPlace_here h hq]
  dsimp only
  rw [hr, List.foldl_cons, List.foldl_nil, ht']
  simp only [Bool.and_eq_true, beq_iff_eq]

end

/-- The line of the cache whose branch has left ends, and what waits for it goes on. -/
theorem departAck_ends {ev : Instr} {c : L1Line} (ht : s.trees.get? (m.at_, m.ctx, m.line) = none) (hu : m.unit ≠ 2047)
    (hc : s.l1.get? (m.unit, m.ctx, m.line) = some c) (hst : c.st = CSt.w) (ho : c.owners = []) : departAck ev s =
    Machine.settle (linePump m.unit m.ctx m.line
      (hostLeave m.ctx m.line { dropMsg s.ev.k s with l1 := s.l1.del (m.unit, m.ctx, m.line) })) := by
  have ht' : (dropMsg s.ev.k s).trees.get? (m.at_, m.ctx, m.line) = none := ht
  have hc' : (dropMsg s.ev.k s).l1.get? (m.unit, m.ctx, m.line) = some c := hc
  unfold departAck
  rw [inPlace_here h hq]
  dsimp only
  rw [if_neg (by simpa using hu), hr, List.foldl_cons, List.foldl_nil, ht']
  dsimp only
  rw [hc']
  dsimp only
  rw [if_pos (by simpa using hst), ho]
  rfl

end

theorem exec_departAck (s : State) : ∀ i ∈ [Instr.pruneack, .wback], exec i s = .next (departAck i s) := by
  simp only [List.forall_mem_cons, List.not_mem_nil, false_implies, implies_true, and_true]
  exact ⟨rfl, rfl⟩

/-- The tree class. -/
def treeEvents : List Instr := [.fwd, .inv, .graft, .invack, .prune, .wbd, .pruneack, .wback, .pathRelease]

theorem exec_treeEvent (s : State) : ∀ i ∈ treeEvents, ∃ run, exec i s = .next (inPlace i s.ev.k s run) := by
  simp only [treeEvents, List.forall_mem_cons, List.not_mem_nil, false_implies, implies_true, and_true]
  exact ⟨⟨_, rfl⟩, ⟨_, rfl⟩, ⟨_, rfl⟩, ⟨_, rfl⟩, ⟨_, rfl⟩, ⟨_, rfl⟩, ⟨_, rfl⟩, ⟨_, rfl⟩, ⟨_, rfl⟩⟩

/-- Settles O51: Fwd and Inv at a cache, Grafts and InvAcks at a router, the branches that leave, their acknowledgements, and a port without
credit. -/
theorem treeMessages : Obligations.TreeMessages := by
  unfold Obligations.TreeMessages
  refine ⟨?_, fun s m h hq => congrArg _ (graftStep_passes h hq), fun s m r t => graftAt_building, ?_, ?_, ?_, ?_, ?_, ?_⟩
  · intro s m c h hq hu hf hc
    have hc' : (dropMsg s.ev.k s).l1.get? (m.unit, m.ctx, m.line) = some c := hc
    have hfwd : exec .fwd s = .next (if m.val = 1 then onInv m.unit m false (dropMsg s.ev.k s) else onFwd m.unit m (dropMsg s.ev.k s)) :=
      congrArg _ ((fwdStep_unit h hq hu).trans (toUnit_free hf))
    have hinv : exec .inv s = .next (if m.val = 1 then onInv m.unit m false (dropMsg s.ev.k s) else onFwd m.unit m (dropMsg s.ev.k s)) :=
      congrArg _ ((invStep_unit h hq hu).trans (toUnit_free hf))
    rw [hfwd, hinv]
    refine ⟨fun hv ha => ?_, fun hv ha => ?_, fun hv ho old u hold hu => ?_⟩
    · rw [if_neg hv, onFwd_held hc' ha]
      rfl
    · rw [if_neg hv, onFwd_snoop ha]
      rfl
    · rw [if_pos hv, onInv_held hc' ho hold hu]
  · intro s m t h hq ht hst
    have e : exec .invack s = .next _ := congrArg Host.Outcome.next (invackStep_tearing h hq ht hst)
    rw [e]
    refine ⟨fun hp => congrArg _ (if_neg (by omega)), fun hp hr hk => congrArg _ ?_⟩
    rw [if_pos (by omega)]
    exact torn_root hr hk
  · intro s m t h hq ht hst hl hw
    exact congrArg Host.Outcome.next (departStep_leaves (wb := false) h hq ht hst hl hw nofun nofun rfl)
  · intro s m t u h hq ht hst hl hw ho hh hu
    exact congrArg Host.Outcome.next (departStep_leaves (wb := true) h hq ht hst hl hw (fun _ => ho) (fun _ => hh) hu)
  · intro s m t h hq hr ht
    have e : exec .pathRelease s = .next _ := congrArg Host.Outcome.next (releaseStep_eq h hq hr ht)
    rw [e]
    refine ⟨fun hst hk hu i hi => ?_, fun hst hv => congrArg _ (if_pos ⟨hst, hv⟩), fun hst hk hv => congrArg _ ?_⟩
    · rw [exec_departAck s i hi, departAck_frees h hq hr ht hst hk hu]
    · rw [if_neg fun hb => hst hb.1, if_pos ⟨hk, hv⟩]
  · intro s m c h hq hr ht hu hc hst ho i hi
    rw [exec_departAck s i hi, departAck_ends h hq hr ht hu hc hst ho]
  · intro s m h he i hi
    obtain ⟨run, e⟩ := exec_treeEvent s i hi
    exact e.trans (congrArg _ (inPlace_waits h he))

end Sys2Proof

end

section

/-! ## Answers to requests (O52) -/

namespace Sys2Proof

open Machine

/-! ### The access that an answer names -/

section
variable {s : State} {id : Nat} {a : Acc} (h : s.accs.get? id = some a)
include h

theorem modAcc_known (f : Acc → Acc) : modAcc id f s = { s with accs := s.accs.set id (f a) } := by
  unfold modAcc
  rw [h]

/-- With its bytes and its Graft, a read of a never-cached page returns its elements and fills no cache. -/
theorem fillTry_neverCached {l : List Byte} {x : Attr} (hl : a.got = some (l, false)) (hg : a.graft = true) (hx : a.attr = some x)
    (hh : x.home = 3) : fillTry id s = Machine.settle (retire id (returnSick a none l a.bad s)) := by
  unfold fillTry
  rw [h]
  dsimp only
  rw [hl, hg]
  dsimp only
  rw [hx, Option.getD_some, hh]
  rfl

theorem failAcc_load (hk : a.kind = .load) (hm : a.heldMsgs = []) : failAcc id s =
    Machine.settle (linePump a.unit a.ctx a.line (retire id (returnLoad a [] true s))) := by
  unfold failAcc
  rw [h]
  dsimp only
  rw [hk, hm]
  rfl

end

section
variable {s : State} {a : Acc} (h : s.accs.get? s.ev.k = some a)
include h

theorem atomackStep_eq : atomackStep s = Machine.settle (retire s.ev.k
    ((a.parts.zip (atomOlds a.op a.ty s.ev.v a.parts)).foldl (fun s x => putElem a.team x.1 x.2 (!a.bad.isEmpty) s) (homeDone a false s))) := by
  unfold atomackStep
  dsimp only
  rw [h]

theorem redackStep_single (hc : s.combSent.get? s.ev.k = none) :
    redackStep s = Machine.settle (retire s.ev.k (homeDone a false s)) := by
  unfold redackStep
  rw [hc]
  dsimp only
  rw [h]

theorem ordResend_known : ordResend s = request .red s.ev.k s := by
  unfold ordResend
  rw [h]

end

theorem redackStep_combined {s : State} {l : List Nat} {k : RedKey} (hl : s.combSent.get? s.ev.k = some l) (hk : sentKey s 24 s.ev.k = some k) :
    redackStep s = l.foldl (fun s x => answer .redack x 0 0 k.ctx (k.va / 128) [] s) { s with combSent := s.combSent.del s.ev.k } := by
  unfold redackStep
  rw [hl]
  dsimp only
  rw [hk, Option.getD_some]

/-! ### Attributes and placements (R108, R110, R416) -/

theorem touchD_dirty {port : Nat} {x : Xl} {s : State} (h : x.d = true) : touchD port x s = s := by
  simp [touchD, h]

/-- A translation that the port's cache holds answers at once; a write asks for no more once D is set. -/
theorem xlateAt_cached {port vd : Nat} {wr : Bool} {m : Msg} {s : State} {x : Xl} (hc : m.ctx ≠ 0)
    (hx : s.tlbFind port m.ctx (m.line * 128) = some x) (hd : wr = true → x.d = true) :
    xlateAt port vd wr m s = (s, .ready x.attr (x.phys (m.line * 128)) x.obj) := by
  have ht : (if wr then touchD port x s else s) = s := by
    split
    next hw => exact touchD_dirty (hd hw)
    next => rfl
  unfold xlateAt
  dsimp only
  rw [if_neg (by simpa using hc), hx]
  dsimp only
  rw [ht]

theorem attributeStep_cached {s : State} {a : Acc} {x : Xl} (h : s.accs.get? s.ev.k = some a) (hc : a.ctx ≠ 0)
    (hx : s.tlbFind (homeOf a.bay a.line) a.ctx (a.line * 128) = some x) :
    attributeStep s = niPump (niOf a.unit) (atcPut (niOf a.unit) a.ctx (a.line * 128) x.attr s) := by
  unfold attributeStep
  rw [h]
  dsimp only
  rw [xlateAt_cached (wr := false) (by exact hc) (by exact hx) nofun]

theorem placementStep_placed {s s1 : State} {a : Acc} {b : Nat} (h : s.accs.get? s.ev.k = some a)
    (hp : placeAt (niOf a.unit) a.ctx (a.line * 128) (s.grid a.team).vdev (some (bayOf (niOf a.unit)))
      (a.kind == AKind.pref true || a.kind == AKind.pref false) s = (s1, .ok b)) : placementStep s = niPump (niOf a.unit) s1 := by
  unfold placementStep
  rw [h]
  dsimp only
  generalize placeAt (niOf a.unit) a.ctx (a.line * 128) (s.grid a.team).vdev (some (bayOf (niOf a.unit))) = f at hp ⊢
  generalize a.kind = k at hp ⊢
  cases k with
  | pref slice =>
    have hf : f true s = (s1, .ok b) := by cases slice <;> exact hp
    dsimp only
    rw [hf]
  | _ =>
    have hf : f false s = (s1, .ok b) := hp
    dsimp only
    rw [hf]

section
variable {κ α : Type} [DecidableEq κ]

theorem Machine.Tbl.get?_append_absent {t : Tbl κ α} {k : κ} (h : t.get? k = none) (u : Tbl κ α) : Tbl.get? (t ++ u) k = u.get? k := by
  induction t with
  | nil => rfl
  | cons e t ih =>
    obtain ⟨q, v⟩ := e
    by_cases hq : q = k
    · simp [Tbl.get?, hq] at h
    · simp only [Tbl.get?, if_neg hq] at h
      simpa [Tbl.get?, hq] using ih h

end

theorem mem_of_mem_dropFirst {α : Type} {p : α → Bool} {l : List α} {a : α} (h : a ∈ dropFirst p l) : a ∈ l := by
  induction l with
  | nil => exact h
  | cons b l ih =>
    unfold dropFirst at h
    split at h
    · exact List.mem_cons_of_mem _ h
    · exact (List.mem_cons.mp h).elim (fun e => e ▸ List.mem_cons_self) fun h => List.mem_cons_of_mem _ (ih h)

theorem niPut_get? {α : Type} (t : Tbl (Nat × Nat × Nat) α) (k : Nat × Nat × Nat) (v : α) : (niPut t k v).get? k = some v := by
  have hrest : ∀ e ∈ t.filter (fun e => e.1 != k), e.1 ≠ k := by simp
  unfold niPut
  dsimp only
  rw [Tbl.get?_append_absent]
  · simp [Tbl.get?]
  · rw [Tbl.get?_eq_none_iff]
    intro hk
    obtain ⟨e, he, rfl⟩ := List.mem_map.mp hk
    split at he
    · exact hrest e he rfl
    · exact hrest e (mem_of_mem_dropFirst he) rfl

section
variable {ni ctx va vd : Nat} {bay : Option Nat} {pf : Bool} {s : State} {b : Nat} (hc : ctx ≠ 0)
include hc

theorem placeAt_known (h : s.plc.get? (ni, ctx, va / 2 ^ 16) = some b) : placeAt ni ctx va vd bay pf s = (s, .ok b) := by
  unfold placeAt
  rw [if_neg (by simpa using hc), h]

theorem placeAt_learns {s1 : State} (h : s.plc.get? (ni, ctx, va / 2 ^ 16) = none) (hp : place ctx va vd bay pf s = (s1, .ok b)) :
    placeAt ni ctx va vd bay pf s = ({ s1 with plc := niPut s1.plc (ni, ctx, va / 2 ^ 16) b }, .ok b) := by
  unfold placeAt
  rw [if_neg (by simpa using hc), h]
  dsimp only
  rw [hp]

end

/-! ### Walks and zeroed frames (R110, R120) -/

theorem walkStep_done {s s1 : State} {w : Walk} {b : Nat} {x : Xl}
    (hw : s.walks.find? (fun w => w.port == s.ev.k && w.ctx == s.ev.a && w.page == s.ev.v) = some w)
    (hb : placedAt s w.ctx (w.page * 2 ^ 16) = .bay b) (hx : walkPage w.port b w.ctx (w.page * 2 ^ 16) w.vd w.wr s = (s1, .ok x)) :
    walkStep s = { s1 with walks := s1.walks.filter (fun x => x != w) } := by
  unfold walkStep
  rw [hw]
  dsimp only
  rw [hb]
  dsimp only
  rw [hx]

/-- A walk reads the tables, not what is being zeroed. -/
theorem walkLeaf_zeroing (s : State) (z : List (Nat × Nat)) (ctx va : Nat) : walkLeaf { s with zeroing := z } ctx va = walkLeaf s ctx va := rfl

theorem zeroFrame_clears {s : State} {ctx va pte e n : Nat} (h : walkLeaf s ctx va = .ok (pte, e, n)) (hz : bit e 53 = true) :
    zeroFrame ctx va s = pteClear pte (2 ^ 53) { s with
      zeroing := s.zeroing.filter (fun z => z != (ctx, va))
      mem := memClear s.mem (pteAddr e) (2 ^ n)
      bad := s.bad.filter (fun k => k % 2 == 1 || decide (k / 2 * 32 < pteAddr e) || decide (pteAddr e + 2 ^ n ≤ k / 2 * 32))
      sbad := s.sbad.filter (fun k => k % 2 == 1 || decide (k / 2 * 32 < pteAddr e) || decide (pteAddr e + 2 ^ n ≤ k / 2 * 32)) } := by
  unfold zeroFrame
  dsimp only
  rw [walkLeaf_zeroing, h]
  dsimp only
  rw [hz]
  rfl

/-! ### Combined reductions and write-combining entries (R72, R254) -/

theorem combExpire_forwards {s : State} (h : ∃ c ∈ s.combs, c.id = s.ev.k) :
    combExpire s = forwardComb ((s.combs.find? (fun c => c.id == s.ev.k)).getD ⟨0, 0, 0, 0, 0, 0, none, 0, 0, []⟩) s := by
  have hs : (s.combs.find? (fun c => c.id == s.ev.k)).isSome = true := by simpa using h
  obtain ⟨c, hc⟩ := Option.isSome_iff_exists.mp hs
  unfold combExpire
  rw [hc, Option.getD_some]

theorem wcsEvictStep_asks {s : State} {e : Wcs} (h : s.wcs.get? (s.ev.k, s.ev.a, s.ev.v) = some e) (hd : e.draining = false) :
    wcsEvictStep s = Machine.settle (startAcc (Acc.new AKind.own s.ev.k s.ev.a s.ev.v ((e.owners.map (·.team)).headD 0) [] 0)
      { s with wcs := s.wcs.set (s.ev.k, s.ev.a, s.ev.v) { e with draining := true } }).2 := by
  unfold wcsEvictStep
  dsimp only
  rw [h]
  dsimp only
  rw [hd]
  rfl

/-- Settles O52: the answers to accesses, then placements, walks and frames, then the rows of the events that answer nothing. -/
theorem answerEvents : Obligations.AnswerEvents := by
  unfold Obligations.AnswerEvents
  refine ⟨?_, ?_, fun s a h hk hm => congrArg _ (failAcc_load h hk hm), fun s a h => congrArg _ (atomackStep_eq h),
    fun s l k hl hk => congrArg _ (redackStep_combined hl hk), fun s a hc h => congrArg _ (redackStep_single h hc),
    fun s a x h hc hx => congrArg _ (attributeStep_cached h hc hx), fun s a s1 b h hp => congrArg _ (placementStep_placed h hp),
    fun ni ctx va vd bay pf s hc => ⟨fun b => placeAt_known hc, fun s1 b h hp => ⟨_, placeAt_learns hc h hp, niPut_get? _ _ _⟩⟩,
    fun s w b s1 x hw hb hx => congrArg _ (walkStep_done hw hb hx), ?_, ?_⟩
  · intro s
    simp only [List.forall_mem_cons, List.not_mem_nil, false_implies, implies_true, and_true]
    exact ⟨rfl, rfl⟩
  · intro s a x h hg hx hh _
    refine ⟨_, rfl, congrArg Host.Outcome.next ?_⟩
    unfold dataStep
    rw [modAcc_known h]
    exact fillTry_neverCached (Tbl.get?_set_same _ _ _) rfl hg hx hh
  · rintro s pte e n _ h hz rfl
    exact congrArg Host.Outcome.next (zeroFrame_clears h hz)
  · simp only [List.forall_mem_cons, List.not_mem_nil, false_implies, implies_true, and_true, EvRow.Lands]
    refine ⟨fun s h => congrArg _ (if_pos h), fun s h => ?_, fun s h => congrArg _ (combExpire_forwards h), ?_⟩
    · obtain ⟨a, ha⟩ := Option.isSome_iff_exists.mp h
      exact congrArg Host.Outcome.next (ordResend_known ha)
    · rintro s ⟨e, h, hd⟩
      have he : s.wcs.getD (s.ev.k, s.ev.a, s.ev.v) ⟨[], [], false⟩ = e := by simp only [Tbl.getD, h]
      rw [he]
      exact congrArg Host.Outcome.next (wcsEvictStep_asks h hd)

end Sys2Proof

end

section

/-! ## Requests served at their home (O50) -/

namespace Sys2Proof

open Machine

/-! ### The turn of a request at its home (R49, R52) -/

theorem enterPort_eq {m q : Msg} {s : State} (h : enterPort m s = some q) : ∃ inq, q = { m with inq := inq } := by
  unfold enterPort at h
  split at h
  · exact ⟨m.inq, (Option.some.inj h).symm⟩
  · split at h
    · exact ⟨true, (Option.some.inj h).symm⟩
    · cases h

theorem homeTurn_eq {id : Nat} {q r : Msg} {s u : State} {b : Bool} (h : homeTurn id q s = (u, r, b)) :
    (∃ n, u = { s with nextId := n }) ∧ ∃ seq, r = { q with seq := seq } := by
  unfold homeTurn at h
  split at h
  · split at h
    · cases h
      exact ⟨⟨s.nextId, rfl⟩, q.seq, rfl⟩
    · cases h
      exact ⟨⟨_, rfl⟩, _, rfl⟩
  · cases h
    exact ⟨⟨s.nextId, rfl⟩, q.seq, rfl⟩

section
variable {s u : State} {m r : Msg}

/-- A turn at the home takes a number at most, and gives the message its place. -/
theorem HomeTurn.frame (h : HomeTurn s m u r) :
    (∃ n, u = { s with nextId := n }) ∧ ∃ inq seq, r = { m with inq := inq, seq := seq } := by
  obtain ⟨_, ⟨q, he, ht⟩, _, _⟩ := h
  obtain ⟨inq, rfl⟩ := enterPort_eq he
  obtain ⟨hu, seq, rfl⟩ := homeTurn_eq ht
  exact ⟨hu, inq, seq, rfl⟩

/-- Such a request stands in its port, at its home, where the line has no tree entry and its page is not being flipped. -/
theorem HomeTurn.inPort (h : HomeTurn s m u r) : ∃ q, enterPort m s = some q ∧ homeTurn s.ev.k q s = (u, r, true)
    ∧ (q.at_ == q.dst) = true ∧ (q.at_, q.ctx, q.line) = (r.at_, r.ctx, r.line) ∧ u.trees.get? (r.at_, r.ctx, r.line) = none
    ∧ flipping u r.ctx (r.line * 128) = false := by
  obtain ⟨⟨next, rfl⟩, _, _, rfl⟩ := h.frame
  obtain ⟨hhome, ⟨q, he, ht⟩, hstill, hno⟩ := h
  obtain ⟨inq, rfl⟩ := enterPort_eq he
  exact ⟨_, he, ht, by simpa using hhome, rfl, hno, hstill⟩

/-- Once its line is at hand, an operation at the home runs. -/
theorem homeReady_runs {ev : Instr} {wr nocache sl : Bool} {attr : Attr} {pa : Nat} (h : HomeTurn s m u r)
    (hl : opLine wr nocache r u = (u, .ready attr pa sl)) (hn : nocache = true → attr.home = 3)
    (hup : nocache = true → attr.host = true → 2 ≤ s.regs.khl.state) : homeReady ev s.ev.k wr nocache m s = (u, .run attr pa) := by
  obtain ⟨q, he, ht, hhome, _, hno, hstill⟩ := h.inPort
  have hk : u.regs.khl.state = s.regs.khl.state := by
    obtain ⟨⟨_, hu⟩, _⟩ := h.frame
    rw [hu]
  have hq : hopOn 40 q s = q := if_pos hhome
  have hpage : ¬(nocache && attr.home != 3) = true := by
    simp only [Bool.and_eq_true, bne_iff_ne, not_and, not_not]
    exact hn
  have hlink : ¬(attr.host && nocache && decide (u.regs.khl.state < 2)) = true := by
    simp only [Bool.and_eq_true, decide_eq_true_eq, not_and, hk, Nat.not_lt, and_imp]
    exact fun hh hc => hup hc hh
  unfold homeReady
  rw [he]
  dsimp only
  rw [hq, if_neg (by simpa using hhome), ht]
  dsimp only
  rw [hstill, if_neg (by simp), hl]
  dsimp only
  rw [if_neg hpage, if_neg hlink, hno]

end

/-! ### A line that the slice of its home holds (R38, R62, R63) -/

theorem hostHeld_of_write {s : State} {pa n : Nat} (wr : Bool) (h : hostHeld s pa n true = true) : hostHeld s pa n wr = true := by
  cases wr with
  | true => exact h
  | false =>
    simp only [hostHeld, List.all_eq_true, List.any_eq_true] at h ⊢
    intro hs hm
    obtain ⟨x, hx, hp⟩ := h hs hm
    exact ⟨x, hx, by simp_all⟩

/-- A state and a message for which the slice at the message's home serves the line. -/
structure SliceServes (s : State) (m : Msg) (c : SliceLn) : Prop where
  slice : s.slices.get? (m.ctx, m.line) = some c
  plain : c.obj = false
  write : c.attr.w = true
  good : s.badLine c.attr.host c.pa 128 = false
  held : c.attr.host = true → hostHeld s c.pa 128 true = true

section
variable {s u : State} {m r : Msg} {c : SliceLn}

theorem SliceServes.homeLine (hs : SliceServes s m c) (h vd : Nat) (wr : Bool) :
    homeLine h vd wr m s = (s, .ready c.attr c.pa true) := by
  obtain ⟨hc, ho, hw, _, hh⟩ := hs
  have hh' : ¬(c.attr.host && (!true || !hostHeld s c.pa 128 wr)) = true := by
    cases e : c.attr.host with
    | false => simp
    | true => simp [hostHeld_of_write wr (hh e)]
  unfold Machine.homeLine
  rw [hc]
  dsimp only
  rw [hw, if_neg (by simp), ho]
  unfold lineGate
  rw [if_neg Bool.false_ne_true]
  dsimp only
  rw [hc, Option.isSome_some, if_neg hh', if_pos rfl]

/-- The home serves a request whose root entry is its own, for ownership or as the line's only reader. -/
theorem SliceServes.serveRoot (hs : SliceServes s m c) {ev : Instr} {own : Bool} {id : Nat} {k : TreeKey} {t : Machine.Tree}
    (hf : flipping s m.ctx (m.line * 128) = false) : serveRoot ev own id m k t s =
    supply (if own then .grant else .data) id m c.attr c.pa true (putTree k { t with owned := true, host := c.attr.host } s) := by
  have hl := hs.homeLine m.at_ (vdOf s m) own
  obtain ⟨hc, ho, hw, hb, hh⟩ := hs
  have hx : (own || mayExclude s m c.attr c.pa) = true := by
    have hhost : (!c.attr.host || hostHeld s c.pa 128 true) = true := by
      cases e : c.attr.host with
      | false => rfl
      | true => exact hh e
    simp [mayExclude, hw, hhost, hc, ho]
  unfold Machine.serveRoot
  rw [hf, Bool.and_false, if_neg Bool.false_ne_true, hl]
  dsimp only
  rw [hb, if_neg Bool.false_ne_true, hx]

theorem SliceServes.opLine (hs : SliceServes s m c) (wr nocache : Bool) : opLine wr nocache m s = (s, .ready c.attr c.pa true) := by
  unfold Machine.opLine
  rw [hs.slice]
  exact hs.homeLine _ _ _

theorem Serves.atTurn (h : Serves s m c u r) : SliceServes u r c := by
  obtain ⟨⟨_, rfl⟩, _, _, rfl⟩ := h.toHomeTurn.frame
  obtain ⟨_, hc, ho, hw, _, hb, hh⟩ := h
  exact ⟨hc, ho, hw, hb, hh⟩

theorem Serves.homeReady (h : Serves s m c u r) (ev : Instr) : homeReady ev s.ev.k true false m s = (u, .run c.attr c.pa) :=
  homeReady_runs h.toHomeTurn (h.atTurn.opLine true false) nofun nofun

/-! ### Reads and requests for ownership (R61 to R63) -/

/-- The state with the new root entry of the line. -/
def withRoot (k : TreeKey) (id w : Nat) (c : SliceLn) (r : Msg) (u : State) : State :=
  putTree k { Tree.building w r.from_ true (reqHost u r) id with owned := true, host := c.attr.host }
    (putTree k (Tree.building w r.from_ true (reqHost u r) id) u)

theorem SliceServes.putTree (hs : SliceServes s m c) (k : TreeKey) (t : Machine.Tree) : SliceServes (putTree k t s) m c := by
  obtain ⟨hc, ho, hw, hb, hh⟩ := hs
  exact ⟨hc, ho, hw, hb, hh⟩

theorem roomFor_free {id r ctx line w : Nat} (h : freeWay (treeSetOf s r ctx line) = some w) : roomFor id r ctx line s = (s, some w) := by
  unfold roomFor
  dsimp only
  rw [h]

section
variable (h : Serves s m c u r) {w : Nat} (hw : freeWay (treeSetOf u r.at_ r.ctx r.line) = some w)
include h hw

theorem readGo_serves {q : Msg} (ht : homeTurn s.ev.k q s = (u, r, true)) (hhome : (q.at_ == q.dst) = true)
    (hk : (q.at_, q.ctx, q.line) = (r.at_, r.ctx, r.line)) :
    readGo 40 s.ev.k q s = supply .data s.ev.k { r with work := 1 } c.attr c.pa true (withRoot (r.at_, r.ctx, r.line) s.ev.k w c r u) := by
  obtain ⟨_, _, _, _, _, hno, hstill⟩ := h.inPort
  unfold readGo
  dsimp only
  rw [if_pos hhome, ht]
  dsimp only
  rw [if_neg (by simp), hk, hno]
  dsimp only
  rw [roomFor_free hw]
  dsimp only
  rw [if_pos hhome, hhome]
  obtain ⟨hc, ho, hw, hb, hh⟩ := h.atTurn
  have hs : SliceServes u { r with work := 1 } c := ⟨hc, ho, hw, hb, hh⟩
  exact (hs.putTree _ _).serveRoot hstill

variable (hm : s.msgs.get? s.ev.k = some m)
include hm

theorem ownStep_serves (ev : Instr) :
    ownStep ev s = supply .grant s.ev.k r c.attr c.pa true (withRoot (r.at_, r.ctx, r.line) s.ev.k w c r u) := by
  obtain ⟨q, he, ht, hhome, hk, hno, hstill⟩ := h.inPort
  unfold ownStep
  rw [hm]
  dsimp only
  rw [he]
  dsimp only
  unfold ownGo
  dsimp only
  rw [if_pos hhome, ht]
  dsimp only
  rw [if_neg (by simp), hk, hno]
  dsimp only
  rw [roomFor_free hw]
  dsimp only
  rw [if_pos hhome, hhome]
  exact (h.atTurn.putTree _ _).serveRoot hstill

theorem rdsStep_serves (hp : ∀ a, s.accs.get? m.acc = some a → a.kind ≠ AKind.pref true) :
    rdsStep s = supply .data s.ev.k { r with work := 1 } c.attr c.pa true (withRoot (r.at_, r.ctx, r.line) s.ev.k w c r u) := by
  obtain ⟨q, he, ht, hhome, hk, _⟩ := h.inPort
  have hgo := readGo_serves h hw ht hhome hk
  obtain ⟨inq, rfl⟩ := enterPort_eq he
  unfold rdsStep
  rw [hm]
  dsimp only
  rw [he]
  cases ha : s.accs.get? m.acc with
  | none => exact hgo
  | some a => exact (if_neg (by simpa using hp a ha)).trans hgo

end

/-! ### Operations on a line that the home's slice holds (R64, R73, R220) -/

theorem atomStep_serves (hm : s.msgs.get? s.ev.k = some m) (h : Serves s m c u r) {a : Acc} (ha : s.accs.get? m.acc = some a) {off n : Nat}
    (ho : off = (a.parts.map (·.off)).headD 0) (hn : n = (a.parts.map (·.n)).headD 4) :
    atomStep s = answer .atomack m.acc (s.num c.attr.host (c.pa + off) n) 0 m.ctx m.line []
      ((dropMsg s.ev.k u).cwr c.attr.host (c.pa + off) (leBytes n (atomNew a.op a.ty (s.num c.attr.host (c.pa + off) n) a.parts))) := by
  have hr := h.homeReady .atom
  have hgood := h.atTurn.good
  have hcached : ¬(c.attr.host && c.attr.home == 3) = true := by simp [h.cached]
  obtain ⟨⟨next, rfl⟩, _, _, rfl⟩ := h.frame
  subst ho hn
  unfold atomStep
  rw [hm]
  dsimp only
  rw [hr]
  dsimp only
  rw [ha]
  dsimp only
  rw [if_neg hcached, hgood, if_neg Bool.false_ne_true]
  rfl

theorem redCombines_of {id : Nat} {a : Acc} (ha : s.accs.get? id = some a) (hc : ∀ x, a.attr = some x → x.home ≠ 3) :
    redCombines s id = true := by
  unfold redCombines
  rw [ha]
  cases hx : a.attr with
  | none => simp [hx]
  | some x => simp [hx, hc x hx]

/-- A contribution whose mark agrees with the page changes its element, is acknowledged and is counted. -/
theorem applyRed_serves (h : Serves s m c u r) {ev : Instr} {k : RedKey} (hk : ev = .redp ∨ redCombines s m.acc = true) {pa n : Nat}
    (hpa : pa = c.pa + k.va % 128) (hn : n = tyBits k.ty / 8) :
    applyRed ev s.ev.k m k s = countWord k.word m.cnt false m.ctx m.line (answer .redack m.acc 0 0 m.ctx m.line []
      ((dropMsg s.ev.k u).cwr c.attr.host pa (leBytes n (foldStep k.op k.ty 0 0 (s.num c.attr.host pa n) m.val)))) := by
  have hr := h.homeReady ev
  have hgood := h.atTurn.good
  have hcached := h.cached
  obtain ⟨⟨next, rfl⟩, _, _, rfl⟩ := h.frame
  subst hpa hn
  have hmark : (ev == .redp || redCombines s m.acc) = true := by simpa using hk
  have hruns : ¬(c.attr.host && c.attr.home == 3 || (ev == .redp || redCombines s m.acc) != (c.attr.home != 3)
      || State.badLine { s with nextId := next } c.attr.host c.pa 128) = true := by
    rw [hmark, hgood]
    simp [hcached]
  unfold applyRed
  rw [hr]
  exact if_neg hruns

theorem redStep_serves {q : Msg} {a : Acc} (hq : s.msgs.get? s.ev.k = some q) (ha : s.accs.get? q.acc = some a)
    (hm : m = { q with val := redVal a.op a.ty a.parts, cnt := a.parts.length }) (h : Serves s m c u r) (ho : a.otot = 0)
    (hc : ∀ x, a.attr = some x → x.home ≠ 3) (hoff : combOn s = false) {pa n : Nat} (hpa : pa = c.pa + (redKey a).va % 128)
    (hn : n = tyBits (redKey a).ty / 8) :
    redStep s = countWord (redKey a).word a.parts.length false m.ctx m.line (answer .redack m.acc 0 0 m.ctx m.line []
      ((dropMsg s.ev.k u).cwr c.attr.host pa
        (leBytes n (foldStep (redKey a).op (redKey a).ty 0 0 (s.num c.attr.host pa n) m.val)))) := by
  have hmark : redCombines s m.acc = true := redCombines_of (by rw [hm]; exact ha) hc
  have hgo := applyRed_serves h (ev := .red) (.inr hmark) hpa hn
  subst hm
  unfold redStep
  rw [hq]
  dsimp only
  rw [ha]
  dsimp only
  rw [if_neg (by simpa using ho), hoff, Bool.false_and, if_neg Bool.false_ne_true]
  exact hgo

theorem redpStep_serves (hm : s.msgs.get? s.ev.k = some m) (h : Serves s m c u r) {k : RedKey} (hk : sentKey s 24 m.acc = some k)
    (hoff : combOn s = false) {pa n : Nat} (hpa : pa = c.pa + k.va % 128) (hn : n = tyBits k.ty / 8) :
    redpStep s = countWord k.word m.cnt false m.ctx m.line (answer .redack m.acc 0 0 m.ctx m.line []
      ((dropMsg s.ev.k u).cwr c.attr.host pa (leBytes n (foldStep k.op k.ty 0 0 (s.num c.attr.host pa n) m.val)))) := by
  unfold redpStep
  rw [hm]
  dsimp only
  rw [hk]
  dsimp only
  rw [hoff, if_neg Bool.false_ne_true]
  exact applyRed_serves h (.inl rfl) hpa hn

end

/-! ### Never-cached pages (R64, R113) -/

theorem askHost_ev (op pa n : Nat) (s : State) : (askHost op pa n s).ev = s.ev := ((Purged.refl s).foldl fun _ _ h => h.tell).ev

section
variable {s u : State} {m r : Msg} {x : Xl}

theorem NeverCached.homeReady (h : NeverCached s m x u r) (ev : Instr) (wr : Bool) :
    homeReady ev s.ev.k wr true m s = (u, .run x.attr (x.phys (m.line * 128))) := by
  refine homeReady_runs (sl := false) h.toHomeTurn ?_ (fun _ => h.never) fun _ => h.up
  obtain ⟨⟨next, rfl⟩, _, _, rfl⟩ := h.frame
  obtain ⟨_, hs, hc, hx, h3, hw, ho, hd, _, _⟩ := h
  unfold opLine
  dsimp only
  rw [hs]
  dsimp only
  rw [xlateAt_cached (by exact hc) (by exact hx) fun _ => hd]
  dsimp only
  rw [if_neg (by simp [hw]), if_neg (by simp [h3]), ho]
  rfl

variable (hm : s.msgs.get? s.ev.k = some m) (h : NeverCached s m x u r)
include hm h

theorem rduStep_reads {pa : Nat} (hpa : pa = x.phys (m.line * 128)) {t : State} (ht : t = (if x.attr.host = true then askHost 2 pa 128 u else u)) :
    rduStep s = answer .data m.acc pa 0 m.ctx m.line (lineBytes t x.attr.host pa)
      (modAcc m.acc (fun a => { a with attr := some x.attr, graft := true }) (dropMsg s.ev.k t)) := by
  have hr := h.homeReady .rdu false
  have hgood := h.good
  obtain ⟨⟨next, rfl⟩, _, _, rfl⟩ := h.frame
  have hev : t.ev = s.ev := by
    rw [ht]
    split
    · exact askHost_ev _ _ _ _
    · rfl
  subst hpa
  unfold rduStep
  rw [hm]
  dsimp only
  rw [hr]
  refine (if_neg (Bool.eq_false_iff.mp hgood)).trans ?_
  rw [← ht, hev]

theorem wruStep_writes {a : Acc} (ha : s.accs.get? m.acc = some a) {pa : Nat} (hpa : pa = x.phys (m.line * 128))
    (hbad : storeBadMerge s x.attr.host pa a = false) {v t : State} (hv : v = storeHeal x.attr.host pa a (dropMsg s.ev.k u))
    (ht : t = disturb (if x.attr.host then .host else .dev) ((storeOffs a).map (pa + ·))
      (dirtySlices x.attr.host pa 128 (v.wr x.attr.host pa (storeBytes a (lineBytes v x.attr.host pa))))) :
    wruStep s =
      if x.attr.host = true then (askHost 3 pa 128 t).push .itomwrCompletion (.ofK m.acc) else answer .wrack m.acc 0 0 m.ctx m.line [] t := by
  have hr := h.homeReady .wru true
  obtain ⟨⟨next, rfl⟩, _, _, rfl⟩ := h.frame
  subst hpa hv ht
  unfold wruStep
  rw [hm]
  dsimp only
  rw [hr]
  dsimp only
  rw [ha]
  exact if_neg (Bool.eq_false_iff.mp hbad)

end

/-- Settles O50: a new root's requests, the never-cached ones, then the operations that the home's slice carries out. -/
theorem requestMessages : Obligations.RequestMessages := by
  unfold Obligations.RequestMessages
  refine ⟨?_, fun s m x u r pa t hm h hpa ht => congrArg _ (rduStep_reads hm h hpa ht), ?_,
    fun s m c u r a off n hm h ha ho hn => congrArg _ (atomStep_serves hm h ha ho hn), ?_,
    fun s m c u r k pa n hm h hk hoff hpa hn => ?_⟩
  · rintro s m c u r w _ _ hm h hw rfl rfl
    exact ⟨congrArg Host.Outcome.next (ownStep_serves h hw hm .rdx), congrArg Host.Outcome.next (ownStep_serves h hw hm .upg),
      fun hp => congrArg Host.Outcome.next (rdsStep_serves h hw hm hp)⟩
  · intro s m x u r a pa v t hm h ha hpa hbad hv ht
    have e : exec .wru s = .next _ := congrArg Host.Outcome.next (wruStep_writes hm h ha hpa hbad hv ht)
    rw [e]
    exact ⟨fun hh => congrArg _ (if_neg (by simp [hh])), fun hh => congrArg _ (if_pos hh)⟩
  · rintro s m c u r a _ pa n q hq ha hm h ho hc hoff rfl hpa hn
    exact congrArg Host.Outcome.next (redStep_serves hq ha hm h ho hc hoff hpa hn)
  · exact congrArg Host.Outcome.next (redpStep_serves hm h hk hoff hpa hn)

end Sys2Proof

end

section

/-! ## An uncorrectable tree-cache error (O46)

What it does after its flag is set is log entries, fault records in device memory of context 0 or host memory, and graphs that end: none of it
writes the registers of the part. -/

namespace Sys2Proof

open Machine

/-! ### Logs and memory controllers (R76, R77, R415) -/

section
variable (s : State) (host : Bool) (a n : Nat) (l : List Byte)

@[simp] theorem logErr_regs (b kind ctx router : Nat) (ag : Agent) (va : Nat) : (logErr b kind ctx router ag va s).regs = s.regs := rfl

@[simp] theorem logXlate_regs (port b kind ctx router : Nat) (ag : Agent) (va page : Nat) :
    (logXlate port b kind ctx router ag va page s).regs = s.regs := by
  unfold logXlate
  dsimp only
  split <;> rfl

@[simp] theorem logNi_regs (w : Who) (kind ctx va : Nat) : (logNi w kind ctx va s).regs = s.regs := by
  unfold logNi
  dsimp only
  split <;> simp

@[simp] theorem logWho_regs (w : Who) (kind ctx home va : Nat) : (logWho w kind ctx home va s).regs = s.regs := by
  unfold logWho
  dsimp only
  split
  · simp
  · split <;> simp

@[simp] theorem dirtySlices_regs : (dirtySlices host a n s).regs = s.regs := by
  unfold dirtySlices
  split <;> rfl

@[simp] theorem Machine.State.wr_regs : (s.wr host a l).regs = s.regs := by
  unfold State.wr
  dsimp only
  split <;> rfl

@[simp] theorem Machine.State.heal_regs (ks : List Nat) : (s.heal ks).regs = s.regs := by
  unfold State.heal
  split <;> rfl

@[simp] theorem Machine.State.ctlWr_regs : (s.ctlWr host a l).regs = s.regs := by simp [State.ctlWr]

@[simp] theorem dirtySectors_regs : (dirtySectors a n s).regs = s.regs := rfl

end

/-! ### Context 0 and host memory, as the command processor reaches them (R85, R105) -/

section
variable (w : Who) (va n : Nat) (wr fetch : Bool) (l : List Byte) (s : State)

/-- Context 0 is not translated: a slice or the address itself answers. -/
theorem homeXl_zero (home vd : Nat) : ∃ x, homeXl home 0 va vd wr s = (s, .ok x) := by
  unfold homeXl
  split
  · exact ⟨_, rfl⟩
  · exact ⟨_, rfl⟩

theorem findLine_zero_regs : (findLine w 0 va wr fetch s).1.regs = s.regs := by
  obtain ⟨x, hx⟩ := homeXl_zero va wr s (bits va 39 37) w.vd
  have hp : placeAt w.ag.ni 0 va w.vd w.bay false s = (s, .ok (bits va 39 37)) := rfl
  unfold findLine
  split
  · simp
  · rw [hp]
    dsimp only
    rw [hx]
    dsimp only
    split
    · simp
    · rfl

theorem locate_zero_regs : (locate w 0 va wr fetch s).1.regs = s.regs := by
  rw [← findLine_zero_regs w va wr fetch s]
  unfold locate
  split
  next h => rw [h]
  next h => rw [h]; rfl

theorem rdAt_regs (ctx : Nat) (x : Xl) : (rdAt w ctx va n x s).1.regs = s.regs := by
  unfold rdAt
  dsimp only
  split
  · simp
  · rfl

theorem rdLine_zero_regs : (rdLine w 0 va n fetch s).1.regs = s.regs := by
  rw [← locate_zero_regs w va false fetch s]
  unfold rdLine
  split
  next h => rw [h]
  next h => rw [h, rdAt_regs]

theorem wrLine_zero_regs : (wrLine w 0 va l s).1.regs = s.regs := by
  rw [← locate_zero_regs w va true false s]
  unfold wrLine
  split
  next h => rw [h]
  next h =>
    rw [h]
    dsimp only
    split
    · simp
    · split <;> simp

theorem rdRange_zero_regs : (rdRange w 0 va n s).1.regs = s.regs := by
  unfold rdRange
  refine List.foldlRecOn (motive := fun p : State × _ => p.1.regs = s.regs) _ _ rfl fun p hp q _ => ?_
  obtain ⟨t, e⟩ := p
  cases e with
  | error k => exact hp
  | ok m =>
    have ht := (rdLine_zero_regs w q.1 q.2 false t).trans hp
    dsimp only
    split
    next h => rwa [h] at ht
    next h => rwa [h] at ht

theorem wrRange_zero_regs : (wrRange w 0 va l s).1.regs = s.regs := by
  unfold wrRange
  refine List.foldlRecOn (motive := fun p : State × _ => p.1.regs = s.regs) _ _ rfl fun p hp q _ => ?_
  exact (wrLine_zero_regs w q.1 _ p.1).trans hp

@[simp] theorem cpRead_regs : (cpRead va n s).1.regs = s.regs := by
  unfold cpRead
  split
  · exact rdRange_zero_regs _ _ _ _
  · split
    · simp
    · split
      · rfl
      · split
        · simp
        · rfl

@[simp] theorem cpWrite_regs : (cpWrite va l s).1.regs = s.regs := by
  unfold cpWrite
  split
  · exact wrRange_zero_regs _ _ _ _
  · split
    · simp
    · split
      · rfl
      · split <;> simp

end

/-! ### Fault records and graphs that end (R96, R98, R99) -/

section
variable (ctx : Nat) (s : State)

theorem Machine.State.modCtx_regs (f : CtxRec → CtxRec) : (s.modCtx ctx f).regs = s.regs := by
  unfold State.modCtx
  split <;> rfl

theorem armFaultVec_regs : (armFaultVec ctx s).regs = s.regs := by
  unfold armFaultVec
  split
  · rfl
  · split
    · rfl
    · exact State.modCtx_regs _ _ _

theorem appendFault_regs (f : FaultRec) : (appendFault ctx f s).regs = s.regs := by
  unfold appendFault
  split
  · rfl
  next r _ =>
    split
    · rfl
    · have hr := cpRead_regs r.faultring 12 s
      split
      next h => rwa [h] at hr
      next h =>
        rw [h] at hr
        dsimp only
        split
        · rw [cpWrite_regs, hr]
        · rw [armFaultVec_regs, cpWrite_regs, cpWrite_regs, hr]

theorem foldl_regs {α : Type} {f : State → α → State} (hf : ∀ t x, (f t x).regs = t.regs) (l : List α) : (l.foldl f s).regs = s.regs :=
  List.foldlRecOn (motive := fun t : State => t.regs = s.regs) _ _ rfl fun t ht x _ => (hf t x).trans ht

theorem endGraphs_regs (code : Nat) : (endGraphs ctx code s).regs = s.regs := by
  unfold endGraphs
  refine (foldl_regs _ ?_ _).trans ((foldl_regs _ ?_ _).trans (foldl_regs s ?_ _))
  all_goals exact fun _ _ => rfl

end

/-- Every context's graphs end after the flag is set, and it stays set. -/
theorem fatalStep_fatal (s : State) : (fatalStep s).regs.fatal = true := by
  unfold fatalStep
  refine List.foldlRecOn (motive := fun t : State => t.regs.fatal = true) _ _ rfl fun t ht e _ => ?_
  rw [appendFault_regs, endGraphs_regs]
  exact ht

theorem Machine.State.accepts_fatal {s : State} (h : s.regs.fatal = true) : s.accepts = false := by simp [State.accepts, h]

/-- Settles O46: the registers that show the flag are not written again. -/
theorem treeCacheErrorIsFatal : Obligations.TreeCacheErrorIsFatal := by
  unfold Obligations.TreeCacheErrorIsFatal
  exact fun s => ⟨fatalStep s, rfl, fatalStep_fatal s, State.accepts_fatal (fatalStep_fatal s)⟩

end Sys2Proof

end

section

/-! ## Words that are no instruction, and traps that nothing resolves (O8)

A trap either enters the team's handler, or leaves what `killGrid` leaves and one failure: two equations of `enterTrap`, from which the
clauses are read off. -/

namespace Sys2Proof

open Machine

/-! ### Traps that a handler takes (R194) -/

section
variable {t g scope pc cd e : Nat} {set : List Nat} {tr : Trap} {s : State}

/-- The frame that a trap leaves. -/
def frameOf (scope pc cd : Nat) (tr : Trap) : TrapFrame :=
  ⟨true, tr.kind, scope, tr.group, cd, tr.info % 2 ^ 32, pc, tr.va % 2 ^ 57, lanesOf tr.lanes⟩

theorem enterTrap_handled (ha : (s.grp t g).trap.active = false) (he : s.handlerEntry t = some e) :
    enterTrap t g set scope pc cd tr s =
      (s.modGrp t g (fun G => { G with trap := frameOf scope pc cd tr, handler := set })).modThrs t g set (fun th =>
        { th with pc := e, wait := .none, latPipe := none, storeErr := if tr.kind == 14 then [] else th.storeErr }) := by
  unfold enterTrap
  dsimp only
  rw [ha, he]
  rfl

theorem enterTrap_unresolved (h : (s.grp t g).trap.active = true ∨ s.handlerEntry t = none) :
    enterTrap t g set scope pc cd tr s = unresolved t (frameOf scope pc cd tr) s := by
  unfold enterTrap
  dsimp only
  split
  next => rfl
  next ha => rw [h.resolve_left ha]; rfl

theorem enterTrap_frame (ha : (s.grp t g).trap.active = false) (he : s.handlerEntry t = some e) :
    ((enterTrap t g set scope pc cd tr s).grp t g).trap = frameOf scope pc cd tr := by
  rw [enterTrap_handled ha he, State.grp_modThrs, State.grp_modGrp_same]

theorem enterTrap_pc (ha : (s.grp t g).trap.active = false) (he : s.handlerEntry t = some e) (hn : set.Nodup) {l : Nat} (hl : l ∈ set) :
    ((enterTrap t g set scope pc cd tr s).thr (t, g, l)).pc = e := by
  rw [enterTrap_handled ha he, State.thr_modThrs_mem _ _ _ _ _ hn hl]

theorem enterTrap_memories (ha : (s.grp t g).trap.active = false) (he : s.handlerEntry t = some e) :
    (enterTrap t g set scope pc cd tr s).mem = s.mem ∧ (enterTrap t g set scope pc cd tr s).hmem = s.hmem := by
  rw [enterTrap_handled ha he, State.modThrs_eq]
  exact ⟨rfl, rfl⟩

end

/-! ### Words that are no instruction (R272, R290) -/

section
variable {w : Nat} {s : State}

theorem runWord_undecoded (h : ∀ i, decodeWord w ≠ .ok i) : runWord w s = .next (illegalWord w s) := by
  unfold runWord
  split
  next i hi => exact absurd hi (h i)
  next => rfl

/-- Once the header's wait is over, a thread that is not ejected takes illegal_instruction. -/
theorem illegalWord_traps (hs : (s.thr (s.cur.team, s.cur.group, s.cur.set.headD 0)).span = none)
    (hw : ∀ k, k < 6 → bit (hdrOf w).waitm k = true → s.counter s.cur.team s.cur.group k = 0) :
    illegalWord w s = enterTrap s.cur.team s.cur.group s.cur.set (hdrOf w).scope (s.thr (s.cur.team, s.cur.group, s.cur.set.headD 0)).pc
      (s.thr (s.cur.team, s.cur.group, s.cur.set.headD 0)).cd ⟨2, bits w 95 80, 0, s.cur.set, s.cur.group⟩ s := by
  have hf : (upFrom 0 6).any (fun k => bit (hdrOf w).waitm k && s.counter s.cur.team s.cur.group k != 0) = false := by
    simp only [List.any_eq_false, mem_upFrom, Bool.and_eq_true, bne_iff_ne, not_and, not_not]
    exact fun k hk => hw k (by omega)
  unfold illegalWord
  dsimp only
  rw [hs, hf]
  rfl

end

/-! ### The end of a grid (R96) -/

theorem Machine.Tbl.mem_of_get? {κ α : Type} [DecidableEq κ] {t : Tbl κ α} {k : κ} {v : α} (h : t.get? k = some v) : (k, v) ∈ t := by
  induction t with
  | nil => cases h
  | cons e t ih =>
    obtain ⟨q, u⟩ := e
    by_cases hq : q = k
    · rw [Tbl.get?, if_pos hq, Option.some.injEq] at h
      rw [hq, h]
      exact List.mem_cons_self
    · rw [Tbl.get?, if_neg hq] at h
      exact List.mem_cons_of_mem _ (ih h)

/-- Changing values, each as its key says, changes no key. -/
theorem Machine.Tbl.get?_map {κ α : Type} [DecidableEq κ] (f : κ → α → α) (t : Tbl κ α) (k : κ) :
    Tbl.get? (t.map (fun e => (e.1, f e.1 e.2))) k = (t.get? k).map (f k) := by
  induction t with
  | nil => rfl
  | cons e t ih =>
    obtain ⟨q, u⟩ := e
    by_cases hq : q = k
    · simp [Tbl.get?, hq]
    · simpa [Tbl.get?, hq] using ih

section
variable {gr t : Nat} {f : TrapFrame} {s : State}

/-- The teams of a grid. -/
def gridTeams (s : State) (gr : Nat) : List Nat := (s.teams.filter (fun e => e.2.grid == gr)).map Prod.fst

/-- A thread after its team, if it is among some, has been killed. -/
def stoppedIn (ts : List Nat) (k : TKey) (th : Thread) : Thread :=
  if ts.contains k.1 then { th with live := false, wait := .none, span := .none } else th

/-- A grid after that of a number has been ended. -/
def endedAt (gr k : Nat) (G : Grid) : Grid := if k = gr then { G with ended := true } else G

theorem killGrid_threads : (s.killGrid gr).threads = s.threads.map (fun e => (e.1, stoppedIn (gridTeams s gr) e.1 e.2)) := by
  refine List.map_congr_left fun e _ => ?_
  unfold stoppedIn gridTeams
  split <;> rfl

theorem killGrid_grids : (s.killGrid gr).grids = s.grids.map (fun e => (e.1, endedAt gr e.1 e.2)) := by
  refine List.map_congr_left fun e _ => ?_
  unfold endedAt
  by_cases h : e.1 = gr
  · simp [h]
  · simp [h]

theorem mem_gridTeams (h : (s.teams.get? t).isSome = true) : t ∈ gridTeams s (s.team t).grid := by
  obtain ⟨T, hT⟩ := Option.isSome_iff_exists.mp h
  have he : s.team t = T := by rw [State.team, Tbl.getD, hT]
  exact List.mem_map.mpr ⟨(t, T), List.mem_filter.mpr ⟨Tbl.mem_of_get? hT, by simp [he]⟩, rfl⟩

theorem killGrid_live (h : t ∈ gridTeams s gr) (g l : Nat) : ((s.killGrid gr).thr (t, g, l)).live = false := by
  rw [State.thr, killGrid_threads, Tbl.getD, Tbl.get?_map]
  cases s.threads.get? (t, g, l) with
  | none => rfl
  | some th => simp [stoppedIn, h]

theorem killGrid_ended (h : (s.grids.get? (s.team t).grid).isSome = true) : ((s.killGrid (s.team t).grid).grid t).ended = true := by
  obtain ⟨G, hG⟩ := Option.isSome_iff_exists.mp h
  have ht : (s.killGrid (s.team t).grid).team t = s.team t := rfl
  rw [State.grid, ht, killGrid_grids, Tbl.getD, Tbl.get?_map, hG]
  simp [endedAt]

theorem foldl_push_eq (e : Instr) (a : Nat → EvArg) (l : List Nat) (s : State) :
    ∃ ag, l.foldl (fun s k => s.push e (a k)) s = { s with agenda := ag } := by
  refine List.foldlRecOn (motive := fun u : State => ∃ ag, u = { s with agenda := ag }) _ _ ⟨_, rfl⟩ ?_
  rintro _ ⟨ag, rfl⟩ k _
  exact ⟨_, rfl⟩

/-- The grid is killed and its failure kept; then only events are added, for its teams' exits. -/
theorem unresolved_eq (h : (s.grid t).ended = false) : ∃ ag, unresolved t f s =
    { s.killGrid (s.team t).grid with failed := s.failed ++ [⟨(s.team t).grid, 2, (s.team t).lin, f⟩], agenda := ag } := by
  unfold unresolved
  dsimp only
  rw [h]
  exact foldl_push_eq _ _ _ _

end

/-- Settles O8: the word's trap is taken by the handler, and what a trap without one leaves is what `killGrid` does and the failure. -/
theorem undecodedWordsAndUnresolvedTraps : Obligations.UndecodedWordsAndUnresolvedTraps := by
  unfold Obligations.UndecodedWordsAndUnresolvedTraps
  constructor
  · intro s w e hw hs hc ha he hn
    refine ⟨illegalWord w s, runWord_undecoded hw, ?_⟩
    rw [illegalWord_traps hs hc, enterTrap_frame ha he]
    exact ⟨rfl, Nat.mod_eq_of_lt ((Nat.mod_lt _ (Nat.two_pow_pos _)).trans (by decide)), rfl, rfl, rfl, fun l hl => enterTrap_pc ha he hn hl, enterTrap_memories ha he⟩
  · intro a g set scope pc cd tr s h hend hg ht
    obtain ⟨ag, e⟩ := unresolved_eq (f := frameOf scope pc cd tr) hend
    rw [enterTrap_unresolved h, e]
    exact ⟨rfl, killGrid_ended hg, killGrid_live (mem_gridTeams ht), rfl⟩

end Sys2Proof

end

section

/-! ## Which graphs are accepted (O56)

Taking away, round after round, the nodes that no remaining node names ends with no node exactly when the links can be numbered upwards: a
node with the least number of those that remain is named by none of them. -/

namespace Sys2Proof

open Machine

/-! ### Links without a cycle (R91) -/

section
variable {succ : Nat → List Nat} {l : List Nat} {rank : Nat → Nat} {f : Nat}

/-- The links between nodes of a list go up in a numbering. -/
def LinksUp (succ : Nat → List Nat) (l : List Nat) (rank : Nat → Nat) : Prop := ∀ i ∈ l, ∀ k ∈ succ i, k ∈ l → rank i < rank k

/-- The nodes that one round keeps: those that a node of the list names. -/
def namedIn (succ : Nat → List Nat) (l : List Nat) : List Nat := l.filter (fun i => (l.flatMap succ).contains i)

theorem mem_namedIn {k : Nat} : k ∈ namedIn succ l ↔ k ∈ l ∧ ∃ i ∈ l, k ∈ succ i := by simp [namedIn]

theorem acyclic_zero : acyclic succ 0 l = l.isEmpty := rfl

theorem acyclic_succ : acyclic succ (f + 1) l = if (namedIn succ l).length = l.length then l.isEmpty else acyclic succ f (namedIn succ l) := by
  by_cases h : (namedIn succ l).length = l.length
  · rw [if_pos h]
    exact if_pos (beq_iff_eq.mpr h)
  · rw [if_neg h]
    exact if_neg (mt beq_iff_eq.mp h)

/-- A numbering of the nodes that a round keeps, one higher: those that it takes away stand below it. -/
def rankAbove (kept : List Nat) (rank : Nat → Nat) (i : Nat) : Nat := if i ∈ kept then rank i + 1 else 0

theorem LinksUp.above (h : LinksUp succ (namedIn succ l) rank) : LinksUp succ l (rankAbove (namedIn succ l) rank) := by
  intro i hi k hk hkl
  have hk' : k ∈ namedIn succ l := mem_namedIn.mpr ⟨hkl, i, hi, hk⟩
  unfold rankAbove
  rw [if_pos hk']
  split
  next hi' => exact Nat.succ_lt_succ (h i hi' k hk hk')
  next => exact Nat.succ_pos _

theorem exists_linksUp_of_acyclic (h : acyclic succ f l = true) : ∃ rank, LinksUp succ l rank := by
  induction f generalizing l with
  | zero =>
    rw [acyclic_zero, List.isEmpty_iff] at h
    exact ⟨id, by simp [LinksUp, h]⟩
  | succ f ih =>
    rw [acyclic_succ] at h
    split at h
    next =>
      rw [List.isEmpty_iff] at h
      exact ⟨id, by simp [LinksUp, h]⟩
    next =>
      obtain ⟨rank, hr⟩ := ih h
      exact ⟨_, hr.above⟩

/-- A node with the least number is named by none. -/
theorem LinksUp.exists_unnamed (h : LinksUp succ l rank) (hl : l ≠ []) : ∃ i ∈ l, i ∉ namedIn succ l := by
  obtain ⟨i, hi, hmin⟩ := l.toFinset.exists_min_image rank (List.toFinset_nonempty_iff l |>.mpr hl)
  rw [List.mem_toFinset] at hi
  refine ⟨i, hi, fun hn => ?_⟩
  obtain ⟨-, j, hj, hji⟩ := mem_namedIn.mp hn
  exact absurd (h j hj i hji hi) (Nat.not_lt.mpr (hmin j (List.mem_toFinset.mpr hj)))

theorem acyclic_of_linksUp (h : LinksUp succ l rank) (hf : l.length ≤ f) : acyclic succ f l = true := by
  induction f generalizing l with
  | zero => rwa [acyclic_zero, List.isEmpty_iff, ← List.length_eq_zero_iff, ← Nat.le_zero]
  | succ f ih =>
    rw [acyclic_succ]
    split
    next hall =>
      by_contra hne
      obtain ⟨i, hi, hn⟩ := h.exists_unnamed (by simpa using hne)
      exact hn (List.mem_filter.mpr ⟨hi, List.length_filter_eq_length_iff.mp hall i hi⟩)
    next hsome =>
      have hlt : (namedIn succ l).length < l.length := Nat.lt_of_le_of_ne (List.length_filter_le _ _) hsome
      refine ih (fun i hi k hk hkl => h i ?_ k hk ?_) (by omega)
      · exact (mem_namedIn.mp hi).1
      · exact (mem_namedIn.mp hkl).1

theorem acyclic_iff (hf : l.length ≤ f) : acyclic succ f l = true ↔ ∃ rank, LinksUp succ l rank :=
  ⟨exists_linksUp_of_acyclic, fun ⟨_, h⟩ => acyclic_of_linksUp h hf⟩

end

/-! ### Valid graphs (R90, R91) -/

theorem upFrom_eq_range' (lo n : Nat) : upFrom lo n = List.range' lo n := by
  induction n generalizing lo with
  | zero => rfl
  | succ n ih => rw [upFrom, ih, List.range'_succ]

theorem mem_zip_upFrom {α : Type} {l : List α} {i : Nat} {a : α} : (i, a) ∈ (upFrom 0 l.length).zip l ↔ l[i]? = some a := by
  rw [upFrom_eq_range', ← List.zip_swap, ← List.zipIdx_eq_zip_range', ← List.mk_mem_zipIdx_iff_getElem?]
  exact List.mem_map_of_injective Prod.swap_injective (a := (a, i))

theorem all_zip_upFrom {α : Type} {l : List α} {p : Nat × α → Bool} :
    ((upFrom 0 l.length).zip l).all p = true ↔ ∀ i a, l[i]? = some a → p (i, a) = true := by
  simp only [List.all_eq_true, Prod.forall, mem_zip_upFrom]

section
variable {l : List NodeSt}

/-- The links of a node by its place. -/
def linksOf (l : List NodeSt) (i : Nat) : List Nat := (l.getD i .zero).succ

theorem linksOf_of_getElem? {i : Nat} {N : NodeSt} (h : l[i]? = some N) : linksOf l i = N.succ := by simp [linksOf, h]

/-- The links of a graph that stay inside it go up among the places of its nodes exactly when each node's links go up. -/
theorem linksUp_iff {rank : Nat → Nat} (hin : ∀ N ∈ l, ∀ k ∈ N.succ, k < l.length) :
    LinksUp (linksOf l) (upFrom 0 l.length) rank ↔ ∀ i N, l[i]? = some N → ∀ k ∈ N.succ, rank i < rank k := by
  constructor
  · intro h i N hi k hk
    have hil : i < l.length := (List.getElem?_eq_some_iff.mp hi).1
    exact h i (mem_upFrom.mpr (by omega)) k (by rwa [linksOf_of_getElem? hi])
      (mem_upFrom.mpr ⟨Nat.zero_le _, by simpa using hin N (List.mem_of_getElem? hi) k hk⟩)
  · intro h i hi k hk _
    have hN := List.getElem?_eq_getElem (l := l) (i := i) (by simpa using (mem_upFrom.mp hi).2)
    exact h i _ hN k (linksOf_of_getElem? hN ▸ hk)

theorem graphOk_iff : graphOk l = true ↔
    (∀ N ∈ l, N.ty ≤ 6 ∧ N.count ≤ 6 ∧ ∀ k ∈ N.succ, k < l.length)
      ∧ (∀ i N, l[i]? = some N → (l.flatMap (·.succ)).count i = N.pred)
      ∧ ∃ rank : Nat → Nat, ∀ i N, l[i]? = some N → ∀ k ∈ N.succ, rank i < rank k := by
  have hlen : (upFrom 0 l.length).length ≤ l.length := by rw [upFrom_eq_range', List.length_range']
  have hfields : l.all (fun N => decide (N.ty ≤ 6) && decide (N.count ≤ 6) && N.succ.all (fun k => decide (k < l.length))) = true ↔
      ∀ N ∈ l, N.ty ≤ 6 ∧ N.count ≤ 6 ∧ ∀ k ∈ N.succ, k < l.length := by simp [and_assoc]
  have hcount : ((upFrom 0 l.length).zip l).all (fun e => (l.flatMap (·.succ)).count e.1 == e.2.pred) = true ↔
      ∀ i N, l[i]? = some N → (l.flatMap (·.succ)).count i = N.pred := by simp only [all_zip_upFrom, beq_iff_eq]
  have hlinks := acyclic_iff (succ := linksOf l) hlen
  unfold graphOk
  simp only [Bool.and_eq_true, and_assoc, hfields, hcount]
  refine and_congr_right fun hin => and_congr_right fun _ => hlinks.trans (exists_congr fun rank => linksUp_iff fun N hN => (hin N hN).2.2)

end

/-! ### Reading a graph (R89, R91) -/

theorem readGraph_ok_iff {ctx va depth : Nat} {s s1 : State} {l : List NodeSt} : readGraph ctx va depth s = (s1, .ok l) ↔
    va % 64 = 0
      ∧ (∃ s0 h, vaNum ctx va 64 s = (s0, .ok h) ∧ bits h 495 488 = 1 ∧ 1 ≤ bits h 511 496 ∧ bits h 511 496 ≤ 4096
          ∧ readNodes ctx va (bits h 511 496) 0 [] s0 = (s1, .ok l))
      ∧ graphOk l = true ∧ (depth = 4 → ∀ N ∈ l, N.ty ≠ 5 ∧ N.ty ≠ 6) := by
  constructor
  · intro e
    unfold readGraph at e
    split at e
    · cases e
    next hva =>
      split at e
      · cases e
      next s0 h hv =>
        dsimp only at e
        split at e
        · cases e
        next hh =>
          split at e
          · cases e
          next s2 l2 hl =>
            split at e
            · cases e
            next hok =>
              split at e
              · cases e
              next hd =>
                cases e
                simp only [Bool.or_eq_true, bne_iff_ne, beq_iff_eq, decide_eq_true_eq, not_or, not_not, Nat.not_lt] at hva hh
                obtain ⟨⟨hver, hpos⟩, hmax⟩ := hh
                exact ⟨hva, ⟨s0, h, hv, hver, Nat.pos_of_ne_zero hpos, hmax, hl⟩, by simpa using hok, by simpa using hd⟩
  · rintro ⟨hva, ⟨s0, h, hv, hver, hpos, hmax, hl⟩, hok, hd⟩
    have hh : ¬ ((bits h 495 488 != 1 || bits h 511 496 == 0 || decide (4096 < bits h 511 496)) = true) := by
      simp [hver, Nat.ne_of_gt hpos, hmax]
    unfold readGraph
    rw [if_neg (by simpa using hva), hv]
    dsimp only
    rw [if_neg hh, hl]
    dsimp only
    rw [hok]
    exact (if_neg (by decide)).trans (if_neg (by simpa using hd))

/-- Settles O56: what `readGraph` asks for, with a numbering of the nodes for the rounds of `acyclic`. -/
theorem acceptedGraphsAreValid : Obligations.AcceptedGraphsAreValid := by
  unfold Obligations.AcceptedGraphsAreValid
  intro ctx va depth s s1 l
  rw [readGraph_ok_iff, graphOk_iff]
  simp only [and_assoc]

end Sys2Proof

end

section

/-! ## User commands of a queue (O54)

How each command goes on is said once, by what its completion record or its graph answers; the clauses are the cases of that. -/

namespace Sys2Proof

open Machine

/-! ### A command that ends (R89, R95, R97) -/

section
variable {s t : State} {ctx q code node depth : Nat} {c : CtxRec} (hc : s.ctxs.get? ctx = some c) (hd : c.dying = false)
include hc hd

/-- A command's record is written, and its queue goes on, or its page is held. -/
theorem userDone_eq {b : Bool}
    (hw : writeDone ctx (bits (s.queue ctx q).cmd 383 320) (bits (s.queue ctx q).cmd 319 256) code node depth s = (t, b)) :
    userDone ctx q code node depth s =
      (if b = true then queueNext ctx q (bit (s.queue ctx q).cmd 503) (code != 0) t else t, b) := by
  unfold userDone
  rw [hc]
  dsimp only
  rw [hd, hw]
  cases b <;> rfl

end

section
variable {s t : State} {ev : Instr} {code : Nat} {c : CtxRec} (hc : s.ctxs.get? s.ev.k = some c) (hd : c.dying = false)
include hc hd

theorem userQuick_ends
    (hw : writeDone s.ev.k (bits (s.queue s.ev.k s.ev.a).cmd 383 320) (bits (s.queue s.ev.k s.ev.a).cmd 319 256) code 0 0 s = (t, true)) :
    userQuick ev code s = queueNext s.ev.k s.ev.a (bit (s.queue s.ev.k s.ev.a).cmd 503) (code != 0) t := by
  unfold userQuick
  rw [userDone_eq hc hd hw]
  rfl

theorem userQuick_held
    (hw : writeDone s.ev.k (bits (s.queue s.ev.k s.ev.a).cmd 383 320) (bits (s.queue s.ev.k s.ev.a).cmd 319 256) code 0 0 s = (t, false)) :
    userQuick ev code s = t.push ev t.ev := by
  unfold userQuick
  rw [userDone_eq hc hd hw]
  rfl

theorem userReadError_eq : userReadError s = queueNext s.ev.k s.ev.a false true (appendFault s.ev.k (.plain 9 s.ev.a 0 0 0) s) := by
  unfold userReadError
  rw [hc]
  dsimp only
  rw [hd]
  rfl

theorem faultVecStep_raises (hr : c.toRaise = true) :
    faultVecStep s = (s.modCtx s.ev.k (fun c => { c with toRaise := false, raised := some s.ncyc })).msix c.faultvec := by
  unfold faultVecStep
  rw [hc]
  dsimp only
  rw [hr, hd]
  rfl

/-! ### Launches (R91, R99) -/

section
variable (hf : s.regs.fatal = false) (hs : c.suspended = false)
  (hr : startRun s.ev.k s.ev.a (bits (s.queue s.ev.k s.ev.a).cmd 447 384) 1 none s = (t, code))
include hf hs hr

theorem launchStep_starts (h0 : code = 0) : launchStep s = t := by
  unfold launchStep
  dsimp only
  rw [hc]
  dsimp only
  rw [hd, hf, hs, hr, h0]
  rfl

/-- A rejected launch leaves one fault record, and ends as a run that has failed. -/
theorem launchStep_rejected (h0 : code ≠ 0) (h255 : code ≠ 255) {r : Nat} {u : State}
    (hn : (r, u) = (appendFault s.ev.k (.plain code s.ev.a 0 1 (bits (s.queue s.ev.k s.ev.a).cmd 479 448)) t).newId) : launchStep s =
      finishRun r { u with
        runs := u.runs ++ [(r, ⟨s.ev.k, s.ev.a, bits (s.queue s.ev.k s.ev.a).cmd 447 384, 1, none, [], some (code, 0, 1)⟩)] } := by
  unfold launchStep
  dsimp only
  rw [hc]
  dsimp only
  rw [hd, hf, hs, hr]
  refine (if_neg (by decide)).trans ((if_neg (by decide)).trans ?_)
  split
  next h => cases h; exact absurd rfl h0
  next h => cases h; exact absurd rfl h255
  next h =>
    cases h
    rw [← hn]

end

end

theorem launchStep_stopped {s : State} {c : CtxRec} (hc : s.ctxs.get? s.ev.k = some c) (h : c.dying = true ∨ s.regs.fatal = true) :
    launchStep s = s := by
  unfold launchStep
  dsimp only
  rw [hc]
  exact if_pos (by simpa using h)

/-! ### The end of a launch's run (R92, R95) -/

section
variable {s t : State} {r : Nat} {R : Run} (hr : s.runs.get? r = some R) (hp : R.parent = none)
include hr hp

/-- A run that no node started ends its command, or is looked at again while the record's page is held. -/
theorem finishRun_root {b : Bool}
    (hu : userDone R.ctx R.queue (R.fail.getD (0, 0, R.depth)).1 (R.fail.getD (0, 0, R.depth)).2.1 (R.fail.getD (0, 0, R.depth)).2.2 s = (t, b)) :
    finishRun r s = if b = true then { t with runs := t.runs.del r } else t.push .nodeComplete ⟨r, 4096, 0, []⟩ := by
  unfold finishRun
  rw [hr]
  dsimp only
  rw [hp, hu]
  cases b <;> rfl

end

/-- Settles O54: commands that end, that wait for their record's page, and that cannot be read; then launches, and what ends with them. -/
theorem userCommands : Obligations.UserCommands := by
  unfold Obligations.UserCommands
  refine ⟨?_, ?_, ?_, ?_, ?_, ?_, ?_, ?_⟩
  · intro s c s1 code hc hd hw
    constructor
    · rintro rfl
      exact congrArg _ (userQuick_ends hc hd hw)
    · rintro rfl
      exact congrArg _ (userQuick_ends hc hd hw)
  · exact fun s c s1 hc hd => ⟨fun hw => congrArg _ (userQuick_held hc hd hw), fun hw => congrArg _ (userQuick_held hc hd hw)⟩
  · exact fun s c hc hd => congrArg _ (userReadError_eq hc hd)
  · exact fun s c t hc hd hf hs hr => congrArg _ (launchStep_starts hc hd hf hs hr rfl)
  · rintro s c t u v r code va hc hd hf hs rfl hr h0 h255 hn rfl
    exact congrArg _ (launchStep_rejected hc hd hf hs hr h0 h255 hn)
  · rintro r R s t hr hp _ rfl
    exact ⟨finishRun_root hr hp, finishRun_root hr hp⟩
  · exact fun s c hc h => congrArg _ (launchStep_stopped hc h)
  · exact fun s c hc hd hr => congrArg _ (faultVecStep_raises hc hd hr)

end Sys2Proof

end

section

/-! ## Nodes of a graph (O55)

`NodeRuns` says what `startNode` looks at, so that each node's event is its own step on the state in which the node acts. -/

namespace Sys2Proof

open Machine

/-! ### Nodes that start (R92) -/

theorem startNode_runs {s : State} {R : Run} {N : NodeSt} {s1 : State} (h : NodeRuns s R N s1) (ev : Instr) (f : Run → NodeSt → State → State) :
    startNode ev f s = f R N s1 := by
  obtain ⟨c, hc, hd, hs⟩ := h.ctx
  unfold startNode
  dsimp only
  rw [h.run]
  dsimp only
  rw [hc]
  dsimp only
  rw [hd, hs]
  rcases h.part with ⟨hb, rfl, rfl⟩ | ⟨hb, hf, s0, x, hx, rfl, rfl⟩
  · simp [hb, NodeSt.runs]
  · simp [hb, hf, hx]

section
variable {s s1 s2 t : State} {R : Run} {N : NodeSt} {w va : Nat}

theorem signalStep_ends (h : NodeRuns s R N s1) (ha : bits N.part 383 320 % 8 = 0) (ho : bits N.part 255 254 < 2)
    (hw : signalWord R (bits N.part 383 320) (bits N.part 255 254) (bits N.part 319 256) s1 = (s2, none)) :
    signalStep s = endNode s2.ev.k s2.ev.a 0 s2 := by
  have hok : ¬ ((bits N.part 383 320 % 8 != 0 || decide (2 ≤ bits N.part 255 254)) = true) := by simp [ha, ho]
  refine (startNode_runs h _ _).trans ?_
  dsimp only
  rw [if_neg hok, hw]

/-! ### WAIT (R92) -/

theorem lookWord_holds (hw : readWord R (bits N.part 383 320) s = (t, .ok w))
    (hh : waitHolds (bits N.part 255 254) w (bits N.part 319 256) = true) : lookWord R N s = endNode s.ev.k s.ev.a 0 t := by
  unfold lookWord
  dsimp only
  rw [hw]
  exact if_pos hh

theorem waitStep_looks (h : NodeRuns s R N s1) (ha : bits N.part 383 320 % 8 = 0) (hc : bits N.part 255 254 < 3)
    (ht : bits N.part 253 222 = 0) : waitStep s = lookWord R N s1 := by
  have hok : ¬ ((bits N.part 383 320 % 8 != 0 || bits N.part 255 254 == 3) = true) := by
    simp [ha, Nat.ne_of_lt hc]
  refine (startNode_runs h _ _).trans ?_
  dsimp only
  rw [if_neg hok, ht]
  rfl

section
variable (hr : s.runs.get? s.ev.k = some R) (hp : (s.node s.ev.k s.ev.a).phase = 2) (ht : (s.node s.ev.k s.ev.a).ty = 4)
include hr hp ht

theorem rereadStep_looks : rereadStep s = lookWord R (s.node s.ev.k s.ev.a) s := by
  unfold rereadStep
  rw [hr]
  dsimp only
  rw [hp, ht]
  rfl

theorem timeoutStep_ends {c : CtxRec} (hc : s.ctxs.get? R.ctx = some c) (hn : c.paused = false)
    (hl : (s.node s.ev.k s.ev.a).start + 2000 * bits (s.node s.ev.k s.ev.a).part 253 222 ≤ s.ncyc) :
    timeoutStep s = endNode s.ev.k s.ev.a 4 s := by
  unfold timeoutStep
  rw [hr]
  dsimp only
  rw [hp, ht, hc]
  exact (if_neg (by decide)).trans (if_neg (by simp [hn, hl]))

end

/-! ### COND and WHILE (R93) -/

theorem runSub_starts {ev : Instr} {ok : State → State} (h : startRun R.ctx R.queue va (R.depth + 1) (some (s.ev.k, s.ev.a)) s = (t, 0)) :
    runSub ev R va ok s = ok t := by
  unfold runSub
  dsimp only
  rw [h]
  rfl

theorem condStep_read (h : NodeRuns s R N s1) (hw : readWord R (bits N.part 383 320) s1 = (s2, .ok w))
    (hva : va = (if w ≠ 0 then bits N.part 319 256 else bits N.part 255 192)) : condStep s =
      if va = 0 then endNode s2.ev.k s2.ev.a 0 s2 else runSub .nodeCond R va (fun s => s) s2 := by
  refine (startNode_runs h _ _).trans ?_
  dsimp only
  rw [hw, hva]
  simp only [bne_iff_ne, beq_iff_eq]

/-- The state after a further iteration has begun. -/
def iterated (r n : Nat) (s : State) : State := s.modNode r n (fun N => { N with count := N.count + 1 })

theorem whileStep_read (h : NodeRuns s R N s1) (hw : readWord R (bits N.part 383 320) s1 = (s2, .ok w)) : whileStep s =
    if w = 0 then endNode s2.ev.k s2.ev.a 0 s2
    else if bits N.part 255 224 ≠ 0 ∧ bits N.part 255 224 ≤ N.count then endNode s2.ev.k s2.ev.a 5 s2
    else runSub .nodeWhile R (bits N.part 319 256) (iterated s2.ev.k s2.ev.a) s2 := by
  refine (startNode_runs h _ _).trans ?_
  dsimp only
  rw [hw]
  simp only [beq_iff_eq, Bool.and_eq_true, bne_iff_ne, decide_eq_true_eq]
  rfl

/-! ### COPY and KERNEL (R92, R94, R138) -/

theorem nodeCopyStep_eq (h : NodeRuns s R N s1) : nodeCopyStep s =
    if bits N.part 255 192 = 0 then endNode s1.ev.k s1.ev.a 0 s1
    else submitTask R s1.ev.k s1.ev.a [(bits N.part 383 320, bits N.part 383 320 + bits N.part 255 192, false),
      (bits N.part 319 256, bits N.part 319 256 + bits N.part 255 192, true)] (matched s1 R.ctx) s1 := by
  refine (startNode_runs h _ _).trans ?_
  simp only [beq_iff_eq]

/-- The grid of a KERNEL node with the launch description `x`, which waits from now on (R138). -/
def gridOf (R : Run) (N : NodeSt) (x r n now : Nat) : Grid :=
  ⟨R.ctx, R.vd, launchOf x, bits N.part 383 320, bits N.part 255 192, bits N.part 159 144, bits N.part 175 160, bits N.part 191 176, 0, 0, r, n, false,
    now⟩

theorem kernelStep_submits {s3 : State} {x : Nat} {rs : List (Nat × Nat × Bool)} (h : NodeRuns s R N s1) (hn : bits N.part 79 76 ≤ 8)
    (ha : bits N.part 319 256 % 64 = 0) (hx : vaNum R.ctx (bits N.part 319 256) 128 s1 = (s2, .ok x))
    (hr : readRegions R (bits N.part 143 80) (bits N.part 79 76) 0 [] s2 = (s3, .ok rs)) (hl : launchOk x = true) : kernelStep s =
      submitTask R s1.ev.k s1.ev.a rs (matched s3.newId.2 R.ctx && bits N.part 79 76 != 0)
        { s3.newId.2 with grids := s3.newId.2.grids ++ [(s3.newId.1, gridOf R N x s1.ev.k s1.ev.a s3.newId.2.ncyc)] } := by
  have hok : ¬ ((decide (8 < bits N.part 79 76) || bits N.part 319 256 % 64 != 0) = true) := by simp [hn, ha]
  refine (startNode_runs h _ _).trans ?_
  dsimp only
  rw [if_neg hok, hx]
  dsimp only
  rw [hr]
  dsimp only
  rw [hl]
  rfl

end

/-! ### Nodes that complete (R92, R97, R98) -/

section
variable {s u : State} {R : Run}

theorem Machine.State.modNode_known {r n : Nat} {f : NodeSt → NodeSt} (h : s.runs.get? r = some R) :
    s.modNode r n f = { s with runs := s.runs.set r { R with nodes := R.nodes.set n (f (R.nodes.getD n .zero)) } } := by
  unfold State.modNode State.modRun
  rw [h]

/-- The grid and the task of a node go with it. -/
def clearNode (r n : Nat) (s : State) : State := { s with
  grids := s.grids.filter (fun e => e.2.run != r || e.2.node != n)
  tasks := s.tasks.filter (fun x => x.run != r || x.node != n) }

/-- The successors of a node wait for one node less; those that wait for none become ready (R92). -/
def passOn (r n : Nat) (s : State) : State :=
  let next := (s.node r n).succ
  let t := next.foldl (fun s k => s.modNode r k (fun N => { N with pred := N.pred - 1 })) s
  readyNodes r (next.filter (fun k => (t.node r k).pred == 0)) t

variable (hr : s.runs.get? s.ev.k = some R) (hn : s.ev.a < 4096) (hf : R.fail = none)
include hr hn hf

theorem nodeCompleteStep_succeeds (hv : s.ev.v = 0) (hu : u = s.modNode s.ev.k s.ev.a (fun N => { N with phase := 3 })) :
    nodeCompleteStep s = checkEnd s.ev.k (taskPump R.vd (passOn s.ev.k s.ev.a (clearNode s.ev.k s.ev.a u))) := by
  unfold nodeCompleteStep
  dsimp only
  rw [hr]
  dsimp only
  rw [if_neg (Nat.not_le.mpr hn), hv, hf, ← hu]
  rfl

theorem nodeCompleteStep_fails (h0 : 0 < s.ev.v) (h16 : s.ev.v < 2 ^ 16) (hd : s.ev.data = [])
    (hu : u = s.modNode s.ev.k s.ev.a (fun N => { N with phase := 3 })) :
    nodeCompleteStep s = checkEnd s.ev.k (taskPump R.vd (clearNode s.ev.k s.ev.a ((nodeRecord R s.ev.k s.ev.a s.ev.v u).modRun s.ev.k
      (fun R' => { R' with fail := some (R'.fail.getD (s.ev.v, s.ev.a, R.depth)) })))) := by
  have hc : (s.ev.v == 0) = false := by simpa using Nat.ne_of_gt h0
  unfold nodeCompleteStep
  dsimp only
  rw [hr]
  dsimp only
  rw [if_neg (Nat.not_le.mpr hn), Nat.mod_eq_of_lt h16, hf, hd, ← hu]
  simp only [bne, hc]
  rfl

end

/-- Settles O55: a node of each type, then a WAIT node's later looks, and the completion of a node. -/
theorem graphNodes : Obligations.GraphNodes := by
  unfold Obligations.GraphNodes
  refine ⟨fun s R N s1 h => ⟨?_, ?_, ?_, ?_, ?_, ?_, ?_⟩, ?_, ?_⟩
  · exact congrArg _ (startNode_runs h _ _)
  · exact fun s2 ha ho hw => congrArg _ (signalStep_ends h ha ho hw)
  · exact fun s2 w ha hc ht hw hh => congrArg _ ((waitStep_looks h ha hc ht).trans (lookWord_holds hw hh))
  · intro s2 w va hw hva
    have e := condStep_read h hw hva
    exact ⟨fun h0 => congrArg _ (e.trans (if_pos h0)), fun t h0 ht => congrArg _ (e.trans ((if_neg h0).trans (runSub_starts ht)))⟩
  · intro s2 w hw
    have e := whileStep_read h hw
    refine ⟨fun h0 => congrArg _ (e.trans (if_pos h0)), fun h0 hl hc => congrArg _ (e.trans ((if_neg h0).trans (if_pos ⟨hl, hc⟩))),
      fun t h0 hl ht => congrArg _ (e.trans ((if_neg h0).trans ((if_neg ?_).trans (runSub_starts ht))))⟩
    omega
  · rintro a b n rfl rfl rfl
    have e := nodeCopyStep_eq h
    exact ⟨fun h0 => congrArg _ (e.trans (if_pos h0)), fun h0 => congrArg _ (e.trans (if_neg h0))⟩
  · rintro n la x rs s2 s3 rfl rfl hn ha hx hr hl
    exact congrArg _ (kernelStep_submits h hn ha hx hr hl)
  · rintro s R N s2 w hr rfl hp ht
    exact ⟨fun hw hh => congrArg _ ((rereadStep_looks hr hp ht).trans (lookWord_holds hw hh)),
      fun c hc hn hl => congrArg _ (timeoutStep_ends hr hp ht hc hn hl)⟩
  · intro s R u hr hn hf hu
    obtain ⟨hgrids, htasks⟩ : u.grids = s.grids ∧ u.tasks = s.tasks := by
      rw [hu, State.modNode_known hr]
      exact ⟨rfl, rfl⟩
    constructor
    · rintro hv s1 s2 next rfl rfl rfl
      rw [← hgrids, ← htasks]
      exact congrArg _ (nodeCompleteStep_succeeds hr hn hf hv hu)
    · rintro h0 h16 hd w rfl
      exact congrArg _ (nodeCompleteStep_fails hr hn hf h0 h16 hd hu)

end Sys2Proof

end

section

/-! ## The eviction engine (O53)

Every clause but the first holds, each as an equation of the engine's function that it speaks of. The first, that GO starts a request, holds where
the lower half held for EVCTL is a word of 64 bits, as every write of the window leaves it. The statement asks it of every state, and `State` holds
halves of any size: one that is wider reaches the MODE field. -/

namespace Sys2Proof

open Machine

/-! ### The events of the engine -/

section
variable {s : State} {i : Instr} (hi : i ∈ [Instr.evictReclaim, .evictDirectedBacking, .evictDirectedDiscard])
include hi

theorem exec_evict : exec i s = .next (evEventStep i s) := by
  simp only [List.mem_cons, List.not_mem_nil, or_false] at hi
  rcases hi with rfl | rfl | rfl <;> rfl

theorem exec_evict_written (ha : s.ev.a = 0) (h : s.ev.data ≠ [] ∨ 2 ≤ s.regs.khl.state) :
    exec i s = .next (evctlWrite s.ev.k s.ev.v s) := by
  have e : evEventStep i s = byWindow i (evctlWrite s.ev.k s.ev.v) s := if_pos (beq_iff_eq.mpr ha)
  rw [exec_evict hi, e, byWindow_reached h]

theorem exec_evict_running {pos : Nat} (ha : s.ev.a = pos + 1) (hb : (s.bay s.ev.k).busy = true) :
    exec i s = .next (evStep s.ev.k s.ev.v pos s) := by
  rw [exec_evict hi]
  simp [evEventStep, ha, hb]

end

/-! ### GO (R103, R124, Table xlate-8) -/

/-- The pattern of EVCTL that an upper half and the lower half taken with it make. -/
def evctlPattern (up low : Nat) : Nat := setBit ((up % 2 ^ 64 * 2 ^ 64 + low) / 2 ^ 58 * 2 ^ 58) 127 false

theorem evMode_evctlPattern {up low : Nat} (hu : up < 2 ^ 64) (hl : low < 2 ^ 64) : evMode (evctlPattern up low) = bits up 62 61 := by
  simp only [evMode, evctlPattern, setBit, setBits, bits]
  omega

theorem evMode_mode (m : Nat) : evMode (m * 2 ^ 125) = m % 4 := by
  simp [evMode, bits]

/-- The lower half that a write of EVCTL's upper half takes with it. -/
def evctlLow (s : State) (b : Nat) : Nat := s.regs.lowHeld.getD (bayOff b + 0x80) ((s.bay b).evctl % 2 ^ 64)

section
variable {s : State} {b up : Nat} (hg : bit up 63 = true) (hb : (s.bay b).busy = false)
include hg hb

theorem evctlWrite_starts (hm : evMode (evctlPattern up (evctlLow s b)) ≠ 3) :
    ∃ t : State, evctlWrite b up s = evMore b (evctlPattern up (evctlLow s b)) (s.bay b).hand t
      ∧ (t.bay b).busy = true ∧ (t.bay b).everr = 0 ∧ (t.bay b).evicted = 0 := by
  have h : (bit up 63 && evMode (evctlPattern up (evctlLow s b)) != 3) = true := by simp [hg, hm]
  unfold evctlWrite
  dsimp only
  rw [hg, hb]
  refine ⟨_, (if_neg (by decide)).trans (if_pos (hg ▸ h)), ?_⟩
  rw [State.bay_modBay_same]
  exact ⟨rfl, rfl, rfl⟩

theorem evctlWrite_mode3 (hm : evMode (evctlPattern up (evctlLow s b)) = 3) : ((evctlWrite b up s).bay b).busy = false := by
  have h : ¬(bit up 63 && evMode (evctlPattern up (evctlLow s b)) != 3) = true := by simp [hm]
  unfold evctlWrite
  dsimp only
  rw [hg, hb]
  refine (congrArg (fun t : State => (t.bay b).busy) ((if_neg (by decide)).trans (if_neg (hg ▸ h)))).trans ?_
  rw [State.bay_modBay_same]
  exact hb

end

/-- The statement's clause about GO, of one state. -/
def GoStarts (s : State) : Prop :=
  ∀ i ∈ [Instr.evictReclaim, .evictDirectedBacking, .evictDirectedDiscard], s.ev.a = 0 → bit s.ev.v 63 = true →
    s.ev.v < 2 ^ 64 → (s.ev.data ≠ [] ∨ 2 ≤ s.regs.khl.state) → (s.bay s.ev.k).busy = false → bits s.ev.v 62 61 ≠ 3 →
    ∃ t, exec i s = .next t ∧ (t.bay s.ev.k).busy = true ∧ (t.bay s.ev.k).everr = 0 ∧ (t.bay s.ev.k).evicted = 0
      ∧ ∃ d ∈ t.agenda, d.arg.k = s.ev.k ∧ d.arg.a ≠ 0 ∧ d.ev = evEvent (bits s.ev.v 62 61 * 2 ^ 125)

theorem goStarts_of_low_lt {s : State} (hl : evctlLow s s.ev.k < 2 ^ 64) : GoStarts s := by
  intro i hi ha hg hv hr hb h3
  have hm := evMode_evctlPattern hv hl
  obtain ⟨t, e, busy, everr, evicted⟩ := evctlWrite_starts hg hb (hm ▸ h3)
  have hev : evEvent (evctlPattern s.ev.v (evctlLow s s.ev.k)) = evEvent (bits s.ev.v 62 61 * 2 ^ 125) := by
    have h4 : bits s.ev.v 62 61 < 4 := Nat.mod_lt _ (by decide)
    simp only [evEvent, hm, evMode_mode, Nat.mod_eq_of_lt h4]
  refine ⟨_, (exec_evict_written hi ha hr).trans (congrArg _ e), busy, everr, evicted, ?_⟩
  exact ⟨_, List.mem_append_right _ (List.mem_singleton_self _), rfl, Nat.add_comm 1 _ ▸ Nat.succ_ne_zero _, hev⟩

/-- A GO of mode 2 that the KHA-2 sideband writes to bay 0 after reset, with a held lower half that sets the low bit of MODE. -/
def wideLow : State :=
  { State.reset with
    ev := ⟨0, 0, 2 ^ 63 + 2 ^ 62, [0#8]⟩
    regs := { State.reset.regs with lowHeld := [(bayOff 0 + 0x80, 2 ^ 125)] } }

theorem not_goStarts_wideLow : ¬ GoStarts wideLow := by
  intro h
  have hg : bit wideLow.ev.v 63 = true := by decide
  have hb : (wideLow.bay wideLow.ev.k).busy = false := by decide
  have hr : wideLow.ev.data ≠ [] ∨ 2 ≤ wideLow.regs.khl.state := .inl (by decide)
  have hi : Instr.evictReclaim ∈ [Instr.evictReclaim, .evictDirectedBacking, .evictDirectedDiscard] := List.mem_cons_self
  obtain ⟨t, e, busy, -⟩ := h .evictReclaim hi rfl hg (by decide) hr hb (by decide)
  rw [exec_evict_written hi rfl hr] at e
  cases e
  exact absurd (evctlWrite_mode3 hg hb (by decide)) (by simp [busy])

/-! ### The choice of a page (R124 to R126) -/

theorem evictable_iff {s : State} {b ctx va e : Nat} : evictable s b ctx va e = true ↔
    bit e 57 = false ∧ bit e 51 = false ∧ placedAt s ctx va = .bay b ∧ pteAddr e % 2 ^ 16 = 0 := by
  simp [evictable, and_assoc]

section
variable {s : State} {b v pos : Nat}

theorem evScan_met (h : evTarget v ≤ (s.bay b).evicted) : evScan b v pos s = evEnd b v 0 pos s := if_pos h

theorem evScan_found {x : Nat × Nat × Nat} (ht : (s.bay b).evicted < evTarget v)
    (hf : (evictPages s b (evCtx v)).find? (fun x => decide (pos ≤ x.1 / 2 ^ 16)
      && (!(s.bay b).evWrap || decide (x.1 / 2 ^ 16 < (s.bay b).evFrom))) = some x) (hp : bit x.2.2 52 = false) :
    evScan b v pos s = if bit x.2.2 50 = true then evMore b v (x.1 / 2 ^ 16 + 1) (pteClear x.2.1 (2 ^ 50) s)
      else evSelect b v (x.1 / 2 ^ 16 + 1) x (evMore b v (x.1 / 2 ^ 16 + 1)) s := by
  unfold evScan
  dsimp only
  rw [if_neg (Nat.not_le.mpr ht), hf]
  dsimp only
  rw [hp]
  rfl

theorem evDirected_selects {pte e : Nat} (hw : walkLeaf s (evCtx v) (evPage v * 2 ^ 16) = .ok (pte, e, 16))
    (he : evictable s b (evCtx v) (evPage v * 2 ^ 16) e = true) (hp : bit e 52 = false) :
    evDirected b v s = evSelect b v 0 (evPage v * 2 ^ 16, pte, e) (evEnd b v 2 0) s := by
  unfold evDirected
  rw [hw]
  dsimp only
  rw [he, hp]
  rfl

/-- A page that has its frame, and needs no zeroing, is selected as it is. -/
theorem evSelect_framed {va pte e : Nat} {lose : State → State} (ha : bit e 54 = false) (hz : bit e 53 = false) {u : State}
    (hu : u = partRmw pte (fun _ => setBit e 53 false ||| 2 ^ 51) s) :
    evSelect b v pos (va, pte, e) lose s = evMore b v pos (({ u with tlb := u.tlb.filter (fun t => !(t.2.ctx == evCtx v && t.2.va == va)) } : State).modBay b
      (fun B => { B with epoch := B.epoch + 1, evict := some ⟨evCtx v, va, 16, pte, setBit e 53 false ||| 2 ^ 51, pteAddr (setBit e 53 false ||| 2 ^ 51)⟩ })) := by
  have hf : evFrame b (va, pte, e) s = (s, some e) := by simp [evFrame, ha]
  unfold evSelect
  rw [hf]
  dsimp only
  rw [hz, if_neg Bool.false_ne_true, ← hu]

end

/-! ### The page under way (R126) -/

section
variable {s : State} {b v pos : Nat} {x : Evict}

theorem evWork_waits (h : evDrained s x = false ∨ (evMode v ≠ 2 ∧ s.regs.khl.state < 2)) : evWork b v pos x s = evMore b v pos s :=
  if_pos (by simpa using h)

theorem evWork_torn (hd : evDrained s x = true) (hl : evMode v = 2 ∨ 2 ≤ s.regs.khl.state) : evWork b v pos x s =
    if ring3Full (evTear x s) b = true then evEnd b v 3 pos (evRestore b x (evTear x s))
    else if (evMode v == 2) = true then evCommit b v pos x none (evTear x s)
    else match takeBacking b (evTear x s) with
      | (u, none) => evEnd b v 1 pos (evRestore b x u)
      | (u, some f) => evCommit b v pos x (some f) (copyPage x f u) := by
  have h : ¬(!evDrained s x || (evMode v != 2 && decide (s.regs.khl.state < 2))) = true := by
    simp only [hd, Bool.not_true, Bool.false_or, Bool.and_eq_true, bne_iff_ne, decide_eq_true_eq]
    omega
  exact (if_neg h).trans rfl

theorem evCommit_aborts {back : Option Nat} (h : s.num false x.pte 8 ≠ x.e) : evCommit b v pos x back s =
    evNext b v pos ((evRestore b x s).modBay b (fun B => { B with aborts := (B.aborts + 1) % 64 })) := if_pos (by simpa using h)

theorem evCommit_commits {back : Option Nat} (h : s.num false x.pte 8 = x.e) {e : Nat} {u : State}
    (he : e = setBit (setBit x.e 63 false) 51 false)
    (hu : u = partRmw x.pte (fun _ => match back with
      | some f => setBits (setBit e 48 true) 47 8 (f / 256)
      | none => setBit e 48 false) s) : evCommit b v pos x back s =
    evNext b v pos ((freeFrame b x.frame { u with maps := u.maps.filter (fun m => !(m.ctx == x.ctx && m.va == x.va)) }).modBay b (fun B =>
      { B with evict := none, evicted := (B.evicted + 1) % 2 ^ 14, spare := if back.isSome then none else B.spare })) := by
  subst he hu
  exact if_neg (by simp [h])

end

/-! ### What the statement comes to -/

/-- The statement's other clauses hold. -/
theorem evictionEvents_iff : Obligations.EvictionEvents ↔ ∀ s, GoStarts s := by
  unfold Obligations.EvictionEvents
  refine ⟨fun h s i => h.1 s i, fun h => ⟨fun s i => h s i, ?_, ?_, fun _ _ _ _ _ => evictable_iff,
    fun _ _ _ _ _ _ _ _ ha hz _ hu => evSelect_framed ha hz hu, ?_,
    fun _ _ _ _ _ _ => ⟨evCommit_aborts, fun hp _ _ => evCommit_commits hp⟩⟩⟩
  · rintro s b v pos rfl rfl ha hb he hm
    have run : exec .evictReclaim s = .next (evScan s.ev.k s.ev.v pos s) := by
      rw [exec_evict_running (by decide) ha hb]
      simp [evStep, he, hm]
    refine ⟨fun ht => run.trans (congrArg _ (evScan_met ht)), fun x ht hf hp => ?_⟩
    have e := evScan_found ht hf hp
    exact ⟨fun hA => run.trans (congrArg _ (e.trans (if_neg (by simp [hA])))), fun hA => run.trans (congrArg _ (e.trans (if_pos hA)))⟩
  · rintro s b v pte e rfl rfl ha hb hn hm hw he hp i hi
    have h0 : evMode s.ev.v ≠ 0 := by omega
    obtain ⟨pos, ha⟩ := Nat.exists_eq_succ_of_ne_zero ha
    rw [exec_evict_running (List.mem_cons_of_mem _ hi) ha hb, ← evDirected_selects hw he hp]
    simp [evStep, hn, h0]
  · rintro s b v pos x i rfl rfl ha hb he hi
    have run : exec i s = .next (evWork s.ev.k s.ev.v pos x s) := by
      rw [exec_evict_running hi ha hb]
      simp [evStep, he]
    rw [run]
    refine ⟨fun hd => congrArg _ (evWork_waits (.inl hd)), fun hm hl => congrArg _ (evWork_waits (.inr ⟨hm, hl⟩)), ?_, ?_, ?_⟩
    · intro hd hm hf
      simp [evWork_torn hd (.inl hm), hf, hm]
    · intro hd hm hl hf
      have e := evWork_torn (b := s.ev.k) (v := s.ev.v) (pos := pos) hd (.inr hl)
      exact ⟨fun u f ht => by simp [e, hf, hm, ht], fun u ht => by simp [e, hf, hm, ht]⟩
    · intro hd hl hf
      simp [evWork_torn hd hl, hf]

/-- Refutes O53: in `wideLow` a GO of mode 2 starts no request, since the held lower half of EVCTL makes its mode 3. The window holds only halves
of 64 bits, with which GO starts a request (`goStarts_of_low_lt`); the statement lacks that premise. -/
theorem not_evictionEvents : ¬ Obligations.EvictionEvents := by
  intro h
  exact not_goStarts_wideLow (evictionEvents_iff.mp h wideLow)

end Sys2Proof

end

section

/-! ## Issue and rendezvous (O10)

What the bookkeeping of an issue leaves, an arrival that waits, one that completes its rendezvous, and lanes that come late to a `.part` arrival. -/

namespace Sys2Proof

open Machine

/-! ### The scopes of legal words -/

/-- Every clause of `legal` names the scopes that its instruction accepts, and none is above team scope; an event has no header. -/
theorem scope_le_of_legal {i : Instr} {opc : Nat} {h : Hdr} {o : Opnds} (hp : parts i = some (opc, h, o)) (hl : legal i = true) : h.scope ≤ 3 := by
  cases i <;> simp only [parts, Option.some.injEq, Prod.mk.injEq, reduceCtorEq] at hp
  all_goals
    obtain ⟨-, rfl, -⟩ := hp
    simp only [legal, hd, Bool.and_eq_true, List.contains_iff_mem, List.mem_cons, List.not_mem_nil, or_false] at hl
    omega

/-- A context has the header of its instruction, and at the start its own group is the only member and the lead. -/
theorem mkCtx_eq_some {i : Instr} {e : Nat} {s : State} {c : Ctx} (hc : mkCtx i e s = some c) :
    (∃ opc o, parts i = some (opc, c.h, o)) ∧ c.mem = [(c.group, c.act)] ∧ c.lead = c.group ∧ ∀ l ∈ c.act, l ∈ c.set := by
  unfold mkCtx at hc
  split at hc
  · rename_i hp _
    obtain rfl := Option.some.inj hc
    exact ⟨⟨_, _, hp⟩, rfl, rfl, fun l hl => (List.mem_filter.mp hl).1⟩
  · cases hc

theorem Clear.scope_le {i : Instr} {n : Need} {c : Ctx} {s : State} (h : Clear i n c s) : c.h.scope ≤ 3 := by
  obtain ⟨⟨_, _, hp⟩, -⟩ := mkCtx_eq_some h.ctx
  exact scope_le_of_legal hp h.word

/-! ### The bookkeeping of an issue (R149, R273) -/

theorem Machine.Booked.now {s t : State} (h : Booked s t) (k : Nat) : t.now k = s.now k := by rw [h.rest]; rfl

section
variable {β : Type} {π : Group → β} (s : State)

theorem grp_modGrp_keeps {f : Group → Group} (hf : ∀ G, π (f G) = π G) (t g a b : Nat) : π ((s.modGrp t g f).grp a b) = π (s.grp a b) := by
  rw [State.grp_modGrp_eq]
  split
  · next h => obtain ⟨rfl, rfl⟩ := Prod.mk.inj h; exact hf _
  · rfl

/-- A counter that is signalled changes a group in its signals alone. -/
theorem grp_signal_keeps (hπ : ∀ (G : Group) x, π { G with sigDue := x } = π G) (d : Desc) (c : Ctx) (gs : List Nat) (a b : Nat) :
    π ((signal d c gs s).grp a b) = π (s.grp a b) := by
  unfold signal sigAt
  split
  · rfl
  · dsimp only
    split
    · rfl
    · exact List.foldlRecOn (motive := fun (t : State) => π (t.grp a b) = π (s.grp a b)) gs _ rfl fun _ e _ _ =>
        (grp_modGrp_keeps _ (fun G => hπ G _) _ _ _ _).trans e

end

section
variable (n : Need) (c : Ctx) (s : State)

theorem grp_settled_own (h : c.span = false) : ((settled n c s).grp c.team c.group).stallUntil = s.now c.team + c.h.stall + 1
    ∧ ((settled n c s).grp c.team c.group).age = 0 := by
  have booked : Booked s (if 2 ≤ c.h.scope then dropPart c s else s) := by
    split
    · exact dropPart_booked c s
    · exact .refl s
  rw [← booked.now c.team]
  unfold settled advance
  rw [State.grp_modThrs, grp_signal_keeps _ (fun _ _ => rfl) (π := Group.stallUntil), grp_signal_keeps _ (fun _ _ => rfl) (π := Group.age)]
  unfold commit commitAll
  rw [if_neg (by simp [h])]
  simp

/-- An issue's bookkeeping leaves everything but the threads, the groups and the engines of the core. -/
theorem settled_frame : settled n c s = { s with
    threads := (settled n c s).threads, groups := (settled n c s).groups, pipes := (settled n c s).pipes
    lsq := (settled n c s).lsq, slot := (settled n c s).slot, engAt := (settled n c s).engAt } := by
  obtain ⟨t, ht, e⟩ := settled_eq n c s
  rw [e, ht.rest]

end

/-! ### The rendezvous of a scope -/

section
variable (c : Ctx) (r : Option Rdv) (s : State)

@[simp] theorem thr_putRdv (team : Nat) (set : Option Nat) (k : TKey) : (putRdv team set r s).thr k = s.thr k := by cases set <;> rfl

@[simp] theorem grp_putRdv (team : Nat) (set : Option Nat) (t g : Nat) : (putRdv team set r s).grp t g = s.grp t g := by cases set <;> rfl

/-- What the rendezvous of a scope is read from. -/
theorem getRdv_congr {s t : State} (hT : t.teams = s.teams) (hS : t.sets = s.sets) (hg : t.setOf c.team c.group = s.setOf c.team c.group) :
    getRdv c t = getRdv c s := by
  simp only [getRdv, State.team, State.gset, hT, hS, hg]

theorem getRdv_putRdv (h : c.h.scope = 3 ∨ (s.setOf c.team c.group).isSome = true) : getRdv c (putRdv c.team (rdvSet c s) r s) = r := by
  by_cases h3 : c.h.scope = 3
  · simp [getRdv, rdvSet, putRdv, h3]
  · obtain ⟨n, hn⟩ := Option.isSome_iff_exists.mp (h.resolve_left h3)
    have hn' : (s.modSet c.team n (fun S => { S with rdv := r })).setOf c.team c.group = some n := hn
    simp [getRdv, rdvSet, putRdv, h3, hn, hn']

theorem rdvSet_dropPart : rdvSet c (dropPart c s) = rdvSet c s := by unfold rdvSet; rw [setOf_dropPart]

/-- What is done to the groups and the engines commutes with a rendezvous' record. -/
theorem Machine.Booked.putRdv {s t : State} (h : Booked s t) (team : Nat) (set : Option Nat) (r : Option Rdv) :
    Booked (putRdv team set r s) (putRdv team set r t) := by
  constructor
  cases set <;> (rw [h.rest]; rfl)

end

/-- A clear issue set of set or team scope belongs to the set of its rendezvous. -/
theorem Clear.has_rdv {i : Instr} {n : Need} {c : Ctx} {s : State} (h : Clear i n c s) (h2 : 2 ≤ c.h.scope) :
    c.h.scope = 3 ∨ (s.setOf c.team c.group).isSome = true := by
  have := h.scope_le
  rcases Nat.lt_or_ge c.h.scope 3 with h3 | h3
  · exact .inr (h.inSet (by omega))
  · exact .inl (by omega)

/-! ### An issue set of set or team scope -/

section
variable {i : Instr} {e : Nat} {d : Desc} {c : Ctx} {s : State}

theorem issue_eq_issueRdv (h : Clear i (needOf e d) c s) (h2 : 2 ≤ c.h.scope) (ha : d.alone = false) (hs : c.span = false) :
    issue i e d s = issueRdv i d c s := by
  have hctx : mkCtx i e s = some c := h.ctx
  unfold issue
  simp [hctx, held_clear h, hs, h2, ha]

theorem arrivalTraps_eq_nil (hf : d.part = false → fullArrival c s = true) (hr : ∀ r, getRdv c s = some r → r.pc = c.pc ∧ r.cd = c.cd) :
    arrivalTraps d c s = [] := by
  have full : (!d.part && !fullArrival c s) = false := by
    cases hp : d.part
    · simp [hf hp]
    · rfl
  unfold arrivalTraps
  rw [full]
  cases hg : getRdv c s with
  | none => rfl
  | some r => simp [hr r hg]

/-- An arrival that does not complete its rendezvous waits. -/
theorem issue_waits (h : Clear i (needOf e d) c s) (h2 : 2 ≤ c.h.scope) (ha : d.alone = false) (hs : c.span = false)
    (hf : d.part = false → fullArrival c s = true) (hr : ∀ r, getRdv c s = some r → r.pc = c.pc ∧ r.cd = c.cd) (hl : partLanes c s = [])
    (hn : rdvComplete c.team (rdvSet c (dropPart c s)) (arrivals c (dropPart c s)) (dropPart c s) = false) :
    issue i e d s = waitRdv d c (arrivals c (dropPart c s)) (dropPart c s) := by
  rw [issue_eq_issueRdv h h2 ha hs]
  unfold issueRdv
  simp only [early_clear h, hl, arrivalTraps_eq_nil hf hr, lowest]
  exact if_neg (by rw [← Bool.not_eq_true] at hn; exact hn)

/-- Lanes that a `.part` arrival left out are dealt with by its record (R191). -/
theorem issue_late {p : PartRec} (h : Late i (needOf e d) c s p) : issue i e d s = takePart d c (lateLanes c p) s := by
  have hl : partLanes c s = lateLanes c p := by simp [partLanes, h.record, h.here, lateLanes]
  rw [issue_eq_issueRdv h.toClear h.scope h.meets h.core]
  unfold issueRdv
  rw [early_clear h.toClear]
  simp only [lowest]
  split
  · next heq => rw [← heq, hl]
  · next heq => exact absurd (hl.symm.trans heq) h.some

end

/-! ### What is kept of threads and groups -/

section
variable (c : Ctx) (s : State)

theorem thr_modThrs_keeps {β : Type} {π : Thread → β} {f : Thread → Thread} (hf : ∀ th, π (f th) = π th) (t g : Nat) (l : List Nat) (k : TKey) :
    π ((s.modThrs t g l f).thr k) = π (s.thr k) := by
  refine List.foldlRecOn (motive := fun (u : State) => π (u.thr k) = π (s.thr k)) l _ rfl fun u e i _ => ?_
  by_cases hk : (t, g, i) = k
  · rw [← hk, State.thr_modThr_same, hf, hk, e]
  · rw [State.thr_modThr_other _ _ hk, e]

theorem liveThr_congr {s t : State} {a g : Nat} (hg : (t.grp a g).width = (s.grp a g).width)
    (hl : ∀ i, (t.thr (a, g, i)).live = (s.thr (a, g, i)).live) : t.liveThr a g = s.liveThr a g := by
  simp only [State.liveThr, hg, hl]

@[simp] theorem thr_dropPart (k : TKey) : (dropPart c s).thr k = s.thr k := (dropPart_booked c s).thr k

theorem grp_dropPart_own : (dropPart c s).grp c.team c.group = { s.grp c.team c.group with part := ((dropPart c s).grp c.team c.group).part } := by
  rcases dropPart_cases c s with h | ⟨x, h⟩ <;> rw [h]
  rw [State.grp_modGrp_same]

theorem grp_dropPart_other {a g : Nat} (h : (a, g) ≠ (c.team, c.group)) : (dropPart c s).grp a g = s.grp a g := by
  rcases dropPart_cases c s with h' | ⟨x, h'⟩ <;> rw [h']
  exact State.grp_modGrp_other _ _ h.symm

theorem putRdv_dropPart (set : Option Nat) (r : Option Rdv) :
    putRdv c.team set r (dropPart c s) = { putRdv c.team set r s with groups := (dropPart c s).groups } := by
  rcases dropPart_cases c s with h | ⟨x, h⟩ <;> rw [h] <;> cases set <;> rfl

end

/-! ### An arrival that waits (R188, R189, R191) -/

section
variable (d : Desc) (c : Ctx) (r : Rdv) (s : State)

theorem notePart_frame : notePart d c s = { s with groups := (notePart d c s).groups } := by
  unfold notePart
  split <;> rfl

theorem grp_notePart_own : (notePart d c s).grp c.team c.group = { s.grp c.team c.group with
    part := if d.part = true then (s.grp c.team c.group).part.set (c.h.scope == 3) ⟨leftOut c s (c.group, c.act), c.pc, c.cd, false, []⟩
      else (s.grp c.team c.group).part } := by
  unfold notePart
  split <;> simp [leftOut]

theorem grp_notePart_other {a g : Nat} (h : (a, g) ≠ (c.team, c.group)) : (notePart d c s).grp a g = s.grp a g := by
  unfold notePart
  split
  · exact State.grp_modGrp_other _ _ h.symm
  · rfl

theorem waitRdv_frame : waitRdv d c r s = { putRdv c.team (rdvSet c s) (some r) s with
    threads := (waitRdv d c r s).threads, groups := (waitRdv d c r s).groups } := by
  unfold waitRdv
  rw [notePart_frame, State.modThrs_eq]

theorem thr_waitRdv_mem (hn : c.set.Nodup) {l : Nat} (hl : l ∈ c.set) :
    (waitRdv d c r s).thr (c.key l) = { s.thr (c.key l) with wait := .rdv (c.h.scope == 3) } := by
  unfold waitRdv Ctx.key
  rw [notePart_frame]
  exact (State.thr_modThrs_mem _ _ _ _ _ hn hl).trans (by rw [thr_putRdv])

theorem thr_waitRdv_other {k : TKey} (hk : ∀ l ∈ c.set, k ≠ c.key l) : (waitRdv d c r s).thr k = s.thr k := by
  unfold waitRdv
  rw [notePart_frame]
  exact (State.thr_modThrs_other _ _ _ _ _ hk).trans (thr_putRdv _ _ _ _ _)

theorem grp_waitRdv_other {a g : Nat} (h : (a, g) ≠ (c.team, c.group)) : (waitRdv d c r s).grp a g = s.grp a g := by
  unfold waitRdv
  rw [grp_notePart_other _ _ _ h, State.grp_modThrs, grp_putRdv]

theorem grp_waitRdv_own : (waitRdv d c r s).grp c.team c.group = { s.grp c.team c.group with
    part := if d.part = true then (s.grp c.team c.group).part.set (c.h.scope == 3) ⟨leftOut c s (c.group, c.act), c.pc, c.cd, false, []⟩
      else (s.grp c.team c.group).part } := by
  unfold waitRdv
  rw [grp_notePart_own, State.grp_modThrs, grp_putRdv]
  unfold leftOut
  rw [liveThr_congr (s := s)]
  · rw [State.grp_modThrs, grp_putRdv]
  · intro i
    refine (thr_modThrs_keeps _ (π := Thread.live) ?_ _ _ _ _).trans (congrArg Thread.live (thr_putRdv _ _ _ _ _))
    exact fun _ => rfl

theorem getRdv_waitRdv (h : c.h.scope = 3 ∨ (s.setOf c.team c.group).isSome = true) : getRdv c (waitRdv d c r s) = some r := by
  rw [← getRdv_putRdv c (some r) s h]
  refine getRdv_congr c ?_ ?_ ?_
  · rw [waitRdv_frame]
  · rw [waitRdv_frame]
  · unfold State.setOf
    rw [grp_waitRdv_own, grp_putRdv]

end

/-! ### A rendezvous that ends (R190) -/

/-- The threads of an arrival leave the rendezvous for the next word. -/
def leaveRdv (c : Ctx) (s : State) (a : Arrival) : State :=
  (advance c a.group a.set s).modThrs c.team a.group a.set (fun t => { t with wait := .none })

section
variable (c : Ctx) (s : State) (a : Arrival) (l : List Arrival)

theorem leaveRdv_frame : leaveRdv c s a = { s with threads := (leaveRdv c s a).threads } := by
  unfold leaveRdv advance
  rw [State.modThrs_eq, State.modThrs_eq s]

theorem thr_leaveRdv_mem (hn : a.set.Nodup) {i : Nat} (hi : i ∈ a.set) :
    (leaveRdv c s a).thr (c.team, a.group, i) = { s.thr (c.team, a.group, i) with pc := (c.pc + 12) % 2 ^ 64, wait := .none } := by
  unfold leaveRdv advance
  rw [State.thr_modThrs_mem _ _ _ _ _ hn hi, State.thr_modThrs_mem _ _ _ _ _ hn hi]

theorem thr_leaveRdv_other {k : TKey} (hk : ∀ i ∈ a.set, k ≠ (c.team, a.group, i)) : (leaveRdv c s a).thr k = s.thr k := by
  unfold leaveRdv advance
  rw [State.thr_modThrs_other _ _ _ _ _ hk, State.thr_modThrs_other _ _ _ _ _ hk]

theorem leaveAll_frame : l.foldl (leaveRdv c) s = { s with threads := (l.foldl (leaveRdv c) s).threads } := by
  induction l generalizing s with
  | nil => rfl
  | cons a l ih => rw [List.foldl_cons, ih, leaveRdv_frame]

theorem thr_leaveAll_other {k : TKey} (hk : ∀ a ∈ l, ∀ i ∈ a.set, k ≠ (c.team, a.group, i)) : (l.foldl (leaveRdv c) s).thr k = s.thr k :=
  List.foldlRecOn (motive := fun (u : State) => u.thr k = s.thr k) l _ rfl fun u e a ha => (thr_leaveRdv_other c u a (hk a ha)).trans e

/-- A thread of an arrival stands at the next word, though several arrivals should hold it. -/
theorem thr_leaveAll_mem (hn : ∀ a ∈ l, a.set.Nodup) {k : TKey} (hk : ∃ a ∈ l, ∃ i ∈ a.set, k = (c.team, a.group, i)) :
    (l.foldl (leaveRdv c) s).thr k = { s.thr k with pc := (c.pc + 12) % 2 ^ 64, wait := .none } := by
  induction l generalizing s with
  | nil => obtain ⟨a, ha, -⟩ := hk; cases ha
  | cons b l ih =>
    rw [List.foldl_cons]
    have hb : (∃ i ∈ b.set, k = (c.team, b.group, i)) ∨ (leaveRdv c s b).thr k = s.thr k := by
      by_cases h : ∃ i ∈ b.set, k = (c.team, b.group, i)
      · exact .inl h
      · exact .inr (thr_leaveRdv_other c s b (fun i hi e => h ⟨i, hi, e⟩))
    have step : (∃ i ∈ b.set, k = (c.team, b.group, i)) →
        (leaveRdv c s b).thr k = { s.thr k with pc := (c.pc + 12) % 2 ^ 64, wait := .none } := by
      rintro ⟨i, hi, rfl⟩
      exact thr_leaveRdv_mem c s b (hn b List.mem_cons_self) hi
    by_cases hl : ∃ a ∈ l, ∃ i ∈ a.set, k = (c.team, a.group, i)
    · rw [ih _ (fun a ha => hn a (List.mem_cons_of_mem _ ha)) hl]
      rcases hb with hb | hb
      · rw [step hb]
      · rw [hb]
    · rw [thr_leaveAll_other c _ l (fun a ha i hi e => hl ⟨a, ha, i, hi, e⟩)]
      obtain ⟨a, ha, hi⟩ := hk
      rcases List.mem_cons.mp ha with rfl | ha
      · exact step hi
      · exact absurd ⟨a, ha, hi⟩ hl

end

section
variable (n : Need) (c : Ctx) (s : State)

/-- The state in which a completed rendezvous is over and its threads have not moved yet. -/
def rdvOver : State :=
  let u := dropPart c s
  let r := arrivals c u
  let c' := joinCtx c r
  putRdv c.team (rdvSet c u) none (signal n.desc c' (r.arr.map (·.group)) (commitAll (r.arr.map (fun a => (a.group, a.set))) c' u))

theorem gathered_eq : gathered n c s =
    (arrivals c (dropPart c s)).arr.foldl (leaveRdv (joinCtx c (arrivals c (dropPart c s)))) (rdvOver n c s) := rfl

theorem rdvOver_booked : Booked (putRdv c.team (rdvSet c s) none s) (rdvOver n c s) := by
  simp only [rdvOver, rdvSet_dropPart]
  exact (((dropPart_booked c s).trans (commitAll_booked _ _ _)).trans (signal_booked _ _ _ _)).putRdv _ _ _

theorem grp_gathered (a b : Nat) : (s.grp a b).Booked ((gathered n c s).grp a b) := by
  rw [gathered_eq, leaveAll_frame]
  change (s.grp a b).Booked ((rdvOver n c s).grp a b)
  unfold rdvOver
  rw [grp_putRdv]
  exact ((grp_dropPart c s a b).trans (grp_commitAll _ _ _ a b)).trans (grp_signal _ _ _ _ a b)

theorem gathered_frame : gathered n c s = { putRdv c.team (rdvSet c s) none s with
    threads := (gathered n c s).threads, groups := (gathered n c s).groups, pipes := (gathered n c s).pipes
    lsq := (gathered n c s).lsq, slot := (gathered n c s).slot, engAt := (gathered n c s).engAt } := by
  rw [gathered_eq, leaveAll_frame, (rdvOver_booked n c s).rest]

theorem getRdv_gathered (h : c.h.scope = 3 ∨ (s.setOf c.team c.group).isSome = true) : getRdv c (gathered n c s) = none := by
  rw [← getRdv_putRdv c none s h]
  refine getRdv_congr c ?_ ?_ ?_
  · rw [gathered_frame]
  · rw [gathered_frame]
  · unfold State.setOf
    rw [grp_gathered n c s, grp_putRdv]

end

section
variable {i : Instr} {n : Need} {c : Ctx} {s : State}

theorem thr_rdvOver (k : TKey) : (rdvOver n c s).thr k = s.thr k := by rw [(rdvOver_booked n c s).thr, thr_putRdv]

theorem thr_gathered_mem (h : Joined i n c s) {a : Arrival} (ha : a ∈ (arrivals c (dropPart c s)).arr) {l : Nat} (hl : l ∈ a.set) :
    (gathered n c s).thr (c.team, a.group, l) = { s.thr (c.team, a.group, l) with pc := (c.pc + 12) % 2 ^ 64, wait := .none } := by
  rw [gathered_eq, ← arrivals_pc h]
  exact (thr_leaveAll_mem _ _ _ (fun a ha => (h.sound a ha).1) ⟨a, ha, l, hl, rfl⟩).trans (by rw [thr_rdvOver]; rfl)

theorem thr_gathered_other {k : TKey} (hk : ∀ a ∈ (arrivals c (dropPart c s)).arr, ∀ l ∈ a.set, k ≠ (c.team, a.group, l)) :
    (gathered n c s).thr k = s.thr k := by
  rw [gathered_eq]
  exact (thr_leaveAll_other (joinCtx c _) _ _ hk).trans (thr_rdvOver k)

end

/-! ### Lanes that come late to a `.part` arrival (R191) -/

section
variable {d : Desc} {c : Ctx} {s : State} {p : PartRec}

theorem takePart_waits (h : (s.grp c.team c.group).part.get? (c.h.scope == 3) = some p) (hp : p.done = false) (l : List Nat) :
    takePart d c l s = s.modThrs c.team c.group l (fun t => { t with wait := .rdv (c.h.scope == 3) }) := by
  simp [takePart, h, hp]

theorem takePart_takes (h : (s.grp c.team c.group).part.get? (c.h.scope == 3) = some p) (hp : p.done = true) (l : List Nat) :
    takePart d c l s =
      (advance c c.group l (forEach (l.filter c.act.contains) (fun s i => d.take c i (p.vals.getD i 0) s) s)).modGrp c.team c.group (fun G =>
        { G with part := G.part.set (c.h.scope == 3) { p with absent := p.absent.filter (fun i => !l.contains i) } }) := by
  simp [takePart, h, hp]

end

/-- Settles O10: the bookkeeping of an issue, an arrival that waits, a rendezvous that ends, and lanes that come late to one. -/
theorem issueAndRendezvous : Obligations.IssueAndRendezvous := by
  unfold Obligations.IssueAndRendezvous
  refine ⟨fun i n s c h => ?_, fun i e d s c hx h h2 ha hs hf hr hl hn => ?_, fun i n s c h r hr => ?_, fun i e d s c p hx h hp => ?_⟩
  · exact ⟨fun l hl => thr_settled_mem n c s h.once hl, fun k hk => thr_settled_other n c s hk, fun a g => ⟨_, rfl, grp_settled n c s a g⟩,
      grp_settled_own n c s, settled_frame n c s⟩
  · refine ⟨_, hx, ?_⟩
    rw [issue_waits h h2 ha hs hf hr hl hn]
    have hset : c.h.scope = 3 ∨ ((dropPart c s).setOf c.team c.group).isSome = true := by
      rw [setOf_dropPart]
      exact h.has_rdv h2
    refine ⟨fun l hl => ?_, fun k hk => ?_, getRdv_waitRdv d c _ _ hset, fun a g hg => ?_, ?_, ?_⟩
    · rw [thr_waitRdv_mem _ _ _ _ h.once hl, thr_dropPart]
    · rw [thr_waitRdv_other _ _ _ _ hk, thr_dropPart]
    · rw [grp_waitRdv_other _ _ _ _ hg, grp_dropPart_other _ _ hg]
    · rintro p rfl
      have e : leftOut c (dropPart c s) (c.group, c.act) = leftOut c s (c.group, c.act) := by
        unfold leftOut
        rw [liveThr_congr (s := s) (by rw [grp_dropPart_own]) (fun _ => by rw [thr_dropPart])]
      rw [grp_waitRdv_own, e, grp_dropPart_own]
    · rw [waitRdv_frame, rdvSet_dropPart, putRdv_dropPart]
  · subst hr
    exact ⟨fun a ha l hl => thr_gathered_mem h ha hl, fun k hk => thr_gathered_other hk, fun a g => ⟨_, rfl, grp_gathered n c s a g⟩,
      getRdv_gathered n c s (h.has_rdv h.scope), fun t ht => ht ▸ gathered_frame n c s⟩
  · refine ⟨_, hx, ?_⟩
    rw [issue_late h, takePart_waits h.record hp]
    exact ⟨State.modThrs_eq _ _ _ _ _, fun l hl => State.thr_modThrs_mem _ _ _ _ _ (h.once.filter _) hl,
      fun k hk => State.thr_modThrs_other _ _ _ _ _ hk⟩

end Sys2Proof
end

section

/-! ## Rendezvous, hardware barriers and the token (O26)

What members of a rendezvous stand at, a uniform value for every member, barriers by what a flip wakes, and the holder of the token. -/

namespace Sys2Proof

open Machine

/-! ### Members of an instruction that executes (R190) -/

section
variable {i : Instr} {n : Need} {s : State} {c : Ctx} {s1 : State}

/-- An instruction without a rendezvous executes for its own group alone. -/
theorem Runs.mem_own (h : Runs i n s c s1) (ha : n.alone = true) : c.mem = [(c.group, c.act)] := by
  obtain ⟨⟨hr, -⟩ | ⟨c0, hj, -⟩, -⟩ := h
  · exact (mkCtx_eq_some hr.ctx).2.1
  · exact absurd hj.meets (by simp [ha])

/-- No member of a rendezvous is an ejected thread. -/
theorem Runs.core (h : Runs i n s c s1) (ha : n.alone = false) (h2 : 2 ≤ c.h.scope) : c.span = false := by
  obtain ⟨⟨hr, -⟩ | ⟨c0, hj, rfl, -⟩, -⟩ := h
  · rcases hr.scope with h1 | h1
    · omega
    · exact absurd h1 (by simp [ha])
  · exact hj.core

/-- The executing context has the header of the instruction's word. -/
theorem Runs.hdr (h : Runs i n s c s1) : legal i = true ∧ ∃ opc o, parts i = some (opc, c.h, o) := by
  obtain ⟨⟨hr, -⟩ | ⟨c0, hj, rfl, -⟩, -⟩ := h
  · exact ⟨hr.word, (mkCtx_eq_some hr.ctx).1⟩
  · exact ⟨hj.word, (mkCtx_eq_some hj.ctx).1⟩

/-- Every active thread of every member stands at the next word and waits no longer. -/
theorem Runs.members_go_on (h : Runs i n s c s1) {m : Nat × List Nat} (hm : m ∈ c.mem) {l : Nat} (hl : l ∈ m.2) :
    (s1.thr (c.team, m.1, l)).wait = .none ∧ (s1.thr (c.team, m.1, l)).pc = (c.pc + 12) % 2 ^ 64 := by
  obtain ⟨⟨hr, rfl⟩ | ⟨c0, hj, rfl, rfl⟩, -⟩ := h
  · obtain ⟨-, hmem, -, hact⟩ := mkCtx_eq_some hr.ctx
    rw [hmem, List.mem_singleton] at hm
    subst hm
    have hset := hact l hl
    have e := thr_settled_mem n c s hr.once hset
    unfold Ctx.key at e
    rw [e]
    exact ⟨(hr.awake l hset).2, rfl⟩
  · obtain ⟨a, ha, rfl⟩ := List.mem_map.mp hm
    have e := thr_gathered_mem hj ha ((hj.sound a ha).2.2 l hl)
    have hpc : (joinCtx c0 (arrivals c0 (dropPart c0 s))).pc = c0.pc := arrivals_pc hj
    rw [hpc]
    exact ⟨congrArg Thread.wait e, congrArg Thread.pc e⟩

end

/-- The end of a `.part` rendezvous leaves a thread that does not wait where it is. -/
theorem LetGo.stays {c : Ctx} {s1 u t : State} {out : Nat → Nat → Nat} (h : LetGo c s1 u t out) {k : TKey} (hw : (u.thr k).wait = .none) :
    t.thr k = u.thr k := by
  by_cases hk : ∀ m ∈ c.mem, ∀ l ∈ leftOut c s1 m, k ≠ (c.team, m.1, l)
  · exact h.others k hk
  · push Not at hk
    obtain ⟨m, hm, l, hl, rfl⟩ := hk
    rw [h.goOn m hm l hl, hw]
    simp [← hw]

/-! ### `bar` (R329) -/

section
variable {h : Hdr} {o : OpG} {s : State} {c : Ctx}

theorem exec_bar : exec (.bar h o) s = .next (issue (.bar h o) 0 (barDesc o) s) := rfl

theorem issue_bar {s1 : State} (hr : Runs (.bar h o) (needOf 0 (barDesc o)) s c s1) :
    (bit o.flags 0 = false ∨ c.h.scope ≤ 1 → issue (.bar h o) 0 (barDesc o) s = s1)
      ∧ (bit o.flags 0 = true → 2 ≤ c.h.scope → LetGo c s1 s1 (issue (.bar h o) 0 (barDesc o) s) (fun _ _ => 0)) :=
  ⟨fun hp => issue_runs hr hp, fun hp h2 => issue_letGo hr hp rfl h2⟩

/-- Lanes that were left out take the passage of a `bar` that has ended. -/
theorem bar_taken {p : PartRec} (hl : Late (.bar h o) (needOf 0 (barDesc o)) c s p) (hp : p.done = true) :
    Taken c s (issue (.bar h o) 0 (barDesc o) s) p (fun _ x y => y = x) := by
  have hid : forEach ((lateLanes c p).filter c.act.contains) (fun s _ => s) s = s := List.foldl_fixed _
  rw [issue_late hl, takePart_takes hl.record hp]
  change Taken c s (State.modGrp (advance c c.group (lateLanes c p) (forEach _ (fun s _ => s) s)) _ _ _) p _
  rw [hid]
  refine ⟨?_, fun l hm => ⟨_, rfl, State.thr_modThrs_mem _ _ _ _ _ (hl.once.filter _) hm⟩, fun k hk => State.thr_modThrs_other _ _ _ _ _ hk, ?_, ?_⟩
  · unfold advance
    rw [State.modThrs_eq]
    rfl
  · unfold advance
    rw [State.grp_modGrp_same, State.grp_modThrs]
  · intro k hk
    unfold advance
    rw [State.grp_modGrp_other _ _ (Ne.symm hk), State.grp_modThrs]

end

/-! ### `rdv` (R330) -/

section
variable (c : Ctx) (n v : Nat)

/-- One value in an s register of each member. -/
theorem putS_members (l : List (Nat × List Nat)) (s : State) (hn : (l.map Prod.fst).Nodup)
    (hf : ∀ m ∈ l, ∀ f ∈ (s.grp c.team m.1).inflightS, f.due ≤ s.now c.team) :
    let t := l.foldl (fun s m => putS c m.1 n v s) s
    t = { s with groups := t.groups }
      ∧ (∀ m ∈ l, (t.grp c.team m.1).s n = ⟨BitVec.ofNat 64 v, false⟩ ∧ ∀ k, k ≠ n → (t.grp c.team m.1).s k = (s.grp c.team m.1).s k)
      ∧ ∀ g, (∀ m ∈ l, g ≠ m.1) → t.grp c.team g = s.grp c.team g := by
  induction l generalizing s with
  | nil => exact ⟨rfl, fun m hm => (List.not_mem_nil hm).elim, fun _ _ => rfl⟩
  | cons b l ih =>
    obtain ⟨hb, hl⟩ := List.nodup_cons.mp hn
    have hne : ∀ m ∈ l, b.1 ≠ m.1 := fun m hm e => hb (e ▸ List.mem_map_of_mem hm)
    have put := putS_lands c s b.1 n v (hf b List.mem_cons_self)
    have hoth : ∀ g, g ≠ b.1 → (putS c b.1 n v s).grp c.team g = s.grp c.team g := fun g hg => put.others (c.team, g) (by simp [hg])
    obtain ⟨hrest, hmem, hother⟩ := ih (putS c b.1 n v s) hl fun m hm f hfm => by
      rw [hoth m.1 (hne m hm).symm] at hfm
      exact hf m (List.mem_cons_of_mem _ hm) f hfm
    refine ⟨?_, fun m hm => ?_, fun g hg => ?_⟩
    · exact hrest
    · rcases List.mem_cons.mp hm with rfl | hm
      · change (State.grp (l.foldl _ (putS c m.1 n v s)) c.team m.1).s n = _ ∧ _
        rw [List.foldl_cons, hother m.1 hne]
        exact ⟨put.dest, put.regs⟩
      · exact ⟨(hmem m hm).1, fun k hk => by rw [← hoth m.1 (hne m hm).symm]; exact (hmem m hm).2 k hk⟩
    · exact (hother g fun m hm => hg m (List.mem_cons_of_mem _ hm)).trans (hoth g (hg b List.mem_cons_self))

end

/-- A uniform register of the lead group, once every result has come. -/
theorem readS_still {c : Ctx} {s : State} (h : Able c s) (hs : c.span = false) (lane n : Nat) : readS c s lane n = (s.grp c.team c.lead).s n := by
  have hf : (s.grp c.team c.lead).inflightS.filter (fun f => f.reg == n && (f.nosb || c.nosb) && decide (s.now c.team < f.due)) = [] := by
    rw [List.filter_eq_nil_iff]
    intro f hm
    simp [Nat.not_lt.mpr (h.stillS _ f hm)]
  unfold readS State.readGrpS
  simp [hs, hf]

section
variable {h : Hdr} {o : OpG} {s : State} {c : Ctx} {s1 : State}

theorem exec_rdv (hr : Runs (.rdv h o) (needOf 0 (rdvDesc o)) s c s1) :
    exec (.rdv h o) s = .next (c.mem.foldl (fun s m => putS c m.1 (idx o.d) ((s1.grp c.team c.lead).s (idx o.a)).v.toNat s) s1) := by
  obtain ⟨hlegal, opc, o', hp⟩ := hr.hdr
  have hh : c.h.scope = h.scope := by
    simp only [parts, Option.some.injEq, Prod.mk.injEq] at hp
    rw [hp.2.1]
  have h2 : 2 ≤ c.h.scope := by
    simp only [legal, hd, Bool.and_eq_true, List.contains_iff_mem, List.mem_cons, List.not_mem_nil, or_false] at hlegal
    omega
  rw [exec_runs rfl hr (.inl rfl), ← readS_still hr.2 (hr.core rfl h2) (c.set.headD 0)]
  rfl

end

/-! ### What a barrier's flip wakes (R332, R333) -/

/-- Waits that have been looked at again: threads' program counters and waits have changed at most, and groups' waits and dependency counters. -/
structure Woken (s t : State) : Prop where
  rest : t = { s with threads := t.threads, groups := t.groups }
  thr : ∀ k, t.thr k = { s.thr k with pc := (t.thr k).pc, wait := (t.thr k).wait }
  grp : ∀ a g, t.grp a g = { s.grp a g with cnt := (t.grp a g).cnt, waits := (t.grp a g).waits }

namespace Woken
variable {s t u : State}

theorem refl (s : State) : Woken s s := ⟨rfl, fun _ => rfl, fun _ _ => rfl⟩

theorem trans (h : Woken s t) (h' : Woken t u) : Woken s u :=
  ⟨by rw [h'.rest, h.rest], fun k => by rw [h'.thr, h.thr], fun a g => by rw [h'.grp, h.grp]⟩

theorem foldl {α : Type} {f : State → α → State} (hf : ∀ s x, Woken s (f s x)) (l : List α) (s : State) : Woken s (l.foldl f s) :=
  List.foldlRecOn l _ (refl s) fun _ e _ _ => e.trans (hf _ _)

theorem modGrp {f : Group → Group} (hf : ∀ G, f G = { G with cnt := (f G).cnt, waits := (f G).waits }) (s : State) (a g : Nat) :
    Woken s (s.modGrp a g f) := by
  refine ⟨rfl, fun _ => rfl, fun a' g' => ?_⟩
  rw [State.grp_modGrp_eq]
  split
  · next h => obtain ⟨rfl, rfl⟩ := Prod.mk.inj h; exact hf _
  · rfl

theorem modThr {f : Thread → Thread} (hf : ∀ th, f th = { th with pc := (f th).pc, wait := (f th).wait }) (s : State) (k : TKey) :
    Woken s (s.modThr k f) := by
  refine ⟨rfl, fun k' => ?_, fun _ _ => rfl⟩
  by_cases h : k = k'
  · rw [← h, State.thr_modThr_same]
    exact hf _
  · rw [State.thr_modThr_other _ _ h]

theorem modThrs {f : Thread → Thread} (hf : ∀ th, f th = { th with pc := (f th).pc, wait := (f th).wait }) (s : State) (a g : Nat) (l : List Nat) :
    Woken s (s.modThrs a g l f) := foldl (fun s _ => modThr hf s _) l s

theorem lowerW (a g sig : Nat) (s : State) : Woken s (lowerW a g sig s) := by
  unfold Machine.lowerW
  split
  · exact modGrp (fun _ => rfl) s a g
  · exact refl s

theorem finishWait (a g : Nat) (w : WaitRec) (s : State) : Woken s (finishWait a g w s) := by
  unfold Machine.finishWait
  split
  · refine (lowerW _ _ _ _).trans (modThrs (fun th => ?_) _ _ _ _)
    split <;> rfl
  · exact modGrp (fun _ => rfl) s a g

theorem evalBarWaits (a g : Nat) (s : State) : Woken s (evalBarWaits a g s) := by
  unfold Machine.evalBarWaits
  refine (modGrp (fun _ => rfl) s a g).trans (foldl (fun s w => ?_) _ _)
  split
  · exact modGrp (fun _ => rfl) s a g
  · exact finishWait _ _ _ _

end Woken

/-! ### Barriers (R331, R332) -/

section
variable (t : Nat) (bk : Option Nat) (n : Nat) (b : HwBar) (s : State)

theorem putBar_frame : putBar t bk n b s = { s with teams := (putBar t bk n b s).teams, sets := (putBar t bk n b s).sets } := by cases bk <;> rfl

@[simp] theorem thr_putBar (k : TKey) : (putBar t bk n b s).thr k = s.thr k := by cases bk <;> rfl

@[simp] theorem grp_putBar (a g : Nat) : (putBar t bk n b s).grp a g = s.grp a g := by cases bk <;> rfl

@[simp] theorem getBar_putBar_same : getBar t bk n (putBar t bk n b s) = b := by cases bk <;> simp [getBar, putBar]

theorem getBar_putBar_other {m : Nat} (h : m ≠ n) : getBar t bk m (putBar t bk n b s) = getBar t bk m s := by
  cases bk <;> simp [getBar, putBar, Tbl.getD_set_other _ _ _ h.symm]

theorem launch_putBar (a : Nat) : (putBar t bk n b s).launch a = s.launch a := by
  cases bk with
  | some k => rfl
  | none =>
    by_cases h : t = a
    · subst h
      simp [State.launch, State.grid, putBar]
    · simp [State.launch, State.grid, putBar, State.team_modTeam_other _ _ h]

theorem getBar_congr {s u : State} (hT : u.teams = s.teams) (hS : u.sets = s.sets) : getBar t bk n u = getBar t bk n s := by
  cases bk <;> simp [getBar, State.team, State.gset, hT, hS]

end

theorem Woken.getBar {s u : State} (h : Woken s u) (t : Nat) (bk : Option Nat) (n : Nat) : getBar t bk n u = getBar t bk n s :=
  getBar_congr t bk n (by rw [h.rest]) (by rw [h.rest])

/-- Two states whose teams have the same members: the same groups live, of the same sets and roles (R188, R332). -/
structure SameMembers (s t : State) : Prop where
  launch : ∀ a, t.launch a = s.launch a
  width : ∀ a g, (t.grp a g).width = (s.grp a g).width
  set : ∀ a g, (t.grp a g).setNo = (s.grp a g).setNo
  prod : ∀ a g, (t.grp a g).prod = (s.grp a g).prod
  live : ∀ k, (t.thr k).live = (s.thr k).live

namespace SameMembers
variable {s t u : State}

theorem trans (h : SameMembers s t) (h' : SameMembers t u) : SameMembers s u :=
  ⟨fun a => (h'.launch a).trans (h.launch a), fun a g => (h'.width a g).trans (h.width a g), fun a g => (h'.set a g).trans (h.set a g),
    fun a g => (h'.prod a g).trans (h.prod a g), fun k => (h'.live k).trans (h.live k)⟩

theorem expectedGroups (h : SameMembers s t) (a : Nat) (bk : Option Nat) (r : Nat) : expectedGroups a bk r t = expectedGroups a bk r s := by
  have hl : t.liveGroups a = s.liveGroups a := by
    simp only [State.liveGroups, h.launch, liveThr_congr (h.width a _) (fun i => h.live (a, _, i))]
  cases bk <;> simp only [Machine.expectedGroups, members, hl, State.setOf, h.set, h.prod]

theorem putBar (a : Nat) (bk : Option Nat) (n : Nat) (b : HwBar) (s : State) : SameMembers s (putBar a bk n b s) :=
  ⟨launch_putBar a bk n b s, fun _ _ => by rw [grp_putBar], fun _ _ => by rw [grp_putBar], fun _ _ => by rw [grp_putBar],
    fun _ => by rw [thr_putBar]⟩

end SameMembers

/-! ### `arrive` (R332) -/

/-- Where `arrive` leaves the phase: in the group's s register, or in a register of each active lane. -/
def putPhase (sel ph : Nat) (c : Ctx) (s : State) : State :=
  if cls sel = 2 then putS c c.group (idx sel) ph s else forEach c.act (fun s l => putV c c.group l (idx sel) ph s) s

/-- A barrier with one more arrival of a group that it expects. -/
def arriveAt (c : Ctx) (s : State) (bk : Option Nat) (n r : Nat) : HwBar :=
  ⟨(getBar c.team bk n s).phase, some r,
    if c.group ∈ expectedGroups c.team bk r s then (getBar c.team bk n s).arrived ++ [c.group] else (getBar c.team bk n s).arrived⟩

section
variable (c : Ctx) (g k v : Nat)

/-- One value in a register of each listed lane of the executing group. -/
theorem putV_lanes (l : List Nat) (s : State) (hn : l.Nodup) (hf : ∀ i ∈ l, ∀ f ∈ (s.thr (c.key i)).inflight, f.due ≤ s.now c.team) :
    let t := forEach l (fun s i => putV c c.group i k v s) s
    t = { s with threads := t.threads } ∧ (∀ q, (∀ i ∈ l, q ≠ c.key i) → t.thr q = s.thr q)
      ∧ ∀ i ∈ l, (t.thr (c.key i)).v k = ⟨BitVec.ofNat 32 v, false⟩ := by
  induction l generalizing s with
  | nil => exact ⟨rfl, fun _ _ => rfl, fun i hi => (List.not_mem_nil hi).elim⟩
  | cons b l ih =>
    obtain ⟨hb, hl⟩ := List.nodup_cons.mp hn
    have hoth : ∀ q, q ≠ c.key b → (putV c c.group b k v s).thr q = s.thr q := fun q hq => by rw [thr_putV]; exact if_neg hq
    have hne : ∀ i ∈ l, c.key i ≠ c.key b := fun i hi => key_ne fun e => hb (e ▸ hi)
    obtain ⟨hrest, hother, hmem⟩ := ih (putV c c.group b k v s) hl fun i hi f hfm => by
      rw [hoth _ (hne i hi)] at hfm
      exact hf i (List.mem_cons_of_mem _ hi) f hfm
    refine ⟨hrest, fun q hq => ?_, fun i hi => ?_⟩
    · exact (hother q fun i hi => hq i (List.mem_cons_of_mem _ hi)).trans (hoth q (hq b List.mem_cons_self))
    · rcases List.mem_cons.mp hi with rfl | hi
      · obtain ⟨wrote, -⟩ := putV_wrote c c.group i k v s fun f hfm => .inr (hf i List.mem_cons_self f hfm)
        have e : ((putV c c.group i k v s).thr (c.key i)).v k = ⟨BitVec.ofNat 32 v, false⟩ := by
          unfold Thread.v
          rw [show ((putV c c.group i k v s).thr (c.key i)).wb = (s.thr (c.key i)).wb by unfold Ctx.key; rw [wrote.kept]]
          exact (wrote.regs _).trans (by simp [Ctx.key])
        exact (congrArg (Thread.v · k) (hother _ fun j hj => (hne j hj).symm)).trans e
      · exact hmem i hi

end

/-- A write of an s register leaves the rest of every group's record. -/
theorem grp_putS_keeps {β : Type} {π : Group → β} (hπ : ∀ (G : Group) x y z, π { G with sregs := x, inflightS := y, pendS := z } = π G)
    (c : Ctx) (g n v : Nat) (s : State) (a b : Nat) : π ((putS c g n v s).grp a b) = π (s.grp a b) :=
  grp_modGrp_keeps s (fun G => hπ G _ _ _) c.team g a b

section
variable {o : OpG} {sel ph : Nat} {c : Ctx} {s : State}

theorem putPhase_frame : putPhase sel ph c s = { s with threads := (putPhase sel ph c s).threads, groups := (putPhase sel ph c s).groups } := by
  unfold putPhase
  split
  · rfl
  · exact List.foldlRecOn (motive := fun (u : State) => u = { s with threads := u.threads, groups := u.groups }) c.act _ rfl
      fun u e l _ => by rw [putV_eq, e]

theorem putPhase_members : SameMembers s (putPhase sel ph c s) := by
  unfold putPhase
  split
  · exact ⟨fun _ => rfl, fun _ _ => grp_putS_keeps (π := Group.width) (fun _ _ _ _ => rfl) ..,
      fun _ _ => grp_putS_keeps (π := Group.setNo) (fun _ _ _ _ => rfl) .., fun _ _ => grp_putS_keeps (π := Group.prod) (fun _ _ _ _ => rfl) ..,
      fun _ => rfl⟩
  · refine List.foldlRecOn (motive := fun (u : State) => SameMembers s u) c.act _ ⟨fun _ => rfl, fun _ _ => rfl, fun _ _ => rfl, fun _ _ => rfl, fun _ => rfl⟩
      fun u e l _ => e.trans ⟨fun _ => rfl, fun _ _ => rfl, fun _ _ => rfl, fun _ _ => rfl, fun q => ?_⟩
    by_cases hq : (c.team, c.group, l) = q
    · unfold putV
      rw [← hq, State.thr_modThr_same]
      dsimp only
      split <;> rfl
    · unfold putV
      rw [State.thr_modThr_other _ _ hq]

theorem arrive_eff : (arriveDesc o).eff c s = evalBar c.team (bankOf c s) (bits o.flags 2 0)
    (putBar c.team (bankOf c s) (bits o.flags 2 0) (arriveAt c s (bankOf c s) (bits o.flags 2 0) (bits o.flags 6 5))
      (putPhase o.d (getBar c.team (bankOf c s) (bits o.flags 2 0) s).phase c s)) := by
  have e := (putPhase_members (sel := o.d) (ph := (getBar c.team (bankOf c s) (bits o.flags 2 0) s).phase) (c := c) (s := s)).expectedGroups
    c.team (bankOf c s) (bits o.flags 6 5)
  simp only [putPhase] at e
  simp [arriveDesc, arriveAt, putPhase, e]

end

section
variable {t : Nat} {bk : Option Nat} {n r : Nat} {s : State}

theorem evalBar_flips (hr : (getBar t bk n s).role = some r) (ha : (getBar t bk n s).arrived ≠ [])
    (hg : ∀ g ∈ expectedGroups t bk r s, g ∈ (getBar t bk n s).arrived) :
    Woken (putBar t bk n ⟨((getBar t bk n s).phase + 1) % 2 ^ 16, none, []⟩ s) (evalBar t bk n s) := by
  have hb : (!(getBar t bk n s).arrived.isEmpty && (expectedGroups t bk r s).all (fun g => (getBar t bk n s).arrived.contains g)) = true := by
    simp only [Bool.and_eq_true, Bool.not_eq_true', List.isEmpty_eq_false_iff, List.all_eq_true, List.contains_iff_mem]
    exact ⟨ha, hg⟩
  unfold evalBar
  simp only [hr, hb, if_true]
  exact Woken.foldl (fun s g => .evalBarWaits t g s) _ _

theorem evalBar_stays (hr : (getBar t bk n s).role = some r)
    (h : ¬ ((getBar t bk n s).arrived ≠ [] ∧ ∀ g ∈ expectedGroups t bk r s, g ∈ (getBar t bk n s).arrived)) : evalBar t bk n s = s := by
  have hb : (!(getBar t bk n s).arrived.isEmpty && (expectedGroups t bk r s).all (fun g => (getBar t bk n s).arrived.contains g)) = false := by
    rw [← Bool.not_eq_true]
    simpa only [Bool.and_eq_true, Bool.not_eq_true', List.isEmpty_eq_false_iff, List.all_eq_true, List.contains_iff_mem] using h
  unfold evalBar
  simp only [hr, hb]
  exact if_neg (by decide)

end

section
variable {t : Nat} {bk : Option Nat} {n r : Nat} {s : State}

/-- What evaluating a barrier leaves: its threads woken when it flips, over a state in which barriers alone have changed. -/
theorem evalBar_woken (hr : (getBar t bk n s).role = some r) :
    ∃ u, Woken u (evalBar t bk n s) ∧ u = { s with teams := u.teams, sets := u.sets } := by
  by_cases h : (getBar t bk n s).arrived ≠ [] ∧ ∀ g ∈ expectedGroups t bk r s, g ∈ (getBar t bk n s).arrived
  · exact ⟨_, evalBar_flips hr h.1 h.2, putBar_frame t bk n _ s⟩
  · rw [evalBar_stays hr h]
    exact ⟨s, .refl s, rfl⟩

theorem getBar_evalBar_same (hr : (getBar t bk n s).role = some r) : getBar t bk n (evalBar t bk n s) =
    if (getBar t bk n s).arrived ≠ [] ∧ ∀ g ∈ expectedGroups t bk r s, g ∈ (getBar t bk n s).arrived
    then ⟨((getBar t bk n s).phase + 1) % 2 ^ 16, none, []⟩ else getBar t bk n s := by
  split
  · next h =>
    rw [(evalBar_flips hr h.1 h.2).getBar, getBar_putBar_same]
  · next h => rw [evalBar_stays hr h]

theorem getBar_evalBar_other (hr : (getBar t bk n s).role = some r) {m : Nat} (hm : m ≠ n) : getBar t bk m (evalBar t bk n s) = getBar t bk m s := by
  by_cases h : (getBar t bk n s).arrived ≠ [] ∧ ∀ g ∈ expectedGroups t bk r s, g ∈ (getBar t bk n s).arrived
  · rw [(evalBar_flips hr h.1 h.2).getBar, getBar_putBar_other _ _ _ _ _ hm]
  · rw [evalBar_stays hr h]

end

section
variable {c : Ctx} {bk : Option Nat} {n r sel ph : Nat} {s : State}

/-- The state of `arrive` before its barrier is evaluated. -/
def arrived (c : Ctx) (bk : Option Nat) (n r sel ph : Nat) (s : State) : State :=
  putBar c.team bk n (arriveAt c s bk n r) (putPhase sel ph c s)

theorem arrived_members : SameMembers s (arrived c bk n r sel ph s) := putPhase_members.trans (.putBar _ _ _ _ _)

theorem getBar_arrived_same : getBar c.team bk n (arrived c bk n r sel ph s) = arriveAt c s bk n r := getBar_putBar_same _ _ _ _ _

theorem getBar_arrived_other {m : Nat} (hm : m ≠ n) : getBar c.team bk m (arrived c bk n r sel ph s) = getBar c.team bk m s := by
  unfold arrived
  exact (getBar_putBar_other _ _ _ _ _ hm).trans (getBar_congr _ _ _ (by rw [putPhase_frame]) (by rw [putPhase_frame]))

theorem arrived_frame : arrived c bk n r sel ph s = { s with
    threads := (putPhase sel ph c s).threads, groups := (putPhase sel ph c s).groups
    teams := (arrived c bk n r sel ph s).teams, sets := (arrived c bk n r sel ph s).sets } := by
  unfold arrived
  rw [putBar_frame, putPhase_frame]

theorem role_arrived : (getBar c.team bk n (arrived c bk n r sel ph s)).role = some r := by rw [getBar_arrived_same]; rfl

theorem getBar_evalArrived_same : getBar c.team bk n (evalBar c.team bk n (arrived c bk n r sel ph s)) =
    if (arriveAt c s bk n r).arrived ≠ [] ∧ ∀ g ∈ expectedGroups c.team bk r s, g ∈ (arriveAt c s bk n r).arrived
    then ⟨((arriveAt c s bk n r).phase + 1) % 2 ^ 16, none, []⟩ else arriveAt c s bk n r := by
  rw [getBar_evalBar_same role_arrived, getBar_arrived_same, arrived_members.expectedGroups]

theorem getBar_evalArrived_other {m : Nat} (hm : m ≠ n) :
    getBar c.team bk m (evalBar c.team bk n (arrived c bk n r sel ph s)) = getBar c.team bk m s := by
  rw [getBar_evalBar_other role_arrived hm, getBar_arrived_other hm]

/-- The phase that `arrive` answers, and the rest of the state, once its barrier is evaluated. -/
theorem evalBar_arrived : ∃ t, evalBar c.team bk n (arrived c bk n r sel ph s) = t
    ∧ t = { s with threads := t.threads, groups := t.groups, teams := t.teams, sets := t.sets }
    ∧ (∀ a g k, (t.grp a g).s k = ((putPhase sel ph c s).grp a g).s k)
    ∧ ∀ q k, (t.thr q).v k = ((putPhase sel ph c s).thr q).v k := by
  obtain ⟨u, w, hu⟩ := evalBar_woken (role_arrived (c := c) (bk := bk) (n := n) (r := r) (sel := sel) (ph := ph) (s := s))
  rw [arrived_frame] at hu
  refine ⟨_, rfl, ?_, fun a g k => ?_, fun q k => ?_⟩
  · rw [w.rest, hu]
  · rw [w.grp, hu]
    rfl
  · rw [w.thr, hu]
    rfl

end

section
variable {h : Hdr} {o : OpG} {s : State} {c : Ctx} {s1 : State}

theorem exec_arrive (hr : Runs (.arrive h o) (needOf 0 (arriveDesc o)) s c s1) : exec (.arrive h o) s = .next (evalBar c.team (bankOf c s1) (bits o.flags 2 0)
    (arrived c (bankOf c s1) (bits o.flags 2 0) (bits o.flags 6 5) o.d (getBar c.team (bankOf c s1) (bits o.flags 2 0) s1).phase s1)) := by
  rw [exec_runs rfl hr (.inl rfl), arrive_eff]
  rfl

/-- The lanes of an instruction that acts for its own group are its active lanes. -/
theorem Runs.inflight_own {i : Instr} {n : Need} (hr : Runs i n s c s1) (ha : n.alone = true) {l : Nat} (hl : l ∈ c.act) :
    ∀ f ∈ (s1.thr (c.key l)).inflight, f.due ≤ s1.now c.team :=
  hr.2.still (c.group, l) (by simpa [Ctx.lanes, hr.mem_own ha] using hl)

theorem putPhase_uniform (hr : Runs (.arrive h o) (needOf 0 (arriveDesc o)) s c s1) (hd : cls o.d = 2) (ph : Nat) :
    ((putPhase o.d ph c s1).grp c.team c.group).s (idx o.d) = ⟨BitVec.ofNat 64 ph, false⟩ := by
  unfold putPhase
  rw [if_pos hd]
  exact (putS_lands c s1 c.group (idx o.d) ph (hr.2.stillS _)).dest

theorem putPhase_lanes (hr : Runs (.arrive h o) (needOf 0 (arriveDesc o)) s c s1) (hd : cls o.d = 0) (ph : Nat) {l : Nat} (hl : l ∈ c.act) :
    ((putPhase o.d ph c s1).thr (c.key l)).v (idx o.d) = ⟨BitVec.ofNat 32 ph, false⟩ := by
  unfold putPhase
  rw [if_neg (by omega)]
  exact (putV_lanes c (idx o.d) ph c.act s1 (runs_nodup hr).2.1 fun i hi => hr.inflight_own rfl hi).2.2 l hl

/-! ### `bwait` (R333) -/

/-- The lanes of a barrier wait, each with the phase that it waits on. -/
def waitLanes (c : Ctx) (n phase : Nat) (ph : Nat → Nat) : List WaitLane := c.act.map (fun l => ⟨l, n, ph l, phase != ph l, 0⟩)

theorem waitLanes_ok {n phase : Nat} {ph : Nat → Nat} : (waitLanes c n phase ph).all (·.ok) = true ↔ ∀ l ∈ c.act, ph l ≠ phase := by
  simp [waitLanes, @eq_comm _ phase]

/-- The threads of a barrier wait stay at the instruction, and their group records the lanes' phases. -/
def barWait (c : Ctx) (n phase : Nat) (ph : Nat → Nat) (s : State) : State :=
  (s.modThrs c.team c.group c.set (fun t => { t with pc := c.pc, wait := .word })).modGrp c.team c.group (fun G => { G with
    waits := G.waits ++ [⟨c.set, waitLanes c n phase ph, some (c.h.scope == 3), false, 7⟩] })

theorem exec_bwait (hr : Runs (.bwait h o) (needOf 0 (bwaitDesc o)) s c s1) {ph : Nat → Nat} {b : HwBar}
    (hb : b = getBar c.team (bankOf c s1) (bits o.flags 2 0) s1) (hph : ∀ l, ph l = srcV c s1 c.group l o.a 0x2F % 2 ^ 16) :
    exec (.bwait h o) s = .next (if (waitLanes c (bits o.flags 2 0) b.phase ph).all (·.ok) = true then s1 else barWait c (bits o.flags 2 0) b.phase ph s1) := by
  obtain rfl : ph = fun l => srcV c s1 c.group l o.a 0x2F % 2 ^ 16 := funext hph
  subst hb
  exact exec_runs rfl hr (.inl rfl)

end

/-! ### The token (R153, R334) -/

section
variable (s : State) (t : Nat) (h : Option Nat)

theorem now_setHolder (k : Nat) : (setHolder t h s).now k = s.now k := by
  by_cases e : t = k
  · subst e
    simp [State.now, setHolder]
  · simp [State.now, setHolder, State.team_modTeam_other _ _ e]

/-- The change of a holder does not show in its a-cycle. -/
theorem tokenOf_setHolder : (setHolder t h s).tokenOf t = s.tokenOf t := by
  have hn := now_setHolder s t h t
  simp only [State.tokenOf, hn]
  simp [setHolder]
  rfl

/-- It shows from the next one on. -/
theorem tokenOf_later {u : State} (hu : u.team t = (setHolder t h s).team t) (hn : s.now t + 1 ≤ u.now t) : u.tokenOf t = h := by
  unfold State.tokenOf
  rw [hu]
  simp [setHolder, Nat.not_lt.mpr hn]

end

section
variable {h : Hdr} {o : OpG} {s : State} {c : Ctx} {s1 : State}

theorem exec_tokgive (hr : Runs (.tokgive h o) (needOf 0 (tokgiveDesc o)) s c s1) : exec (.tokgive h o) s = .next
    (if c.act.isEmpty || s1.tokenOf c.team != some c.group then s1
      else setHolder c.team (if (s1.liveThr c.team (giveTo c s1 o.a).toNat).isEmpty then none else some (giveTo c s1 o.a).toNat) s1) :=
  exec_runs rfl hr (.inl rfl)

theorem exec_toktake (hr : Runs (.toktake h o) (needOf 0 (toktakeDesc o)) s c s1) : exec (.toktake h o) s = .next
    (if c.act.isEmpty then s1
      else if (s1.tokenOf c.team).isNone || bit o.flags 0 then putS c c.group (idx o.d) 1 (setHolder c.team (some c.group) s1)
      else putS c c.group (idx o.d) (b2n (s1.tokenOf c.team == some c.group)) s1) :=
  exec_runs rfl hr (.inl rfl)

end

/-- Settles O26: the rendezvous of `bar` and `rdv`, the barrier of `arrive` as it is evaluated, the waits of `bwait`, and the token's holder. -/
theorem rendezvousBarriersAndTokens : Obligations.RendezvousBarriersAndTokens := by
  unfold Obligations.RendezvousBarriersAndTokens
  refine ⟨?_, ?_, ⟨?_, ?_⟩, ⟨?_, ?_⟩, fun s t h => ⟨tokenOf_setHolder s t h, fun u => tokenOf_later s t h⟩⟩
  · rintro h o n rfl
    refine ⟨fun s c s1 hr => ⟨_, exec_bar, fun m hm l hl => ?_, issue_bar hr⟩, fun s c p hl hp => ⟨_, exec_bar, bar_taken hl hp⟩⟩
    obtain ⟨same, letGo⟩ := issue_bar hr
    have e : (issue (.bar h o) 0 (barDesc o) s).thr (c.team, m.1, l) = s1.thr (c.team, m.1, l) := by
      by_cases hp : bit o.flags 0 = false ∨ c.h.scope ≤ 1
      · rw [same hp]
      · rw [not_or, Bool.not_eq_false] at hp
        exact (letGo hp.1 (by omega)).stays (hr.members_go_on hm hl).1
    rw [e]
    exact hr.members_go_on hm hl
  · intro h o s c s1 hr
    obtain ⟨hrest, hmem, hother⟩ := putS_members c (idx o.d) ((s1.grp c.team c.lead).s (idx o.a)).v.toNat c.mem s1 hr.2.groups fun m _ => hr.2.stillS m.1
    refine ⟨_, exec_rdv hr, hrest, fun m hm l hl => ?_, fun m hm => ?_, hother⟩
    · rw [hrest]
      exact hr.members_go_on hm hl
    · obtain ⟨hval, hkeep⟩ := hmem m hm
      refine ⟨hval.trans ?_, hkeep⟩
      rw [BitVec.ofNat_toNat, BitVec.setWidth_eq]
  · rintro h o s c s1 hr _ _ _ _ _ rfl rfl rfl rfl rfl
    obtain ⟨t, ht, hrest, hs, hv⟩ := evalBar_arrived (c := c) (bk := bankOf c s1) (n := bits o.flags 2 0) (r := bits o.flags 6 5) (sel := o.d)
      (ph := (getBar c.team (bankOf c s1) (bits o.flags 2 0) s1).phase) (s := s1)
    refine ⟨t, (exec_arrive hr).trans (congrArg _ ht), hrest, fun hd => (hs _ _ _).trans (putPhase_uniform hr hd _),
      fun hd l hl => (hv _ _).trans (putPhase_lanes hr hd _ hl), fun hall => ?_, fun hall => ?_, fun m hm => ?_⟩
    · rw [← ht, getBar_evalArrived_same]
      exact if_pos hall
    · rw [← ht, getBar_evalArrived_same]
      exact if_neg hall
    · rw [← ht]
      exact getBar_evalArrived_other hm
  · intro h o s c s1 hr b ph hb hph
    rw [exec_bwait hr hb hph]
    refine ⟨fun hall => by rw [if_pos (waitLanes_ok.mpr hall)], fun ⟨l, hl, he⟩ => ?_⟩
    rw [if_neg fun hall => waitLanes_ok.mp hall l hl he]
    refine ⟨_, rfl, ?_, fun l hl => State.thr_modThrs_mem _ _ _ _ _ (runs_nodup hr).1 hl, fun k hk => State.thr_modThrs_other _ _ _ _ _ hk, ?_,
      fun a g hg => ?_⟩
    · unfold barWait
      rw [State.modThrs_eq]
      rfl
    · unfold barWait
      rw [State.grp_modGrp_same, State.grp_modThrs]
      rfl
    · unfold barWait
      rw [State.grp_modGrp_other _ _ (Ne.symm hg), State.grp_modThrs]
  · intro h o s c s1 hr
    refine ⟨_, exec_tokgive hr, ?_, ?_⟩
    · rintro hact htok g rfl
      simp [hact, htok, setHolder]
    · rintro (hact | htok)
      · simp [hact]
      · simp [htok]
  · intro h o s c s1 hr
    refine ⟨_, exec_toktake hr, ?_, ?_, ?_⟩
    · intro hact hfree
      have e : ((s1.tokenOf c.team).isNone || bit o.flags 0) = true := by
        rcases hfree with hfree | hfree <;> simp [hfree]
      rw [if_neg (by simpa using hact), if_pos e]
      exact putS_lands c (setHolder c.team (some c.group) s1) _ _ _ fun f hf => (hr.2.stillS _ f hf).trans_eq (now_setHolder ..).symm
    · intro hact g hg hforce
      rw [if_neg (by simpa using hact), if_neg (by simp [hg, hforce]), hg]
      have e : b2n (some g == some c.group) = if g = c.group then 1 else 0 := by simp [b2n]
      rw [e]
      exact putS_lands c _ _ _ _ (hr.2.stillS _)
    · intro hact
      simp [hact]

end Sys2Proof
end

section

/-! ## Dispatchers: placement, exit and pre-emption (O57, O58)

Where a team is placed, what its exit leaves, which halt a trigger requests, and the steps from the halt to the resume. -/

namespace Sys2Proof

open Machine

/-! ### The choice of a core (R139 to R142, R145) -/

theorem lowestScore_mem {score : Nat → Nat} {l : List Nat} {c : Nat} (h : lowestScore score l = some c) : c ∈ l := by
  induction l generalizing c with
  | nil => cases h
  | cons a l ih =>
    unfold lowestScore at h
    split at h
    · obtain rfl := Option.some.inj h
      exact List.mem_cons_self
    · next d hd =>
      split at h <;> obtain rfl := Option.some.inj h
      · exact List.mem_cons_of_mem _ (ih hd)
      · exact List.mem_cons_self

theorem mem_of_mem_scanFrom {p k : Nat} {l : List Nat} (h : k ∈ scanFrom p l) : k ∈ l := by
  rcases List.mem_append.mp h with h | h <;> exact (List.mem_filter.mp h).1

/-- A team is placed on a core of its view device that it fits; only the dispatcher's pointer has moved before. -/
theorem tryGrid_eq_some {d g : Nat} {G : Grid} {s t : State} (h : tryGrid d g G s = some t) :
    ∃ core ∈ viewCores s G.ctx d, fits s core g G.launch G.launch.split = true ∧ ∃ ptrs, t = placeTeam g G core { s with ptrs := ptrs } := by
  unfold tryGrid at h
  dsimp only at h
  split at h
  · next hc =>
    have hm := List.mem_of_mem_take (lowestScore_mem hc)
    obtain ⟨hscan, hfits⟩ := List.mem_filter.mp hm
    exact ⟨_, mem_of_mem_scanFrom hscan, hfits, _, (Option.some.inj h).symm⟩
  · cases h

section
variable {s : State} {core g split : Nat} {L : Launch}

/-- The split under which a core takes a team: that of the teams it holds, or the team's own. -/
def splitOn (s : State) (core split : Nat) : Nat := ((coreTeams s core).head?.map (fun e => e.2.split)).getD split

theorem fits_iff : fits s core g L split = true ↔
    sumBy (fun e => regNeed (launchFor s e.2)) (coreTeams s core) + regNeed L ≤ 2 ^ 20
    ∧ (coreTeams s core).length < 16
    ∧ sumBy (fun e => (launchFor s e.2).groups) (coreTeams s core) + L.groups ≤ 64
    ∧ L.spad / 4096 ≤ (freeUnits s core (splitOn s core split)).length
    ∧ (L.arrw = 0 ∨ (originOfCluster (core / 3)).1 + L.arrw ≤ 8 ∧ (originOfCluster (core / 3)).2 + L.arrh ≤ 8
        ∧ ∀ k ∈ rectArrays (originOfCluster (core / 3)).1 (originOfCluster (core / 3)).2 L.arrw L.arrh, k ∉ heldArrays s (bayOf (core / 3)))
    ∧ (L.cshared = 0 ∨ (s.clsh.get? (g, core / 3)).isSome = true ∨ segBytes s (core / 3) + L.cshared ≤ 2 ^ 20) := by
  unfold fits splitOn
  cases coreTeams s core <;>
    simp only [List.head?_nil, List.head?_cons, Option.map_none, Option.map_some, Option.getD_none, Option.getD_some, Bool.and_eq_true, Bool.or_eq_true,
      decide_eq_true_eq, beq_iff_eq, List.all_eq_true, Bool.not_eq_true', List.contains_eq_mem, decide_eq_false_iff_not, and_assoc, or_assoc]

end

/-- Settles O58: the conditions of `fits` on the core that the dispatcher chose. -/
theorem placedTeamsFit : Obligations.PlacedTeamsFit := by
  unfold Obligations.PlacedTeamsFit
  intro d g G s t h
  obtain ⟨core, hview, hfits, ptrs, rfl⟩ := tryGrid_eq_some h
  obtain ⟨hregs, hteams, hgroups, hspad, harr, hseg⟩ := fits_iff.mp hfits
  exact ⟨core, hview, hregs, hteams, hgroups, hseg, hspad, harr.imp_right fun harr => ⟨_, rfl, harr⟩, _, rfl, rfl⟩

/-! ### Placement (R144, R145) -/

theorem exec_teamPlacement {s : State} {g : Nat} {G : Grid} {t u : State} (h : tryGrids s.ev.k s (serviceOrder s s.ev.k s.ev.a) = some (g, G, t))
    (hu : u = if g = s.ev.a then t else serve G.ctx (gridQueue s G) t) :
    exec .teamPlacement s = .next (if (waitingGrids u s.ev.k).isEmpty = true then u else u.push .teamPlacement ⟨s.ev.k, g, 0, []⟩) := by
  change Host.Outcome.next (placementTurn s) = _
  unfold placementTurn
  simp only [h, beq_iff_eq, ← hu]

/-! ### The exit of a team (R325) -/

section
variable {t : Nat} {T : Team} {s : State}

theorem dropTeam_left_teams (hs : T.saved = false) : (dropTeam t T s).left = s.left.set t T ∧ (dropTeam t T s).teams = s.teams.del t := by
  unfold dropTeam
  dsimp only
  simp only [hs, Bool.false_eq_true, if_false]
  split <;> exact ⟨rfl, rfl⟩

theorem teamExitStep_done (h : s.teams.get? s.ev.k = some T) (hs : T.saved = false) (hl : s.liveGroups s.ev.k = []) (hd : teamDone s s.ev.k = true) :
    teamExitStep s = saveCheck T.ctx (segsAfter T.ctx T.cluster T.homeOf.1 (countExit T.grid (dropTeam s.ev.k T s))) := by
  unfold teamExitStep
  simp [h, hs, hl, hd]

end

/-! ### Triggers and victims (R154, R155) -/

section
variable {k d : Nat} {v : Nat × CtxRec} {s : State}

theorem victimFor_eq (hv : pickVictim (s.ctxs.filter (fun e => victimOk s k (viewBays (s.viewOf k) d) e.1 e.2)) = some v)
    (hm : mayPreempt s v.1 d = true) : victimFor k d s = some v.1 := by
  unfold victimFor
  simp [hv, hm]

/-- Of the teams that wait, the first that has a victim requests its halt. -/
theorem askVictim_first {a b : List (Nat × Option (Nat × Nat) × Option Nat)} {cause : Option (Nat × Nat)} {team : Option Nat} {w : Nat}
    (ha : ∀ y ∈ a, victimFor k y.1 s = none) (hv : victimFor k d s = some w) :
    askVictim k (a ++ (d, cause, team) :: b) s = requestHalt w d cause team s := by
  have e : firstSome ((a ++ (d, cause, team) :: b).map (fun x => (victimFor k x.1 s).map (fun v => (v, x)))) = some (w, d, cause, team) := by
    induction a with
    | nil => simp [hv, firstSome]
    | cons x a ih =>
      rw [List.cons_append, List.map_cons, ha x List.mem_cons_self]
      exact ih fun y hy => ha y (List.mem_cons_of_mem _ hy)
  unfold askVictim
  rw [e]

theorem askVictim_none {l : List (Nat × Option (Nat × Nat) × Option Nat)} (hl : ∀ y ∈ l, victimFor k y.1 s = none) :
    askVictim k l s = s.push .preemptionTrigger s.ev := by
  have e : firstSome (l.map (fun x => (victimFor k x.1 s).map (fun v => (v, x)))) = none := by
    induction l with
    | nil => rfl
    | cons x l ih =>
      rw [List.map_cons, hl x List.mem_cons_self]
      exact ih fun y hy => hl y (List.mem_cons_of_mem _ hy)
  unfold askVictim
  rw [e]

theorem triggerStep_next {G : Grid} (hv : s.ev.v ≠ 1) (hG : s.grids.get? s.ev.k = some G) (he : G.ended = false) (hn : G.next = s.ev.a)
    (hp : placeable s G.ctx = true) (hw : G.since + 40000 ≤ s.ncyc) :
    triggerStep s = askVictim G.ctx [(G.vdev, some (s.ev.k, s.ev.a), none)] s := by
  unfold triggerStep
  simp [hv, hG, he, hn, hp, Nat.not_lt.mpr hw]

theorem triggerStep_saved {c : CtxRec} {w : Nat} {x : Nat × Option (Nat × Nat) × Option Nat} {l : List (Nat × Option (Nat × Nat) × Option Nat)}
    (hv : s.ev.v = 1) (hc : s.ctxs.get? s.ev.k = some c) (hs : savedWaits s s.ev.k = x :: l) (hw : c.waitFrom = some w) (hp : c.phase = 4)
    (hd : c.dying = false) (ht : w + 40000 ≤ s.ncyc) : triggerStep s = askVictim s.ev.k (x :: l) s := by
  unfold triggerStep
  simp [hv, hc, hs, hw, hp, hd, Nat.not_lt.mpr ht]

end

theorem mem_distinct {α : Type} [BEq α] [LawfulBEq α] {l : List α} {x : α} : x ∈ distinct l ↔ x ∈ l := by
  have key : ∀ (l m : List α), x ∈ l.foldl (fun acc a => if acc.contains a then acc else a :: acc) m ↔ x ∈ m ∨ x ∈ l := by
    intro l
    induction l with
    | nil => simp
    | cons a l ih =>
      intro m
      rw [List.foldl_cons, ih]
      by_cases h : a ∈ m
      · simp only [List.contains_iff_mem, h, if_true, List.mem_cons]
        refine or_congr_right' fun hx => ⟨.inr, fun h' => h'.resolve_left fun e => hx (e ▸ h)⟩
      · simp only [List.contains_iff_mem, h, if_false, List.mem_cons]
        tauto
  unfold distinct
  rw [List.mem_reverse, key]
  simp

/-- Every saved team of a context is asked for, by one of its view device. -/
theorem savedWaits_mem {s : State} {t : Nat} {T : Team} (hT : (t, T) ∈ s.teams) (hs : T.saved = true) :
    ∃ t', ((s.grids.getD T.grid .blank).vdev, none, some t') ∈ savedWaits s T.ctx := by
  have hmem : ((s.grids.getD T.grid .blank).vdev, t)
      ∈ (s.teams.filter (fun e => e.2.ctx == T.ctx && e.2.saved)).map (fun e => ((s.grids.getD e.2.grid .blank).vdev, e.1)) :=
    List.mem_map.mpr ⟨(t, T), List.mem_filter.mpr ⟨hT, by simp [hs]⟩, rfl⟩
  obtain ⟨y, hy⟩ := Option.isSome_iff_exists.mp (List.find?_isSome (p := fun x => x.1 == (s.grids.getD T.grid .blank).vdev).mpr
    ⟨_, hmem, beq_self_eq_true _⟩)
  exact ⟨y.2, List.mem_map.mpr ⟨_, mem_distinct.mpr (List.mem_map_of_mem hmem), by simp [hy]⟩⟩

/-! ### Halt, save and resume (R155 to R163) -/

section
variable {s : State} {c : CtxRec}

theorem haltStep_eq (hc : s.ctxs.get? s.ev.k = some c) (hp : c.phase = 1)
    (hr : ∀ e ∈ s.ops, e.2.ctx = s.ev.k → e.2.node = none → rodWaits e.2 = false) :
    haltStep s = (((resident s s.ev.k).foldl (fun s e => haltTeam e.1 s) s).modCtx s.ev.k
      (fun c => { c with phase := 2, haltAt := if c.suspended then c.haltAt else s.ncyc })).push .contextSave (.ofK s.ev.k) := by
  have kept : ((resident s s.ev.k).foldl (fun s e => haltTeam e.1 s) s).ops = s.ops
      ∧ ((resident s s.ev.k).foldl (fun s e => haltTeam e.1 s) s).ncyc = s.ncyc :=
    List.foldlRecOn (motive := fun (u : State) => u.ops = s.ops ∧ u.ncyc = s.ncyc) _ _ ⟨rfl, rfl⟩ fun _ e _ _ => e
  have none_wait : s.ops.filter (fun e => e.2.ctx == s.ev.k && e.2.node.isNone && rodWaits e.2) = [] := by
    rw [List.filter_eq_nil_iff]
    intro e he
    simp only [Bool.and_eq_true, beq_iff_eq, Option.isNone_iff_eq_none, not_and, Bool.not_eq_true, and_imp]
    exact hr e he
  unfold haltStep
  simp [hc, hp, kept, none_wait]

theorem saveStep_eq (hc : s.ctxs.get? s.ev.k = some c) (hp : c.phase = 2) (hq : contextQuiet s s.ev.k = true) :
    saveStep s = saveCheck s.ev.k (askAccumulators s.ev.k ((saveImages s.ev.k c (saveHeader s.ev.k c s)).modCtx s.ev.k (fun c => { c with phase := 3 }))) := by
  unfold saveStep
  simp [hc, hp, hq]

theorem accSaveStep_eq {T : Team} (hT : s.teams.get? s.ev.k = some T) (hc : s.ctxs.get? T.ctx = some c) (hh : T.halted = true)
    (hs : T.saved = false) (hp : c.phase = 3) (ho : opsOf s s.ev.k = []) (hn : countsPending s s.ev.k = false) (hl : s.liveGroups s.ev.k ≠ []) :
    accSaveStep s = saveCheck T.ctx (segsAfter T.ctx T.cluster T.homeOf.1 ((saveArrays T.ctx c T s).modTeam s.ev.k Team.putAway)) := by
  unfold accSaveStep
  simp [hT, hc, hh, hs, hp, ho, hn, hl]

end

/-- A context that may resume: some of its teams are back already, or it is not suspended. -/
structure MayResume (s : State) (c : CtxRec) : Prop where
  ctx : s.ctxs.get? s.ev.k = some c
  phase : c.phase = 4
  alive : c.dying = false
  asked : c.suspended = false ∨ resident s s.ev.k ≠ []

namespace MayResume
variable {s : State} {c : CtxRec} (h : MayResume s c)
include h

theorem held : (c.suspended && (resident s s.ev.k).isEmpty) = false := by rcases h.asked with h | h <;> simp [h]

theorem resumeStep_unsettled (hv : s.ev.v = 0) (hs : Machine.settled s c = false) : resumeStep s = s.push .contextResumeAuto s.ev := by
  unfold resumeStep
  simp [h.ctx, h.phase, h.alive, h.held, hv, hs]

theorem resumeStep_full (hv : s.ev.v = 0) (hs : Machine.settled s c = true) (hr : roomFor_ s.ev.k (savedClusters s s.ev.k) s = false) :
    resumeStep s = (armResume s.ev.k s).push .contextResumeAuto s.ev := by
  unfold resumeStep
  simp [h.ctx, h.phase, h.alive, h.held, hv, hs, hr]

theorem resumeStep_runs (hv : s.ev.v ≠ 0 ∨ (Machine.settled s c = true ∧ roomFor_ s.ev.k (savedClusters s s.ev.k) s = true)) {s1 : State}
    (hr : resumeAll s.ev.k c (savedClusters s s.ev.k) s = (s1, true)) : resumeStep s = runAgain s.ev.k s1 := by
  unfold resumeStep
  rcases hv with hv | ⟨hs, hroom⟩
  · simp [h.ctx, h.phase, h.alive, h.held, hv, hr]
  · simp [h.ctx, h.phase, h.alive, h.held, hs, hroom, hr]

end MayResume

/-! ### The events -/

section
variable (s : State)

theorem exec_teamExit : exec .teamExit s = .next (teamExitStep s) := rfl
theorem exec_preemptionTrigger : exec .preemptionTrigger s = .next (triggerStep s) := rfl
theorem exec_haltComplete : exec .haltComplete s = .next (haltStep s) := rfl
theorem exec_contextSave : exec .contextSave s = .next (saveStep s) := rfl
theorem exec_accumulatorSave : exec .accumulatorSave s = .next (accSaveStep s) := rfl
theorem exec_contextResumeAuto : exec .contextResumeAuto s = .next (resumeStep s) := rfl

end

/-- Settles O57: placement and exit, then what a trigger asks for, then the steps of a pre-emption. -/
theorem dispatchEvents : Obligations.DispatchEvents := by
  unfold Obligations.DispatchEvents
  refine ⟨fun s g G t u => exec_teamPlacement, ?_, ?_, ?_, ?_, ?_, fun k l s => askVictim_none, ?_, ?_, ?_, ?_, ?_⟩
  · intro s T hT hs hl hd
    rw [exec_teamExit, teamExitStep_done hT hs hl hd]
  · intro t T s hs
    obtain ⟨hleft, hteams⟩ := dropTeam_left_teams (t := t) (s := s) hs
    rw [hleft, hteams]
    exact ⟨Tbl.get?_set_same _ _ _, Tbl.get?_del_same _ _⟩
  · intro s G v hv hG he hn hp hw hpick hmay
    rw [exec_preemptionTrigger, triggerStep_next hv hG he hn hp hw]
    exact congrArg Host.Outcome.next (askVictim_first (a := []) (List.forall_mem_nil _) (victimFor_eq hpick hmay))
  · intro s c w x l hv hc hs hw hp hd ht
    rw [exec_preemptionTrigger, triggerStep_saved hv hc hs hw hp hd ht]
  · intro k d s v hpick hmay a b cause team ha
    exact askVictim_first ha (victimFor_eq hpick hmay)
  · rintro s _ t T hT rfl hs
    exact savedWaits_mem hT hs
  · intro s c hc hp hr
    rw [exec_haltComplete, haltStep_eq hc hp hr]
  · intro s c hc hp hq
    rw [exec_contextSave, saveStep_eq hc hp hq]
  · rintro s T c _ hT hc hh hs hp ho hn hl rfl
    rw [exec_accumulatorSave, accSaveStep_eq hT hc hh hs hp ho hn hl]
  · intro s c hc hp hd hr
    have h : MayResume s c := ⟨hc, hp, hd, hr⟩
    rw [exec_contextResumeAuto]
    exact ⟨fun s1 hv hall => by rw [h.resumeStep_runs hv hall], fun hv hs hroom => by rw [h.resumeStep_full hv hs hroom],
      fun hv hs => by rw [h.resumeStep_unsettled hv hs]⟩

end Sys2Proof
end

section

/-! ## One step (O4)

What a step of each kind of unit comes to, once its issue sets are known. -/

namespace Sys2Proof

open Machine

/-! ### The unit that acts (R340) -/

section
variable {s : State} (hu : dueUpset s.fresh = none)
include hu

theorem step_core {k : Nat × Nat} (hc : choose s.fresh = .core k) : step s = afterExec (coreCycle runWord (canIssue runWord s.fresh) k s.fresh) := by
  unfold step
  simp only [hu, hc]

theorem step_span {k : Nat} (hc : choose s.fresh = .span k) : step s = afterExec (spanCycle runWord k s.fresh) := by
  unfold step
  simp only [hu, hc]

theorem step_event {n : Nat} {e : Instr} {s' : State} (hc : choose s.fresh = .event n) (ht : takeEvent n s.fresh = some (e, s')) :
    step s = afterExec (exec e s') := by
  unfold step
  simp only [hu, hc, ht]

theorem step_idle (hc : choose s.fresh = .idle) : step s = .next (passTime { s.fresh with crossed := [] }) := by
  unfold step
  simp only [hu, hc, afterExec]

end

theorem step_upset {s s' : State} {u : Upset} (hu : dueUpset s.fresh = some (u, s')) : step s = .next (passTime (applyUpset u s')) := by
  unfold step
  simp only [hu]

theorem takeEvent_agenda {s s' : State} {n : Nat} {e : Instr} (h : takeEvent n s.fresh = some (e, s')) : s'.agenda = s.agenda.eraseIdx n := by
  unfold takeEvent at h
  split at h
  · cases h
  · obtain ⟨-, rfl⟩ := Prod.mk.inj (Option.some.inj h)
    rfl

theorem runWord_decoded {w : Nat} {i : Instr} (h : decodeWord w = .ok i) (s : State) : runWord w s = exec i s := by
  unfold runWord
  simp only [h]

theorem runIn_decoded {w : Nat} {i : Instr} (h : decodeWord w = .ok i) (p : Nat) (j : Bool) (c : Cur) (s : State) :
    runIn runWord p j c w s = exec i { s with cur := c, slot := some (p, j) } := runWord_decoded h _

/-! ### A core's a-cycle (R148 to R151) -/

section
variable {run : Runner} {can : Cur → Bool} {k : Nat × Nat} {s s' t : State} {c : Cur} {w : Nat}

theorem coreAlone_word (hf : fetchWord { s with cur := c } = (s', .word w))
    (hr : runIn run (s'.choosePipe c.team c.group (engineOf (bits w 95 80))) false c w s' = .next t) : coreAlone run k c s =
    if entered t = true ∧ accepts s' k c.team (engineOf (bits w 95 80)) = false then .next (ageCore k [(c.team, c.group)] s')
    else .next (ageCore k [] (noSlot t)) := by
  unfold coreAlone
  simp [hf, hr]

theorem coreCycle_alone (h : (coreGroups s k).flatMap (fun g => groupTurn can s g.1 g.2) = [c]) : coreCycle run can k s = coreAlone run k c s := by
  unfold coreCycle
  simp only [h]

theorem coreCycle_slot {d : Cand} {x y : Cur} {cs : List Cur} {l : List Cand} {s1 : State}
    (h : (coreGroups s k).flatMap (fun g => groupTurn can s g.1 g.2) = x :: y :: cs) (hl : (x :: y :: cs).foldl (look run) (s, []) = (s1, l))
    (hd : leader s1 k l = some d) (hr : runSlot run (slotPipe s1 d.eng (slotWith s1 l d)) (slotWith s1 l d) s1 = .next t) :
    coreCycle run can k s = .next (ageCore k (l.map (fun e => (e.cur.team, e.cur.group))) (noSlot t)) := by
  unfold coreCycle
  simp only [h, hl, hd, hr]

theorem runSlot_cons {d : Cand} {l : List Cand} {p : Nat} (h : runIn run p (entered s) d.cur d.word s = .next t) :
    runSlot run p (d :: l) s = runSlot run p l t := by
  rw [runSlot]
  simp only [h]

end

/-! ### A Span core's turn (R164) -/

section
variable {run : Runner} {k x : Nat} {key : TKey} {s t : State}

/-- The only ready thread has one turn in the round, wherever the round begins. -/
theorem roundRobin_single (hx : x < 4) (last : Nat) :
    (upFrom 1 4).flatMap (fun j => [(x, key)].filter (fun e => e.1 == (last + j) % 4)) = [(x, key)] := by
  have hlast : last % 4 < 4 := Nat.mod_lt _ (by decide)
  have hj : ∀ j, (last + j) % 4 = (last % 4 + j) % 4 := fun j => by omega
  simp only [hj]
  generalize last % 4 = m at hlast
  interval_cases x <;> interval_cases m <;> rfl

theorem spanCycle_single (hk : spanThreads s k = [(x, key)]) (hx : x < 4) (hr : runTurn run ⟨key.1, key.2.1, [key.2.2]⟩ s = .next t)
    (ht : t ≠ { s with cur := ⟨key.1, key.2.1, [key.2.2]⟩ }) : spanCycle run k s = .next { t with spanLast := t.spanLast.set k x } := by
  unfold spanCycle
  dsimp only
  rw [hk, roundRobin_single hx]
  unfold spanGo
  simp [hr, ht]

end

/-- Settles O4: each clause by what the unit's turn comes to, then the time that passes. -/
theorem stepRunsDecodedInstruction : Obligations.StepRunsDecodedInstruction := by
  unfold Obligations.StepRunsDecodedInstruction
  refine ⟨?_, ⟨?_, ?_, ?_⟩, ?_, fun s u s' => step_upset, fun s => step_idle⟩
  · rintro s k c s' w i _ t hu hc hset hf hi rfl hx
    rw [step_core hu hc, coreCycle_alone hset, coreAlone_word hf ((runIn_decoded hi _ _ _ _).trans hx)]
    refine ⟨fun h => ?_, fun he ha => ?_⟩
    · rw [if_neg]
      · rfl
      · rintro ⟨he, ha⟩
        rcases h with h | h
        · simp [h] at he
        · simp [h] at ha
    · rw [if_pos ⟨he, ha⟩]
      rfl
  · intro s k a b cs s1 l d t hu hc hset hl hd hr
    rw [step_core hu hc, coreCycle_slot hset hl hd hr]
    rfl
  · intro p d l s i t hi hx
    exact runSlot_cons ((runIn_decoded hi _ _ _ _).trans hx)
  · intro s k x key s' w i t hu hc hk hx hf hi he hne
    have hturn : runTurn runWord ⟨key.1, key.2.1, [key.2.2]⟩ s.fresh = .next t := by
      unfold runTurn
      simp only [hf, runWord_decoded hi, he]
    rw [step_span hu hc, spanCycle_single hk hx hturn hne]
    rfl
  · intro s n e s' hu hc ht
    exact ⟨step_event hu hc ht, takeEvent_agenda ht⟩

end Sys2Proof
end

section

/-! ## Generic pointers and address traps (O29) -/

namespace Sys2Proof

open Machine

/-! ### The windows of generic pointers (R203, Table local-1) -/

section
variable {s : State} {t p n : Nat}

theorem bit_true_iff {x k : Nat} : bit x k = true ↔ x / 2 ^ k % 2 = 1 := by simp [bit]

theorem window_beyond (h : 2 ^ 57 ≤ p) (hp : p < 2 ^ 64) : window s t p = .error 1 := by
  have h1 : bits p 63 57 ≠ 0 := by unfold bits; omega
  simp [window, h1]

theorem window_glob (h : p < 0x1FFF * 2 ^ 44) : window s t p = .ok (.glob, p) := by
  have h1 : bits p 63 57 = 0 := by unfold bits; omega
  have h2 : bits p 56 44 ≠ 0x1FFF := by unfold bits; omega
  have h3 : bits p 56 0 = p := by unfold bits; omega
  simp [window, h1, h2, h3]

/-- The windows of local memory, by the 2^40 bytes that the pointer lies in. -/
theorem window_local {k : Nat} (h : p / 2 ^ 40 = 0x1FFF0 + k) (hk : k < 16) :
    window s t p =
      if k = 0 then
        if p % 2 ^ 40 / 2 ^ 19 % 2 = 1 then .error 2 else if p % 2 ^ 40 / 2 ^ 20 ≠ teamTag s t then .error 4 else .ok (.spad, p % 2 ^ 40 % 2 ^ 19)
      else if k = 1 then if 2 ^ 20 ≤ p % 2 ^ 40 then .error 2 else .ok (.clsh, p % 2 ^ 40)
      else if k = 2 then if 2 ^ 32 ≤ p % 2 ^ 40 then .error 2 else .ok (.priv, p % 2 ^ 40)
      else .error 2 := by
  have h1 : bits p 63 57 = 0 := by unfold bits; omega
  have h2 : bits p 56 44 = 0x1FFF := by unfold bits; omega
  have h3 : bits p 43 40 = k := by unfold bits; omega
  have h4 : bits p 39 20 = p % 2 ^ 40 / 2 ^ 20 := by unfold bits; omega
  unfold window
  simp only [h1, h2, h3, h4, bne_self_eq_false, Bool.false_eq_true, if_false, bit_true_iff, bne_iff_ne]
  match k with
  | 0 =>
    have h5 : p / 2 ^ 19 % 2 = p % 2 ^ 40 / 2 ^ 19 % 2 := by omega
    have h6 : bits p 18 0 = p % 2 ^ 40 % 2 ^ 19 := by unfold bits; omega
    rw [h5, h6]
    rfl
  | 1 =>
    have h5 : (p % 2 ^ 40 / 2 ^ 20 ≠ 0) = (2 ^ 20 ≤ p % 2 ^ 40) := by simp only [eq_iff_iff]; omega
    simp only [h5, Nat.one_ne_zero, if_false, if_true]
    split
    · rfl
    · have h6 : bits p 19 0 = p % 2 ^ 40 := by unfold bits; omega
      rw [h6]
  | 2 =>
    have h5 : (bits p 39 32 ≠ 0) = (2 ^ 32 ≤ p % 2 ^ 40) := by simp only [bits, eq_iff_iff]; omega
    simp only [h5, OfNat.ofNat_ne_zero, OfNat.ofNat_ne_one, if_false, if_true]
    split
    · rfl
    · have h6 : bits p 31 0 = p % 2 ^ 40 := by unfold bits; omega
      rw [h6]
  | k + 3 => simp

/-! ### Bound and alignment (R203, R367) -/

theorem decodeGeneric_error {e : Nat} (h : window s t p = .error e) : decodeGeneric s t p n = .error e := by
  unfold decodeGeneric
  rw [h]

theorem decodeGeneric_ok {x : Space × Nat} (h : window s t p = .ok x) : decodeGeneric s t p n = boundAlign s t n x := by
  unfold decodeGeneric
  rw [h]

theorem boundAlign_glob {o : Nat} : boundAlign s t n (.glob, o) = if o % n ≠ 0 then .error 7 else .ok (.glob, o) := by
  simp [boundAlign]

theorem boundAlign_local {sp : Space} {o : Nat} (h : sp ≠ .glob) :
    boundAlign s t n (sp, o) = if spaceSize s t sp < o + n then .error (boundCode sp) else if o % n ≠ 0 then .error 7 else .ok (sp, o) := by
  simp [boundAlign, h]

end

section
variable {c : Ctx} {s : State} {g l sel off n : Nat} {sp : Space}

theorem addrBase_space_lt : addrBase c s g l (.space sp) sel < 2 ^ 32 := Nat.mod_lt _ (by decide)

theorem addrOf_space {o : Nat} (h : (addrBase c s g l (.space sp) sel : Int) + sext 14 off = o) :
    addrOf c s g l (.space sp) sel off n =
      if spaceSize s c.team sp < o + n then .error (boundCode sp) else if o % n ≠ 0 then .error 7 else .ok (sp, o) := by
  unfold addrOf addrFrom
  dsimp only
  rw [Nat.mod_eq_of_lt addrBase_space_lt, h]
  have h1 : (decide ((o : Int) < 0) || decide (((spaceSize s c.team sp : Nat) : Int) < (o : Int) + n)) = decide (spaceSize s c.team sp < o + n) := by
    have : ¬ (o : Int) < 0 := by omega
    rw [decide_eq_false this, Bool.false_or]
    congr 1
    simp only [eq_iff_iff]
    omega
  simp only [h1, decide_eq_true_eq, Int.toNat_natCast, bne_iff_ne]

theorem addrOf_space_negative (h : (addrBase c s g l (.space sp) sel : Int) + sext 14 off < 0) :
    addrOf c s g l (.space sp) sel off n = .error (boundCode sp) := by
  unfold addrOf addrFrom
  dsimp only
  rw [Nat.mod_eq_of_lt addrBase_space_lt]
  simp [h]

end

/-! ### The trap of a failing address (R290, R365) -/

/-- A group-local instruction whose own conditions raise one trap takes it, once its word, its operands and its convergence have passed. -/
theorem issue_traps {i : Instr} {e : Nat} {d : Desc} {c : Ctx} {s : State} {tr : Trap} (h : Clear i (needOf e d) c s) (hs : c.h.scope ≤ 1)
    (hc : c.span = false) (hu : usesS d.opds = true → uniformConverged c s = true) (hp : poisonTraps c s d.opds = [])
    (hd : d.unif = false ∧ d.full = false) (hk : d.chk c s = [tr]) :
    issue i e d s = enterTrap c.team c.group c.set c.h.scope c.pc c.cd tr (d.seen c s) := by
  have hctx : mkCtx i e s = some c := h.ctx
  have hl : localTraps i d c s = [tr] := by
    have hv : (!c.span && decide (c.h.scope ≤ 1) && (d.unif || usesS d.opds) && !uniformConverged c s) = false := by
      cases hx : usesS d.opds
      · simp [hd.1]
      · simp [hu hx]
    unfold localTraps
    simp [early_clear h, hv, hd.2, hp, hk]
  have h2 : ¬ 2 ≤ c.h.scope := by omega
  unfold issue
  simp only [hctx, held_clear h, hc, h2, Bool.false_and, Bool.false_eq_true, if_false, decide_false]
  unfold issueLocal
  rw [hl]
  simp [lowest, hc]

/-- What a trap leaves whose handler is entered: its frame, the issue set at the handler, and everything but threads and groups. -/
theorem enterTrap_effect {t g scope pc cd e : Nat} {set : List Nat} {tr : Trap} {s : State} (ha : (s.grp t g).trap.active = false)
    (he : s.handlerEntry t = some e) :
    enterTrap t g set scope pc cd tr s =
      { s with threads := (enterTrap t g set scope pc cd tr s).threads, groups := (enterTrap t g set scope pc cd tr s).groups } := by
  rw [enterTrap_handled ha he, State.modThrs_eq]
  rfl

section
variable {i : Instr} {f : AddrForm} {o : OpM} {s : State} {c : Ctx} {l e va pc : Nat} {r : List (Nat × Nat × Nat)}

/-- The trap that the address check of a load or store raises is taken by the handler. -/
theorem addressTrap_taken {d : Desc} (hx : exec i s = .next (issue i 2 d s)) (h : Clear i (needOf 2 d) c s) (hs : c.h.scope ≤ 1) (hc : c.span = false)
    (hu : usesS d.opds = true → uniformConverged c s = true) (hp : poisonTraps c s d.opds = []) (hd : d.unif = false ∧ d.full = false)
    (hseen : d.seen c s = s) (hk : d.chk c s = addrTrap c.group ((l, e, va) :: r)) (ha : (s.grp c.team c.group).trap.active = false)
    (he : s.handlerEntry c.team = some pc) :
    ∃ t, exec i s = .next t
      ∧ (t.grp c.team c.group).trap = ⟨true, 13, c.h.scope, c.group, c.cd, e % 2 ^ 32, c.pc, va % 2 ^ 57, lanesOf (l :: r.map (·.1))⟩
      ∧ (∀ k ∈ c.set, (t.thr (c.key k)).pc = pc) ∧ t = { s with threads := t.threads, groups := t.groups } := by
  refine ⟨_, hx, ?_⟩
  rw [issue_traps h hs hc hu hp hd hk, hseen]
  exact ⟨enterTrap_frame ha he, fun k hk => enterTrap_pc ha he h.once hk, enterTrap_effect ha he⟩

theorem storeDesc_chk (h : o.ord ≠ 2) : (storeDesc f o).chk c s = addrChk f o.a o.off (2 ^ o.vec * tySize o.ty) c s := by
  simp [storeDesc, h, vecN]

end

/-- Settles O29: the windows by where the pointer lies, then the bound and the alignment, then the trap that the check of an address raises. -/
theorem genericPointersAndAddressTraps : Obligations.GenericPointersAndAddressTraps := by
  unfold Obligations.GenericPointersAndAddressTraps
  refine ⟨⟨?_, ?_, ?_⟩, ?_⟩
  · rintro s t p hp tag lo rfl rfl
    refine ⟨fun h => window_beyond h hp, window_glob, ?_, ?_, ?_, ?_, ?_, ?_, ?_, ?_⟩
    · intro h hb
      rw [window_local (k := 0) h (by omega), if_pos rfl, if_pos hb]
    · intro h hb ht
      rw [window_local (k := 0) h (by omega), if_pos rfl, if_neg (by omega)]
      exact if_pos ht
    · intro h hb ht
      rw [window_local (k := 0) h (by omega), if_pos rfl, if_neg (by omega)]
      exact if_neg (not_not.2 ht)
    · intro h hb
      rw [window_local (k := 1) h (by omega), if_neg (by decide), if_pos rfl, if_pos hb]
    · intro h hb
      rw [window_local (k := 1) h (by omega), if_neg (by decide), if_pos rfl, if_neg (by omega)]
    · intro h hb
      rw [window_local (k := 2) h (by omega), if_neg (by decide), if_neg (by decide), if_pos rfl, if_pos hb]
    · intro h hb
      rw [window_local (k := 2) h (by omega), if_neg (by decide), if_neg (by decide), if_pos rfl, if_neg (by omega)]
    · intro h hb
      obtain ⟨k, hk⟩ : ∃ k, p / 2 ^ 40 = 0x1FFF0 + (k + 3) := ⟨p / 2 ^ 40 - 0x1FFF3, by omega⟩
      rw [window_local hk (by omega), if_neg (by omega), if_neg (by omega), if_neg (by omega)]
  · rintro s t p n L rfl
    refine ⟨fun e => decodeGeneric_error, fun o h => ?_, fun sp o h size e hx => ?_⟩
    · rw [decodeGeneric_ok h, boundAlign_glob]
    · simp only [List.mem_cons, Prod.mk.injEq, List.not_mem_nil, or_false] at hx
      rw [decodeGeneric_ok h]
      rcases hx with ⟨rfl, rfl, rfl⟩ | ⟨rfl, rfl, rfl⟩ | ⟨rfl, rfl, rfl⟩ <;> exact boundAlign_local (by decide)
  · rintro c s g l sel off n L rfl sp size e hx
    simp only [List.mem_cons, Prod.mk.injEq, List.not_mem_nil, or_false] at hx
    rcases hx with ⟨rfl, rfl, rfl⟩ | ⟨rfl, rfl, rfl⟩ | ⟨rfl, rfl, rfl⟩ <;> exact ⟨fun o => addrOf_space, addrOf_space_negative⟩
  · intro h o x hx s c l e va r pc hcl hs hc hu hp ho herr ha he
    have hchk : ∀ f, addrChk f o.a o.off (2 ^ o.vec * tySize o.ty) c s = addrTrap c.group (locErrs c.act
        (fun l => addrOf c s c.group l f o.a o.off (2 ^ o.vec * tySize o.ty)) (fun l => addrShown c s c.group l f o.a o.off)) := fun _ => rfl
    simp only [List.mem_cons, List.not_mem_nil, or_false] at hx
    rcases hx with rfl | rfl | rfl | rfl | rfl | rfl | rfl | rfl | rfl | rfl
    iterate 5 exact addressTrap_taken rfl hcl hs hc hu hp ⟨rfl, rfl⟩ rfl (herr ▸ hchk _) ha he
    iterate 5 exact addressTrap_taken rfl hcl hs hc hu hp ⟨rfl, rfl⟩ rfl (by rw [storeDesc_chk ho, hchk]; exact congrArg _ herr) ha he

end Sys2Proof
end

section

/-! ## Loads of local memory (O31) -/

namespace Sys2Proof

open Machine

/-! ### Steps that touch one thread each -/

section
variable {f : State → Nat → State} {key : Nat → TKey}

/-- Steps that each touch one thread alone leave in each thread what its own step does, from a state in which that thread is as at first. -/
theorem foldl_ownThread (hrest : ∀ s l, f s l = { s with threads := (f s l).threads }) (hother : ∀ s l q, q ≠ key l → (f s l).thr q = s.thr q)
    (hkey : ∀ i j, key i = key j → i = j) (ls : List Nat) (hn : ls.Nodup) (s : State) :
    ls.foldl f s = { s with threads := (ls.foldl f s).threads }
      ∧ (∀ q, (∀ l ∈ ls, q ≠ key l) → (ls.foldl f s).thr q = s.thr q)
      ∧ ∀ l ∈ ls, ∃ u : State, u = { s with threads := u.threads } ∧ u.thr (key l) = s.thr (key l) ∧ (ls.foldl f s).thr (key l) = (f u l).thr (key l) := by
  induction ls generalizing s with
  | nil => exact ⟨rfl, fun _ _ => rfl, fun l h => (List.not_mem_nil h).elim⟩
  | cons a ls ih =>
    obtain ⟨ha, hls⟩ := List.nodup_cons.1 hn
    obtain ⟨h1, h2, h3⟩ := ih hls (f s a)
    have hne : ∀ l ∈ ls, key l ≠ key a := fun l hl e => ha (hkey _ _ e ▸ hl)
    refine ⟨?_, fun q hq => ?_, fun l hl => ?_⟩
    · rw [List.foldl_cons, h1, hrest]
    · rw [List.foldl_cons, h2 q (fun l hl => hq l (List.mem_cons_of_mem _ hl)), hother _ _ _ (hq a List.mem_cons_self)]
    · rcases List.mem_cons.1 hl with rfl | hl
      · exact ⟨s, rfl, rfl, h2 _ (fun j hj => (hne j hj).symm)⟩
      · obtain ⟨u, hu, hk, hr⟩ := h3 l hl
        exact ⟨u, by rw [hu, hrest], by rw [hk, hother _ _ _ (hne l hl)], hr⟩

end

/-! ### A value that lands in a register (R274, R368) -/

theorem setBits_full {x v : Nat} (hx : x < 2 ^ 32) : setBits x 31 0 v = v % 2 ^ 32 := by
  unfold setBits bits
  omega

theorem tyBits_of_intTy {ty n : Nat} {sg : Bool} (h : intTy ty = some (sg, n)) : tyBits ty = n := by simp [tyBits, h]

theorem wrapN_ofNat {n v : Nat} : wrapN n (v : Int) = v % 2 ^ n := by
  unfold wrapN
  rw [← Int.natCast_emod, Int.toNat_natCast]

theorem wrapN_sext {n v : Nat} : wrapN n (sext n v) = v % 2 ^ n := by
  unfold sext
  dsimp only
  split
  · rw [wrapN_ofNat, Nat.mod_mod]
  · unfold wrapN
    rw [Int.sub_emod_right, ← Int.natCast_emod, Int.toNat_natCast, Nat.mod_mod]

/-- A 32-bit value fills its register, when no later write of the register stays. -/
theorem putAbs_word {t : Thread} {reg ty v : Nat} {err : Bool} (hty : tyBits ty = 32) (hp : t.pend = []) :
    putAbs t reg ty v err = t.setAbs reg (BitVec.ofNat 32 v) err := by
  have hland : ∀ w, t.land reg w err = t.setAbs reg w err := fun w => by simp [Thread.land, hp]
  unfold putAbs
  dsimp only
  rw [hty]
  cases hi : intTy ty with
  | none =>
    dsimp only
    rw [if_neg (by decide), setBits_full (BitVec.isLt _), hland]
    congr 1
    exact BitVec.eq_of_toNat_eq (by simp)
  | some p =>
    obtain ⟨sg, n⟩ := p
    obtain rfl : n = 32 := (tyBits_of_intTy hi).symm.trans hty
    dsimp only
    rw [if_neg (by decide), hland]
    congr 1
    refine BitVec.eq_of_toNat_eq ?_
    cases sg
    · simp
    · simp [wrapN_sext]

theorem tySize_word {ty : Nat} (h : tyBits ty = 32) : tySize ty = 4 := by simp [tySize, h]

theorem regsOf_word {ty : Nat} (h : tyBits ty = 32) : regsOf ty = 1 := by simp [regsOf, h]

section
variable {c : Ctx} {p : APart} {v : Nat} {err : Bool} (hs : p.isS = false) (s : State)
include hs

theorem landElem_thread : landElem c p v err s = { s with threads := (landElem c p v err s).threads } := by
  unfold landElem putElem
  simp only [hs, Bool.false_eq_true, if_false]
  split <;> rfl

theorem thr_landElem_other {q : TKey} (h : q ≠ (c.team, p.g, p.lane)) : (landElem c p v err s).thr q = s.thr q := by
  unfold landElem putElem
  simp only [hs, Bool.false_eq_true, if_false]
  split
  · rw [State.thr_modThr_other _ _ h.symm]
  · rw [State.thr_modThr_other _ _ h.symm, State.thr_modThr_other _ _ h.symm]

/-- Beside its destination, a value that lands changes only what is in flight of its thread. -/
theorem thr_landElem : ∃ fl, (landElem c p v err s).thr (c.team, p.g, p.lane)
    = { putAbs (s.thr (c.team, p.g, p.lane)) p.reg p.ty v err with inflight := fl } := by
  unfold landElem putElem
  simp only [hs, Bool.false_eq_true, if_false]
  split
  · exact ⟨_, by rw [State.thr_modThr_same]⟩
  · rw [State.thr_modThr_same, State.thr_modThr_same]
    exact List.foldlRecOn (motive := fun (t : Thread) => ∃ fl, t = { putAbs (s.thr (c.team, p.g, p.lane)) p.reg p.ty v err with inflight := fl }) (partRegs p) _
      ⟨_, rfl⟩ fun _ ⟨_, e⟩ _ _ => by subst e; exact ⟨_, rfl⟩

theorem v_landElem {k : Nat} (hty : tyBits p.ty = 32) (hp : (s.thr (c.team, p.g, p.lane)).pend = []) (hr : p.reg = (s.thr (c.team, p.g, p.lane)).wb + k) :
    ((landElem c p v err s).thr (c.team, p.g, p.lane)).v k = ⟨BitVec.ofNat 32 v, err⟩ := by
  obtain ⟨fl, e⟩ := thr_landElem (c := c) (v := v) (err := err) hs s
  rw [e, putAbs_word hty hp, hr]
  exact Thread.abs_setAbs_same _ _ _ _

end

/-! ### Signals and tracks (R175) -/

theorem sigAt_frame (t : Nat) (gs : List Nat) (k due : Nat) (s : State) : ∃ G, sigAt t gs k due s = { s with groups := G } := by
  unfold sigAt
  split
  · exact ⟨_, rfl⟩
  · exact List.foldlRecOn (motive := fun (u : State) => ∃ G, u = { s with groups := G }) gs _ ⟨_, rfl⟩ fun _ ⟨_, e⟩ _ _ => by subst e; exact ⟨_, rfl⟩

theorem grp_sigAt_sigDue (t : Nat) (gs : List Nat) (k due : Nat) (s : State) (a b : Nat) :
    ∃ d, (sigAt t gs k due s).grp a b = { s.grp a b with sigDue := d } := by
  unfold sigAt
  split
  · exact ⟨_, rfl⟩
  · refine List.foldlRecOn (motive := fun (u : State) => ∃ d, u.grp a b = { s.grp a b with sigDue := d }) gs _ ⟨_, rfl⟩ fun u ⟨d, e⟩ g _ => ?_
    rw [State.grp_modGrp_eq]
    split
    · next h => obtain ⟨rfl, rfl⟩ := Prod.mk.inj h; exact ⟨_, by rw [e]⟩
    · exact ⟨d, e⟩

/-- Opening the parts of an instruction without requests to memory changes groups, and takes a number at most. -/
theorem openParts_near_frame (c : Ctx) (near : Bool) (s : State) : ∃ G n, (openParts c near 0 s).2 = { s with groups := G, nextId := n } := by
  cases near
  · obtain ⟨G, e⟩ := sigAt_frame c.team (c.mem.map Prod.fst) (sigOf c) ((s.newId.2).now c.team + 1) s.newId.2
    exact ⟨G, _, e⟩
  · obtain ⟨G, e⟩ := sigAt_frame c.team (c.mem.map Prod.fst) (sigOf c) (c.due (s.now c.team)) s
    exact ⟨G, _, e⟩

theorem grp_openParts_near (c : Ctx) (s : State) (a b : Nat) : ∃ d, (openParts c true 0 s).2.grp a b = { s.grp a b with sigDue := d } :=
  grp_sigAt_sigDue _ _ _ _ _ _ _

/-! ### Loads that read local memory at once (R371) -/

/-- Where each element of a local load lands. -/
def landLocal (c : Ctx) (s0 s : State) (e : Elem) : State :=
  landElem c (e.part e.off) (localRead s0 c.team e).1 (localRead s0 c.team e).2 s

theorem loadElems_local (c : Ctx) (acq : Bool) (es : List Elem) (s0 s : State) (h : ∀ e ∈ es, e.isLocal = true) :
    loadElems c acq es s0 s = (openParts c (!es.isEmpty) 0 (es.foldl (landLocal c s0) s)).2 := by
  have h1 : es.filter (·.isLocal) = es := List.filter_eq_self.2 h
  have h2 : es.filter (fun e => !e.isLocal) = [] := List.filter_eq_nil_iff.2 (fun e he => by simp [h e he])
  unfold loadElems
  dsimp only
  rw [h1, h2]
  rfl

theorem localRead_whole {s : State} {t : Nat} {e : Elem} (h : e.nib = none) : localRead s t e = ((s.local t e.sp).num e.off e.n, (s.local t e.sp).bad e.off e.n) := by
  unfold localRead
  rw [h]

section
variable {c : Ctx} {s : State} {f : AddrForm} {sel off n : Nat}

theorem placesOf_ok {g : Nat → Space × Nat} (h : ∀ l ∈ c.act, addrOf c s c.group l f sel off n = .ok (g l)) :
    placesOf c s f sel off n = c.act.map (fun l => (l, g l)) := by
  unfold placesOf
  rw [← List.filterMap_eq_map]
  refine List.filterMap_congr fun l hl => ?_
  rw [h l hl]
  rfl

/-- A form's element of a lane with one element. -/
theorem laneElems_single {g l ty k : Nat} {data : Option Nat} {x : Space × Nat} :
    laneElems c s g l ty 0 k data x = [⟨g, l, x.1, x.2, tySize ty, none, (s.thr (c.team, g, l)).wb + k, false, ty,
      match data with | some sel => srcV c s g l sel ty | none => 0, 0⟩] := by
  obtain ⟨sp, o⟩ := x
  cases data <;> simp [laneElems, vecN, upFrom, srcV]

end

/-- Local memory: the scratchpad and the cluster-shared segment. -/
def IsLocal (sp : Space) : Prop := sp = .spad ∨ sp = .clsh

theorem IsLocal.elem {e : Elem} (h : IsLocal e.sp) : e.isLocal = true := by
  rcases h with h | h <;> simp [Elem.isLocal, h]

/-- The element of a lane with one element, from a place. -/
def loneElem (c : Ctx) (s : State) (ty k x : Nat) (l : Nat) (p : Space × Nat) : Elem :=
  ⟨c.group, l, p.1, p.2, tySize ty, none, (s.thr (c.key l)).wb + k, false, ty, x, 0⟩

/-- Elements of local memory that several lanes load: nothing but threads, groups and a number changes, no other thread does, and each lane's register
takes the word at its place, with the word's poison. -/
theorem loadElems_words {c : Ctx} {s : State} {ty k : Nat} {acq : Bool} (hn : c.act.Nodup) (hty : tyBits ty = 32)
    (hp : ∀ l ∈ c.act, (s.thr (c.key l)).pend = []) {g : Nat → Space × Nat} (hg : ∀ l ∈ c.act, IsLocal (g l).1) {t : State}
    (ht : loadElems c acq (c.act.map (fun l => loneElem c s ty k 0 l (g l))) s s = t) :
    t = { s with threads := t.threads, groups := t.groups, tracks := t.tracks, nextId := t.nextId }
      ∧ (∀ q, (∀ l ∈ c.act, q ≠ c.key l) → t.thr q = s.thr q)
      ∧ ∀ l ∈ c.act, (t.thr (c.key l)).v k = ⟨BitVec.ofNat 32 ((s.local c.team (g l).1).num (g l).2 4), (s.local c.team (g l).1).bad (g l).2 4⟩ := by
  rw [loadElems_local _ _ _ _ _ (List.forall_mem_map.2 fun l hl => (hg l hl).elem), List.foldl_map] at ht
  obtain ⟨h1, h2, h3⟩ := foldl_ownThread (f := fun u l => landLocal c s u (loneElem c s ty k 0 l (g l))) (key := c.key)
    (fun u l => landElem_thread rfl u) (fun u l q h => thr_landElem_other rfl u h) (fun i j h => by simpa [Ctx.key] using h) c.act hn s
  obtain ⟨G, n, e⟩ := openParts_near_frame c (!(c.act.map (fun l => loneElem c s ty k 0 l (g l))).isEmpty)
    (c.act.foldl (fun u l => landLocal c s u (loneElem c s ty k 0 l (g l))) s)
  rw [e, h1] at ht
  subst ht
  refine ⟨rfl, h2, fun l hl => ?_⟩
  obtain ⟨u, -, hu, hr⟩ := h3 l hl
  change ((c.act.foldl (fun u l => landLocal c s u (loneElem c s ty k 0 l (g l))) s).thr (c.key l)).v k = _
  rw [hr]
  refine (v_landElem (k := k) rfl u hty (hu ▸ hp l hl) (congrArg (fun x : Thread => x.wb + k) hu.symm)).trans ?_
  rw [localRead_whole rfl]
  simp only [loneElem, tySize_word hty]

theorem loadDesc_words {c : Ctx} {s : State} {f : AddrForm} {o : OpM} (hv : o.vec = 0) (hm : bit o.modm 0 = false) {g : Nat → Space × Nat}
    (hg : ∀ l ∈ c.act, addrOf c s c.group l f o.a o.off (tySize o.ty) = .ok (g l)) :
    (loadDesc f o).eff c s = loadElems c (o.ord == 1) (c.act.map (fun l => loneElem c s o.ty (idx o.d) 0 l (g l))) s s := by
  have hp : placesOf c s f o.a o.off (vecN 0 * tySize o.ty) = c.act.map (fun l => (l, g l)) := by
    rw [show vecN 0 * tySize o.ty = tySize o.ty from Nat.one_mul _]
    exact placesOf_ok hg
  simp only [loadDesc, hm, hv, hp, Bool.false_eq_true, if_false, List.flatMap_map, laneElems_single]
  rw [← List.map_eq_flatMap]
  rfl

/-- A load of 32-bit words of local memory (R371, R202). -/
theorem load_words {i : Instr} {f : AddrForm} {o : OpM} {s : State} {c : Ctx} {s1 : State} (hx : exec i s = .next (issue i 2 (loadDesc f o) s))
    (h : Runs i (loadNeed f o) s c s1) (hv : o.vec = 0) (hty : tyBits o.ty = 32) (hm : bit o.modm 0 = false)
    (hp : ∀ l ∈ c.act, (s1.thr (c.key l)).pend = [])
    (ha : ∀ l ∈ c.act, ∃ sp y, addrOf c s1 c.group l f o.a o.off 4 = .ok (sp, y) ∧ (sp = .spad ∨ sp = .clsh)) :
    ∃ t, exec i s = .next t ∧ t = { s1 with threads := t.threads, groups := t.groups, tracks := t.tracks, nextId := t.nextId }
      ∧ (∀ k, (∀ l ∈ c.act, k ≠ c.key l) → t.thr k = s1.thr k)
      ∧ ∀ l ∈ c.act, ∀ sp y, addrOf c s1 c.group l f o.a o.off 4 = .ok (sp, y) →
        (t.thr (c.key l)).v (idx o.d) = ⟨BitVec.ofNat 32 ((s1.local c.team sp).num y 4), (s1.local c.team sp).bad y 4⟩ := by
  have hex : ∀ l, ∃ x : Space × Nat, l ∈ c.act → addrOf c s1 c.group l f o.a o.off 4 = .ok x ∧ IsLocal x.1 := by
    intro l
    by_cases hl : l ∈ c.act
    · obtain ⟨sp, y, h1, h2⟩ := ha l hl
      exact ⟨(sp, y), fun _ => ⟨h1, h2⟩⟩
    · exact ⟨(.spad, 0), fun h => absurd h hl⟩
  choose g hg using hex
  have hd : (loadDesc f o).eff c s1 = loadElems c (o.ord == 1) (c.act.map (fun l => loneElem c s1 o.ty (idx o.d) 0 l (g l))) s1 s1 :=
    loadDesc_words hv hm (by rw [tySize_word hty]; exact fun l hl => (hg l hl).1)
  obtain ⟨hrest, hothers, hval⟩ := loadElems_words (runs_nodup h).2.1 hty hp (fun l hl => (hg l hl).2) rfl
  refine ⟨_, exec_runs hx h (.inl rfl), ?_⟩
  rw [hd]
  refine ⟨hrest, hothers, fun l hl sp y hsy => ?_⟩
  have hgl : g l = (sp, y) := Except.ok.inj ((hg l hl).1.symm.trans hsy)
  rw [hval l hl, hgl]

/-! ### Uniform loads of local memory (R373) -/

theorem sValue_word {ty v : Nat} (hty : tyBits ty = 32) (hv : v < 2 ^ 32) : sValue ty v = sExtend ty v := by
  unfold sValue sExtend
  cases hi : intTy ty with
  | none =>
    dsimp only
    rw [hty]
    omega
  | some p =>
    obtain ⟨sg, n⟩ := p
    obtain rfl : n = 32 := (tyBits_of_intTy hi).symm.trans hty
    cases sg
    · simp only [Bool.false_eq_true, if_false, intVal, wrapN_ofNat]
      omega
    · rfl

theorem leVal_lt (l : List Byte) : leVal l < 256 ^ l.length := by
  induction l with
  | nil => simp [leVal]
  | cons b l ih =>
    have := b.isLt
    simp only [leVal, List.length_cons, Nat.pow_succ]
    omega

@[simp] theorem length_upFrom (lo n : Nat) : (upFrom lo n).length = n := by rw [upFrom_eq_range', List.length_range']

theorem num_lt {m : LMem} {a n : Nat} : m.num a n < 256 ^ n := by
  have := leVal_lt ((upFrom a n).map m.byte)
  rwa [List.length_map, length_upFrom] at this

/-- Threads that a map changes in their snapshots alone. -/
theorem getD_map_span {φ : TKey × Thread → TKey × Thread} (h : ∀ e, ∃ sp, φ e = (e.1, { e.2 with span := sp })) (l : Tbl TKey Thread) (k : TKey) :
    ∃ sp, Tbl.getD (l.map φ) k .blank = { l.getD k .blank with span := sp } := by
  induction l with
  | nil => exact ⟨none, rfl⟩
  | cons e l ih =>
    obtain ⟨q, u⟩ := e
    obtain ⟨sp, e⟩ := h (q, u)
    rw [List.map_cons, e]
    by_cases hq : q = k
    · exact ⟨sp, by simp [Tbl.getD, Tbl.get?, hq]⟩
    · simpa [Tbl.getD, Tbl.get?, hq] using ih

/-- An element that lands in an s register changes groups, and of threads the snapshots alone. -/
theorem landElem_scalar {c : Ctx} {p : APart} {v : Nat} {err : Bool} (hs : p.isS = true) (s : State) : ∃ G T, landElem c p v err s = { s with groups := G, threads := T }
    ∧ (∀ k, ∃ sp, T.getD k .blank = { s.thr k with span := sp })
    ∧ ((s.grp c.team p.g).pendS = [] → (G.getD (c.team, p.g) .blank).s p.reg = ⟨BitVec.ofNat 64 (sValue p.ty v), err⟩) := by
  unfold landElem putElem
  simp only [hs, if_true]
  split
  · refine ⟨_, _, rfl, fun k => getD_map_span (fun e => by split; exacts [⟨_, rfl⟩, ⟨e.2.span, rfl⟩]) s.threads k, fun hp => ?_⟩
    rw [State.modGrp_groups, Tbl.getD_set_same]
    simp [hp, Group.s]
  · refine ⟨_, _, rfl, fun k => getD_map_span (fun e => by split; exacts [⟨_, rfl⟩, ⟨e.2.span, rfl⟩]) s.threads k, fun hp => ?_⟩
    rw [State.modGrp_groups, Tbl.getD_set_same]
    simp [State.grp, show (s.groups.getD (c.team, p.g) .blank).pendS = [] from hp, Group.s]

/-- The element of a uniform load with one element, from a place. -/
def uniformElem (c : Ctx) (ty k l : Nat) (p : Space × Nat) : Elem := ⟨c.group, l, p.1, p.2, tySize ty, none, k, true, ty, 0, 0⟩

theorem sldDesc_word {c : Ctx} {s : State} {o : OpM} {l : Nat} {r : List Nat} {p : Space × Nat} (hv : o.vec = 0) (hact : c.act = l :: r)
    (ha : addrOf c s c.group l .generic o.a o.off (tySize o.ty) = .ok p) (hp : IsLocal p.1) :
    (sldDesc o).eff c s = (openParts c true 0 (landLocal c s s (uniformElem c o.ty (idx o.d) l p))).2 := by
  obtain ⟨sp, y⟩ := p
  have ha' : addrOf c s c.group l .generic o.a o.off (vecN o.vec * tySize o.ty) = .ok (sp, y) := by
    rw [hv, show vecN 0 * tySize o.ty = tySize o.ty from Nat.one_mul _]
    exact ha
  have hes : (upFrom 0 (vecN o.vec)).map (fun e => (⟨c.group, l, sp, y + e * tySize o.ty, tySize o.ty, none, idx o.d + e, true, o.ty, 0, 0⟩ : Elem))
      = [uniformElem c o.ty (idx o.d) l (sp, y)] := by
    simp [hv, vecN, upFrom, uniformElem]
  have hne : sp ≠ .priv := by rcases hp with rfl | rfl <;> decide
  have hpriv : [uniformElem c o.ty (idx o.d) l (sp, y)].filter (fun e => e.sp == Space.priv) = [] := by simp [uniformElem, hne]
  simp only [sldDesc, hact, ha']
  rw [hes, hpriv]
  change (if (sp == Space.priv) = true then _ else loadElems c (o.ord == 1) [uniformElem c o.ty (idx o.d) l (sp, y)] s s) = _
  rw [if_neg (by simpa using hne), loadElems_local _ _ _ _ _ (List.forall_mem_singleton.2 (IsLocal.elem (e := uniformElem c o.ty (idx o.d) l (sp, y)) hp))]
  rfl

/-- A uniform load of a word of local memory. -/
theorem sld_word {h : Hdr} {o : OpM} {s : State} {c : Ctx} {s1 : State} {l : Nat} {r : List Nat} {sp : Space} {y : Nat}
    (hr : Runs (.sld h o) (sldNeed o) s c s1) (hv : o.vec = 0) (hty : tyBits o.ty = 32) (hact : c.act = l :: r) (hp : (s1.grp c.team c.group).pendS = [])
    (ha : addrOf c s1 c.group l .generic o.a o.off 4 = .ok (sp, y)) (hsp : IsLocal sp) :
    ∃ t, exec (.sld h o) s = .next t ∧ t.mem = s1.mem ∧ t.hmem = s1.hmem ∧ t.teams = s1.teams ∧ t.clsh = s1.clsh
      ∧ (∀ k, ∃ sp, t.thr k = { s1.thr k with span := sp })
      ∧ (t.grp c.team c.group).s (idx o.d) = ⟨BitVec.ofNat 64 (sExtend o.ty ((s1.local c.team sp).num y 4)), (s1.local c.team sp).bad y 4⟩ := by
  have heff := sldDesc_word hv hact (by rw [tySize_word hty]; exact ha) hsp
  generalize he : uniformElem c o.ty (idx o.d) l (sp, y) = e at heff
  obtain ⟨G, T, hland, hthr, hs⟩ := landElem_scalar (c := c) (p := e.part e.off) (v := (localRead s1 c.team e).1) (err := (localRead s1 c.team e).2)
    (he ▸ rfl) s1
  have hland : landLocal c s1 s1 e = { s1 with groups := G, threads := T } := hland
  obtain ⟨G', n, hopen⟩ := openParts_near_frame c true (landLocal c s1 s1 e)
  obtain ⟨d, hgrp⟩ := grp_openParts_near c (landLocal c s1 s1 e) c.team c.group
  refine ⟨_, exec_runs (d := sldDesc o) (e := 2) rfl hr (.inl rfl), ?_⟩
  rw [heff, hgrp, hopen, hland]
  refine ⟨rfl, rfl, rfl, rfl, hthr, ?_⟩
  subst he
  refine (hs hp).trans ?_
  rw [localRead_whole rfl]
  change (⟨BitVec.ofNat 64 (sValue o.ty ((s1.local c.team sp).num y (tySize o.ty))), (s1.local c.team sp).bad y (tySize o.ty)⟩ : SWord) = _
  rw [tySize_word hty, sValue_word hty (num_lt (n := 4))]

/-- Settles O31: a load of words lane by lane, then the uniform load. -/
theorem scratchpadLoadValue : Obligations.ScratchpadLoadValue := by
  unfold Obligations.ScratchpadLoadValue
  refine ⟨fun h o x hx s c s1 hr hv hty hm hp ha => ?_, fun h o s c s1 l r sp y hr hv hty hact hp ha hsp => sld_word hr hv hty hact hp ha hsp⟩
  simp only [List.mem_cons, List.not_mem_nil, or_false] at hx
  rcases hx with rfl | rfl | rfl <;> exact load_words rfl hr hv hty hm hp ha

end Sys2Proof
end

section

/-! ## Stores to local memory (O32) -/

namespace Sys2Proof

open Machine

/-! ### Bytes that are written read back (R202) -/

section
variable {cells : List Host.Cell} {m : LMem} {a o i n v : Nat} {l : List Byte}

theorem cellAt_putBytes_outside (h : o < a ∨ a + l.length ≤ o) : cellAt (putBytes cells a l) o = cellAt cells o := by
  induction l generalizing a cells with
  | nil => rfl
  | cons b l ih =>
    simp only [List.length_cons] at h
    rw [putBytes, ih (by omega), cellAt_cellPut_other (by omega)]

theorem cellAt_putBytes_inside (h : i < l.length) : cellAt (putBytes cells a l) (a + i) = some l[i] := by
  induction l generalizing a cells i with
  | nil => simp at h
  | cons b l ih =>
    cases i with
    | zero => rw [putBytes, cellAt_putBytes_outside (by omega)]; exact cellAt_cellPut_same
    | succ i =>
      simp only [List.length_cons, Nat.add_lt_add_iff_right] at h
      rw [putBytes, show a + (i + 1) = a + 1 + i by omega, ih h]
      rfl

theorem byte_write_outside (h : o < a ∨ a + l.length ≤ o) : (m.write a l).byte o = m.byte o := by
  simp only [LMem.byte, LMem.write, cellAt_putBytes_outside h]

theorem byte_write_inside (h : i < l.length) : (m.write a l).byte (a + i) = l[i] := by
  simp only [LMem.byte, LMem.write, cellAt_putBytes_inside h]

@[simp] theorem length_leBytes : (leBytes n v).length = n := by
  induction n generalizing v with
  | zero => rfl
  | succ n ih => simp [leBytes, ih]

theorem leVal_leBytes : leVal (leBytes n v) = v % 2 ^ (8 * n) := by
  induction n generalizing v with
  | zero => simp [leBytes, leVal, Nat.mod_one]
  | succ n ih =>
    simp only [leBytes, leVal, ih, BitVec.toNat_ofNat]
    rw [show 2 ^ (8 * (n + 1)) = 256 * 2 ^ (8 * n) by rw [Nat.mul_add, Nat.pow_add, Nat.mul_comm], Nat.mod_mul, Nat.mod_mod]

theorem bytes_write : (upFrom a l.length).map (m.write a l).byte = l := by
  refine List.ext_getElem (by simp) fun i h1 h2 => ?_
  rw [List.getElem_map]
  simp only [upFrom_eq_range', List.getElem_range', Nat.one_mul]
  exact byte_write_inside h2

theorem num_write : (m.write a (leBytes n v)).num a n = v % 2 ^ (8 * n) := by
  unfold LMem.num
  have := bytes_write (m := m) (a := a) (l := leBytes n v)
  rw [length_leBytes] at this
  rw [this, leVal_leBytes]

theorem byte_covers (ls : List (List Nat)) : (ls.foldl LMem.cover m).byte = m.byte := by
  induction ls generalizing m with
  | nil => rfl
  | cons x ls ih => rw [List.foldl_cons, ih]; rfl

theorem num_covers (ls : List (List Nat)) : (ls.foldl LMem.cover m).num a n = m.num a n := by
  unfold LMem.num
  rw [byte_covers]

end

/-! ### Local memories of a state -/

section
variable {s u : State} {t : Nat} {sp : Space}

theorem local_modLocal (f : LMem → LMem) : (s.modLocal t sp f).local t sp = f (s.local t sp) := by
  have hteam : (s.modTeam t (fun T => { T with spad := f T.spad })).team t = { s.team t with spad := f (s.team t).spad } := State.team_modTeam_same _ _ _
  cases sp
  case clsh => exact Tbl.getD_set_same _ _ _ _
  all_goals exact congrArg Team.spad hteam

theorem local_congr (ht : u.teams = s.teams) (hc : u.clsh = s.clsh) : u.local t sp = s.local t sp := by
  cases sp <;> simp [State.local, State.seg, State.team, ht, hc]

end

/-! ### Waits that a port looks at again (R210) -/

/-- Waits on synchronisation words have been looked at: threads and groups have changed at most, and the commands that are watched. -/
def Reviewed (s t : State) : Prop := ∃ T G D, t = { s with threads := T, groups := G, doneOps := D }

namespace Reviewed
variable {s t u : State}

theorem refl (s : State) : Reviewed s s := ⟨_, _, _, rfl⟩

theorem trans (h : Reviewed s t) (h' : Reviewed t u) : Reviewed s u := by
  obtain ⟨_, _, _, rfl⟩ := h
  obtain ⟨_, _, _, rfl⟩ := h'
  exact ⟨_, _, _, rfl⟩

theorem foldl {α : Type} {f : State → α → State} (hf : ∀ s x, Reviewed s (f s x)) (l : List α) (s : State) : Reviewed s (l.foldl f s) :=
  List.foldlRecOn l _ (refl s) fun _ e _ _ => e.trans (hf _ _)

theorem modGrp (s : State) (t g : Nat) (f : Group → Group) : Reviewed s (s.modGrp t g f) := ⟨_, _, _, rfl⟩

theorem putSync (t g : Nat) (w : WaitRec) (l : WaitLane) (v : Nat) (s : State) : Reviewed s (putSync t g w l v s) := by
  have observed : Reviewed s (observe t l.at_ s) := by
    unfold observe
    split
    · exact refl s
    · exact ⟨_, _, _, rfl⟩
  unfold Machine.putSync
  dsimp only
  split
  · exact observed.trans (modGrp _ _ _ _)
  · exact observed.trans ⟨_, _, _, rfl⟩

theorem finishWait (t g : Nat) (w : WaitRec) (s : State) : Reviewed s (finishWait t g w s) := ⟨_, _, _, (Woken.finishWait t g w s).rest⟩

theorem evalSync (t g : Nat) (s : State) : Reviewed s (evalSync t g s) := by
  unfold Machine.evalSync
  refine (modGrp s t g _).trans (foldl (fun s w => ?_) _ _)
  dsimp only
  split
  · exact modGrp _ _ _ _
  · exact (foldl (fun _ _ => putSync _ _ _ _ _ _) _ _).trans (finishWait _ _ _ _)

theorem evalPort (t : Nat) (s : State) : Reviewed s (evalPort t s) := by
  unfold Machine.evalPort
  split
  · exact refl s
  · exact foldl (fun _ _ => evalSync _ _ _) _ _

end Reviewed

/-- Without a wait, the port changes no thread and no group's record. -/
theorem evalPort_idle {t : Nat} {s : State} (h : ∀ g, (s.grp t g).waits = []) :
    ∃ G, evalPort t s = { s with groups := G } ∧ ∀ a g, (evalPort t s).grp a g = s.grp a g := by
  have hone : ∀ u : State, (∀ a g, u.grp a g = s.grp a g) → ∀ g, evalSync t g u = u.modGrp t g (fun G => { G with waits := [] })
      ∧ ∀ a b, (u.modGrp t g (fun G => { G with waits := [] })).grp a b = s.grp a b := by
    intro u hu g
    have hw : (u.grp t g).waits = [] := by rw [hu, h g]
    refine ⟨?_, fun a b => ?_⟩
    · unfold evalSync
      rw [hw]
      rfl
    · rw [State.grp_modGrp_eq]
      split
      · next e =>
        obtain ⟨rfl, rfl⟩ := Prod.mk.inj e
        rw [← hu, ← hw]
      · exact hu a b
  unfold evalPort
  split
  · exact ⟨_, rfl, fun _ _ => rfl⟩
  · refine List.foldlRecOn (motive := fun (u : State) => ∃ G, u = { s with groups := G } ∧ ∀ a g, u.grp a g = s.grp a g) _ _
      ⟨_, rfl, fun _ _ => rfl⟩ fun u ⟨G, e, hu⟩ g _ => ?_
    obtain ⟨h1, h2⟩ := hone u hu g
    rw [h1]
    exact ⟨_, by rw [e]; rfl, h2⟩

/-! ### What a store to local memory counts (R175, Table cons-3) -/

/-- Threads have changed in their count of local writes alone, groups in their counters, their signals and their unfenced bytes. -/
structure Counted (s t : State) : Prop where
  thr : ∀ k, ∃ n, t.thr k = { s.thr k with owl := n }
  grp : ∀ a g, ∃ x y z, t.grp a g = { s.grp a g with unfenced := x, cnt := y, sigDue := z }

namespace Counted
variable {s t u : State}

theorem refl (s : State) : Counted s s := ⟨fun _ => ⟨_, rfl⟩, fun _ _ => ⟨_, _, _, rfl⟩⟩

theorem trans (h : Counted s t) (h' : Counted t u) : Counted s u := by
  refine ⟨fun k => ?_, fun a g => ?_⟩
  · obtain ⟨_, e⟩ := h.thr k
    obtain ⟨n, e'⟩ := h'.thr k
    exact ⟨n, by rw [e', e]⟩
  · obtain ⟨_, _, _, e⟩ := h.grp a g
    obtain ⟨x, y, z, e'⟩ := h'.grp a g
    exact ⟨x, y, z, by rw [e', e]⟩

theorem foldl {α : Type} {f : State → α → State} (hf : ∀ s x, Counted s (f s x)) (l : List α) (s : State) : Counted s (l.foldl f s) :=
  List.foldlRecOn l _ (refl s) fun _ e _ _ => e.trans (hf _ _)

theorem of_eq (ht : ∀ k, t.thr k = s.thr k) (hg : ∀ a g, t.grp a g = s.grp a g) : Counted s t :=
  ⟨fun k => ⟨_, (ht k).trans rfl⟩, fun a g => ⟨_, _, _, (hg a g).trans rfl⟩⟩

theorem modGrp {f : Group → Group} (hf : ∀ G, ∃ x y z, f G = { G with unfenced := x, cnt := y, sigDue := z }) (s : State) (t g : Nat) :
    Counted s (s.modGrp t g f) := by
  refine ⟨fun k => ⟨_, rfl⟩, fun a b => ?_⟩
  rw [State.grp_modGrp_eq]
  split
  · next e => obtain ⟨rfl, rfl⟩ := Prod.mk.inj e; exact hf _
  · exact ⟨_, _, _, rfl⟩

theorem noteWrite (t g off n : Nat) (s : State) : Counted s (noteWrite t g off n s) := modGrp (fun _ => ⟨_, _, _, rfl⟩) _ _ _

theorem raiseW (t g sig : Nat) (s : State) : Counted s (raiseW t g sig s) := by
  unfold Machine.raiseW
  split
  · exact modGrp (fun _ => ⟨_, _, _, rfl⟩) _ _ _
  · exact refl s

theorem sigAt (t : Nat) (gs : List Nat) (sig due : Nat) (s : State) : Counted s (sigAt t gs sig due s) := by
  unfold Machine.sigAt
  split
  · exact refl s
  · exact foldl (fun s g => modGrp (fun _ => ⟨_, _, _, rfl⟩) s _ _) _ _

theorem openTrack (c : Ctx) (n msc : Nat) (s : State) : Counted s (openTrack c n msc s).2 := by
  unfold Machine.openTrack
  dsimp only
  split
  · exact trans (t := s.newId.2) (of_eq (fun _ => rfl) (fun _ _ => rfl)) (sigAt _ _ _ _ _)
  · exact trans (t := { s.newId.2 with tracks := _ }) (of_eq (fun _ => rfl) (fun _ _ => rfl)) (foldl (fun s g => raiseW _ g _ s) _ _)

theorem countLocal (t g : Nat) (lanes : List Nat) (track : Nat) (s : State) : Counted s (countLocal t g lanes track s) := by
  unfold Machine.countLocal
  split
  · exact refl s
  · refine (foldl (fun s i => ?_) lanes s).trans (of_eq (fun _ => rfl) (fun _ _ => rfl))
    refine ⟨fun k => ?_, fun _ _ => ⟨_, _, _, rfl⟩⟩
    by_cases h : (t, g, i) = k
    · rw [← h, State.thr_modThr_same]
      exact ⟨_, rfl⟩
    · rw [State.thr_modThr_other _ _ h]
      exact ⟨_, rfl⟩

theorem waits (h : Counted s t) (a g : Nat) : (t.grp a g).waits = (s.grp a g).waits := by
  obtain ⟨_, _, _, e⟩ := h.grp a g
  rw [e]

end Counted

/-! ### What a store to local memory leaves unchanged -/

/-- The memories, the teams and the segments are those of another state. -/
structure SameMem (s t : State) : Prop where
  mem : t.mem = s.mem
  hmem : t.hmem = s.hmem
  teams : t.teams = s.teams
  clsh : t.clsh = s.clsh

namespace SameMem
variable {s t u : State}

theorem refl (s : State) : SameMem s s := ⟨rfl, rfl, rfl, rfl⟩

theorem trans (h : SameMem s t) (h' : SameMem t u) : SameMem s u :=
  ⟨h'.mem.trans h.mem, h'.hmem.trans h.hmem, h'.teams.trans h.teams, h'.clsh.trans h.clsh⟩

theorem foldl {α : Type} {f : State → α → State} (hf : ∀ s x, SameMem s (f s x)) (l : List α) (s : State) : SameMem s (l.foldl f s) :=
  List.foldlRecOn l _ (refl s) fun _ e _ _ => e.trans (hf _ _)

theorem noteWrite (t g off n : Nat) (s : State) : SameMem s (noteWrite t g off n s) := ⟨rfl, rfl, rfl, rfl⟩

theorem raiseW (t g sig : Nat) (s : State) : SameMem s (raiseW t g sig s) := by
  unfold Machine.raiseW
  split <;> exact ⟨rfl, rfl, rfl, rfl⟩

theorem sigAt (t : Nat) (gs : List Nat) (sig due : Nat) (s : State) : SameMem s (sigAt t gs sig due s) := by
  obtain ⟨_, e⟩ := sigAt_frame t gs sig due s
  rw [e]
  exact ⟨rfl, rfl, rfl, rfl⟩

theorem openTrack (c : Ctx) (n msc : Nat) (s : State) : SameMem s (openTrack c n msc s).2 := by
  unfold Machine.openTrack
  dsimp only
  split
  · exact trans (t := s.newId.2) ⟨rfl, rfl, rfl, rfl⟩ (sigAt _ _ _ _ _)
  · exact trans (t := { s.newId.2 with tracks := _ }) ⟨rfl, rfl, rfl, rfl⟩ (foldl (fun s g => raiseW _ g _ s) _ _)

theorem countLocal (t g : Nat) (lanes : List Nat) (track : Nat) (s : State) : SameMem s (countLocal t g lanes track s) := by
  unfold Machine.countLocal
  split
  · exact refl s
  · rw [State.modThrs_eq]
    exact ⟨rfl, rfl, rfl, rfl⟩

theorem evalPort (t : Nat) (s : State) : SameMem s (evalPort t s) := by
  obtain ⟨_, _, _, e⟩ := Reviewed.evalPort t s
  rw [e]
  exact ⟨rfl, rfl, rfl, rfl⟩

theorem localMem (h : SameMem s t) (a : Nat) (sp : Space) : t.local a sp = s.local a sp := local_congr h.teams h.clsh

end SameMem

/-! ### Writes of local elements (R214, R370, R372) -/

section
variable {t : Nat} {sp : Space} {es : List Elem} {s : State}

theorem disturb_idle (a : Area) (offs : List Nat) (h : s.ops = []) (h' : s.doneOps = []) : disturb a offs s = s := by simp [disturb, h, h']

/-- With no operation in flight the elements of a local write are in its memory, in their order. -/
theorem local_localWrite (ho : s.ops = []) (hd : s.doneOps = []) (hne : es ≠ []) : (localWrite t sp es s).local t sp
    = (filledBytes es).foldl LMem.cover (es.foldl (fun m e => m.write e.off (elemBytes m e)) (s.local t sp)) := by
  have hempty : es.isEmpty = false := by simpa using hne
  have hops : ∀ f, (s.modLocal t sp f).ops = s.ops ∧ (s.modLocal t sp f).doneOps = s.doneOps := fun f => by cases sp <;> exact ⟨rfl, rfl⟩
  unfold localWrite
  simp only [hempty, Bool.false_eq_true, if_false]
  rw [disturb_idle _ _ ((hops _).1.trans ho) ((hops _).2.trans hd)]
  split
  · rw [((SameMem.foldl (fun s e => SameMem.noteWrite t e.g e.off e.n s) es _).trans (SameMem.evalPort t _)).localMem, local_modLocal]
  · exact local_modLocal _

theorem num_localWrite_single {e : Elem} (ho : s.ops = []) (hd : s.doneOps = []) (hnib : e.nib = none) :
    ((localWrite t sp [e] s).local t sp).num e.off e.n = e.x % 2 ^ (8 * e.n) := by
  rw [local_localWrite ho hd (List.cons_ne_nil _ _), num_covers]
  simp only [List.foldl_cons, List.foldl_nil, elemBytes, hnib]
  exact num_write

theorem byte_writes_outside {m : LMem} {b : Nat} (hnib : ∀ e ∈ es, e.nib = none) (hb : ∀ e ∈ es, b < e.off ∨ e.off + e.n ≤ b) :
    (es.foldl (fun m e => m.write e.off (elemBytes m e)) m).byte b = m.byte b := by
  induction es generalizing m with
  | nil => rfl
  | cons e es ih =>
    rw [List.foldl_cons, ih (fun x hx => hnib x (List.mem_cons_of_mem _ hx)) (fun x hx => hb x (List.mem_cons_of_mem _ hx))]
    refine byte_write_outside ?_
    simp only [elemBytes, hnib e List.mem_cons_self, length_leBytes]
    exact hb e List.mem_cons_self

/-- Nothing has changed but teams and operations in flight, and no scratchpad byte of a team but the listed ones. -/
def SpadOnly (t : Nat) (offs : List Nat) (s u : State) : Prop := ∃ T O, u = { s with teams := T, ops := O }
  ∧ ∀ b, b ∉ offs → (u.team t).spad.byte b = (s.team t).spad.byte b

theorem SpadOnly.trans {offs : List Nat} {u v : State} (h : SpadOnly t offs s u) (h' : SpadOnly t offs u v) : SpadOnly t offs s v := by
  obtain ⟨_, _, rfl, hb⟩ := h
  obtain ⟨_, _, rfl, hb'⟩ := h'
  exact ⟨_, _, rfl, fun b hn => (hb' b hn).trans (hb b hn)⟩

theorem SpadOnly.foldl {α : Type} {offs : List Nat} {f : State → α → State} (l : List α) (hf : ∀ s, ∀ x ∈ l, SpadOnly t offs s (f s x)) (s : State) :
    SpadOnly t offs s (l.foldl f s) :=
  List.foldlRecOn l _ ⟨_, _, rfl, fun _ _ => rfl⟩ fun _ e x hx => e.trans (hf _ x hx)

theorem SpadOnly.areaPut {offs : List Nat} {o : Nat} (h : o ∈ offs) (v : Byte) (s : State) : SpadOnly t offs s (s.areaPut (.spad t) o v) := by
  refine ⟨_, _, rfl, fun b hb => ?_⟩
  have hne : o ≠ b := fun e => hb (e ▸ h)
  unfold State.areaPut
  rw [State.team_modTeam_same]
  simp only [LMem.byte, cellAt_cellPut_other hne]

/-- A write of scratchpad bytes, while no ended command is watched, disturbs no other byte. -/
theorem disturb_spad (offs : List Nat) (h : s.doneOps = []) : SpadOnly t offs s (disturb (.spad t) offs s) := by
  unfold disturb
  split
  · exact ⟨_, _, rfl, fun _ _ => rfl⟩
  · simp only [h, List.foldl_nil]
    refine SpadOnly.trans (u := noteHits (fun _ => true) (.spad t) offs s) ⟨_, _, rfl, fun _ _ => rfl⟩ ?_
    exact .foldl _ (fun s e _ => .foldl _ (fun s o ho => .areaPut (List.mem_filter.1 ho).1 _ s) s) _

/-- What a write of scratchpad elements leaves, while no ended command is watched: both memories, the scratchpad's other bytes, and, when nothing waits
on a word, all but counts. -/
theorem localWrite_spad (hd : s.doneOps = []) (hnib : ∀ e ∈ es, e.nib = none) {u : State} (hu : localWrite t .spad es s = u) :
    u.mem = s.mem ∧ u.hmem = s.hmem ∧ (∀ b, (∀ e ∈ es, b < e.off ∨ e.off + e.n ≤ b) → (u.team t).spad.byte b = (s.team t).spad.byte b)
      ∧ ((∀ g, (s.grp t g).waits = []) → Counted s u) := by
  unfold localWrite at hu
  split at hu
  · subst hu
    exact ⟨rfl, rfl, fun _ _ => rfl, fun _ => .refl s⟩
  · dsimp only at hu
    rw [if_pos (show (Space.spad == Space.spad) = true from rfl)] at hu
    generalize hm : s.modLocal t .spad (fun m => (filledBytes es).foldl LMem.cover (es.foldl (fun m e => m.write e.off (elemBytes m e)) m)) = s1 at hu
    have hbyte1 : ∀ b, (∀ e ∈ es, b < e.off ∨ e.off + e.n ≤ b) → (s1.team t).spad.byte b = (s.team t).spad.byte b := by
      intro b hb
      have e : (s1.team t).spad = _ := hm ▸ local_modLocal (sp := .spad) _
      rw [e, byte_covers]
      exact byte_writes_outside hnib hb
    obtain ⟨T, O, hdis, hbyte2⟩ := disturb_spad (s := s1) (t := t) (es.flatMap (fun e => upFrom e.off e.n)) (hm ▸ hd)
    rw [hdis] at hbyte2
    change evalPort t (es.foldl (fun s e => noteWrite t e.g e.off e.n s) (disturb (.spad t) _ s1)) = u at hu
    rw [hdis] at hu
    have noted := SameMem.foldl (fun s e => SameMem.noteWrite t e.g e.off e.n s) es { s1 with teams := T, ops := O }
    have counted := Counted.foldl (fun s e => Counted.noteWrite t e.g e.off e.n s) es { s1 with teams := T, ops := O }
    generalize es.foldl (fun s e => noteWrite t e.g e.off e.n s) { s1 with teams := T, ops := O } = s2 at hu noted counted
    have ported := noted.trans (SameMem.evalPort t s2)
    rw [hu] at ported
    refine ⟨ported.mem.trans (hm ▸ rfl), ported.hmem.trans (hm ▸ rfl), fun b hb => ?_, fun hw => ?_⟩
    · rw [show u.team t = ({ s1 with teams := T, ops := O } : State).team t by rw [State.team, ported.teams]; rfl, hbyte2 b ?_, hbyte1 b hb]
      intro hin
      obtain ⟨e, he, hin⟩ := List.mem_flatMap.1 hin
      have := hb e he
      rw [mem_upFrom] at hin
      omega
    · have hs : Counted s s2 := Counted.trans (t := { s1 with teams := T, ops := O }) (.of_eq (fun _ => hm ▸ rfl) (fun _ _ => hm ▸ rfl)) counted
      obtain ⟨G, hport, hgrp⟩ := evalPort_idle (t := t) (s := s2) (fun g => (hs.waits t g).trans (hw g))
      rw [hu] at hport hgrp
      exact hs.trans (.of_eq (fun _ => by rw [hport]; rfl) hgrp)

/-- A store of local elements writes them at their ports, and then counts them. -/
theorem storeElems_local {c : Ctx} {msc : Nat} (h : ∀ e ∈ es, e.isLocal = true) {u : State}
    (hu : localWrite c.team .clsh (es.filter (fun e => e.sp == Space.clsh)) (localWrite c.team .spad (es.filter (fun e => e.sp == Space.spad)) s) = u) :
    SameMem u (storeElems c msc es s) ∧ Counted u (storeElems c msc es s) := by
  have h1 : es.filter (·.isLocal) = es := List.filter_eq_self.2 h
  have h2 : es.filter (fun e => !e.isLocal) = [] := List.filter_eq_nil_iff.2 (fun e he => by simp [h e he])
  unfold storeElems
  dsimp only
  rw [h1, h2, hu]
  exact ⟨(SameMem.openTrack _ _ _ _).trans (SameMem.countLocal _ _ _ _ _), (Counted.openTrack _ _ _ _).trans (Counted.countLocal _ _ _ _ _)⟩

end

/-! ### Stores (R372) -/

section
variable {i : Instr} {f : AddrForm} {o : OpM} {s : State} {c : Ctx} {s1 : State}

/-- A store by one lane of one element. -/
theorem storeDesc_lone {l : Nat} {p : Space × Nat} (hv : o.vec = 0) (hact : c.act = [l])
    (ha : addrOf c s c.group l f o.a o.off (tySize o.ty) = .ok p) :
    (storeDesc f o).eff c s = storeElems c o.msc [loneElem c s o.ty 0 (srcV c s c.group l o.b o.ty) l p] s := by
  have hp : placesOf c s f o.a o.off (vecN 0 * tySize o.ty) = [(l, p)] := by
    rw [show vecN 0 * tySize o.ty = tySize o.ty from Nat.one_mul _]
    have := placesOf_ok (c := c) (g := fun _ => p) (n := tySize o.ty) (fun l' hl' => by rw [hact, List.mem_singleton] at hl'; rw [hl']; exact ha)
    rwa [hact] at this
  simp only [storeDesc, hv, hp, List.flatMap_cons, List.flatMap_nil, List.append_nil, laneElems_single]
  rfl

/-- The element of a store by one lane reads back. -/
theorem store_readsBack {l : Nat} {sp : Space} {y : Nat} (hx : exec i s = .next (issue i 2 (storeDesc f o) s)) (h : Runs i (storeNeed f o) s c s1)
    (hv : o.vec = 0) (hact : c.act = [l]) (ho : s1.ops = []) (hd : s1.doneOps = [])
    (ha : addrOf c s1 c.group l f o.a o.off (tySize o.ty) = .ok (sp, y)) (hsp : IsLocal sp) :
    ∃ t, exec i s = .next t ∧ (t.local c.team sp).num y (tySize o.ty) = srcV c s1 c.group l o.b o.ty % 2 ^ (8 * tySize o.ty) := by
  refine ⟨_, exec_runs hx h (.inl rfl), ?_⟩
  rw [storeDesc_lone hv hact ha]
  generalize he : loneElem c s1 o.ty 0 (srcV c s1 c.group l o.b o.ty) l (sp, y) = e
  have hesp : e.sp = sp := he ▸ rfl
  have hwritten : ∀ q, ((localWrite c.team q [e] s1).local c.team q).num y (tySize o.ty) = srcV c s1 c.group l o.b o.ty % 2 ^ (8 * tySize o.ty) := by
    intro q
    subst he
    exact num_localWrite_single ho hd rfl
  have hkept := fun u hu => (storeElems_local (c := c) (msc := o.msc) (es := [e]) (s := s1) (List.forall_mem_singleton.2 (IsLocal.elem (hesp ▸ hsp))) (u := u) hu).1
  rcases hsp with rfl | rfl
  · rw [(hkept (localWrite c.team .spad [e] s1) (by simp [hesp, localWrite])).localMem]
    exact hwritten _
  · rw [(hkept (localWrite c.team .clsh [e] s1) (by simp [hesp, localWrite])).localMem]
    exact hwritten _

/-- A form of a space gives places of that space. -/
theorem addrOf_space_space {l sel off n : Nat} {sp q : Space} {x : Nat} (h : addrOf c s c.group l (.space sp) sel off n = .ok (q, x)) : q = sp := by
  unfold addrOf addrFrom at h
  dsimp only at h
  split at h
  · cases h
  · split at h
    · cases h
    · exact (Prod.mk.inj (Except.ok.inj h)).1.symm

/-- The elements of a scratchpad store: each lies among the bytes that its lane stores at its address. -/
theorem scratchpadStore_elems {e : Elem} (he : e ∈ (placesOf c s (.space .spad) o.a o.off (vecN o.vec * tySize o.ty)).flatMap (fun p =>
      laneElems c s c.group p.1 o.ty o.vec 0 (some o.b) p.2)) :
    e.sp = .spad ∧ e.nib = none ∧ ∃ l ∈ c.act, ∃ x, addrOf c s c.group l (.space .spad) o.a o.off (2 ^ o.vec * tySize o.ty) = .ok (.spad, x)
      ∧ x ≤ e.off ∧ e.off + e.n ≤ x + 2 ^ o.vec * tySize o.ty := by
  obtain ⟨⟨l, q, x⟩, hp, he⟩ := List.mem_flatMap.1 he
  obtain ⟨l', hl', hpl⟩ := List.mem_filterMap.1 hp
  split at hpl
  next p ha =>
    obtain ⟨rfl, rfl⟩ := Prod.mk.inj (Option.some.inj hpl)
    obtain rfl := addrOf_space_space ha
    obtain ⟨j, hj, rfl⟩ := List.mem_map.1 he
    have hj : j + 1 ≤ 2 ^ o.vec := by rw [mem_upFrom] at hj; simp only [vecN] at hj; omega
    refine ⟨rfl, rfl, l', hl', x, ha, Nat.le_add_right _ _, ?_⟩
    have := Nat.mul_le_mul_right (tySize o.ty) hj
    rw [Nat.add_mul, Nat.one_mul] at this
    dsimp only
    omega
  next => cases hpl

/-- What a scratchpad store leaves unchanged. -/
theorem scratchpadStore_frame {h : Hdr} (hr : Runs (.sts h o) (storeNeed (.space .spad) o) s c s1) (hd : s1.doneOps = []) :
    ∃ t, exec (.sts h o) s = .next t ∧ t.mem = s1.mem ∧ t.hmem = s1.hmem
      ∧ (∀ b, (∀ l ∈ c.act, ∀ x, addrOf c s1 c.group l (.space .spad) o.a o.off (2 ^ o.vec * tySize o.ty) = .ok (.spad, x) →
            b < x ∨ x + 2 ^ o.vec * tySize o.ty ≤ b) → (t.team c.team).spad.byte b = (s1.team c.team).spad.byte b)
      ∧ ((∀ g, (s1.grp c.team g).waits = []) → Counted s1 t) := by
  have hes := fun e he => scratchpadStore_elems (o := o) (c := c) (s := s1) (e := e) he
  refine ⟨_, exec_runs (d := storeDesc (.space .spad) o) (e := 2) rfl hr (.inl rfl), ?_⟩
  simp only [storeDesc]
  generalize (placesOf c s1 (.space .spad) o.a o.off (vecN o.vec * tySize o.ty)).flatMap (fun p => laneElems c s1 c.group p.1 o.ty o.vec 0 (some o.b) p.2) = es at hes
  have hspad : es.filter (fun e => e.sp == Space.spad) = es := List.filter_eq_self.2 fun e he => by simp [(hes e he).1]
  have hclsh : es.filter (fun e => e.sp == Space.clsh) = [] := List.filter_eq_nil_iff.2 fun e he => by simp [(hes e he).1]
  obtain ⟨hmem, hhmem, hbyte, hidle⟩ := localWrite_spad (t := c.team) hd (fun e he => (hes e he).2.1) rfl
  obtain ⟨kept, counted⟩ := storeElems_local (c := c) (msc := o.msc) (s := s1) (fun e he => IsLocal.elem (.inl (hes e he).1))
    (u := localWrite c.team .spad es s1) (by rw [hspad, hclsh]; rfl)
  refine ⟨kept.mem.trans hmem, kept.hmem.trans hhmem, fun b hb => ?_, fun hw => (hidle hw).trans counted⟩
  refine (congrArg (fun m : LMem => m.byte b) (kept.localMem c.team .spad)).trans (hbyte b fun e he => ?_)
  obtain ⟨-, -, l, hl, x, hx, hlo, hhi⟩ := hes e he
  have := hb l hl x hx
  omega

end

/-- Settles O32: a lane's element reads back, and what the elements of a scratchpad store leave. -/
theorem scratchpadStores : Obligations.ScratchpadStores := by
  unfold Obligations.ScratchpadStores
  refine ⟨fun h o x hx s c s1 l sp y hr hv hact ho hd ha hsp => ?_, fun h o s c s1 hr hd => ?_⟩
  · simp only [List.mem_cons, List.not_mem_nil, or_false] at hx
    rcases hx with rfl | rfl | rfl <;> exact store_readsBack rfl hr hv hact ho hd ha hsp
  · obtain ⟨t, he, hmem, hhmem, hbyte, hidle⟩ := scratchpadStore_frame hr hd
    refine ⟨t, he, hmem, hhmem, hbyte, fun hw => ⟨(hidle hw).thr, fun a g => ?_⟩⟩
    obtain ⟨x, y, z, e⟩ := (hidle hw).grp a g
    exact ⟨_, rfl, by rw [e]⟩

end Sys2Proof
end

section

/-! ## Scratchpad atomics and reductions (O34) -/

namespace Sys2Proof

open Machine

/-! ### One contribution (R219, R221) -/

theorem distinct_single {α : Type} [BEq α] (a : α) : distinct [a] = [a] := rfl

theorem byElem_single (e : Contrib) : byElem [e] = [((e.sp, e.off), [e])] := by simp [byElem, distinct_single]

theorem contribs_single {c : Ctx} {s : State} {ty a off d l : Nat} {x y : Nat → Nat → Nat} {p : Space × Nat} (hl : c.lanes = [(c.group, l)])
    (ha : addrOf c s c.group l .generic a off (tySize ty) = .ok p) :
    contribs c s ty a off d x y = [⟨c.group, l, p.1, p.2, tySize ty, none, (s.thr (c.key l)).wb + d, false, ty, x c.group l, y c.group l⟩] := by
  obtain ⟨sp, o⟩ := p
  simp only [contribs, hl, List.filterMap_cons, ha, List.filterMap_nil]
  rfl

theorem atomNew_single {op ty old : Nat} {p : APart} (h : op ≤ 7) : atomNew op ty old [p] =
    if op = 6 then p.x else if op = 7 then (if old = p.y then p.x else old) else foldStep op ty 0 0 old p.x := by
  unfold atomNew atomOp
  interval_cases op <;> simp

/-! ### The write at the scratchpad's port (R219, R220) -/

section
variable {t op ty y : Nat} {s u : State} {p : APart}

/-- A request of one part at the scratchpad's port leaves the operation's result in the element, with nothing in flight and no word waited on, and answers
the old value. -/
theorem localAtom_spad (ho : s.ops = []) (hd : s.doneOps = []) (hw : ∀ g, (s.grp t g).waits = []) (hb : (s.team t).spad.bad y (tySize ty) = false) :
    ∃ u, localAtom t op ty (.spad, y) [p] s = (u, (s.team t).spad.num y (tySize ty), false)
      ∧ (u.team t).spad.num y (tySize ty) = atomNew op ty ((s.team t).spad.num y (tySize ty)) [p] % 2 ^ (8 * tySize ty) ∧ Counted s u := by
  have noted : SameMem s (noteWrite t p.g y (tySize ty) s) := SameMem.noteWrite _ _ _ _ _
  have counted : Counted s (noteWrite t p.g y (tySize ty) s) := Counted.noteWrite _ _ _ _ _
  generalize hl : leBytes (tySize ty) (atomNew op ty ((s.team t).spad.num y (tySize ty)) [p]) = l
  refine ⟨portWrite t .spad y l (noteWrite t p.g y (tySize ty) s), ?_, ?_⟩
  · unfold localAtom
    dsimp only
    rw [show s.local t .spad = (s.team t).spad from rfl, hb, ← hl]
    rfl
  · have hport : portWrite t .spad y l (noteWrite t p.g y (tySize ty) s)
        = evalPort t ((noteWrite t p.g y (tySize ty) s).modLocal t .spad (fun m => m.write y l)) := by
      unfold portWrite
      dsimp only
      rw [disturb_idle (s := (noteWrite t p.g y (tySize ty) s).modLocal t .spad (fun m => m.write y l)) _ _ ho hd]
      rfl
    rw [hport]
    have hstored : Counted s ((noteWrite t p.g y (tySize ty) s).modLocal t .spad (fun m => m.write y l)) :=
      counted.trans (.of_eq (fun _ => rfl) (fun _ _ => rfl))
    obtain ⟨G, hidle, hgrp⟩ := evalPort_idle (t := t) (fun g => (hstored.waits t g).trans (hw g))
    refine ⟨?_, hstored.trans (.of_eq (fun _ => by rw [hidle]; rfl) hgrp)⟩
    have hmem := ((SameMem.evalPort t ((noteWrite t p.g y (tySize ty) s).modLocal t .spad (fun m => m.write y l))).localMem t .spad).trans (local_modLocal _)
    refine (congrArg (fun m : LMem => m.num y (tySize ty)) hmem).trans ?_
    rw [← hl]
    exact num_write

end

/-! ### Atomics of one lane (R219, R378) -/

section
variable {c : Ctx} {s : State} {e : Contrib} {y : Nat}

/-- An atomic's request of one lane at the scratchpad: the old value in its register, and the result in the element. -/
theorem atomRequest_spad {op track k : Nat} {acq : Bool} (ho : s.ops = []) (hd : s.doneOps = []) (hw : ∀ g, (s.grp c.team g).waits = [])
    (hp : (s.thr (c.team, e.g, e.lane)).pend = []) (hty : tyBits e.ty = 32) (hs : e.isS = false) (hr : e.reg = (s.thr (c.team, e.g, e.lane)).wb + k)
    (hb : (s.team c.team).spad.bad y (tySize e.ty) = false) {t : State} (ht : atomRequest c op e.ty track acq (.spad, y) [e] s = t) :
    (t.thr (c.team, e.g, e.lane)).v k = ⟨BitVec.ofNat 32 ((s.team c.team).spad.num y (tySize e.ty)), false⟩
      ∧ (t.team c.team).spad.num y (tySize e.ty)
        = atomNew op e.ty ((s.team c.team).spad.num y (tySize e.ty)) [e.part e.off] % 2 ^ (8 * tySize e.ty) := by
  obtain ⟨u, hu, hnum, hcount⟩ := localAtom_spad (t := c.team) (op := op) (p := e.part e.off) ho hd hw hb
  have hreq : atomRequest c op e.ty track acq (.spad, y) [e] s
      = countLocal c.team e.g [e.lane] 0 (landElem c (e.part e.off) ((s.team c.team).spad.num y (tySize e.ty)) false u) := by
    unfold atomRequest
    rw [if_neg (show ¬(Space.spad == Space.glob) = true by decide)]
    simp only [List.map_cons, List.map_nil, hu, distinct_single, List.foldl_cons, List.foldl_nil, List.filter_cons, List.filter_nil, beq_self_eq_true, if_true]
    rfl
  rw [hreq] at ht
  subst ht
  obtain ⟨n, hthr⟩ := hcount.thr (c.team, e.g, e.lane)
  obtain ⟨n', hthr'⟩ := (Counted.countLocal c.team e.g [e.lane] 0 (landElem c (e.part e.off) ((s.team c.team).spad.num y (tySize e.ty)) false u)).thr (c.team, e.g, e.lane)
  refine ⟨?_, ?_⟩
  · rw [hthr']
    exact v_landElem (p := e.part e.off) hs u hty (by rw [show u.thr (c.team, (e.part e.off).g, (e.part e.off).lane) = _ from hthr]; exact hp)
      (by rw [show u.thr (c.team, (e.part e.off).g, (e.part e.off).lane) = _ from hthr]; exact hr)
  · have hland : SameMem u (landElem c (e.part e.off) ((s.team c.team).spad.num y (tySize e.ty)) false u) := by
      rw [landElem_thread (p := e.part e.off) hs]
      exact ⟨rfl, rfl, rfl, rfl⟩
    exact (congrArg (fun m : LMem => m.num y (tySize e.ty)) ((hland.trans (SameMem.countLocal _ _ _ _ _)).localMem c.team .spad)).trans hnum

end

/-- The contribution of a lane to a scratchpad word. -/
def spadContrib (c : Ctx) (s : State) (ty k l y x z : Nat) : Contrib :=
  ⟨c.group, l, .spad, y, tySize ty, none, (s.thr (c.key l)).wb + k, false, ty, x, z⟩

section
variable {i : Instr} {op : Nat} {h : Hdr} {o : OpM} {s : State} {c : Ctx} {s1 : State} {l y : Nat}

/-- An atomic of one lane on a scratchpad word makes one request, and is counted until its register is written. -/
theorem atomDesc_lone (hl : c.lanes = [(c.group, l)]) (hty : tyBits o.ty = 32) (ha : addrOf c s c.group l .generic o.a o.off 4 = .ok (.spad, y)) :
    (atomDesc op h o).eff c s = atomRequest c op o.ty 0 (bit o.ord 0) (.spad, y) [spadContrib c s o.ty (idx o.d) l y
        (if op = 7 then srcV c s c.group l (o.b + 1) o.ty else srcV c s c.group l o.b o.ty) (if op = 7 then srcV c s c.group l o.b o.ty else 0)]
      (sigAt c.team (c.mem.map Prod.fst) (sigOf c) (c.due (s.now c.team)) s) := by
  simp only [atomDesc, contribs_single hl (by rw [tySize_word hty]; exact ha), byElem_single]
  change atomRequest c op o.ty 0 (bit o.ord 0) (.spad, y) [⟨c.group, l, .spad, y, tySize o.ty, none, (s.thr (c.key l)).wb + idx o.d, false, o.ty, _, _⟩]
    (sigAt c.team (c.mem.map Prod.fst) (sigOf c) (c.due (s.now c.team)) s) = _
  unfold spadContrib srcV
  by_cases h7 : op = 7
  · simp [h7, regsOf_word hty]
  · simp [h7]

/-- An atomic of one lane on a word of the scratchpad. -/
theorem atom_lone (hx : exec i s = .next (issue i 2 (atomDesc op h o) s)) (hr : Runs i (atomNeed op h o) s c s1) (hop : op ≤ 7)
    (hl : c.lanes = [(c.group, l)]) (ho : s1.ops = []) (hd : s1.doneOps = []) (hw : ∀ g, (s1.grp c.team g).waits = [])
    (hp : (s1.thr (c.key l)).pend = []) (hty : tyBits o.ty = 32) (ha : addrOf c s1 c.group l .generic o.a o.off 4 = .ok (.spad, y))
    (hb : (s1.team c.team).spad.bad y 4 = false) {old : Nat} (hold : old = (s1.team c.team).spad.num y 4) :
    ∃ t, exec i s = .next t ∧ (t.thr (c.key l)).v (idx o.d) = ⟨BitVec.ofNat 32 old, false⟩
      ∧ (t.team c.team).spad.num y 4 = (
          if op = 6 then srcV c s1 c.group l o.b o.ty
          else if op = 7 then (if old = srcV c s1 c.group l o.b o.ty then srcV c s1 c.group l (o.b + 1) o.ty else old)
          else foldStep op o.ty 0 0 old (srcV c s1 c.group l o.b o.ty)) % 2 ^ 32 := by
  refine ⟨_, exec_runs hx hr (.inl rfl), ?_⟩
  rw [atomDesc_lone hl hty ha]
  generalize he : spadContrib c s1 o.ty (idx o.d) l y (if op = 7 then srcV c s1 c.group l (o.b + 1) o.ty else srcV c s1 c.group l o.b o.ty)
    (if op = 7 then srcV c s1 c.group l o.b o.ty else 0) = e
  have hety : e.ty = o.ty := he ▸ rfl
  obtain ⟨G, hsig⟩ := sigAt_frame c.team (c.mem.map Prod.fst) (sigOf c) (c.due (s1.now c.team)) s1
  have hwaits := (Counted.sigAt c.team (c.mem.map Prod.fst) (sigOf c) (c.due (s1.now c.team)) s1).waits c.team
  rw [hsig] at hwaits ⊢
  obtain ⟨hv, hn⟩ := atomRequest_spad (c := c) (e := e) (y := y) (op := op) (track := 0) (acq := bit o.ord 0) (k := idx o.d) (s := { s1 with groups := G })
    ho hd (fun g => (hwaits g).trans (hw g)) (he ▸ hp) (hety ▸ hty) (he ▸ rfl) (he ▸ rfl) (by rw [hety, tySize_word hty]; exact hb) (by rw [hety])
  rw [hety, tySize_word hty] at hn hv
  subst hold
  refine ⟨by subst he; exact hv, hn.trans ?_⟩
  rw [atomNew_single hop]
  subst he
  by_cases h7 : op = 7
  · subst h7
    rfl
  · simp only [if_neg h7]
    rfl

/-! ### Reductions of one lane (R378) -/

/-- Opening a track changes the group counters, the tracks and the next id only. -/
theorem openTrack_frame (c : Ctx) (n msc : Nat) (s : State) :
    ∃ G T N, (openTrack c n msc s).2 = { s with groups := G, tracks := T, nextId := N } := by
  unfold openTrack
  dsimp only
  split
  · obtain ⟨G, e⟩ := sigAt_frame c.team (c.mem.map Prod.fst) (sigOf c) ((s.newId.2).now c.team + 1) s.newId.2
    exact ⟨G, _, _, e⟩
  · have raised : ∀ (l : List Nat) (u : State), ∃ G, l.foldl (fun s g => raiseW c.team g (sigOf c) s) u = { u with groups := G } := fun l u =>
      List.foldlRecOn (motive := fun (v : State) => ∃ G, v = { u with groups := G }) l _ ⟨_, rfl⟩ fun _ ⟨_, e⟩ _ _ => by
        subst e
        unfold raiseW
        split <;> exact ⟨_, rfl⟩
    obtain ⟨G, e⟩ := raised (c.mem.map Prod.fst) _
    exact ⟨G, _, _, e⟩

/-- A reduction of one lane on a scratchpad wordmakes one request. -/
theorem redDesc_lone (hl : c.lanes = [(c.group, l)]) (hty : tyBits o.ty = 32)
    (ha : addrOf c s c.group l .generic o.a o.off 4 = .ok (.spad, y)) :
    ∃ r tr, (redDesc op h o).eff c s = redRequest c op o r tr (.spad, y) [spadContrib c s o.ty 0 l y (srcV c s c.group l o.b o.ty) 0] (openTrack c 1 0 s).2 := by
  simp only [redDesc, contribs_single hl (by rw [tySize_word hty]; exact ha), byElem_single]
  exact ⟨_, _, rfl⟩

/-- A reduction's request of one lane at the scratchpad, without a word: the result in the element, and no register changed. -/
theorem redRequest_spad {r tr : Nat} {e : Contrib} (hm : bit o.modm 2 = false) (ho : s.ops = []) (hd : s.doneOps = [])
    (hw : ∀ g, (s.grp c.team g).waits = []) (hb : (s.team c.team).spad.bad y (tySize o.ty) = false) {t : State}
    (ht : redRequest c op o r tr (.spad, y) [e] s = t) :
    Counted s t ∧ (t.team c.team).spad.num y (tySize o.ty)
      = atomNew op o.ty ((s.team c.team).spad.num y (tySize o.ty)) [e.part e.off] % 2 ^ (8 * tySize o.ty) := by
  obtain ⟨u, hu, hnum, hcount⟩ := localAtom_spad (t := c.team) (op := op) (ty := o.ty) (p := e.part e.off) ho hd hw hb
  have hreq : redRequest c op o r tr (.spad, y) [e] s = countLocal c.team e.g [e.lane] tr u := by
    unfold redRequest
    rw [if_neg (show ¬(Space.spad == Space.glob) = true by decide)]
    simp only [List.map_cons, List.map_nil, hu, hm, distinct_single, List.foldl_cons, List.foldl_nil, List.filter_cons, List.filter_nil,
      beq_self_eq_true, if_true]
    rfl
  rw [hreq] at ht
  subst ht
  exact ⟨hcount.trans (.countLocal _ _ _ _ _),
    (congrArg (fun m : LMem => m.num y (tySize o.ty)) ((SameMem.countLocal c.team e.g [e.lane] tr u).localMem c.team .spad)).trans hnum⟩

/-- A reduction of one lane on a word of the scratchpad. -/
theorem red_lone (hx : exec i s = .next (issue i 2 (redDesc op h o) s)) (hr : Runs i (redNeed h o) s c s1) (hop : op ≤ 5) (hmod : bits o.modm 2 0 = 0)
    (hl : c.lanes = [(c.group, l)]) (ho : s1.ops = []) (hd : s1.doneOps = []) (hw : ∀ g, (s1.grp c.team g).waits = [])
    (hty : tyBits o.ty = 32) (ha : addrOf c s1 c.group l .generic o.a o.off 4 = .ok (.spad, y))
    (hb : (s1.team c.team).spad.bad y 4 = false) {old : Nat} (hold : old = (s1.team c.team).spad.num y 4) :
    ∃ t, exec i s = .next t ∧ (∀ k, ∃ n, t.thr k = { s1.thr k with owl := n })
      ∧ (t.team c.team).spad.num y 4 = foldStep op o.ty 0 0 old (srcV c s1 c.group l o.b o.ty) % 2 ^ 32 := by
  have hbits : ∀ n < 3, bit o.modm n = false := fun n hn => by
    simp only [bits, bit] at hmod ⊢
    interval_cases n <;> simp <;> omega
  refine ⟨_, exec_runs hx hr (.inl (hbits 0 (by decide))), ?_⟩
  obtain ⟨r, tr, heff⟩ := redDesc_lone (op := op) (h := h) hl hty ha
  obtain ⟨G, T, N, hopen⟩ := openTrack_frame c 1 0 s1
  have opened := Counted.openTrack c 1 0 s1
  rw [hopen] at heff opened
  obtain ⟨counted, hnum⟩ := redRequest_spad (s := { s1 with groups := G, tracks := T, nextId := N }) (hbits 2 (by decide)) ho hd
    (fun g => (opened.waits _ g).trans (hw g)) (by rw [tySize_word hty]; exact hb) heff.symm
  rw [tySize_word hty, atomNew_single (by omega), if_neg (by omega), if_neg (by omega)] at hnum
  subst hold
  exact ⟨(opened.trans counted).thr, hnum⟩

end

/-- Settles O34: the one lane makes one request at the scratchpad's port, which answers the old value and writes the operation's result in the element. -/
theorem scratchpadAtomicValue : Obligations.ScratchpadAtomicValue := by
  unfold Obligations.ScratchpadAtomicValue
  refine ⟨fun h o x hx => ?_, fun h o x hx => ?_⟩ <;> simp only [List.mem_cons, List.not_mem_nil, or_false] at hx
  · rcases hx with rfl | rfl | rfl | rfl | rfl | rfl | rfl | rfl <;> intro s c s1 l y old hr hl ho hd hw hp hty ha hb hold <;>
      exact atom_lone rfl hr (by simp) hl ho hd hw hp hty ha hb hold
  · rcases hx with rfl | rfl | rfl | rfl | rfl | rfl <;> intro s c s1 l y old hr hmod hl ho hd hw hty ha hb hold <;>
      exact red_lone rfl hr (by simp) hmod hl ho hd hw hty ha hb hold

end Sys2Proof
end

section

/-! ## Pointer conversions, tensor accesses and shape slots (O36) -/

namespace Sys2Proof

open Machine

/-! ### Values in the registers of the active lanes -/

theorem addArrival_ne_nil (a : Arrival) (l : List Arrival) : addArrival a l ≠ [] := by
  unfold addArrival
  split
  · exact List.cons_ne_nil _ _
  · split
    · exact List.cons_ne_nil _ _
    · split <;> exact List.cons_ne_nil _ _

/-- The executing group and its active lanes are one member of the instruction. -/
theorem runs_mem {i : Instr} {n : Need} {s : State} {c : Ctx} {s1 : State} (h : Runs i n s c s1) : (c.group, c.act) ∈ c.mem := by
  obtain ⟨⟨hr, -⟩ | ⟨c0, -, hc, -⟩, -⟩ := h
  · obtain ⟨-, hmem, -, -⟩ := mkCtx_eq_some hr.ctx
    rw [hmem]
    exact List.mem_singleton_self _
  · rw [hc]
    unfold joinCtx
    cases ha : (arrivals c0 (dropPart c0 s)).arr with
    | nil => exact absurd ha (addArrival_ne_nil _ _)
    | cons a l => exact List.mem_cons_self ..

theorem runs_lane {i : Instr} {n : Need} {s : State} {c : Ctx} {s1 : State} (h : Runs i n s c s1) {l : Nat} (hl : l ∈ c.act) : (c.group, l) ∈ c.lanes :=
  List.mem_flatMap.2 ⟨_, runs_mem h, List.mem_map.2 ⟨l, hl, rfl⟩⟩

/-- Values written in consecutive registers of each active lane. -/
theorem wrote_putVs {c : Ctx} {u : State} {d n : Nat} {f : Nat → Nat} (hn : c.act.Nodup) (hd : ∀ l ∈ c.act, idx d + n ≤ (u.thr (c.key l)).depth)
    (hf : ∀ l ∈ c.act, ∀ x ∈ (u.thr (c.key l)).inflight, x.due ≤ u.now c.team) :
    Wrote c u (c.act.foldl (fun s l => putVs c c.group l (idx d) n (f l) s) u) d n f := by
  obtain ⟨hrest, hother, hkept⟩ := foldl_ownThread (key := c.key) (f := fun s l => putVs c c.group l (idx d) n (f l) s) (fun s l => putVs_eq ..)
    (fun s l q hq => putVs_other c c.group l _ _ _ s hq) (fun i j e => by simpa [Ctx.key] using e) c.act hn u
  have put : ∀ l ∈ c.act, PutRegs (u.thr (c.key l)) ((c.act.foldl (fun s l => putVs c c.group l (idx d) n (f l) s) u).thr (c.key l)) (idx d) n (f l) := by
    intro l hl
    obtain ⟨w, hw, hk, e⟩ := hkept l hl
    have hnow : w.now c.team = u.now c.team := by rw [hw]; rfl
    have := putVs_put c c.group l (idx d) n (f l) w (by rw [show w.thr (c.team, c.group, l) = _ from hk]; exact hd l hl)
      (by rw [show w.thr (c.team, c.group, l) = _ from hk, hnow]; exact fun x hx j _ => .inr (hf l hl x hx))
    rwa [show w.thr (c.team, c.group, l) = _ from hk, ← show _ = (putVs c c.group l (idx d) n (f l) w).thr (c.team, c.group, l) from e] at this
  refine ⟨fun l hl => ?_, hrest, hother, fun l hl => ⟨_, rfl, (put l hl).kept⟩⟩
  rw [readRegs_put (put l hl).vals]
  exact ⟨rfl, rfl⟩

/-! ### Pointer conversions (R206, R376) -/

/-- An accepted destination of class 0 or 2 that is no s register lies in the window. -/
theorem dstVS_fits {f sel n : Nat} {a b : Bool} (h : (⟨f, sel, [0, 2], n, true, false⟩ : Opd).ok a b = true) (hc : cls sel ≠ 2) : idx sel + n ≤ 64 := by
  unfold Opd.ok at h
  cases hs : isSwb sel
  · simp only [hs, Bool.false_eq_true, if_false, Bool.and_eq_true] at h
    obtain ⟨⟨hi, hcls⟩, -⟩ := h
    have hc0 : cls sel = 0 := by
      by_contra h0
      by_cases h6 : cls sel = 6
      · simp [clsOk, h6] at hcls
      · simp [clsOk, h6, hc, h0] at hcls
    simp only [hc0, idxOk, Bool.and_eq_true, decide_eq_true_eq] at hi
    exact hi.2
  · simp [hs] at h

/-- A conversion's results stand in the active lanes' registers, or the lowest active lane's in the s register. -/
def Converted (c : Ctx) (u t : State) (d n : Nat) (f : Nat → Nat) : Prop :=
  (cls d ≠ 2 → Wrote c u t d n f) ∧ (cls d = 2 → (c.act = [] → t = u) ∧ ∀ l r, c.act = l :: r → SResult c u t c.group (idx d) (f l))

theorem putCast_lands {i : Instr} {e n : Nat} {d : Desc} {o : OpG} {f g : Nat → Nat} {s s1 u : State} {c : Ctx} {l : List Opd}
    (hr : Runs i (needOf e d) s c s1) (hopd : d.opds = dst 0 o.d n [0, 2] :: l)
    (hu : u = sigAt c.team [c.group] (sigOf c) (c.due (s1.now c.team)) s1) (hfg : ∀ l ∈ c.act, g l = f l) :
    Converted c u (putCast o n g c s1) o.d n f := by
  obtain ⟨G, hG⟩ := sigAt_frame c.team [c.group] (sigOf c) (c.due (s1.now c.team)) s1
  rw [← hu] at hG
  have counted : Counted s1 u := hu ▸ Counted.sigAt _ _ _ _ _
  have hthr : ∀ k, u.thr k = s1.thr k := fun k => by rw [hG]; rfl
  have hnow : u.now c.team = s1.now c.team := by rw [hG]; rfl
  unfold putCast
  rw [← hu]
  refine ⟨fun hc => ?_, fun hc => ?_⟩
  · obtain ⟨-, ⟨a, b, hb⟩, -⟩ := runs_facts hr
    have hfit : idx o.d + n ≤ 64 := dstVS_fits (Opd.ok_of_badField (show badField (dst 0 o.d n [0, 2] :: l) a b = none from hopd ▸ hb)) hc
    simp only [beq_iff_eq, hc, if_false]
    rw [show c.act.foldl (fun s l => putVs c c.group l (idx o.d) n (g l) s) u = c.act.foldl (fun s l => putVs c c.group l (idx o.d) n (f l) s) u from
      List.foldl_ext _ _ _ fun s l hl => by rw [hfg l hl]]
    exact wrote_putVs (runs_nodup hr).2.1 (fun l hl => by rw [hthr]; exact hfit.trans (hr.2.deep _ (runs_lane hr hl)))
      (fun l hl => by rw [hthr, hnow]; exact hr.2.still _ (runs_lane hr hl))
  · simp only [hc, beq_self_eq_true, if_true]
    refine ⟨fun ha => by rw [ha], fun l r ha => ?_⟩
    rw [ha]
    dsimp only
    rw [hfg l (by rw [ha]; exact List.mem_cons_self ..)]
    refine putS_lands c u _ _ _ ?_
    obtain ⟨_, _, _, hgrp⟩ := counted.grp c.team c.group
    rw [hgrp, hnow]
    exact hr.2.stillS _

theorem spaceCode_eq (s : State) (t g : Nat) : spaceCode s t g = (match window s t g with
    | .ok (.glob, _) => 0
    | .ok (.spad, _) => 1
    | .ok (.clsh, _) => 2
    | .ok (.priv, _) => 3
    | .error e => if e = 4 then 4 else 5) := by
  unfold spaceCode
  rcases window s t g with e | ⟨sp, x⟩
  · by_cases h : e = 4
    · simp [h]
    · simp [h]
  · cases sp <;> rfl

theorem spOf_eq {k : Nat} : spOf k = if k = 0 then .glob else if k = 1 then .spad else if k = 2 then .clsh else .priv := by
  match k with
  | 0 | 1 | 2 => rfl
  | k + 3 => simp [spOf]

/-- A pointer of the named space has an offset. -/
theorem fromGeneric_ok {s : State} {t k g x : Nat} (h : window s t g = .ok (spOf k, x)) : fromGeneric s t k g = .ok x := by
  unfold fromGeneric
  rw [h]
  simp

section
variable {h : Hdr} {o : OpG} {s s1 u : State} {c : Ctx} {f : Nat → Nat} (hu : u = sigAt c.team [c.group] (sigOf c) (c.due (s1.now c.team)) s1)
include hu

theorem spt_converts (hr : Runs (.spt h o) (needOf 2 (sptDesc o)) s c s1)
    (hf : ∀ l ∈ c.act, f l = spaceCode s1 c.team (readSel c s1 c.group l o.a 2 0x31).v) : ∃ t, exec (.spt h o) s = .next t ∧ Converted c u t o.d 1 f :=
  ⟨_, exec_runs rfl hr (.inl rfl), putCast_lands hr rfl hu fun l hl => (hf l hl).symm⟩

theorem cvta_converts (hr : Runs (.cvta h o) (needOf 2 (cvtaDesc o)) s c s1)
    (hf : ∀ l ∈ c.act, toGeneric s1 c.team (bits o.flags 1 0) (cvtaSrc o c s1 l) = .ok (f l)) :
    ∃ t, exec (.cvta h o) s = .next t ∧ Converted c u t o.d 2 f :=
  ⟨_, exec_runs rfl hr (.inl rfl), putCast_lands hr rfl hu fun l hl => by rw [hf l hl]⟩

theorem cvts_converts (hr : Runs (.cvts h o) (needOf 2 (cvtsDesc o)) s c s1)
    (hf : ∀ l ∈ c.act, window s1 c.team (readSel c s1 c.group l o.a 2 0x31).v = .ok (spOf (bits o.flags 1 0), f l)) :
    ∃ t, exec (.cvts h o) s = .next t ∧ Converted c u t o.d (if bits o.flags 1 0 == 0 then 2 else 1) f :=
  ⟨_, exec_runs rfl hr (.inl rfl), putCast_lands hr rfl hu fun l hl => by rw [fromGeneric_ok (hf l hl)]⟩

end

/-- The part of O36 about pointer conversions. -/
theorem pointerConversions (h : Hdr) (o : OpG) (s : State) (c : Ctx) (s1 : State) (i : Instr) (n k : Nat) (f : Nat → Nat) (u : State)
    (hk : k = bits o.flags 1 0) (hu : u = sigAt c.team [c.group] (sigOf c) (c.due (s1.now c.team)) s1)
    (hi : (i = .spt h o ∧ n = 1 ∧ Runs (.spt h o) { eng := 2, opds := [dst 0 o.d 1 [0, 2], src 1 o.a 2 [0, 2]] } s c s1
        ∧ ∀ l ∈ c.act, f l = spaceCode s1 c.team (readSel c s1 c.group l o.a 2 0x31).v)
      ∨ (i = .cvta h o ∧ n = 2 ∧ Runs (.cvta h o)
          { eng := 2, opds := [dst 0 o.d 2 [0, 2], src 1 o.a (if k = 0 then 2 else 1) [0, 2, 60, 7]], chk := (cvtaDesc o).chk } s c s1
        ∧ ∀ l ∈ c.act, toGeneric s1 c.team k (cvtaSrc o c s1 l) = .ok (f l))
      ∨ (i = .cvts h o ∧ n = (if k = 0 then 2 else 1) ∧ Runs (.cvts h o)
          { eng := 2, opds := [dst 0 o.d n [0, 2], src 1 o.a 2 [0, 2]], chk := (cvtsDesc o).chk } s c s1
        ∧ ∀ l ∈ c.act, window s1 c.team (readSel c s1 c.group l o.a 2 0x31).v = .ok (spOf k, f l))) :
    ∃ t, exec i s = .next t ∧ Converted c u t o.d n f := by
  subst hk
  rcases hi with ⟨rfl, rfl, hr, hf⟩ | ⟨rfl, rfl, hr, hf⟩ | ⟨rfl, rfl, hr, hf⟩
  · exact spt_converts hu hr hf
  · exact cvta_converts hu (by simpa only [needOf, cvtaDesc, beq_iff_eq] using hr) hf
  · have hn : (if bits o.flags 1 0 = 0 then 2 else 1) = (if (bits o.flags 1 0 == 0) = true then 2 else 1) := by simp only [beq_iff_eq]
    rw [hn] at hr ⊢
    exact cvts_converts hu hr hf

end Sys2Proof
end

section

/-! ## Tensor accesses and shape slots (O36) -/

namespace Sys2Proof

open Machine

/-! ### The place that coordinates give (R287) -/

theorem testBit_bits (x hi lo j : Nat) : (bits x hi lo).testBit j = (decide (j < hi + 1 - lo) && x.testBit (j + lo)) := by
  unfold bits
  rw [Nat.testBit_mod_two_pow, Nat.testBit_div_two_pow]

/-- An exclusive or with a field changes its bits only. -/
theorem bit_setBits_xor (x y k : Nat) : bit (setBits x 8 3 (bits x 8 3 ^^^ y)) k = (bit x k ^^ (decide (3 ≤ k ∧ k < 9) && bit y (k - 3))) := by
  by_cases h : 3 ≤ k ∧ k < 9
  · have hb := congrArg (fun v => v.testBit (k - 3)) (bits_setBits_same x 3 6 (bits x 8 3 ^^^ y) (by decide))
    simp only [testBit_bits, Nat.testBit_mod_two_pow, Nat.testBit_xor, show k - 3 + 3 = k by omega, show k - 3 < 6 by omega, decide_true, Bool.true_and] at hb
    simp only [bit_eq_testBit, h, and_self, decide_true, Bool.true_and]
    simpa [show k - 3 < 6 by omega] using hb
  · rw [bit_setBits_other x 3 6 _ k (by decide) (by omega)]
    simp [h]

section
variable {s : State} {t : Nat} {h : Shape} {cs : List Int}

theorem shapeAddr_oob (hk : ∃ k, k < h.rank ∧ (cs.getD k 0 < 0 ∨ ((h.ext.getD k 0 : Nat) : Int) ≤ cs.getD k 0)) : shapeAddr s t h cs = .oob := by
  obtain ⟨k, hr, hk⟩ := hk
  unfold shapeAddr
  refine if_pos (List.any_eq_true.2 ⟨k, mem_upFrom.2 (by omega), ?_⟩)
  simpa using hk

/-- The distance of an element from its shape's start, in elements. -/
def shapeIndex (h : Shape) (x : Nat → Nat) : Nat := (upFrom 1 (h.rank - 1)).foldl (fun y k => y + x k * h.stride.getD k 0) (x 0)

/-- The place of coordinates inside the shape, before the swizzle. -/
theorem shapeAddr_inside {x : Nat → Nat} {sp : Space} {off : Nat} (hw : window s t h.base = .ok (sp, off)) (hr : 1 ≤ h.rank)
    (hx : ∀ k, k < h.rank → cs.getD k 0 = (x k : Int) ∧ x k < h.ext.getD k 0) {half : Bool} (hhalf : half = decide (h.ty = 0x26 ∨ h.ty = 0x27)) {b : Nat}
    (hb : b = off + (if half then shapeIndex h x / 2 else shapeIndex h x * tySize h.ty)) :
    shapeAddr s t h cs = .at_ sp (if sp == .spad then setBits b 8 3 (bits b 8 3 ^^^ ((if h.rank < 2 then 0 else x 1 % 2 ^ 6) &&& h.swz)) else b)
      (if half then shapeIndex h x % 2 else 0) := by
  have hin : ¬(upFrom 0 h.rank).any (fun k => decide (cs.getD k 0 < 0) || decide (((h.ext.getD k 0 : Nat) : Int) ≤ cs.getD k 0)) = true := by
    rw [Bool.not_eq_true, List.any_eq_false]
    intro k hk
    obtain ⟨h1, h2⟩ := hx k (by rw [mem_upFrom] at hk; omega)
    rw [h1]
    simp only [Bool.or_eq_true, decide_eq_true_eq]
    omega
  have hidx : (upFrom 0 h.rank).foldl (fun a k => a + (cs.getD k 0).toNat * (if k == 0 then 1 else h.stride.getD k 0)) 0 = shapeIndex h x := by
    rw [show upFrom 0 h.rank = 0 :: upFrom 1 (h.rank - 1) by rw [show h.rank = (h.rank - 1) + 1 by omega]; rfl, List.foldl_cons, (hx 0 (by omega)).1]
    simp only [Nat.zero_add, Int.toNat_natCast, beq_self_eq_true, if_true, Nat.mul_one, shapeIndex]
    refine List.foldl_ext _ _ _ fun a k hk => ?_
    rw [mem_upFrom] at hk
    rw [(hx k (by omega)).1, if_neg (by simp; omega), Int.toNat_natCast]
  have hrow : wrapN 6 (if h.rank < 2 then 0 else cs.getD 1 0) = if h.rank < 2 then 0 else x 1 % 2 ^ 6 := by
    split
    · rfl
    · rw [(hx 1 (by omega)).1]
      unfold wrapN
      omega
  have hh : (h.ty == 0x26 || h.ty == 0x27) = half := by rw [hhalf, Bool.decide_or]; rfl
  unfold shapeAddr
  dsimp only
  rw [if_neg hin, hidx, hw]
  dsimp only
  rw [hrow, hh, ← show (if half = true then off + shapeIndex h x / 2 else off + shapeIndex h x * tySize h.ty) = b by rw [hb]; split <;> rfl]

/-- The part of O36 about the place of an element. -/
theorem shapeAddr_place {x : Nat → Nat} {sp : Space} {off : Nat} (hw : window s t h.base = .ok (sp, off)) (hr : 1 ≤ h.rank)
    (hx : ∀ k, k < h.rank → cs.getD k 0 = (x k : Int) ∧ x k < h.ext.getD k 0) {half : Bool} (hhalf : half = decide (h.ty = 0x26 ∨ h.ty = 0x27)) {b nib : Nat}
    (hb : b = off + (if half then shapeIndex h x / 2 else shapeIndex h x * tySize h.ty)) (hn : nib = if half then shapeIndex h x % 2 else 0) :
    (sp ≠ .spad → shapeAddr s t h cs = .at_ sp b nib)
      ∧ (sp = .spad → ∃ a, shapeAddr s t h cs = .at_ .spad a nib ∧ ∀ k, bit a k = (bit b k
          ^^ (decide (3 ≤ k ∧ k < 9 ∧ 2 ≤ h.rank) && bit h.swz (k - 3) && bit (x 1) (k - 3)))) := by
  have hin := shapeAddr_inside hw hr hx hhalf hb
  rw [← hn] at hin
  refine ⟨fun hsp => by rw [hin, if_neg (by simpa using hsp)], fun hsp => ?_⟩
  subst hsp
  refine ⟨_, hin, fun k => ?_⟩
  rw [if_pos (by rfl), bit_setBits_xor]
  congr 1
  simp only [bit_eq_testBit, Nat.testBit_and]
  by_cases hk : 3 ≤ k ∧ k < 9
  · by_cases h2 : h.rank < 2
    · simp [h2, show ¬ 2 ≤ h.rank by omega]
    · simp [h2, hk.1, hk.2, show 2 ≤ h.rank by omega, Nat.testBit_mod_two_pow, -Nat.reducePow, show k - 3 < 6 by omega, Bool.and_comm]
  · simp only [hk, decide_false, Bool.false_and]
    rw [show decide (3 ≤ k ∧ k < 9 ∧ 2 ≤ h.rank) = false by simp; omega]
    rfl

end

/-! ### Tensor accesses (R375) -/

theorem coordsOf_eq (c : Ctx) (s : State) (o : OpT) (l e : Nat) : coordsOf c s o c.group l e = (upFrom 0 7).map (fun j => if j < o.nc then
    sext 32 (srcV c s c.group l (o.coord + j) 0x2E) + (if j = 0 then (e : Int) else 0) else 0) := by
  unfold coordsOf
  refine List.map_congr_left fun j _ => ?_
  rw [show sext 32 (srcV c s c.group l (o.coord + j) 0x2E) = sext 32 (readSel c s c.group l (o.coord + j) 1 0x2E).v from by
    unfold srcV sext
    rw [show tyBits 0x2E = 32 from rfl, Nat.mod_mod]
    rfl]
  by_cases h : j = 0 <;> simp [h]

/-- An element out of bounds becomes a zero in its register; the loads of other elements are made elsewhere. -/
def zeroOob (c : Ctx) (s0 : State) (o : OpT) (h : Shape) (s : State) (l : Nat) : State :=
  match tensorLoc c s0 o h l 0 with
  | .oob => landElem c ⟨c.group, l, 0, tySize o.ty, (s0.thr (c.key l)).wb + idx o.data, false, o.ty, none, 0, 0⟩ 0 false s
  | _ => s

section
variable {c : Ctx} {s0 : State} {o : OpT} {h : Shape}

theorem tensorZero_single (hv : o.vec = 0) (s : State) : tensorZero o h c s0 s = c.act.foldl (zeroOob c s0 o h) s := by
  unfold tensorZero vecN
  rw [hv]
  refine List.foldl_ext _ _ _ fun s l _ => ?_
  simp only [Nat.pow_zero, upFrom, List.foldl_cons, List.foldl_nil, Nat.zero_mul, Nat.add_zero]
  rfl

theorem zeroOob_oob {l : Nat} (hp : tensorLoc c s0 o h l 0 = .oob) (s : State) : zeroOob c s0 o h s l
    = landElem c ⟨c.group, l, 0, tySize o.ty, (s0.thr (c.key l)).wb + idx o.data, false, o.ty, none, 0, 0⟩ 0 false s := by
  unfold zeroOob
  rw [hp]

theorem zeroOob_inside {l : Nat} (hp : tensorLoc c s0 o h l 0 ≠ .oob) (s : State) : zeroOob c s0 o h s l = s := by
  unfold zeroOob
  split
  · exact absurd ‹_› hp
  · rfl

/-- A load of single words that lie outside the shape leaves zeros, and the threads of the others alone. -/
theorem tensorZero_words (hty : tyBits o.ty = 32) (hv : o.vec = 0) (hn : c.act.Nodup) (hp : ∀ l ∈ c.act, (s0.thr (c.key l)).pend = []) {l : Nat} (hl : l ∈ c.act) :
    (tensorLoc c s0 o h l 0 = .oob → ((tensorZero o h c s0 s0).thr (c.key l)).v (idx o.data) = ⟨0, false⟩)
      ∧ (tensorLoc c s0 o h l 0 ≠ .oob → (tensorZero o h c s0 s0).thr (c.key l) = s0.thr (c.key l)) := by
  obtain ⟨-, -, hkey⟩ := foldl_ownThread (f := zeroOob c s0 o h) (key := c.key)
    (fun s l => by unfold zeroOob; split; exacts [landElem_thread rfl s, rfl])
    (fun s l q hq => by unfold zeroOob; split; exacts [thr_landElem_other rfl s hq, rfl]) (fun i j e => by simpa [Ctx.key] using e) c.act hn s0
  obtain ⟨u, -, hu, hres⟩ := hkey l hl
  rw [tensorZero_single hv, hres]
  refine ⟨fun ho => ?_, fun ho => by rw [zeroOob_inside ho, hu]⟩
  rw [zeroOob_oob ho]
  exact v_landElem (p := ⟨c.group, l, 0, tySize o.ty, (s0.thr (c.key l)).wb + idx o.data, false, o.ty, none, 0, 0⟩) rfl u hty
    (by rw [show u.thr (c.team, c.group, l) = _ from hu]; exact hp l hl) (by rw [show u.thr (c.team, c.group, l) = _ from hu])

end

/-- The part of O36 about the elements of a tensor access. -/
theorem tensorAccess_elems {o : OpT} {data : Bool} {k : Shape} {c : Ctx} {s : State} {val : Nat → Nat → Nat} {place : Nat → Nat → ElemLoc}
    (hval : ∀ l e, val l e = if data then (readSel c s c.group l (o.data + e * regsOf o.ty) (regsOf o.ty) o.ty).v % 2 ^ tyBits o.ty else 0)
    (hplace : ∀ l e, place l e = tensorLoc c s o k l e) :
    tensorElems o data k c s = c.act.flatMap (fun l => (upFrom 0 (2 ^ o.vec)).filterMap (fun e => match place l e with
        | .at_ sp y nib => some ⟨c.group, l, sp, y, tySize o.ty, if o.ty ∈ [0x26, 0x27] then some nib else none,
            (s.thr (c.key l)).wb + idx o.data + e * regsOf o.ty, false, o.ty, val l e, 0⟩
        | _ => none)) := by
  have hnib : ∀ n : Nat, (if o.ty ∈ [0x26, 0x27] then some n else none) = if (o.ty == 0x26 || o.ty == 0x27) = true then some n else none :=
    fun n => if_congr (by simp) rfl rfl
  obtain rfl : val = _ := funext fun l => funext (hval l)
  obtain rfl : place = _ := funext fun l => funext (hplace l)
  simp only [hnib]
  rfl

/-! ### Shape slots (R374) -/

/-- Deleting one key leaves the others. -/
theorem Tbl.get?_del_other {κ α : Type} [DecidableEq κ] (t : Tbl κ α) {k q : κ} (h : k ≠ q) : (t.del k).get? q = t.get? q := by
  induction t with
  | nil => rfl
  | cons e t ih =>
    obtain ⟨k', v⟩ := e
    by_cases hk : k' = k
    · subst hk
      simpa [Tbl.del, Tbl.get?, h] using ih
    · by_cases hq : k' = q
      · simp [Tbl.del, Tbl.get?, hq, h.symm]
      · simpa [Tbl.del, Tbl.get?, hk, hq] using ih

section
variable {c : Ctx} {s : State}

/-- A signal one cycle on leaves every slot. -/
theorem sigSoon_frame (c : Ctx) (s : State) : ∃ G, sigSoon c s = { s with groups := G } ∧ ∀ a g, ((sigSoon c s).grp a g).shapes = (s.grp a g).shapes := by
  obtain ⟨G, e⟩ := sigAt_frame c.team (c.mem.map Prod.fst) (sigOf c) (s.now c.team + 1) s
  refine ⟨G, e, fun a g => ?_⟩
  obtain ⟨_, _, _, hg⟩ := (Counted.sigAt c.team (c.mem.map Prod.fst) (sigOf c) (s.now c.team + 1) s).grp a g
  rw [show (sigSoon c s).grp a g = _ from hg]

/-- A slot filled, and the counter signalled. -/
theorem slot_filled (k x : Nat) {t : State} (ht : t = sigSoon c (s.modGrp c.team c.group (fun G => { G with shapes := G.shapes.set k x }))) :
    t = { s with groups := t.groups } ∧ (t.grp c.team c.group).shapes.get? k = some x
      ∧ ∀ j, j ≠ k → (t.grp c.team c.group).shapes.get? j = (s.grp c.team c.group).shapes.get? j := by
  obtain ⟨G, e, hshape⟩ := sigSoon_frame c (s.modGrp c.team c.group (fun G => { G with shapes := G.shapes.set k x }))
  rw [← ht] at e hshape
  rw [hshape, State.grp_modGrp_same]
  exact ⟨by rw [e]; rfl, Tbl.get?_set_same .., fun j hj => Tbl.get?_set_other _ _ hj.symm⟩

/-- A slot emptied, after the counter's signal. -/
theorem slot_emptied (k : Nat) {t : State} (ht : t = (sigSoon c s).modGrp c.team c.group (fun G => { G with shapes := G.shapes.del k })) :
    t = { s with groups := t.groups } ∧ (t.grp c.team c.group).shapes.get? k = none
      ∧ ∀ j, j ≠ k → (t.grp c.team c.group).shapes.get? j = (s.grp c.team c.group).shapes.get? j := by
  obtain ⟨G, e, hshape⟩ := sigSoon_frame c s
  rw [ht, State.grp_modGrp_same, hshape]
  exact ⟨by rw [e]; rfl, Tbl.get?_del_same .., fun j hj => Tbl.get?_del_other _ hj.symm⟩

/-- The 64 bytes of a record in the scratchpad are read at once. -/
theorem readThrough_spad {g x n : Nat} (hb : (s.team c.team).spad.bad x n = false) :
    readThrough c g .spad x n s = (s, .ok ((upFrom x n).map (s.team c.team).spad.byte)) := by
  unfold readThrough
  dsimp only
  rw [show s.local c.team .spad = (s.team c.team).spad from rfl, hb]
  rfl

theorem hldDesc_idle {o : OpT} (ha : c.act = []) : (hldDesc o).eff c s = sigSoon c s := by
  simp [hldDesc, ha]

section
variable {o : OpT} {sp : Space} {x : Nat} {s2 : State} (ha : c.act ≠ [])
  (hd : decodeGeneric s c.team (readS c s (c.set.headD 0) (idx o.coord)).v.toNat 64 = .ok (sp, x))
include ha hd

theorem hldDesc_fills {b : List Byte} (hr : readThrough c c.group sp x 64 s = (s2, .ok b)) :
    (hldDesc o).eff c s = sigSoon c (s2.modGrp c.team c.group (fun G => { G with shapes := G.shapes.set o.hs (leVal b) })) := by
  simp only [hldDesc, hldPtr, hd, hr, List.isEmpty_iff, ha, if_false]

theorem hldDesc_waits (hr : readThrough c c.group sp x 64 s = (s2, .error 255)) :
    (hldDesc o).eff c s = s2.modThrs c.team c.group c.set (fun u => { u with pc := c.pc }) := by
  simp only [hldDesc, hldPtr, hd, hr, List.isEmpty_iff, ha, if_false]
  rfl

end

end

section
variable {h : Hdr} {o : OpT} {s : State} {c : Ctx} {s1 : State}

/-- The part of O36 about `hld`. -/
theorem hld_slot (hr : Runs (.hld h o) (needOf 2 (hldDesc o)) s c s1) :
    (c.act = [] → exec (.hld h o) s = .next (sigSoon c s1))
    ∧ (c.act ≠ [] → ∀ sp x, decodeGeneric s1 c.team (readS c s1 (c.set.headD 0) (idx o.coord)).v.toNat 64 = .ok (sp, x) → ∀ s2,
      (∀ b, readThrough c c.group sp x 64 s1 = (s2, .ok b) →
        ∃ t, exec (.hld h o) s = .next t ∧ t = { s2 with groups := t.groups } ∧ (t.grp c.team c.group).shapes.get? o.hs = some (leVal b)
          ∧ ∀ k, k ≠ o.hs → (t.grp c.team c.group).shapes.get? k = (s2.grp c.team c.group).shapes.get? k)
      ∧ (sp = .spad → (s1.team c.team).spad.bad x 64 = false →
          ∃ t, exec (.hld h o) s = .next t ∧ t = { s1 with groups := t.groups }
            ∧ (t.grp c.team c.group).shapes.get? o.hs = some ((s1.team c.team).spad.num x 64))
      ∧ (readThrough c c.group sp x 64 s1 = (s2, .error 255) →
          exec (.hld h o) s = .next (s2.modThrs c.team c.group c.set (fun u => { u with pc := c.pc })))) := by
  have hx : exec (.hld h o) s = .next ((hldDesc o).eff c s1) := exec_runs rfl hr (.inl rfl)
  rw [hx]
  refine ⟨fun ha => by rw [hldDesc_idle ha], fun ha sp x hd s2 => ⟨fun b hb => ⟨_, rfl, slot_filled _ _ (hldDesc_fills ha hd hb)⟩, fun hsp hb => ?_,
    fun hb => by rw [hldDesc_waits ha hd hb]⟩⟩
  subst hsp
  obtain ⟨hrest, hslot, -⟩ := slot_filled _ _ (hldDesc_fills ha hd (readThrough_spad hb))
  exact ⟨_, rfl, hrest, hslot⟩

/-- The part of O36 about `hclr`. -/
theorem hclr_slot (hr : Runs (.hclr h o) (needOf 2 (hclrDesc o)) s c s1) :
    (c.act = [] → exec (.hclr h o) s = .next (sigSoon c s1))
    ∧ (c.act ≠ [] → ∃ t, exec (.hclr h o) s = .next t ∧ t = { s1 with groups := t.groups } ∧ (t.grp c.team c.group).shapes.get? o.hs = none
      ∧ ∀ k, k ≠ o.hs → (t.grp c.team c.group).shapes.get? k = (s1.grp c.team c.group).shapes.get? k) := by
  have hx : exec (.hclr h o) s = .next ((hclrDesc o).eff c s1) := exec_runs rfl hr (.inl rfl)
  rw [hx]
  refine ⟨fun ha => by simp [hclrDesc, ha], fun ha => ⟨_, rfl, slot_emptied _ ?_⟩⟩
  simp [hclrDesc, ha]

/-- The part of O36 about the accesses of a shape in its slot. -/
theorem tensor_access {k : Shape} (hk : slotOf c s1 o.hs = some k) :
    (Runs (.tld h o) (tldNeed o) s c s1 → exec (.tld h o) s = .next (
        if bit o.modt 0 then zeroLanes c (idx o.data) (2 ^ o.vec * regsOf o.ty)
          (loadElems c (o.ord == 1) (tensorElems o false k c s1) s1 (tensorZero o k c s1 s1))
        else loadElems c (o.ord == 1) (tensorElems o false k c s1) s1 (tensorZero o k c s1 s1)))
    ∧ (Runs (.tst h o) (tstNeed o) s c s1 → exec (.tst h o) s = .next (storeElems c o.msc (tensorElems o true k c s1) s1)) := by
  refine ⟨fun hr => ?_, fun hr => ?_⟩
  · have hx : exec (.tld h o) s = .next ((tldDesc o).eff c s1) := exec_runs rfl (e := 2) hr (.inl rfl)
    simp only [hx, tldDesc, hk]
    rfl
  · have hx : exec (.tst h o) s = .next ((tstDesc o).eff c s1) := exec_runs rfl (e := 2) hr (.inl rfl)
    simp only [hx, tstDesc, hk]

end

/-- Settles O36: the elements at the places of their coordinates, the slots filled and emptied, and the conversions per lane or once. -/
theorem tensorAndPointerInstructions : Obligations.TensorAndPointerInstructions := by
  unfold Obligations.TensorAndPointerInstructions
  refine ⟨⟨fun h o s c s1 k hk => tensor_access hk, fun s t h cs sp off x hw hr => ⟨shapeAddr_oob, fun hx e half at_ nib he hhalf hat hnib => ?_⟩,
    fun o data k c s cs val hcs hval place hplace => ?_, fun h o s c s1 hr => hld_slot hr, fun h o s c s1 hr => hclr_slot hr⟩,
    fun h o s c s1 i n k f u hk hu hi => ?_⟩
  · subst he
    exact shapeAddr_place hw hr hx hhalf hat hnib
  · obtain rfl : cs = coordsOf c s o c.group := funext fun l => funext fun e => (hcs l e).trans (coordsOf_eq c s o l e).symm
    refine ⟨tensorAccess_elems hval hplace, fun hty hv hn hp l hl => ?_⟩
    rw [hplace]
    exact tensorZero_words hty hv hn hp hl
  · refine pointerConversions h o s c s1 i n k f u hk hu (hi.imp (fun ⟨e, en, hr, hf⟩ => ⟨e, en, hr, fun l hl => (hf l hl).trans (spaceCode_eq ..).symm⟩)
      (Or.imp (fun ⟨e, en, hr, hf⟩ => ⟨e, en, hr, fun l hl => (hf l hl).1⟩) fun ⟨e, en, hr, hf⟩ => ⟨e, en, hr, fun l hl => by rw [spOf_eq]; exact hf l hl⟩))

end Sys2Proof
end

section

/-! ## Engines and the matrix die (O59) -/

namespace Sys2Proof

open Machine

section
variable {s : State} {id : Nat} {p : AOp}

/-! ### The record of an operation -/

theorem op_of_get? (h : s.ops.get? id = some p) : s.op id = p := by
  unfold State.op Tbl.getD
  rw [h]

theorem modOp_of_get? (h : s.ops.get? id = some p) (f : AOp → AOp) : s.modOp id f = { s with ops := s.ops.set id (f p) } := by
  unfold State.modOp
  rw [h]

/-- The unit takes an operation that signals no counter: it has its place in the order of arrival, and nothing else changes. -/
theorem takeOp_unsignalled (h : s.ops.get? id = some p) (hs : p.sig = none) : takeOp id s = { s with
    nextId := s.nextId + 1, ops := s.ops.set id { p with stage := 1, sig := none, arrived := s.nextId } } := by
  unfold takeOp
  rw [op_of_get? h]
  dsimp only
  rw [hs]
  exact modOp_of_get? (s := s.newId.2) h _

/-! ### Acceptance (R213) -/

section
variable (h : s.ops.get? s.ev.k = some p) (hp : p.stage = 0) (hh : atHead s.ev.k s = true)
include h hp hh

/-- At the head of its queue a command for the Firkin passes to it. -/
theorem acceptStep_firkin (ho : p.opc = 0x2802 ∨ p.opc = 0x2803) : acceptStep s = (takeOp s.ev.k s).push
    (if p.opc = 0x2802 then .firkinTableLoadComplete else .firkinDecodeComplete) (.ofK s.ev.k) := by
  unfold acceptStep
  rcases ho with ho | ho <;> simp [h, hp, hh, ho]

/-- At the head of its queue a copy passes to an engine that has room. -/
theorem acceptStep_copy (ho : p.opc ∈ [0x2800, 0x2801, 0])
    (hn : (s.ops.filter (fun e => e.2.stage == 1 && (e.2.opc == 0x2800 || e.2.opc == 0x2801 || e.2.opc == 0) && e.2.cluster == p.cluster)).length < 64) :
    acceptStep s = (takeOp s.ev.k s).push .copyCountStep (.ofK s.ev.k) := by
  have h1 : p.opc ≠ 0x2802 := by rintro e; simp [e] at ho
  have h2 : p.opc ≠ 0x2803 := by rintro e; simp [e] at ho
  unfold acceptStep
  simp only [h, hp, hh, bne_self_eq_false, Bool.not_true, Bool.false_or, beq_eq_false_iff_ne.2 h1, beq_eq_false_iff_ne.2 h2, Bool.not_false, Bool.true_and,
    decide_eq_true_eq, Nat.not_le.2 hn, if_false, Bool.false_eq_true]

theorem asyncStep_arrives (hw : rodWaits p = false) : asyncStep s = (takeOp s.ev.k s).push .asyncOperationComplete (.ofK s.ev.k) := by
  simp [asyncStep, h, hp, hh, hw]

theorem asyncStep_rodArrives (hw : rodWaits p = true) : asyncStep s
    = ((((takeOp s.ev.k s).modOp s.ev.k (fun q => { q with start := s.now q.team })).push .rodPairing (.ofK s.ev.k)).push .rodTimeout (.ofK s.ev.k)) := by
  simp [asyncStep, h, hp, hh, hw]

end

/-! ### Counting (R214, R215) -/

/-- A copy moves its next bytes and counts them. -/
theorem copyStep_moves (h : s.ops.get? s.ev.k = some p) {s1 : State} {y : Landed} {e : Bool} {n : Nat} (hc : copyChunk p s = (s1, some (y, e, n))) :
    copyStep s = bumpWord s.ev.k n e (decide (copyTotal s1 p ≤ p.pos + n))
      (s1.modOp s.ev.k (fun q => { q with outs := q.outs ++ y.outs, spoil := q.spoil ++ y.spoil, pos := q.pos + n, err := q.err || e })) := by
  simp only [copyStep, h, hc]

section
variable (h : s.ops.get? id = some p) (n : Nat) (e last : Bool)
include h

theorem bumpWord_word {o : Nat} (ho : p.word = some o) :
    bumpWord id n e last s = s.push .syncUpdate ⟨p.team, o, 2 * n + b2n e, leBytes 8 (2 * id + b2n last)⟩ := by
  simp only [bumpWord, op_of_get? h, ho]

theorem bumpWord_free (ho : p.word = none) : bumpWord id n e last s = if last then finishCmd id s else s.push (nextCount p) (.ofK id) := by
  simp only [bumpWord, op_of_get? h, ho]

end

section
variable {u : State} (h : s.ops.get? id = some p) (hu : u = landOp id (s.modOp id (fun q => { q with hits := q.hits ++ cmdHits q })))
include h hu

/-- A command that ends watches its bytes until its word is observed. -/
theorem finishCmd_watched (hn : p.node = none) (ho : p.opc ≠ 0x2802) : finishCmd id s = afterOp p { u.newId.2 with
    doneOps := u.newId.2.doneOps ++ [(⟨p.team, p.word, p.reads, p.writes, p.opc != 0x2803, u.newId.1⟩ : DoneOp)] } := by
  simp only [finishCmd, h, ← hu, hn, Option.isSome_none, Bool.false_or, beq_eq_false_iff_ne.2 ho, Bool.false_eq_true, if_false]

theorem finishCmd_unwatched (ho : p.node.isSome = true ∨ p.opc = 0x2802) : finishCmd id s = afterOp p u.newId.2 := by
  have hc : (p.node.isSome || p.opc == 0x2802) = true := by simpa using ho
  simp only [finishCmd, h, ← hu, hc, if_true]

end

/-! ### The Firkin (R216 to R218) -/

/-- In its turn the Firkin takes a table whose 320 bytes it has read. -/
theorem tableStep_loads (h : s.ops.get? s.ev.k = some p) (ht : firkinTurn s.ev.k p s = true) {k : Space × Nat} (hk : engLoc s p.team (p.a.getD 0 0) = .ok k)
    {s1 : State} {l : List (Byte × Bool)} (hl : engRead p k 320 s = (s1, some l)) (hs : p.stirred = false) {ok : Bool}
    (hok : ok = (!l.any Prod.snd && tableValid (l.map Prod.fst))) :
    tableStep s = bumpWord s.ev.k 320 (!ok) true { s1 with
      firkin := s1.firkin.set (p.cluster, slotBit p.mode) ⟨p.ctx, ok, if ok then assignCodes (l.map Prod.fst) else []⟩ } := by
  simp only [tableStep, h, ht, Bool.not_true, Bool.false_eq_true, if_false, hk, hl, hs, ← hok]

theorem decodeStep_counts (h : s.ops.get? s.ev.k = some p) (hp : p.pos ≠ 0) : decodeStep s = decodeCount s.ev.k s := by
  simp only [decodeStep, h, bne_iff_ne.2 hp, if_true]

/-- In its turn a stream is decoded with the codes of a valid table of the same context. -/
theorem decodeStep_decodes (h : s.ops.get? s.ev.k = some p) (hp : p.pos = 0) (ht : firkinTurn s.ev.k p s = true) {kd kf : Space × Nat}
    (hkd : engLoc s p.team (p.a.getD 0 0) = .ok kd) (hkf : engLoc s p.team (p.b.getD 0 0) = .ok kf) {s1 : State} {l : List (Byte × Bool)}
    (hl : engRead p kf (bits (p.c.getD 0 0) 63 32) s = (s1, some l)) {f : FkSlot} (hf : s1.firkin.get? (p.cluster, slotBit p.mode) = some f)
    (hv : f.valid = true) (hc : f.ctx = p.ctx) {out : List Byte} {ok : Bool}
    (hd : decodeStream f.codes (bits (p.c.getD 0 0) 24 0) (streamBits ((l.takeWhile (fun x => !x.2)).map Prod.fst)) = (out, ok)) :
    decodeStep s = decodeCount s.ev.k (s1.modOp s.ev.k (fun q => { q with
      outs := (out.zip (upFrom kd.2 out.length)).map (fun y => ((s1.areaOf p.team kd.1, y.2), y.1)), err := !ok })) := by
  simp only [decodeStep, h, hp, bne_self_eq_false, ht, Bool.not_true, Bool.false_eq_true, if_false, hkd, hkf, hl, hf, hv, hc, beq_self_eq_true,
    Bool.and_self, if_true, hd]

/-- A decode counts at most 4 KiB at a time, and its error with the last. -/
theorem decodeCount_eq (h : s.ops.get? id = some p) (hs : p.stirred = false) {m : Nat} {last : Bool}
    (hm : m = min 4096 (bits (p.c.getD 0 0) 24 0 - p.pos)) (hl : last = decide (bits (p.c.getD 0 0) 24 0 ≤ p.pos + m)) :
    decodeCount id s = bumpWord id m (last && p.err) last (s.modOp id (fun q => { q with pos := q.pos + m })) := by
  simp only [decodeCount, op_of_get? h, hs, Bool.false_eq_true, if_false, ← hm, ← hl]

/-! ### Operations of the matrix die (R227, R243) -/

theorem asyncStep_receives (h : Running s p) (ho : p.opc = 0x3007) : asyncStep s = rodMove s.ev.k p s := by
  simp [asyncStep, h.op, h.taken, ho]

/-- What each operation of the units does when it runs, by its opcode. -/
def unitRuns : List (Nat × (Nat → AOp → State → State)) :=
  [(0x3001, wloadRun), (0x3002, mmulRun), (0x3003, aclrRun), (0x3004, areadRun), (0x3100, smvRun), (0x3101, qrotRun),
    (0x3102, bushelRun), (0x3103, bushelRun), (0x3104, bushelRun), (0x3105, bushelRun)]

/-- Nothing earlier meets the operation, and a Bushel operation's turn has come: it runs. -/
theorem asyncStep_runs (h : Running s p) (hb : opBlocked s.ev.k p s = false) {f : Nat → AOp → State → State} (hf : (p.opc, f) ∈ unitRuns)
    (hbu : 0x3102 ≤ p.opc → bushelBlocked s.ev.k p s = false) : asyncStep s = f s.ev.k p s := by
  have hblock : (opBlocked s.ev.k p s || (decide (0x3102 ≤ p.opc) && bushelBlocked s.ev.k p s)) = false := by
    by_cases hx : 0x3102 ≤ p.opc
    · rw [hb, hbu hx, Bool.and_false, Bool.or_false]
    · rw [hb, decide_eq_false hx, Bool.false_and, Bool.or_false]
  unfold asyncStep
  simp only [h.op, h.taken, hblock, Nat.one_ne_zero, beq_iff_eq, if_false, Bool.false_eq_true]
  simp only [unitRuns, List.mem_cons, List.not_mem_nil, or_false, Prod.mk.injEq] at hf
  rcases hf with ⟨ho, rfl⟩ | ⟨ho, rfl⟩ | ⟨ho, rfl⟩ | ⟨ho, rfl⟩ | ⟨ho, rfl⟩ | ⟨ho, rfl⟩ | ⟨ho, rfl⟩ | ⟨ho, rfl⟩ | ⟨ho, rfl⟩ | ⟨ho, rfl⟩ <;> simp [ho]

/-! ### Rod links (R238, R239) -/

section
variable {b k : Nat} {x y : Nat × AOp}

/-- The heads of a link's two queues, seen from the sending side. -/
theorem rodHeads_send (hf : rodFacing (bayOf p.cluster) p.place (rodDir p.mode) = some (b, k))
    (hx : rodHead s p.opc p.ctx (bayOf p.cluster) p.place (rodDir p.mode) = some x) (ho : p.opc = 0x3006)
    (hy : rodHead s 0x3007 p.ctx b k (rodBack (rodDir p.mode)) = some y) : rodHeads p s = some (x, y) := by
  rw [ho] at hx
  simp [rodHeads, hf, ho, hx, hy]

theorem rodHeads_receive (hf : rodFacing (bayOf p.cluster) p.place (rodDir p.mode) = some (b, k))
    (hx : rodHead s p.opc p.ctx (bayOf p.cluster) p.place (rodDir p.mode) = some x) (ho : p.opc = 0x3007)
    (hy : rodHead s 0x3006 p.ctx b k (rodBack (rodDir p.mode)) = some y) : rodHeads p s = some (y, x) := by
  rw [ho] at hx
  simp [rodHeads, hf, ho, hx, hy]

/-- The heads of a link pair, and then those that stand behind them. -/
theorem rodPairStep_heads (h : s.ops.get? s.ev.k = some p) (hh : rodHeads p s = some (x, y)) :
    rodPairStep s = rodPairs (s.ops.length - 1) p (rodPair x.1 x.2 y.1 y.2 s) := by
  have hlen : s.ops.length = (s.ops.length - 1) + 1 := by
    have := List.length_pos_of_mem (Tbl.mem_of_get? h)
    omega
  simp only [rodPairStep, h]
  rw [hlen]
  simp only [rodPairs, hh]
  rfl

end

section
variable (h : s.ops.get? s.ev.k = some p) (hw : rodWaits p = true)
include h hw

theorem rodTimeoutStep_ends (ht : p.start + p.pos ≤ s.now p.team) :
    rodTimeoutStep s = rodPairs s.ops.length p (completeOp s.ev.k { code := 6 } s) := by
  simp [rodTimeoutStep, h, hw, ht]

theorem rodTimeoutStep_waits (ht : s.now p.team < p.start + p.pos) : rodTimeoutStep s = s.push .rodTimeout s.ev := by
  simp [rodTimeoutStep, h, hw, Nat.not_le.2 ht]

end

end

/-- Settles O59: each event's step in the case that the statement names. -/
theorem engineEvents : Obligations.EngineEvents := by
  unfold Obligations.EngineEvents
  refine ⟨fun s p h hp hh => ⟨fun ho => ?_, fun ho => ?_, fun ho hn => ?_, fun hw => ?_, fun hw u hu => ?_, takeOp_unsignalled h⟩,
    fun s p s1 y e n h hc => congrArg _ (copyStep_moves h hc),
    fun s id p n e last h => ⟨fun o => bumpWord_word h n e last, bumpWord_free h n e last, fun u hu => ⟨finishCmd_watched h hu, finishCmd_unwatched h hu⟩⟩,
    fun s p k s1 l h ht hk hl hs => ⟨_, rfl, congrArg _ (tableStep_loads h ht hk hl hs rfl)⟩,
    fun s p h => ⟨fun hp => congrArg _ (decodeStep_counts h hp),
      fun kd kf s1 l f hp ht hkd hkf hl hf hv hc => ⟨_, _, rfl, congrArg _ (decodeStep_decodes h hp ht hkd hkf hl hf hv hc rfl)⟩,
      fun hs m last => decodeCount_eq h hs⟩,
    fun s p h => ⟨fun ho => congrArg _ (asyncStep_receives h ho), fun hb => ?_⟩,
    fun s p b k x y h hf hx => ⟨fun ho hy => congrArg _ (rodPairStep_heads h (rodHeads_send hf hx ho hy)),
      fun ho hy => congrArg _ (rodPairStep_heads h (rodHeads_receive hf hx ho hy))⟩,
    fun s p h hw => ⟨fun ht => congrArg _ (rodTimeoutStep_ends h hw ht), fun ht => congrArg _ (rodTimeoutStep_waits h hw ht)⟩⟩
  · exact congrArg _ ((acceptStep_firkin h hp hh (.inl ho)).trans (by rw [if_pos ho]))
  · exact congrArg _ ((acceptStep_firkin h hp hh (.inr ho)).trans (by rw [if_neg (by omega)]))
  · exact congrArg _ (acceptStep_copy h hp hh ho hn)
  · exact congrArg _ (asyncStep_arrives h hp hh hw)
  · subst hu
    exact congrArg _ (asyncStep_rodArrives h hp hh hw)
  · refine ⟨?_, ?_, ?_, ?_, ?_, ?_, fun hlo hhi hbu => congrArg _ (asyncStep_runs h hb ?_ fun _ => hbu)⟩
    iterate 6 exact fun ho => congrArg _ (asyncStep_runs h hb (by simp [unitRuns, ho]) (by omega))
    obtain ho | ho | ho | ho : p.opc = 0x3102 ∨ p.opc = 0x3103 ∨ p.opc = 0x3104 ∨ p.opc = 0x3105 := by omega
    all_goals simp [unitRuns, ho]

end Sys2Proof
end

section

-- one proof at a time: the text's proofs as tasks of their own come close to the check's memory limit
set_option Elab.async false

/-! ## Values of the matrix die and the quantiser (O60) -/

namespace Sys2Proof

open Machine

/-! ### Exact sums, and the special values in them (R309, R310) -/

/-- Whether every value of a list is a number. -/
def AllFinite (l : List Exact) : Prop := ∀ v ∈ l, v.isNan = false ∧ v.isInf = false

@[simp] theorem Machine.Exact.isNan_neg (v : Exact) : v.neg.isNan = v.isNan := by cases v <;> rfl

@[simp] theorem Machine.Exact.isInf_neg (v : Exact) : v.neg.isInf = v.isInf := by cases v <;> rfl

section
variable {l : List Exact}

theorem hasNan_of_nan (h : ∃ v ∈ l, v.isNan = true) : hasNan l = true := by
  rw [hasNan, List.any_eq_true.2 h, Bool.true_or]

/-- A list of numbers holds neither infinity. -/
theorem AllFinite.not_contains (h : AllFinite l) (neg : Bool) : l.contains (.inf neg) = false := by
  rw [← Bool.not_eq_true, List.contains_iff_mem]
  exact fun hm => Bool.noConfusion (h _ hm).2

theorem AllFinite.hasNan_eq (h : AllFinite l) : hasNan l = false := by
  have hn : l.any Exact.isNan = false := List.any_eq_false.2 fun v hv => by simp [(h v hv).1]
  rw [hasNan, hn, h.not_contains, Bool.false_and, Bool.or_self]

theorem AllFinite.infOf_eq (h : AllFinite l) : infOf l = none := by simp only [infOf, h.not_contains, Bool.false_eq_true, if_false]

end

section
variable {mode : Nat} {ab : List (Exact × Exact)} {ps : List Exact} (hps : ps = ab.map (fun p => p.1.mul p.2))
include hps

/-- The sum of a column of numbers is rounded once. -/
theorem columnSum_finite (hf : AllFinite ps) (hz : (sumExact ps).isZero = false) : columnSum mode ab = roundTo 0x28 mode (sumExact ps) := by
  subst hps
  simp only [columnSum, hf.hasNan_eq, hf.infOf_eq, hz, Bool.false_eq_true, if_false]

theorem columnSum_nan (h : ∃ v ∈ ps, v.isNan = true) : columnSum mode ab = nanOf 0x28 := by
  subst hps
  rw [columnSum, hasNan_of_nan h, if_pos rfl]

end

/-- Adding numbers to a pair rounds the sum, and then what the rounding left. -/
theorem pairAdd_finite {p : Pair} {x hn : Nat} {S : Exact} (hS : S = sumExact [f32 p.h, f32 p.l, f32 x, .zero false]) (hh : hn = roundTo 0x28 0 S)
    (hz : S.isZero = false) (hf : AllFinite ([p.h, p.l, x].map f32)) :
    pairAdd p x = if (f32 hn).isInf then ⟨hn, 0⟩ else ⟨hn, roundTo 0x28 0 (S.add false (f32 hn).neg)⟩ := by
  have ht : AllFinite [f32 p.h, f32 p.l, f32 x, .zero false] := by
    simpa [AllFinite, Exact.zero, Exact.isNan, Exact.isInf] using hf
  subst hS hh
  simp only [pairAdd, pairAddExact, ht.hasNan_eq, ht.infOf_eq, hz, Bool.false_eq_true, if_false]

/-! ### The rotation (R313) -/

section
variable {e : Int} {x ts : List Exact} {i : Nat}

theorem getElem?_hadamard (hi : i < x.length) : (hadamard e x)[i]? = some (hadamardAt e x i) := by
  simp [hadamard, upFrom_eq_range', hi]

variable (hts : ts = (x.zip (upFrom 0 x.length)).map (fun p => if popcount 8 (i &&& p.2) % 2 = 1 then p.1.neg else p.1))
include hts

/-- The terms of an element are the inputs, some with another sign. -/
theorem mem_rotated {v : Exact} (h : v ∈ ts) : ∃ w ∈ x, v = w ∨ v = w.neg := by
  subst hts
  obtain ⟨q, hq, rfl⟩ := List.mem_map.1 h
  refine ⟨q.1, (List.of_mem_zip hq).1, ?_⟩
  split
  · exact .inr rfl
  · exact .inl rfl

theorem finite_rotated (h : AllFinite x) : AllFinite ts := fun v hv => by
  obtain ⟨w, hw, hvw⟩ := mem_rotated hts hv
  rcases hvw with rfl | rfl
  · exact h v hw
  · simpa using h w hw

/-- A NaN of the input is a term of every element. -/
theorem nan_rotated (h : ∃ v ∈ x, v.isNan = true) : ∃ v ∈ ts, v.isNan = true := by
  obtain ⟨v, hv, hn⟩ := h
  obtain ⟨n, hl, rfl⟩ := List.getElem_of_mem hv
  have hm : (x[n], n) ∈ x.zip (upFrom 0 x.length) := by
    rw [upFrom_eq_range', ← List.zipIdx_eq_zip_range', List.mk_mem_zipIdx_iff_getElem?]
    exact List.getElem?_eq_getElem hl
  subst hts
  refine ⟨_, List.mem_map_of_mem hm, ?_⟩
  split
  · rwa [Exact.isNan_neg]
  · exact hn

theorem hadamardAt_finite (hf : AllFinite x) (hz : (sumExact ts).isZero = false) : hadamardAt e x i = roundTo 0x28 0 ((sumExact ts).scale e) := by
  have ht := finite_rotated hts hf
  subst hts
  simp only [hadamardAt, beq_iff_eq, ht.hasNan_eq, ht.infOf_eq, hz, Bool.false_eq_true, if_false]

theorem hadamardAt_nan (h : ∃ v ∈ x, v.isNan = true) : hadamardAt e x i = nanOf 0x28 := by
  have ht := hasNan_of_nan (nan_rotated hts h)
  subst hts
  simp only [hadamardAt, beq_iff_eq, ht, if_true]

end

theorem rotate_codes (f mode : Nat) (e : Int) (x : List Exact) : (rotate f mode e x).map Prod.fst = (hadamard e x).map (fun c => convertTo f mode 1 (f32 c)) := by
  simp [rotate]

/-! ### Quantisation and the soft-max step (R315, R316) -/

/-- Codes of four bits that are never −8 (R315). -/
abbrev FourBits (c : Nat) : Prop := c < 16 ∧ c ≠ 8

theorem satI_bounds {x lo hi : Int} (h : lo ≤ hi) : lo ≤ satI x lo hi ∧ satI x lo hi ≤ hi := by
  unfold satI
  split
  · omega
  · split <;> omega

theorem fourBits_quantCode (mode : Nat) (y sc : Exact) : FourBits (quantCode mode y sc) := by
  have hs := satI_bounds (x := rndInt mode (y.div sc)) (lo := -7) (hi := 7) (by decide)
  unfold quantCode
  generalize satI (rndInt mode (y.div sc)) (-7) 7 = k at hs
  unfold wrapN
  omega

section
variable (y : List Nat)

/-- The codes are the input's elements, each quantised by itself. -/
theorem quant4_codes : ∃ g : Nat → Nat, (∀ c, FourBits (g c)) ∧ (quant4 y).q = y.map g := by
  unfold quant4
  dsimp only
  split
  · exact ⟨fun _ => 0, fun _ => show FourBits 0 by decide, rfl⟩
  split
  · exact ⟨fun _ => 0, fun _ => show FourBits 0 by decide, rfl⟩
  · exact ⟨_, fun _ => fourBits_quantCode _ _ _, List.map_map⟩

theorem length_quant4 : (quant4 y).q.length = y.length := by
  obtain ⟨g, -, hq⟩ := quant4_codes y
  rw [hq, List.length_map]

theorem fourBits_quant4 : ∀ q ∈ (quant4 y).q, FourBits q := by
  obtain ⟨g, hg, hq⟩ := quant4_codes y
  rw [hq]
  exact List.forall_mem_map.2 fun c _ => hg c

variable {y}

theorem quant4_special (h : ∃ c ∈ y, (f32 c).isNan = true ∨ (f32 c).isInf = true) : quant4 y = ⟨y.map (fun _ => 0), 0x7E00, true, false⟩ := by
  have ha : (y.map f32).any (fun v => v.isNan || v.isInf) = true := by simpa using h
  simp only [quant4, ha, if_true]

end

theorem softmaxBlock_nan {l : List Nat} {m : Nat} (d : Pair) (fmt : Nat) (h : ∃ c ∈ m :: l, (f32 c).isNan = true) :
    softmaxBlock l m d fmt = ⟨nanOf 0x28, ⟨nanOf 0x28, 0⟩, [], nanOf 0x28, 0, false, true⟩ := if_pos (List.any_eq_true.2 h)

/-! ### Reloads (R232) -/

/-- Elements beside their numbers. -/
theorem zip_map_self {α β : Type} (f : α → β) (l : List α) : (l.map f).zip l = l.map (fun x => (f x, x)) := by
  simpa using List.zip_map' (f := f) (g := id) (l := l)

/-- A table that lists a key, always with the same value. -/
theorem Machine.Tbl.getD_eq_of_unique {κ α : Type} [DecidableEq κ] {t : Tbl κ α} {k : κ} {v : α} (hm : (k, v) ∈ t) (hu : ∀ w, (k, w) ∈ t → w = v) (d : α) :
    t.getD k d = v := by
  unfold Tbl.getD
  split
  next w h => exact hu w (Tbl.mem_of_get? h)
  next h => exact absurd (List.mem_map_of_mem hm) (Tbl.get?_eq_none_iff.1 h)

section
variable (p : AOp) (s : State) (m : OMap)

/-- The element that an operation reads at a place of its map. -/
abbrev mapElem (r j : Nat) : OElem := opElem p s (fmtBits m.fmt) (m.elem r j)

/-- The code that a reload puts at a place of its plane. -/
def loadedCode (r j : Nat) : Nat :=
  if (mapElem p s m r j).stirred then Config.freeWord p.fresh (128 * r + j) % 2 ^ fmtBits m.fmt else (mapElem p s m r j).code

/-- The codes of a reload, row by row. -/
def loadedCodes : Tbl (Nat × Nat) Nat := (upFrom 0 m.rows).flatMap (fun r => (upFrom 0 m.cols).map (fun j => ((r, j), loadedCode p s m r j)))

/-- Whether a reload reads a poisoned word. -/
def loadedBad : Bool := (upFrom 0 m.rows).any (fun r => (mapRow p s m r).any (·.bad))

/-- The plane that a reload leaves. -/
def loadedPlane : Plane := ⟨m.fmt, loadedCodes p s m, loadedBad p s m || !p.badRows.isEmpty⟩

theorem mem_loadedCodes {r j c : Nat} : ((r, j), c) ∈ loadedCodes p s m ↔ r < m.rows ∧ j < m.cols ∧ loadedCode p s m r j = c := by
  simp only [loadedCodes, List.mem_flatMap, List.mem_map, mem_upFrom, Prod.mk.injEq, Nat.zero_le, Nat.zero_add, true_and]
  constructor
  · rintro ⟨r, hr, j, hj, ⟨rfl, rfl⟩, hc⟩
    exact ⟨hr, hj, hc⟩
  · rintro ⟨hr, hj, hc⟩
    exact ⟨r, hr, j, hj, ⟨rfl, rfl⟩, hc⟩

theorem loadedBad_iff : loadedBad p s m = true ↔ ∃ r j, r < m.rows ∧ j < m.cols ∧ (mapElem p s m r j).bad = true := by
  simp only [loadedBad, mapRow, List.any_eq_true, List.any_map, mem_upFrom, Nat.zero_le, Nat.zero_add, true_and, Function.comp_apply, exists_and_left]

theorem loadedPlane_poison_iff : (loadedPlane p s m).poison = true ↔ loadedBad p s m = true ∨ p.badRows ≠ [] := by
  simp [loadedPlane]

variable {p s m}

theorem loadedPlane_code {r j : Nat} (hr : r < m.rows) (hj : j < m.cols) (hs : (mapElem p s m r j).stirred = false) :
    (loadedPlane p s m).w.getD (r, j) 0 = (mapElem p s m r j).code := by
  have hc : loadedCode p s m r j = (mapElem p s m r j).code := by simp only [loadedCode, hs, Bool.false_eq_true, if_false]
  exact Tbl.getD_eq_of_unique ((mem_loadedCodes p s m).2 ⟨hr, hj, hc⟩)
    (fun w hw => by rw [← hc, ((mem_loadedCodes p s m).1 hw).2.2]) 0

/-- A reload puts the plane of its map in place. -/
theorem wloadRun_eq (id : Nat) (hm : m = OMap.ofNat (p.recs.getD 0 0)) : wloadRun id p s
    = completeOp id { code := if loadedBad p s m then 4 else 0, flags := if (loadedPlane p s m).poison then fPoison else 0 }
        (modArray p (fun A => { A with planes := A.planes.set (bits p.mode 2 0) (loadedPlane p s m) }) s) := by
  have hbad : ((upFrom 0 m.rows).map (mapRow p s m)).any (fun r => r.any (·.bad)) = loadedBad p s m := List.any_map
  have hcodes : (((upFrom 0 m.rows).map (mapRow p s m)).zip (upFrom 0 m.rows)).flatMap (fun x => (x.1.zip (upFrom 0 m.cols)).map (fun y =>
      ((x.2, y.2), if y.1.stirred then Config.freeWord p.fresh (128 * x.2 + y.2) % 2 ^ fmtBits m.fmt else y.1.code))) = loadedCodes p s m := by
    simp only [zip_map_self, mapRow, List.flatMap_map, List.map_map]
    rfl
  unfold wloadRun
  dsimp only
  rw [← hm, hbad, hcodes]
  rfl

end

/-! ### Multiplies (R233) -/

section
variable {p : AOp} {s : State} {m : OMap} {n mode k : Nat} {clear : Bool} {pl : Plane} {t : Tile}

theorem mulElem_sums {i : Nat} {ab : List (Exact × Exact)} {bad : Bool} {e : Elt} : (mulElem p i mode ab false bad clear e).1
    = ⟨pairAdd (if clear then Pair.zero else e.p) (columnSum mode ab), (!clear && e.poison) || bad⟩ := by
  cases clear <;> rfl

/-- The element of a tile that a multiply writes at a place of its product. -/
theorem mem_mulPlane {i j : Nat} (hi : i < m.rows) (hj : j < n) (hs : ∀ e ∈ mapRow p s m i, e.stirred = false) :
    ((i, j), (⟨pairAdd (if clear then Pair.zero else (t.el i j).p) (columnSum mode (((mapRow p s m i).map (fun e => valueOf m.fmt e.code)).zip
        ((upFrom 0 m.cols).map (fun x => valueOf pl.fmt (pl.w.getD (x, j) 0))))),
      (!clear && (t.el i j).poison) || ((mapRow p s m i).any (·.bad) || pl.poison || p.badRows.contains i)⟩ : Elt)) ∈ (mulPlane p s m n mode clear pl t k).1 := by
  have hst : (mapRow p s m i).any (·.stirred) = false := by simpa using hs
  unfold mulPlane
  dsimp only
  rw [← mulElem_sums (p := p) (i := 16384 * k + 128 * i + j), ← hst]
  refine List.mem_map.2 ⟨_, List.mem_flatMap.2 ⟨_, List.mem_map.2 ⟨i, mem_upFrom.2 (by omega), rfl⟩, List.mem_map.2 ⟨j, mem_upFrom.2 (by omega), rfl⟩⟩, rfl⟩

section
variable {id v : Nat} (hm : m = OMap.ofNat (p.recs.getD 0 0)) (hv : v = p.b.getD 0 0) (hn : n = bits v 7 0)
include hm hv hn

theorem mmulRun_empty (he : m.rows = 0 ∨ n = 0 ∨ m.cols = 0) (hc : bit p.mode 4 = false ∨ m.cols ≠ 0) : mmulRun id p s = completeOp id { flags := fEmpty } s := by
  have he' : (m.rows == 0 || n == 0 || m.cols == 0) = true := by simpa [or_assoc] using he
  have hc' : (bit p.mode 4 && m.cols == 0) = false := by simpa [Decidable.imp_iff_not_or] using hc
  simp only [mmulRun, ← hm, ← hv, ← hn, he', hc', if_true, Bool.false_eq_true, if_false]

variable (hk : bits v 16 14 = 0)
include hk

/-- A multiply of no columns that clears leaves zeros. -/
theorem mmulRun_clears (hc : m.cols = 0) (hb : bit p.mode 4 = true) :
    mmulRun id p s = completeOp id { flags := fEmpty } (putTile id p (bits v 13 11) (zeroEls m.rows n) s) := by
  simp only [mmulRun, ← hm, ← hv, ← hn]
  simp [hc, hb, hk, upFrom]

section
variable (hr : m.rows ≠ 0) (hn0 : n ≠ 0) (hc : m.cols ≠ 0)
include hr hn0 hc

theorem mmulRun_noPlane (hp : (s.array (bayOf p.cluster) p.place).planes.get? (bits v 10 8) = none) : mmulRun id p s = completeOp id { code := 5 } s := by
  simp only [mmulRun, ← hm, ← hv, ← hn]
  simp [hr, hn0, hc, hk, upFrom, hp, Report.with_, lowCode]

theorem mmulRun_plane {P : Plane} {x : List ((Nat × Nat) × Elt) × Report} (hp : (s.array (bayOf p.cluster) p.place).planes.get? (bits v 10 8) = some P)
    (hx : x = mulPlane p s m n (bits p.mode 3 2) (bit p.mode 4) P (s.tile p (bits v 13 11)) 0) :
    mmulRun id p s = completeOp id { code := x.2.code, flags := x.2.flags } (putTile id p (bits v 13 11) x.1 s) := by
  simp only [mmulRun, ← hm, ← hv, ← hn]
  simp [hr, hn0, hc, hk, upFrom, hp, ← hx, Report.with_, lowCode]

end

end

end

/-! ### Accumulator reads (R235, R236) -/

section
variable {p : AOp} {f i j : Nat} {e : Elt} {rs cs : OElem} (hr : rs.stirred = false) (hc : cs.stirred = false)
include hr hc

theorem areadElem_pair (hf : f = 0x29) : areadElem p f i j e rs cs = ⟨e.p.h + 2 ^ 32 * e.p.l, e.poison || rs.bad || cs.bad,
    { code := if rs.bad || cs.bad then 4 else 0, flags := if e.poison || rs.bad || cs.bad then fPoison else 0 }⟩ := by
  simp only [areadElem, hr, hc, hf, Bool.or_self, Bool.false_eq_true, if_false, beq_self_eq_true, if_true]

/-- An element of another format is scaled and rounded once. -/
theorem areadElem_scales (hf : f ≠ 0x29) : (areadElem p f i j e rs cs).code
    = convertTo f (bits p.mode 3 2) (if (intTy f).isSome then 1 else bits p.mode 1 0) (((e.p.value (bits p.mode 3 2)).mul (f32 rs.code)).mul (f32 cs.code)) := by
  simp only [areadElem, hr, hc, beq_eq_false_iff_ne.2 hf, Bool.or_self, Bool.false_eq_true, if_false]

end

theorem areadElem_bad (p : AOp) (f i j : Nat) (e : Elt) (rs cs : OElem) : (areadElem p f i j e rs cs).bad = (e.poison || rs.bad || cs.bad) := by
  unfold areadElem
  dsimp only
  split
  · rfl
  · split <;> rfl

/-! ### Stack multiplies (R240) -/

/-- The pair sums line by line; the flags stand beside it. -/
theorem smvElem_sums (mode : Nat) (a : List (List Exact)) (b : BRow) (sc : OElem) : (smvElem mode a b sc).1 = roundTo 0x28 mode ((Pair.value mode
    ((a.zip b.lines).foldl (fun x q => pairAdd x (columnSum mode (q.1.zip q.2))) Pair.zero)).mul (f32 sc.code)) := by
  unfold smvElem
  dsimp only
  rw [← List.foldl_hom (f := Prod.fst) (g₂ := fun x q => pairAdd x (columnSum mode (q.1.zip q.2))) (fun _ _ => rfl)]

section
variable {id : Nat} {p : AOp} {s u : State} {d : Smv} (hd : d = Smv.ofNat (p.a.getD 0 0) (p.b.getD 0 0) (p.c.getD 0 0) (p.c.getD 1 0))
include hd

theorem smvRun_empty (he : d.empty = true) : smvRun id p s = completeOp id { flags := fEmpty } s := by
  subst hd
  exact if_pos he

variable (he : d.empty = false)
include he

theorem smvRun_refuses (hl : smvEligible p d s = (u, some false)) : smvRun id p s = completeOp id { code := 10 } u := by
  subst hd
  simp only [smvRun, he, hl, Bool.false_eq_true, if_false]

theorem smvRun_waits (hl : smvEligible p d s = (u, none)) : smvRun id p s = u.push .asyncOperationComplete (.ofK id) := by
  subst hd
  simp only [smvRun, he, hl, Bool.false_eq_true, if_false]

end

/-! ### The Bushel (R131, R244, R403) -/

theorem putVector_quantises {p : AOp} {s : State} {off n f : Nat} {x : List OElem} {q : Quant} (hf : f = qrotFmt (bits (p.a.getD 0 0) 55 54))
    (hx : x = (upFrom 0 128).map (fun i => opElem p s (tyBits f) (off + i * tySize f, none))) (hs : ∀ e ∈ x, e.stirred = false)
    (hq : q = quant4 (hadamard (-3) (x.map (fun e => valueOf f e.code)))) : (putVector p s off n).1 = (packCodes q.q, q.scale) := by
  have hst : x.any (·.stirred) = false := by simpa using hs
  subst hq hx hf
  simp only [putVector, hst, Bool.false_eq_true, if_false]

theorem Machine.BSeq.valid_iff (d : BSeq) (g : BCfg) : d.valid g = true ↔ d.next ≤ 8 ∧ d.len ≤ 16 * d.cap ∧ ∀ e ∈ d.ext,
    e.base % 2 ^ e.ord = 0 ∧ e.base + 2 ^ e.ord ≤ g.pages ∧ e.ord ≤ g.maxord ∧ 1 ≤ e.len ∧ e.len ≤ 2 ^ e.ord ∧ e.stride % 2 = 1 := by
  simp only [BSeq.valid, Bool.and_eq_true, decide_eq_true_eq, List.all_eq_true, beq_iff_eq, and_assoc]
  exact and_congr_right fun _ => and_comm

section
variable {id : Nat} {p : AOp} {s : State}

theorem bushelRun_poisoned (h : ∃ x ∈ p.reads, opBad p s x.lo x.len = true) : bushelRun id p s = completeOp id { code := 4 } s :=
  if_pos (List.any_eq_true.2 h)

section
variable {g : BCfg} (hg : g = bcfg s p.place) (hr : ∀ x ∈ p.reads, opBad p s x.lo x.len = false)
include hg hr

/-- A Bushel that does not serve the operation's context. -/
theorem bushelRun_closed (h : p.err = true ∨ g.en = false ∨ g.ctx ≠ p.ctx) : bushelRun id p s = completeOp id { code := 11, aux := 5 } s := by
  subst hg
  have hb : p.reads.any (fun x => opBad p s x.lo x.len) = false := by simpa using hr
  have hc : (p.err || !(bcfg s p.place).en || (bcfg s p.place).ctx != p.ctx) = true := by simpa [or_assoc] using h
  simp [bushelRun, hb, hc]

theorem bushelRun_drops {n : Nat} (hn : n = bits (p.a.getD 0 0) 15 0) (he : p.err = false) (hen : g.en = true) (hctx : g.ctx = p.ctx) (hlt : n < 2 ^ g.logseq)
    (hv : (bseq s g n).valid g = true) (ho : p.opc = 0x3104) : bushelRun id p s = completeOp id {} (dropSeq g n (bseq s g n) s).1 := by
  have hb : p.reads.any (fun x => opBad p s x.lo x.len) = false := by simpa using hr
  simp only [bushelRun, ← hg, ← hn, hb]
  simp [he, hen, hctx, Nat.not_le.2 hlt, hv, ho, dropSeq]

end

end

/-- Settles O60: the values of the arithmetic, then what each operation leaves. -/
theorem matrixAndQuantiserResults : Obligations.MatrixAndQuantiserResults := by
  unfold Obligations.MatrixAndQuantiserResults
  refine ⟨fun mode ab ps hps => ⟨columnSum_finite hps, columnSum_nan hps⟩, fun p x S hn hS hh hz hf => ?_, fun id p s m el hm hel => ?_, fun p s m n mode clear pl t k i j row hi hj hrow hs => ?_,
    fun id p s m v n hm hv hn => ⟨mmulRun_empty hm hv hn, fun hk => mmulRun_clears hm hv hn hk, fun hk hr hn0 hc pl hpl => ?_⟩,
    fun p f i j e rs cs mode hr hc hmode => ⟨?_, fun hf => by rw [areadElem_pair hr hc hf], fun hf => hmode ▸ areadElem_scales hr hc hf⟩, smvElem_sums,
    fun id p s u d hd => ⟨smvRun_empty hd, smvRun_refuses hd, smvRun_waits hd⟩,
    fun e x i ts hi hts => ⟨fun hf hz => ?_, fun h => ?_⟩, rotate_codes, fun y => ⟨length_quant4 y, fourBits_quant4 y, quant4_special⟩,
    fun l m d f h => ?_, fun p s off n f x q hf hx hs hq => putVector_quantises hf hx hs hq, BSeq.valid_iff,
    fun id p s => ⟨bushelRun_poisoned, fun g n hg hn hr => ⟨bushelRun_closed hg hr, bushelRun_drops hg hr hn⟩⟩⟩
  · have he := pairAdd_finite hS hh hz (List.forall_mem_map.2 hf)
    exact ⟨fun hi => by rw [he, if_pos hi], fun hi => by rw [he, hi]; rfl⟩
  · subst hel
    exact ⟨loadedPlane p s m, loadedBad p s m, wloadRun_eq id hm, rfl, loadedBad_iff p s m, loadedPlane_poison_iff p s m, fun r j => loadedPlane_code⟩
  · subst hrow
    refine ⟨_, mem_mulPlane hi hj hs, rfl, ?_⟩
    simp [or_assoc]
  · subst hpl
    exact ⟨mmulRun_noPlane hm hv hn hk hr hn0 hc, fun P x hp hx => mmulRun_plane hm hv hn hk hr hn0 hc hp hx⟩
  · rw [areadElem_bad, Bool.or_eq_true, Bool.or_eq_true, or_assoc]
  · rw [getElem?_hadamard hi, hadamardAt_finite hts hf hz]
  · rw [getElem?_hadamard hi, hadamardAt_nan hts h]
  · rw [softmaxBlock_nan d f h]
    exact ⟨rfl, rfl⟩

end Sys2Proof
end

section

/-! ## Memory, from a store to a load (O28) -/

namespace Sys2Proof

open Machine

/-! ### Bytes of device and host memory (R4, R248) -/

section
variable {s : State} {host : Bool} {a b n : Nat} {l : List Byte}

theorem rd_wr_same (h : MemInv s) : (s.wr host a l).rd host a l.length = l := by
  have hput : ∀ m, memWf m = true → (upFrom a l.length).map (memByte (memPuts m a l)) = l := by
    intro m hm
    refine List.ext_getElem (by simp) fun i _ hi => ?_
    simp only [List.getElem_map, upFrom_eq_range', List.getElem_range', Nat.one_mul]
    rw [memByte_memPuts_inside hm hi, List.getD_eq_getElem _ _ hi]
  cases host
  · exact hput _ h.1
  · exact hput _ h.2

theorem rd_wr_outside (h : MemInv s) (hb : b + n ≤ a ∨ a + l.length ≤ b) : (s.wr host a l).rd host b n = s.rd host b n := by
  have hput : ∀ m, memWf m = true → (upFrom b n).map (memByte (memPuts m a l)) = (upFrom b n).map (memByte m) := by
    intro m hm
    refine List.map_congr_left fun x hx => memByte_memPuts_outside hm ?_
    rw [mem_upFrom] at hx
    omega
  cases host
  · exact hput _ h.1
  · exact hput _ h.2

/-- Writing one memory leaves the other. -/
theorem rd_wr_not : (s.wr host a l).rd (!host) b n = s.rd (!host) b n := by cases host <;> rfl

end

/-! ### Bytes in an entry of the write-combining store (R254) -/

/-- Bytes put into an entry's cells at rising offsets. -/
def wcsPuts (cells : Tbl Nat (Nat × Byte)) (o : Nat) (l : List Byte) : Tbl Nat (Nat × Byte) :=
  (l.zip (upFrom o l.length)).foldl (fun c x => wcsPut c x.2 3 x.1) cells

section
variable {cells : Tbl Nat (Nat × Byte)} {o x k : Nat} {b : Byte} {l : List Byte}

theorem wcsPuts_cons : wcsPuts cells o (b :: l) = wcsPuts (wcsPut cells o 3 b) (o + 1) l := rfl

theorem get?_wcsPut_other {m : Nat} (h : o ≠ x) : (wcsPut cells o m b).get? x = cells.get? x := by
  unfold wcsPut
  split <;> exact Tbl.get?_set_other _ _ h

/-- Both nibbles replace what an entry held of a byte. -/
theorem get?_wcsPut_whole (h : ∀ c, cells.get? o = some c → c.1 ≤ 3) : (wcsPut cells o 3 b).get? o = some (3, b) := by
  unfold wcsPut
  split
  next m' b' hc =>
    have hm : 3 ||| m' = 3 := by
      have := h _ hc
      interval_cases m' <;> rfl
    rw [Tbl.get?_set_same, hm]
    rfl
  next => exact Tbl.get?_set_same _ _ _

theorem get?_wcsPuts_below (h : x < o) : (wcsPuts cells o l).get? x = cells.get? x := by
  induction l generalizing cells o with
  | nil => rfl
  | cons b l ih => rw [wcsPuts_cons, ih (by omega), get?_wcsPut_other (by omega)]

/-- Bytes that are put into an entry stand there. -/
theorem get?_wcsPuts (h : ∀ x c, cells.get? x = some c → c.1 ≤ 3) (hk : l[k]? = some b) : (wcsPuts cells o l).get? (o + k) = some (3, b) := by
  induction l generalizing cells o k with
  | nil => cases hk
  | cons b' l ih =>
    have hput := get?_wcsPut_whole (b := b') (h o)
    rw [wcsPuts_cons]
    cases k with
    | zero =>
      obtain rfl : b' = b := by simpa using hk
      rw [show o + 0 = o from rfl, get?_wcsPuts_below (x := o) (by omega), hput]
    | succ k =>
      rw [show o + (k + 1) = o + 1 + k by omega]
      refine ih (fun x c hc => ?_) hk
      by_cases hx : o = x
      · subst hx
        rw [hput] at hc
        cases hc
        exact Nat.le_refl 3
      · exact h x c ((get?_wcsPut_other hx).symm.trans hc)

end

/-- An element of bytes that is added to an entry stands there. -/
theorem wcsStore_holds {s : State} {u ctx va : Nat} {p : APart} {owners : List Owner} (hnib : p.nib = none) (hoff : p.off = va % 128)
    (hw : ∀ w, s.wcs.get? (u, ctx, va / 128) = some w → ∀ x ∈ w.cells, x.2.1 ≤ 3) :
    ∃ w, (wcsStore u ctx (va / 128) [p] owners s).wcs.get? (u, ctx, va / 128) = some w ∧ EntryHolds w va (leBytes p.n p.x) := by
  obtain ⟨e, he⟩ : ∃ e, s.wcs.getD (u, ctx, va / 128) ⟨[], [], false⟩ = e := ⟨_, rfl⟩
  have hcells : ∀ x c, e.cells.get? x = some c → c.1 ≤ 3 := by
    intro x c hc
    rw [← he] at hc
    unfold Tbl.getD at hc
    split at hc
    next w hw' => exact hw w hw' _ (Tbl.mem_of_get? hc)
    next => cases hc
  refine ⟨{ e with cells := wcsPuts e.cells p.off (leBytes p.n p.x), owners := e.owners ++ owners }, ?_, fun k b hk => hoff ▸ get?_wcsPuts hcells hk⟩
  unfold wcsStore wcsPuts
  simp only [List.foldl_cons, List.foldl_nil, hnib, length_leBytes, he]
  split <;> exact Tbl.get?_set_same _ _ _

section
variable {w : Wcs} {va : Nat} {bs : List Byte} {p : APart}

theorem covers_of_holds (h : EntryHolds w va bs) (hoff : p.off = va % 128) (hn : bs.length = p.n) : covers (some w) p = true := by
  unfold covers
  refine List.all_eq_true.2 fun o ho => ?_
  rw [mem_upFrom] at ho
  have hk : o - p.off < bs.length := by omega
  have := h _ _ (List.getElem?_eq_getElem hk)
  rw [show va % 128 + (o - p.off) = o by omega] at this
  rw [this]
  rfl

/-- What an entry holds of a line's bytes is what a thread of its core reads there. -/
theorem overlay_of_holds (h : EntryHolds w va bs) {l : List Byte} (hl : va % 128 + bs.length ≤ l.length) :
    ((overlay (some w) l).drop (va % 128)).take bs.length = bs := by
  have hlen : (overlay (some w) l).length = l.length := by simp [overlay]
  refine List.ext_getElem (by simp only [List.length_take, List.length_drop]; omega) fun k _ hk => ?_
  have := h k _ (List.getElem?_eq_getElem hk)
  simp only [List.getElem_take, List.getElem_drop, overlay, List.getElem_map, List.getElem_zip, upFrom_eq_range', List.getElem_range',
    Nat.one_mul, Nat.zero_add, this]
  rfl

theorem partVal_of_holds (h : EntryHolds w va bs) (hnib : p.nib = none) (hoff : p.off = va % 128) (hn : bs.length = p.n)
    (hfit : va % 128 + p.n ≤ 128) : partVal p (overlay (some w) (List.replicate 128 0)) = leVal bs := by
  unfold partVal
  rw [hnib, hoff, ← hn, overlay_of_holds h (by simpa [hn] using hfit)]

end

/-! ### An access to a line at hand goes on at once (R108, R250, R416) -/

theorem Machine.Tbl.set_append_absent {κ α : Type} [DecidableEq κ] {t : Tbl κ α} {k : κ} (h : t.get? k = none) (v w : α) :
    Tbl.set (t ++ [(k, v)]) k w = t ++ [(k, w)] := by
  induction t with
  | nil => simp [Tbl.set]
  | cons e t ih =>
    obtain ⟨q, u⟩ := e
    by_cases hq : q = k
    · simp [Tbl.get?, hq] at h
    · simp only [Tbl.get?, if_neg hq] at h
      simp [Tbl.set, hq, ih h]

/-- Nothing but threads, groups, tracks and the next number has changed, and no thread's ejection. -/
structure Aside (s t : State) : Prop where
  rest : t = { s with threads := t.threads, groups := t.groups, tracks := t.tracks, nextId := t.nextId }
  next : s.nextId ≤ t.nextId
  span : ∀ k, (t.thr k).span = (s.thr k).span

namespace Aside
variable {s t v : State}

theorem trans (h : Aside s t) (h' : Aside t v) : Aside s v :=
  ⟨by rw [h'.rest, h.rest], h.next.trans h'.next, fun k => (h'.span k).trans (h.span k)⟩

theorem modThr (s : State) (k : TKey) {f : Thread → Thread} (hf : ∀ x, (f x).span = x.span) : Aside s (s.modThr k f) := by
  refine ⟨rfl, Nat.le_refl _, fun q => ?_⟩
  by_cases hq : k = q
  · rw [← hq, State.thr_modThr_same, hf]
  · rw [State.thr_modThr_other _ _ hq]

theorem openTrack (c : Ctx) (n msc : Nat) (s : State) : Aside s (openTrack c n msc s).2 := by
  obtain ⟨G, K, N, e⟩ := openTrack_frame c n msc s
  refine ⟨by rw [e], ?_, fun k => congrArg Thread.span (by rw [e]; rfl)⟩
  unfold Machine.openTrack
  dsimp only
  split
  · obtain ⟨_, e, _⟩ := sigSoon_frame c s.newId.2
    rw [e]
    exact Nat.le_succ _
  · refine List.foldlRecOn (motive := fun (u : State) => s.nextId ≤ u.nextId) (c.mem.map Prod.fst) _ (Nat.le_succ _) fun u hu g _ => ?_
    unfold Machine.raiseW
    split <;> exact hu

theorem wcs (h : Aside s t) : t.wcs = s.wcs := by
  rw [h.rest]

theorem ctxOf (h : Aside s t) (c : Ctx) : ctxOf c t = ctxOf c s := by
  rw [h.rest]
  rfl

theorem issueUnit (h : Aside s t) (c : Ctx) (g : Nat) : issueUnit c g t = issueUnit c g s := by
  have hteam : t.team c.team = s.team c.team := by
    rw [h.rest]
    rfl
  unfold Machine.issueUnit unitOf
  dsimp only
  rw [h.span, hteam]

/-- A line stays at hand. -/
theorem atHand (h : Aside s t) {u ctx va : Nat} (hl : LineAtHand s u ctx va) : LineAtHand t u ctx va := by
  rw [h.rest]
  exact ⟨hl.translated, hl.placed, hl.known, hl.still, fun e he => ⟨Nat.lt_of_lt_of_le (hl.quiet e he).1 h.next, (hl.quiet e he).2⟩, hl.whole⟩

end Aside

theorem thr_openTrack (c : Ctx) (n msc : Nat) (s : State) (k : TKey) : (openTrack c n msc s).2.thr k = s.thr k := by
  obtain ⟨_, _, _, e⟩ := openTrack_frame c n msc s
  rw [e]
  rfl

/-- An access whose home and attributes its interface knows. -/
def known (b : Nat) (x : Attr) (a : Acc) : Acc := { a with bay := b, attr := some x }

/-- With both known and nothing before it, an access that its home does not execute leaves its interface. -/
theorem niTry_goes {s : State} {id b : Nat} {a : Acc} {x : Attr} (ha : s.accs.get? id = some a) (hctx : a.ctx ≠ 0)
    (hb : s.plc.get? (niOf a.unit, a.ctx, a.line / 512) = some b) (hx : atcFind s (niOf a.unit) a.ctx (a.line * 128) = some x)
    (hhome : a.atHome (some x) = false) (hbehind : behind (modAcc id (known b x) s) id a = false)
    (hflip : flipping (modAcc id (known b x) s) a.ctx (a.line * 128) = false) : niTry id s = goLine id (modAcc id (known b x) s) := by
  unfold known at *
  unfold niTry
  rw [ha]
  dsimp only
  simp only [beq_false_of_ne hctx, Bool.false_eq_true, if_false, hb, hx, hhome]
  simp only [hbehind, hflip, Bool.and_false, Bool.or_false, Bool.false_eq_true, if_false]

section
variable {s : State} {u ctx va : Nat}

theorem LineAtHand.newAbsent (h : LineAtHand s u ctx va) : s.accs.get? s.nextId = none := by
  cases hg : s.accs.get? s.nextId with
  | none => rfl
  | some a => exact absurd (h.quiet _ (Tbl.mem_of_get? hg)).1 (Nat.lt_irrefl _)

/-- The next access of the line is found by its number. -/
theorem LineAtHand.get?_new (h : LineAtHand s u ctx va) (a : Acc) : Tbl.get? (s.accs ++ [(s.nextId, a)]) s.nextId = some a := by
  rw [Tbl.get?_append_absent h.newAbsent]
  exact if_pos rfl

/-- Nothing earlier holds back a load or store of the line. -/
theorem LineAtHand.notBehind (h : LineAtHand s u ctx va) {a a' : Acc} (hk : a.kind = .load ∨ a.kind = .store) (hc : a.ctx = ctx)
    (hl : a.line = va / 128) {t : State} (ht : t.accs = s.accs ++ [(s.nextId, a')]) : behind t s.nextId a = false := by
  have hearlier : t.accs.any (fun e => decide (e.1 < s.nextId) && e.2.ctx == a.ctx && e.2.line == a.line && e.2.kind.data
      && (sharesByte e.2 a || mateWrites e.2 a)) = false := by
    rw [List.any_eq_false]
    intro e he
    rw [ht, List.mem_append, List.mem_singleton] at he
    rcases he with he | rfl
    · rcases (h.quiet e he).2 with hne | hne <;> simp [hc, hl, hne]
    · simp
  unfold behind
  rw [hearlier]
  rcases hk with hk | hk <;> simp [hk]

/-- An access has begun: it has the next number. -/
def begun (s : State) (a : Acc) : State := { s with nextId := s.nextId + 1, accs := s.accs ++ [(s.nextId, a)] }

/-- A load or store of a line at hand waits for nothing at its interface. -/
theorem startAcc_atHand (h : LineAtHand s u ctx va) {a : Acc} (hk : a.kind = .load ∨ a.kind = .store) (hu : a.unit = u) (hc : a.ctx = ctx)
    (hl : a.line = va / 128) : ∃ b x, x.home ≠ 3 ∧ startAcc a s = (s.nextId, goLine s.nextId (begun s (known b x a))) := by
  obtain ⟨b, hb⟩ := Option.isSome_iff_exists.1 h.placed
  obtain ⟨x, hx, hx3⟩ := h.known
  have hmod : modAcc s.nextId (known b x) (begun s a) = begun s (known b x a) := by
    rw [modAcc_known (h.get?_new a)]
    simp only [begun, Tbl.set_append_absent h.newAbsent]
  have hhome : a.atHome (some x) = false := by rcases hk with hk | hk <;> simp [Acc.atHome, hk, hx3]
  refine ⟨b, x, hx3, ?_⟩
  rw [← hmod]
  refine congrArg (Prod.mk s.nextId) (niTry_goes (s := begun s a) (h.get?_new a) (hc ▸ h.translated) ?_ ?_ hhome ?_ ?_)
  · rw [hu, hc, hl, show va / 128 / 512 = va / 2 ^ 16 by omega]
    exact hb
  · rw [hu, hc, hl]
    exact hx
  · rw [hmod]
    exact h.notBehind hk hc hl rfl
  · rw [hmod, hc, hl]
    exact h.still

end

/-! ### A global store (R254, R372) -/

/-- A store of a line with caches adds its elements to its unit's entry of the line. -/
theorem goLine_store {s : State} {id : Nat} {a : Acc} {x : Attr} (ha : s.accs.get? id = some a) (hk : a.kind = .store) (hx : a.attr = some x)
    (hx3 : x.home ≠ 3) : ∃ owners, (goLine id s).wcs = (wcsStore a.unit a.ctx a.line a.parts owners s).wcs := by
  have hat : ((a.attr.map (·.home)).getD 0 == 3) = false := by simp [hx, hx3]
  unfold goLine
  rw [ha]
  dsimp only
  rw [hk, hat]
  exact ⟨_, rfl⟩

section
variable {s : State} {u ctx va : Nat}

/-- The bytes of a store of a line at hand stand in the entry of its unit. -/
theorem startAcc_store (h : LineAtHand s u ctx va) {team tr : Nat} {p : APart} (hnib : p.nib = none) (hoff : p.off = va % 128) :
    ∃ w, (startAcc (Acc.new .store u ctx (va / 128) team [p] tr) s).2.wcs.get? (u, ctx, va / 128) = some w ∧ EntryHolds w va (leBytes p.n p.x) := by
  obtain ⟨b, x, hx3, hgo⟩ := startAcc_atHand h (a := Acc.new .store u ctx (va / 128) team [p] tr) (.inr rfl) rfl rfl rfl
  rw [hgo]
  obtain ⟨owners, hwcs⟩ := goLine_store (s := begun s (known b x (Acc.new .store u ctx (va / 128) team [p] tr))) (h.get?_new _) rfl rfl hx3
  rw [hwcs]
  exact wcsStore_holds hnib hoff h.whole

end

theorem byLine_single (k : Nat) (p : APart) : byLine [(k, p)] = [(k, [p])] := by simp [byLine, distinct_single]

/-- The track of a store of one global element is open, and its thread counts it. -/
def storeCounted (c : Ctx) (e : Elem) (far msc : Nat) (s : State) : State :=
  (openTrack c far msc s).2.modThr (c.team, e.g, e.lane) (fun t => { t with owc := t.owc + 1 })

theorem storeCounted_aside (c : Ctx) (e : Elem) (far msc : Nat) (s : State) : Aside s (storeCounted c e far msc s) :=
  (Aside.openTrack c far msc s).trans (.modThr _ _ fun _ => rfl)

/-- A global element alone: after the counts of its instruction, one access. -/
theorem storeElems_global {e : Elem} (he : e.sp = .glob) (c : Ctx) (msc : Nat) (s : State) : ∃ v tr, Aside s v ∧ storeElems c msc [e] s =
     (startAcc (Acc.new .store (issueUnit c c.group s) (ctxOf c s) (e.off / 128) c.team [e.part e.off] tr) v).2 := by
  have hloc : e.isLocal = false := by simp [Elem.isLocal, he]
  have hpart : globalParts s c.team e = [(e.off / 128, e.part e.off)] := by simp [globalParts, he]
  have hst : ∃ far tr, storeElems c msc [e] s = (startAcc (Acc.new .store (issueUnit c c.group (storeCounted c e far msc s))
      (ctxOf c (storeCounted c e far msc s)) (e.off / 128) c.team [e.part e.off] tr) (storeCounted c e far msc s)).2 := by
    unfold storeElems
    simp only [List.filter_cons, hloc, Bool.false_eq_true, if_false, List.filter_nil, Bool.not_false, if_true]
    simp only [localWrite, List.isEmpty_nil, if_true, List.flatMap_cons, List.flatMap_nil, List.append_nil, hpart, byLine_single]
    exact ⟨_, _, rfl⟩
  obtain ⟨far, tr, hst⟩ := hst
  have aside := storeCounted_aside c e far msc s
  exact ⟨_, tr, aside, by rw [hst, aside.issueUnit, aside.ctxOf]⟩

/-- A global store by one lane of one element leaves its bytes in the entry of its core. -/
theorem store_holds {i : Instr} {f : AddrForm} {o : OpM} {s : State} {c : Ctx} {s1 : State} {l va u : Nat}
    (hx : exec i s = .next (issue i 2 (storeDesc f o) s)) (hr : Runs i (storeNeed f o) s c s1) (hv : o.vec = 0) (hact : c.act = [l])
    (hu : u = issueUnit c c.group s1) (ha : addrOf c s1 c.group l f o.a o.off (tySize o.ty) = .ok (.glob, va))
    (hline : LineAtHand s1 u (ctxOf c s1) va) :
    ∃ t w, exec i s = .next t ∧ t.wcs.get? (u, ctxOf c s1, va / 128) = some w
      ∧ EntryHolds w va (leBytes (tySize o.ty) (srcV c s1 c.group l o.b o.ty)) := by
  obtain ⟨v, tr, counted, hst⟩ := storeElems_global (e := loneElem c s1 o.ty 0 (srcV c s1 c.group l o.b o.ty) l (.glob, va)) rfl c o.msc s1
  obtain ⟨w, hw, holds⟩ := startAcc_store (counted.atHand hline) (team := c.team) (tr := tr)
    (p := (loneElem c s1 o.ty 0 (srcV c s1 c.group l o.b o.ty) l (.glob, va)).part va) rfl rfl
  refine ⟨_, w, exec_runs hx hr (.inl rfl), ?_, holds⟩
  rw [storeDesc_lone hv hact ha, hst, ← hu]
  exact hw

/-! ### A global load that its core's own store serves (R254, R371) -/

theorem goLine_load {s : State} {id : Nat} {a : Acc} {x : Attr} (ha : s.accs.get? id = some a) (hk : a.kind = .load) (hx : a.attr = some x)
    (hx3 : x.home ≠ 3) : goLine id s = lineTry id s := by
  have hat : ((a.attr.map (·.home)).getD 0 == 3) = false := by simp [hx, hx3]
  unfold goLine
  rw [ha]
  dsimp only
  rw [hk, hat]
  rfl

/-- A load of bytes that the entry holds returns them at once. -/
theorem lineTry_covered {s : State} {id : Nat} {a : Acc} (ha : s.accs.get? id = some a) (hk : a.kind = .load)
    (hc : a.parts.all (covers (s.wcs.get? (a.unit, a.ctx, a.line))) = true) :
    lineTry id s = retire id (returnLoad a (overlay (s.wcs.get? (a.unit, a.ctx, a.line)) (List.replicate 128 0)) false s) := by
  unfold lineTry
  rw [ha]
  dsimp only
  rw [if_pos (by simp [hk, hc])]

/-- Lowering a track changes groups and tracks only. -/
theorem trackDone_frame (id : Nat) (s : State) : ∃ G K, trackDone id s = { s with groups := G, tracks := K } := by
  unfold trackDone
  split
  · exact ⟨_, _, rfl⟩
  · split
    · refine List.foldlRecOn (motive := fun (u : State) => ∃ G K, u = { s with groups := G, tracks := K }) _ _ ⟨_, _, rfl⟩ fun _ ⟨_, _, e⟩ _ _ => ?_
      subst e
      unfold lowerW
      split <;> exact ⟨_, _, rfl⟩
    · exact ⟨_, _, rfl⟩

/-- Threads that a map changes in other fields keep their registers. -/
theorem regs_getD_map {φ : TKey × Thread → TKey × Thread} (h : ∀ e, (φ e).1 = e.1 ∧ (φ e).2.regs = e.2.regs) (l : Tbl TKey Thread) (k : TKey) :
    (Tbl.getD (l.map φ) k .blank).regs = (l.getD k .blank).regs := by
  induction l with
  | nil => rfl
  | cons e l ih =>
    obtain ⟨h1, h2⟩ := h e
    by_cases hk : e.1 = k
    · simp [Tbl.getD, Tbl.get?, h1, hk, h2]
    · simpa [Tbl.getD, Tbl.get?, h1, hk] using ih

theorem regs_clearAccess (team id : Nat) (s : State) (k : TKey) : ((clearAccess team id s).thr k).regs = (s.thr k).regs :=
  regs_getD_map (fun e => by dsimp only; split <;> exact ⟨rfl, rfl⟩) s.threads k

section
variable {s : State} {id : Nat} {a : Acc} (ha : s.accs.get? id = some a)
include ha

theorem retire_known : retire id s = trackDone a.track (clearAccess a.team id { s with accs := s.accs.del id }) := by
  unfold retire
  rw [ha]

theorem regs_retire (k : TKey) : ((retire id s).thr k).regs = (s.thr k).regs := by
  obtain ⟨G, K, e⟩ := trackDone_frame a.track (clearAccess a.team id { s with accs := s.accs.del id })
  rw [retire_known ha, e]
  exact regs_clearAccess a.team id { s with accs := s.accs.del id } k

theorem accs_retire : (retire id s).accs.get? id = none := by
  obtain ⟨G, K, e⟩ := trackDone_frame a.track (clearAccess a.team id { s with accs := s.accs.del id })
  rw [retire_known ha, e]
  exact Tbl.get?_del_same _ _

end

section
variable {s : State} {u ctx va : Nat} {p : APart} {w : Wcs} {bs : List Byte} (hs : p.isS = false) (hnib : p.nib = none) (hoff : p.off = va % 128)
  (hn : bs.length = p.n) (hfit : va % 128 + p.n ≤ 128) (hw : s.wcs.get? (u, ctx, va / 128) = some w) (holds : EntryHolds w va bs)
include hs hnib hoff hn hfit hw holds

/-- A load of bytes that the entry of its unit holds returns their value to its register. -/
theorem goLine_load_held {id b team tr : Nat} {x : Attr} (hget : s.accs.get? id = some (known b x (Acc.new .load u ctx (va / 128) team [p] tr)))
    (hx3 : x.home ≠ 3) : goLine id s = retire id (s.modThr (team, p.g, p.lane) (fun y => putAbs y p.reg p.ty (leVal bs) false)) := by
  rw [goLine_load hget rfl rfl hx3, lineTry_covered hget rfl]
  · change retire id (putElem team p (partVal p (overlay (s.wcs.get? (u, ctx, va / 128)) (List.replicate 128 0))) false s) = _
    rw [hw, partVal_of_holds holds hnib hoff hn hfit]
    unfold putElem
    rw [hs]
    rfl
  · change [p].all (covers (s.wcs.get? (u, ctx, va / 128))) = true
    rw [hw, List.all_cons, covers_of_holds holds hoff hn]
    rfl

/-- Such a load of a line at hand has returned when it has begun. -/
theorem startAcc_load (h : LineAtHand s u ctx va) {team tr : Nat} {t : State}
    (ht : (startAcc (Acc.new .load u ctx (va / 128) team [p] tr) s).2 = t) :
    t.accs.get? s.nextId = none ∧ (t.thr (team, p.g, p.lane)).regs = (putAbs (s.thr (team, p.g, p.lane)) p.reg p.ty (leVal bs) false).regs := by
  obtain ⟨b, x, hx3, hgo⟩ := startAcc_atHand h (a := Acc.new .load u ctx (va / 128) team [p] tr) (.inl rfl) rfl rfl rfl
  have hget := h.get?_new (known b x (Acc.new .load u ctx (va / 128) team [p] tr))
  rw [hgo, goLine_load_held hs hnib hoff hn hfit (s := begun s _) hw holds hget hx3] at ht
  subst ht
  refine ⟨accs_retire (s := (begun s _).modThr _ _) hget, ?_⟩
  rw [regs_retire (s := (begun s _).modThr _ _) hget, State.thr_modThr_same]
  rfl

end

/-- A value lands when no later write of its register stays. -/
theorem land_kept {t : Thread} (h : ∀ q ∈ t.pend, q.lost = false) (n : Nat) (v : Word) (err : Bool) : t.land n v err = t.setAbs n v err := by
  have hlost : t.pend.any (fun q => q.lost && q.reg % t.depth == n % t.depth) = false :=
    List.any_eq_false.2 fun q hq => by simp [h q hq]
  unfold Thread.land
  rw [hlost]
  rfl

/-- Such a value does not depend on what is owed. -/
theorem regs_putAbs_owed {y : Thread} {l : List Pending} (hy : y.pend = []) (hl : ∀ q ∈ l, q.lost = false) (reg ty v : Nat) (err : Bool) :
    (putAbs { y with pend := l } reg ty v err).regs = (putAbs y reg ty v err).regs := by
  have owing : ∀ n w, Thread.land { y with pend := l } n w err = Thread.setAbs { y with pend := l } n w err := fun n w => land_kept hl n w err
  have owing_pair : ∀ n w n' w', (Thread.setAbs { y with pend := l } n w err).land n' w' err
      = (Thread.setAbs { y with pend := l } n w err).setAbs n' w' err := fun _ _ n' w' => land_kept hl n' w' err
  have free : ∀ n w, y.land n w err = y.setAbs n w err := fun n w => land_kept (by simp [hy]) n w err
  have free_pair : ∀ n w n' w', (y.setAbs n w err).land n' w' err = (y.setAbs n w err).setAbs n' w' err :=
    fun _ _ n' w' => land_kept (by simp [Thread.setAbs, hy]) n' w' err
  unfold putAbs
  simp only [owing, owing_pair, free, free_pair]
  split <;> split <;> rfl

/-- The destinations of one element that a load owes. -/
def owed (c : Ctx) (id : Nat) (p : APart) : List Pending := (partRegs p).map (fun r => ⟨r, id, c.nosb, false⟩)

theorem owed_kept {c : Ctx} {id : Nat} {p : APart} {q : Pending} (h : q ∈ owed c id p) : q.lost = false := by
  obtain ⟨_, -, rfl⟩ := List.mem_map.1 h
  rfl

section
variable {c : Ctx} {s : State}

theorem owe_single {p : APart} (hs : p.isS = false) (id : Nat) :
    owe c id [p] s = s.modThr (c.team, p.g, p.lane) (fun t => { t with pend := t.pend ++ owed c id p }) := by
  simp only [owe, owed, List.foldl_cons, List.foldl_nil, hs, Bool.false_eq_true, if_false]

/-- One access whose load has returned when it has begun: no thread waits for it. -/
theorem launchReads_returned {line tr : Nat} {acq : Bool} {p : APart} (hs : p.isS = false) {t : State}
    (ht : (startAcc (Acc.new .load (issueUnit c p.g s) (ctxOf c s) line c.team [p] tr) (owe c s.nextId [p] s)).2 = t)
    (hret : t.accs.get? s.nextId = none) : launchReads c .load tr acq [(line, [p])] s = t := by
  have hid : startAcc (Acc.new .load (issueUnit c p.g s) (ctxOf c s) line c.team [p] tr) (owe c s.nextId [p] s) = (s.nextId, t) := by
    rw [← ht, owe_single hs]
    rfl
  simp only [launchReads, List.foldl_cons, List.foldl_nil, List.map_cons, List.map_nil, List.headD_cons, hid, hret, Option.isSome_none,
    Bool.and_false, Bool.false_eq_true, if_false]

theorem loadElems_global {e : Elem} (he : e.sp = .glob) (acq : Bool) : loadElems c acq [e] s s
    = launchReads c .load (openTrack c 1 0 s).1 acq [(e.off / 128, [e.part e.off])] (openTrack c 1 0 s).2 := by
  have hloc : e.isLocal = false := by simp [Elem.isLocal, he]
  have hpart : globalParts s c.team e = [(e.off / 128, e.part e.off)] := by simp [globalParts, he]
  unfold loadElems
  simp only [List.filter_cons, hloc, Bool.false_eq_true, if_false, List.filter_nil, Bool.not_false, if_true]
  simp only [List.foldl_nil, List.flatMap_cons, List.flatMap_nil, List.append_nil, hpart, byLine_single]
  rfl

/-- The zeroing form leaves an active lane. -/
theorem thr_zeroLanes_active {l : Nat} (hl : l ∈ c.act) (k n : Nat) : (zeroLanes c k n s).thr (c.key l) = s.thr (c.key l) := by
  refine List.foldlRecOn (motive := fun (u : State) => u.thr (c.key l) = s.thr (c.key l)) _ _ rfl fun u hu j hj => ?_
  refine List.foldlRecOn (motive := fun (u : State) => u.thr (c.key l) = s.thr (c.key l)) _ _ hu fun v hv r _ => ?_
  have hne : c.key l ≠ (c.team, c.group, j) := by
    intro e
    obtain rfl : l = j := by simpa [Ctx.key] using e
    simp [hl] at hj
  rw [thr_putV, if_neg hne, hv]

end

section
variable {c : Ctx} {s : State} {u va : Nat} {w : Wcs} {bs : List Byte} (acq : Bool) (hline : LineAtHand s u (ctxOf c s) va)
  (hw : s.wcs.get? (u, ctxOf c s, va / 128) = some w) (holds : EntryHolds w va bs)
include hline hw holds

/-- A load's access leaves in its destination the value of the bytes that the entry of its unit holds. -/
theorem launchReads_held {p : APart} (tr : Nat) (hs : p.isS = false) (hnib : p.nib = none) (hoff : p.off = va % 128) (hn : bs.length = p.n)
    (hfit : va % 128 + p.n ≤ 128) (hu : u = issueUnit c p.g s) (hp : (s.thr (c.team, p.g, p.lane)).pend = []) :
    ((launchReads c .load tr acq [(va / 128, [p])] s).thr (c.team, p.g, p.lane)).regs
      = (putAbs (s.thr (c.team, p.g, p.lane)) p.reg p.ty (leVal bs) false).regs := by
  have howe := owe_single (c := c) (s := s) hs s.nextId
  have owing : Aside s (owe c s.nextId [p] s) := howe ▸ .modThr _ _ fun _ => rfl
  have hthr : (owe c s.nextId [p] s).thr (c.team, p.g, p.lane) = { s.thr (c.team, p.g, p.lane) with pend := owed c s.nextId p } := by
    rw [howe, State.thr_modThr_same, hp, List.nil_append]
  obtain ⟨hret, hregs⟩ := startAcc_load hs hnib hoff hn hfit (owing.wcs.symm ▸ hw) holds (owing.atHand hline) (team := c.team) (tr := tr) rfl
  rw [hthr, regs_putAbs_owed hp fun q hq => owed_kept hq] at hregs
  have hnext : (owe c s.nextId [p] s).nextId = s.nextId := by
    rw [howe]
    rfl
  rw [launchReads_returned hs (by rw [← hu]) (hnext ▸ hret), hregs]

/-- So does the load of an element alone. -/
theorem loadElems_held {e : Elem} (he : e.sp = .glob) (hs : e.isS = false) (hnib : e.nib = none) (hva : e.off = va) (hn : bs.length = e.n)
    (hfit : va % 128 + e.n ≤ 128) (hu : u = issueUnit c e.g s) (hp : (s.thr (c.team, e.g, e.lane)).pend = []) :
    ((loadElems c acq [e] s s).thr (c.team, e.g, e.lane)).regs = (putAbs (s.thr (c.team, e.g, e.lane)) e.reg e.ty (leVal bs) false).regs := by
  subst hva
  have opened := Aside.openTrack c 1 0 s
  have hthr := thr_openTrack c 1 0 s (c.team, e.g, e.lane)
  rw [loadElems_global he]
  refine (launchReads_held (p := e.part e.off) acq (u := u) (opened.ctxOf c ▸ opened.atHand hline) (by rw [opened.wcs, opened.ctxOf]; exact hw) holds _
    hs hnib rfl hn hfit (hu.trans (opened.issueUnit _ _).symm) (hthr ▸ hp)).trans ?_
  rw [← hthr]
  rfl

end

/-- A load by one lane of one element, with or without the zeroing of the other lanes. -/
theorem loadDesc_lone {i : Instr} {f : AddrForm} {o : OpM} {s : State} {c : Ctx} {s1 : State} {l : Nat} {p : Space × Nat}
    (hx : exec i s = .next (issue i 2 (loadDesc f o) s)) (hr : Runs i (loadNeed f o) s c s1) (hv : o.vec = 0) (hact : c.act = [l])
    (ha : addrOf c s1 c.group l f o.a o.off (tySize o.ty) = .ok p) :
    ∃ t, exec i s = .next t ∧ t.thr (c.key l) = (loadElems c (o.ord == 1) [loneElem c s1 o.ty (idx o.d) 0 l p] s1 s1).thr (c.key l) := by
  refine ⟨_, exec_runs hx hr (.inl rfl), ?_⟩
  have hp : placesOf c s1 f o.a o.off (vecN 0 * tySize o.ty) = [(l, p)] := by simp [placesOf, hact, vecN, ha]
  simp only [loadDesc, hv, hp, List.flatMap_cons, List.flatMap_nil, List.append_nil, laneElems_single]
  split
  · exact thr_zeroLanes_active (by simp [hact]) _ _
  · rfl

/-- A global load by one lane of one element gives its destination the value of the bytes that stand in the entry of its core. -/
theorem load_held {i : Instr} {f : AddrForm} {o : OpM} {s : State} {c : Ctx} {s1 : State} {l va u : Nat} {w : Wcs} {bs : List Byte} {y : Thread}
    (hx : exec i s = .next (issue i 2 (loadDesc f o) s)) (hr : Runs i (loadNeed f o) s c s1) (hv : o.vec = 0) (hact : c.act = [l])
    (hu : u = issueUnit c c.group s1) (ha : addrOf c s1 c.group l f o.a o.off (tySize o.ty) = .ok (.glob, va))
    (hfit : va % 128 + tySize o.ty ≤ 128) (hline : LineAtHand s1 u (ctxOf c s1) va) (hw : s1.wcs.get? (u, ctxOf c s1, va / 128) = some w)
    (hn : bs.length = tySize o.ty) (holds : EntryHolds w va bs) (hy : s1.threads.get? (c.key l) = some y) (hp : y.pend = []) :
    ∃ t, exec i s = .next t ∧ (t.thr (c.key l)).regs = (putAbs y (y.wb + idx o.d) o.ty (leVal bs) false).regs := by
  have hthr : s1.thr (c.key l) = y := by rw [State.thr, Tbl.getD, hy]
  obtain ⟨t, he, ht⟩ := loadDesc_lone hx hr hv hact ha
  refine ⟨t, he, ?_⟩
  rw [ht]
  rw [← hthr] at hp ⊢
  exact loadElems_held _ hline hw holds rfl rfl rfl rfl hn hfit hu hp

/-- Settles O28: the bytes of a write, then a store into its core's entry, then a load from it. -/
theorem memoryReadAfterWrite : Obligations.MemoryReadAfterWrite := by
  unfold Obligations.MemoryReadAfterWrite
  refine ⟨fun s host a l hs => ⟨rd_wr_same hs, fun b n hb => rd_wr_outside hs hb, fun b n => rd_wr_not, State.wr_wf s host a l hs.1 hs.2⟩,
    fun h o x hx s c s1 l va u hr hv hact hu ha hfit hline => ?_,
    fun h o x hx s c s1 l va u w bs y hr hv hact hu ha hfit hline hw hn holds hy hp => ?_⟩
  · simp only [List.mem_cons, List.not_mem_nil, or_false] at hx
    rcases hx with rfl | rfl <;> exact store_holds rfl hr hv hact hu ha hline
  · simp only [List.mem_cons, List.not_mem_nil, or_false] at hx
    rcases hx with rfl | rfl <;> exact load_held rfl hr hv hact hu ha hfit hline hw hn holds hy hp

end Sys2Proof
end
